-- ==== Sys2Proof/Word.lean ====
section
/-! DEFINITION. The word types of the block and their plainest arithmetic (00 R8, R12, R13). -/
namespace Sys2Proof

abbrev Byte := BitVec 8
abbrev U16 := BitVec 16
abbrev U32 := BitVec 32
abbrev U64 := BitVec 64
/-- A string of bytes in rising address order. -/
abbrev Bytes := List (BitVec 8)

end Sys2Proof
end

