-- ==== Sys2Proof/Syntax.lean ====
section
/-! DEFINITION. The commands of the block: one constructor for each row of spec/opcode_table.json, with the
operands that the row's rule names. Where a command is the service of an accepted request, its operand `rid` is
the request's internal identity (02 R78, 18 R540), and the request itself lies in the state. An operand that
carries what the outside world supplies (data read from control-node memory, a sensor's value, whether a
signature verified, what a training found) is named in NOTES.md and in log entry 3. -/
namespace Sys2Proof

/-- Who had put the entry into a dual-clock FIFO (01 R37). -/
inductive FifoWork where
  | service (rid : Nat)
  | hart (h : Nat)
  | dma (e : Nat)
  | tier (c : Nat)
  | qorgal (ptag : Nat)
  deriving DecidableEq, Repr

/-- The part of a 64-bit register that an access names (02 R54). -/
inductive Half where
  | full | low | high
  deriving DecidableEq, Repr

/-- The register blocks that a write without behaviour of its own can name (00 R15, R17). -/
inductive Blk where
  | controlWindow | engine | engineMemory | dma | taskletPage | tierPage | semPage | streamPage | migration | ecc | flashEcc
  | firmwareArray | smbus | hart
  deriving DecidableEq, Repr

/-- A register access: block, unit of the block, offset, access size in bytes, value, the context on whose behalf it is
made, none for firmware, and the hart whose store it is, if it is one (00 R15, 02 R54, 03 R121; 05 R166). -/
structure RegWrite where
  blk : Blk
  unit : Nat
  off : Nat
  size : Nat
  val : U64
  onBehalf : Option Nat
  hart : Option Nat
  deriving DecidableEq, Repr

/-- What a training, a retrain or a port action found at the partner (13 R396, R399, R400, R401). -/
structure TrainReport where
  /-- Lane 0 locked at both ends. -/
  lock : Bool
  /-- Lanes 0 to locked - 1 locked at both ends. -/
  locked : Nat
  partnerLeaf : Bool
  serial : Bytes
  hops : Nat
  exit : Nat
  /-- Credits advertised by the partner, VC0 first. -/
  credits : List Nat
  /-- Whether ACTIVE was reached within the 100 ms of a retrain. -/
  inTime : Bool
  deriving DecidableEq, Repr

/-- What BOOT finds outside the block's own state (17 R513, R514; 01 R26; 09 R293; 03 R129; 16 R470). -/
structure BootReport where
  /-- Highest passed step of each HBM3E stack in kHz; 0 for a stack that passed none. -/
  hbmKhz : List Nat
  /-- LPDDR5X packages that failed training. -/
  lpdFailed : List Nat
  /-- Verdict of R514 on slot A and slot B: 0 pass, 1 header, 2 signature, 3 rollback, 4 read failure. -/
  slotA : Nat
  slotB : Nat
  /-- Whether the lockstep self-test of BP0 passed. -/
  bp0Ok : Bool
  /-- Capacitance of the hold-up bank in microfarad, and whether the charge target was reached. -/
  bankUf : Nat
  charged : Bool
  /-- Physical spare engines that failed their self-test. -/
  spareFailed : List Nat
  /-- The training of port H in boot step 5, where it met light. -/
  portH : Option TrainReport
  /-- Last step that has ended when the command has run; 6 and above: the boot has ended. -/
  till : Nat
  deriving DecidableEq, Repr

/-- A weight tensor in the body of the weight bundle (07 R222; 04 R136): format code, whether it is in the packed layout and block-scaled,
reduction and output dimension, its first byte in the component and its bytes. -/
structure WTensor where
  fmt : Nat
  packed : Bool
  scaled : Bool
  rows : Nat
  cols : Nat
  off : Nat
  len : Nat
  deriving DecidableEq, Repr

/-- What the bodies of a model image say; their form belongs to the compiler kit (07 R222). -/
structure ModelImage where
  /-- The components that lie in control-node memory, as they were read; fewer bytes than asked for: refused (02 R73). -/
  comps : List Bytes
  /-- Verdict on the structure of each component's body. -/
  bodies : List Bool
  encoder : Bool
  layers : Nat
  kvHeads : Nat
  headDim : Nat
  kvFmt : Nat
  kvBlockBytes : Nat
  tensors : List WTensor
  deriving DecidableEq, Repr

/-- The computed outcome of one decode step: what was sampled is not reproducible (04 R156). -/
structure StepReport where
  /-- Session and token sampled, and whether it is an end-of-sequence token. -/
  toks : List (Nat × U32 × Bool)
  /-- Sessions with a selected block whose read ended with DATA_LOST (07 R241). -/
  lost : List (Nat × Nat)
  stepUs : Nat
  deriving DecidableEq, Repr

/-- What EMBED computed: pooled outputs are not reproducible (07 R250; 04 R156). -/
structure EmbedReport where
  /-- Sequences of `TOKENS`, and whether the control node refused the read of its reference. -/
  records : Nat
  refused : Bool
  /-- The pooled output of each record, in order: FP16 components. -/
  outs : List (List U16)
  deriving DecidableEq, Repr

/-- What a read of stored data meets beside what the model holds (09 R282, R284, R285): symbols (bits, in SRAM) in error, and the DRAM
die, pseudo-channel or byte lane that has failed. -/
structure DramHeal where
  symbols : Nat
  element : Option Nat
  deriving DecidableEq, Repr

/-- A graph built by a merge; its edges and entry nodes are not fixed by the spec (12 R376). -/
structure NewGraph where
  adj : List (List Nat)
  entry : List Nat
  deriving DecidableEq, Repr

/-- A sealed block as a peer mirrors it: its bytes, its KV position by position, its summary code (07 R249). -/
structure MirrorBlk where
  bytes : Nat
  kv : List Nat
  code : Nat
  deriving DecidableEq, Repr

/-- What a mirror message brings: a snapshot, sealed blocks that became durable, word that the session was closed (07 R237, R249). -/
inductive MirrorKind where
  | snap | blocks | closed
  deriving DecidableEq, Repr

/-- What a peer mirrors to this module on VC6 (07 R249; 13 R391; log 181): a snapshot, or the blocks that follow those sent before. -/
structure Mirrored where
  /-- Rope positions of the origin and of the mirror peer; context and session at the origin. -/
  origin : Nat
  dest : Nat
  ctx : Nat
  sess : Nat
  kind : MirrorKind
  seq : Nat
  /-- Digest of the model's components (18 R537). -/
  digest : Nat
  tokens : Nat
  openToks : List U32
  openKv : List Nat
  waiting : List U32
  sampler : Nat
  sparams : Bytes
  prog : Nat
  rng : U64
  /-- Steps, prefill chunks done and in all, tokens of the generation, generations (R243). -/
  position : Nat × Nat × Nat × Nat × Nat
  /-- Sealed blocks, oldest first: of a snapshot those it references; and the bytes of the snapshot. -/
  blocks : List MirrorBlk
  bytes : Nat
  lc : Bool
  window : Nat
  retrBlocks : Nat
  snapPeriod : Nat
  deriving DecidableEq, Repr

/-- A received flit (13 R386), with the verdicts of its checks. -/
structure Flit where
  ftype : Nat
  tc : Nat
  route : Nat
  keyPhase : Bool
  seq : U16
  ack : U16
  ctr : U64
  encrypted : Bool
  crA : U32
  crB : U32
  /-- Symbols corrected; more than 15 in a codeword loses the flit (R385). -/
  symErr : Nat
  hcrcOk : Bool
  tagOk : Bool
  /-- The mirrored snapshot whose last packet the flit brings, if any. -/
  mirror : Option Mirrored
  deriving DecidableEq, Repr

/-- A Qorgal packet header (13 R392). -/
structure Packet where
  vc : Nat
  space : Nat
  ctx : Nat
  ptag : Nat
  pstatus : Nat
  len : Nat
  off : Nat
  addr : Nat
  src : Nat
  last : Bool
  deriving DecidableEq, Repr

/-- A wire block of TUNE (14 R422): 64 signed elements, an exponent and three flags. -/
structure WireBlock where
  v : List Int
  e : Nat
  expGrew : Bool
  nonFinite : Bool
  saturated : Bool
  deriving DecidableEq, Repr

/-- A TUNE data packet (14 R427). -/
structure TunePacket where
  allGather : Bool
  step : Nat
  seq : Nat
  first : Nat
  origin : Nat
  digest : Nat
  blocks : List WireBlock
  deriving DecidableEq, Repr

/-- A TUNE control packet (14 R427): 1 `HELLO`, 2 `SLOT_GRANT`, 3 `ABORT`; direction, 0 rising; the rope position of its sender. -/
structure TuneCtl where
  kind : Nat
  dir : Nat
  seq : Nat
  mask : Nat
  src : Nat
  cause : Nat
  deriving DecidableEq, Repr

/-- A wait of `ACQUIRE`: its timeout in units of 1,024 FAB cycles, 0 for none, and the service request that the hart works for (06 R216,
R219; log 148). -/
structure SemWait where
  timeout : Nat
  rid : Option Nat
  deriving DecidableEq, Repr

/-- An image that `FWUP.STAGE` reads, and the verdict on its signature (17 R516; log 3). -/
structure StageImage where
  image : Bytes
  sigOk : Bool
  deriving DecidableEq, Repr

/-- A register that a JTAG access names (19 R567; log 118). -/
structure RegAddr where
  blk : Blk
  unit : Nat
  off : Nat
  size : Nat
  deriving DecidableEq, Repr

/-- The commands of the block, in the table's order (log 200). -/
inductive Instr where
  | powerOnReset
  | boot (r : BootReport)
  | freqChange (dom : Nat) (khz : Nat)
  | currentFreqUpdate (dom : Nat)
  | syncFifoFault (src : Nat) (dst : Nat) (idx : Nat) (under : Bool) (work : FifoWork)
  | warmReset
  | mailboxReset (n : Nat)
  | mailboxResetDone (n : Nat)
  | eventRingReset
  | evtCauseWrite (v : U32)
  | evtRingSizeWrite (v : U32)
  | evtRingConsWrite (v : U32)
  | eventWrite (refused : Bool)
  | reqTailWrite (n : Nat) (v : U32)
  | rplHeadWrite (n : Nat) (v : U32)
  | mbxStatRead (n : Nat) (half : Half)
  | linkStatRead (p : Nat)
  | registerWrite (w : RegWrite)
  | requestAccept (n : Nat) (ue : Option Bool)
  | reply (rid : Nat)
  | timeout (rid : Nat)
  | adminIdentify (rid : Nat)
  | adminIdentifyCaps (rid : Nat)
  | adminReadCounters (rid : Nat)
  | adminCancel (rid : Nat)
  | adminNop (rid : Nat)
  | adminRopeSet (rid : Nat)
  | adminPortQuery (rid : Nat)
  | adminPortCtrl (rid : Nat) (t : TrainReport)
  | adminMirrorAdopt (rid : Nat)
  | ctxAlloc (rid : Nat)
  | ctxConfig (rid : Nat)
  | ctxFree (rid : Nat)
  | ctxQuery (rid : Nat)
  | ctxSuspend (rid : Nat)
  | ctxResume (rid : Nat)
  | semAlloc (rid : Nat)
  | semFree (rid : Nat)
  | schedSet (rid : Nat)
  | ldw (e : Nat)
  | strm (e : Nat) (tagFault : Bool)
  | drn (e : Nat)
  | addVec (e : Nat)
  | mulVec (e : Nat)
  | addImm (e : Nat)
  | mulImm (e : Nat)
  | relu (e : Nat)
  | gelu (e : Nat)
  | silu (e : Nat)
  | clamp (e : Nat)
  | deq (e : Nat)
  | addRows (e : Nat)
  | scq (e : Nat)
  | streamRecordApply (e : Nat)
  | fence (e : Nat)
  | wait (e : Nat)
  | inc (e : Nat)
  | signal (e : Nat)
  | run (e : Nat)
  | stopRequest (e : Nat)
  | engineStopped (e : Nat)
  | skip (e : Nat)
  | clr (e : Nat)
  | clearDone (e : Nat)
  | seqTailWrite (e : Nat) (v : U32)
  | syncInc (e : Nat) (v : U32)
  | syncCntWrite (e : Nat) (k : Nat) (v : U32)
  | engFaultClear (e : Nat) (v : U32)
  | eccUe (e : Nat) (busy : Bool) (onRead : Bool)
  | spareReplace (e : Nat)
  | tspawn (h : Nat) (rd : Nat) (rs1 : Nat)
  | tjoin (h : Nat) (rd : Nat) (rs1 : Nat)
  | tjoinTimeout (h : Nat)
  | tend (h : Nat)
  | taskletFault (h : Nat) (mcause : Nat) (tval : U64)
  | taskletStart (c : Nat) (h : Nat)
  | pfstream (h : Nat) (rs1 : Nat) (rs2 : Nat)
  | pfstop (h : Nat) (rs1 : Nat)
  | pfind (h : Nat) (rs1 : Nat) (rs2 : Nat)
  | vxpopcVv (h : Nat) (vd : Nat) (vs2 : Nat) (s1 : Nat) (vm : Bool)
  | vxpopcVx (h : Nat) (vd : Nat) (vs2 : Nat) (s1 : Nat) (vm : Bool)
  | vxpopcaccVv (h : Nat) (vd : Nat) (vs2 : Nat) (s1 : Nat) (vm : Bool)
  | vxpopcaccVx (h : Nat) (vd : Nat) (vs2 : Nat) (s1 : Nat) (vm : Bool)
  | coreFence (h : Nat) (pred : Nat) (succ : Nat)
  | tdFaultsRead (c : Nat)
  | signalDispatch (d : Nat)
  | signalRetry (d : Nat)
  | dmaTailWrite (e : Nat) (v : U32)
  | dmaDescriptor (e : Nat)
  | tqTailWrite (c : Nat) (v : U32)
  | tierCopy (c : Nat)
  | tierDecompress (c : Nat)
  | tierCompress (c : Nat)
  | tierZero (c : Nat)
  | workObserved (c : Nat)
  | switch (out : List Nat) (inn : Option Nat) (us : Nat)
  | beSliceExpiry (c : Nat)
  | lcIdleExpiry (c : Nat)
  | acquire (h : Nat) (sem : Nat) (wait : SemWait)
  | tryAcquire (h : Nat) (sem : Nat)
  | release (h : Nat) (sem : Nat)
  | semTimeout (h : Nat) (sem : Nat)
  | donatedRun (h : Nat) (sem : Nat)
  | semHolderStarved (sem : Nat)
  | modelLoad (rid : Nat) (img : ModelImage)
  | modelUnload (rid : Nat)
  | modelQuery (rid : Nat)
  | modelBatchCfg (rid : Nat)
  | stepBoundary (m : Nat) (step : StepReport)
  | reshard (sess : Nat)
  | retrievalWaitExpiry (sess : Nat) (block : Nat)
  | agentCreate (rid : Nat)
  | agentAppend (rid : Nat) (toks : List U32)
  | agentGenerate (rid : Nat)
  | agentPause (rid : Nat)
  | agentResume (rid : Nat)
  | agentSnapshot (rid : Nat)
  | agentFork (rid : Nat)
  | agentClose (rid : Nat)
  | agentQuery (rid : Nat)
  | snapshotCommit (sess : Nat)
  | mirrorDone (sess : Nat) (seq : Nat)
  | mirrorUnavailable (sess : Nat)
  | embedDocs (rid : Nat) (res : EmbedReport)
  | embedTokens (rid : Nat) (res : EmbedReport)
  | memoryAlloc (rid : Nat)
  | memoryFree (rid : Nat)
  | memorySeal (rid : Nat) (racing : List (Nat × Bytes))
  | memoryClone (rid : Nat)
  | memoryPlace (rid : Nat) (reads : List (Nat × Nat))
  | memoryQuery (rid : Nat)
  | memoryUsage (rid : Nat)
  | memoryQuota (rid : Nat)
  | memoryMigCfg (rid : Nat)
  | cowPromotion (c : Nat) (va : Nat)
  | fill (c : Nat) (va : Nat) (ok : Bool)
  | migrationEpoch
  | pageMove (pid : Nat)
  | migFailRead
  | t1Pressure
  | t2Pressure
  | dramRead (k : Nat) (addr : Nat) (c : Nat) (heal : DramHeal)
  | patrolRead (k : Nat) (heal : DramHeal)
  | remapInstall (k : Nat) (addr : Nat)
  | pageRetired (t2 : Bool) (page : Nat) (pid : Nat)
  | lpddrPackageLoss (p : Nat)
  | eccCeCntRead (k : Nat) (ue : Bool)
  | eccFlipCtrlWrite (k : Nat) (v : U32) (c : Nat)
  | flipApply (k : Nat) (addr : Nat)
  | writeAccept (src : Nat)
  | stripeProgram (sb : Nat) (units : List Nat) (failBlock : Option Nat)
  | fold
  | garbageCollection (dst : Nat)
  | wearLevelling (dst : Nat)
  | journalPageProgram
  | mapSegmentWrite (seg : Nat)
  | dynCacheRecompute
  | flashRead (unit : Nat) (step : Nat)
  | mediaScan (blocks : List Nat)
  | blockRetired (blk : Nat) (cause : Nat)
  | nandDieFailed (ch : Nat) (d : Nat) (silent : Bool)
  | dieRebuildDone (ch : Nat) (d : Nat)
  | abseil (complete : Bool) (ms : Nat)
  | holdupMeasure (cUf : Nat) (reached : Bool)
  | storeAdmin (rid : Nat) (data : Bytes) (prps : List Nat) (refused : Bool)
  | storeQpCreate (rid : Nat)
  | storeQpDelete (rid : Nat)
  | storeQpQuery (rid : Nat)
  | qpDoorbell (q : Nat)
  | sqFetch (q : Nat) (sqe : Bytes)
  | flush (q : Nat)
  | write (q : Nat) (data : Bytes) (refused : Bool)
  | read (q : Nat) (prps : List Nat) (refused : Bool)
  | compare (q : Nat) (data : Bytes) (refused : Bool)
  | writeZeroes (q : Nat)
  | datasetManagement (q : Nat) (data : Bytes) (refused : Bool)
  | vendorScan (q : Nat) (prps : List Nat) (refused : Bool)
  | vendorSearch (q : Nat) (code : Bytes) (prps : List Nat) (refused : Bool)
  | getLogPage (rid : Nat) (prps : List Nat) (refused : Bool)
  | nvmeIdentify (rid : Nat) (prps : List Nat) (refused : Bool)
  | setFeatures (rid : Nat)
  | getFeatures (rid : Nat)
  | namespaceCreate (rid : Nat) (data : Bytes) (refused : Bool)
  | namespaceDelete (rid : Nat)
  | namespaceAttach (rid : Nat) (data : Bytes) (refused : Bool)
  | namespaceDetach (rid : Nat) (data : Bytes) (refused : Bool)
  | keepAlive (rid : Nat)
  | storeKeepAliveExpired (c : Nat)
  | cryptoErase (rid : Nat)
  | blockErase (rid : Nat)
  | storeSanitizeDone
  | storeCqNotify (q : Nat)
  | scanProgLoad (rid : Nat) (prog : Bytes)
  | scanProgFree (rid : Nat)
  | scanRun (rid : Nat)
  | pageEvaluate (ch : Nat) (unit : Nat) (prog : Nat) (disagree : Bool)
  | searchCreate (rid : Nat)
  | searchDrop (rid : Nat)
  | searchInsert (rid : Nat) (data : Bytes)
  | searchDelete (rid : Nat) (data : Bytes)
  | searchQuery (rid : Nat) (data : Bytes)
  | searchMerge (rid : Nat)
  | searchInfo (rid : Nat)
  | epochAdvance (idx : Nat)
  | mergeDone (idx : Nat) (g : NewGraph)
  | flitReceive (p : Nat) (f : Flit)
  | nak (p : Nat) (seq : Nat)
  | ackTimer (p : Nat)
  | retrain (p : Nat) (t : TrainReport)
  | training (p : Nat) (t : TrainReport)
  | linkDown (p : Nat)
  | trainRetry (p : Nat)
  | keyUpdatePhase (p : Nat) (tc3 : Bool)
  | packetRead (pk : Packet)
  | packetWrite (pk : Packet) (data : Bytes)
  | readData (pk : Packet) (data : Bytes)
  | writeAck (pk : Packet)
  | remoteAccessTimeout (ptag : Nat)
  | creditReturn (p : Nat) (vc : Nat) (n : Nat)
  | ropeHeartbeatSend
  | ropeHeartbeatReceive (p : Nat) (pos : Nat) (hops : Nat) (exit : Nat) (st : Nat)
  | peerLost (pos : Nat)
  | tuneGroupSet (rid : Nat)
  | tuneGroupFree (rid : Nat)
  | tuneAdapterCreate (rid : Nat) (data : Bytes)
  | tuneAdapterFree (rid : Nat)
  | tuneStep (rid : Nat) (data : Bytes)
  | tuneQuery (rid : Nat)
  | hello (g : Nat) (pk : TuneCtl)
  | slotGrant (g : Nat) (pk : TuneCtl)
  | abort (g : Nat) (pk : TuneCtl)
  | tuneDataPacket (g : Nat) (pk : TunePacket)
  | pathLossTimeout (g : Nat) (seq : Nat)
  | getVersion (p : Nat)
  | getCapabilities (p : Nat)
  | negotiateAlgorithms (p : Nat)
  | getDigests (p : Nat)
  | getCertificate (p : Nat)
  | challenge (p : Nat) (torn : Bool)
  | getMeasurements (p : Nat) (index : Nat) (signed : Bool)
  | keyExchange (p : Nat) (sid : Nat) (ok : Bool)
  | finish (p : Nat) (ok : Bool)
  | heartbeat (p : Nat)
  | keyUpdate (p : Nat)
  | endSession (p : Nat)
  | sessionHeartbeatLapse
  | secInfo (rid : Nat)
  | secAdmit (rid : Nat)
  | secReject (rid : Nat)
  | secFkeyRotate (rid : Nat)
  | secFkeyStatus (rid : Nat)
  | secDebugNonce (rid : Nat)
  | secDebugUnlock (rid : Nat) (tok : Bytes) (sigOk : Bool)
  | secRecover (rid : Nat) (tok : Bytes) (sigOk : Bool)
  | reencryptionPass (ns : Bool) (id : Nat)
  | secTamper (src : Nat)
  | scrub
  | scrubEnd (overrun : Bool)
  | feedLost (f : Nat) (cause : Nat)
  | feedRestored (f : Nat)
  | efuseTrip (f : Nat) (current : Bool)
  | holdupTakeover
  | dischargeLoad
  | powerQuery (rid : Nat)
  | powerSetCap (rid : Nat)
  | powerSetState (rid : Nat)
  | wake
  | idleEntry
  | capMissed (meanW : Nat)
  | throttle (unit : Nat) (up : Bool)
  | junctionTrip (sensorHot : Bool)
  | railFault (rail : Nat)
  | coolantWarn (start : Bool)
  | emergency (start : Bool)
  | modResetN (cycles : Nat) (hold : Bool) (cool : Bool)
  | modWakeN (cycles : Nat)
  | sbAlertStatWrite (v : U16)
  | alertResponse
  | faKey1 (v : U32)
  | faKey2 (v : U32)
  | faProgram (addr : U32) (data : U64)
  | faSectorErase (addr : U32)
  | faBankErase (addr : U32)
  | faSuspend (addr : U32)
  | faResume (addr : U32)
  | faReadId (addr : U32)
  | faClearStatus (addr : U32)
  | faRelock (off : Nat) (v : U64)
  | faOperationDone (ok : Bool)
  | faRead (addr : Nat) (fails : Nat)
  | faRetryRead
  | busyFetchTrap (addr : Nat)
  | recordSectorErase (j : Nat)
  | fwupQuery (rid : Nat)
  | fwupStage (rid : Nat) (img : StageImage)
  | fwupActivate (rid : Nat) (found : Nat) (us : Nat)
  | fwupInvalidate (rid : Nat)
  | pendingActivation (found : Nat) (us : Nat)
  | componentRestart (comp : Nat) (cause : Nat) (regions : List (Nat × Nat))
  | belayTakeover (cause : Nat) (selfTest : Bool)
  | prepCoreRetire (core : Nat) (badHarts : List Nat)
  | dieLost (d : Nat)
  | safeState
  | cairnQuery (rid : Nat)
  | cairnList (rid : Nat)
  | cairnRelease (rid : Nat)
  | windowClose (inst : Nat)
  | monList (rid : Nat)
  | monRead (rid : Nat)
  | monConfig (rid : Nat)
  | monInjEnable (rid : Nat)
  | monInject (rid : Nat)
  | monInjClear (rid : Nat)
  | injectFired (handle : Nat)
  | sensorOverrideExpiry (inst : Nat)
  | debugMemRead (rid : Nat)
  | debugMemWrite (rid : Nat)
  | debugHartHalt (rid : Nat)
  | debugHartResume (rid : Nat)
  | debugHartState (rid : Nat)
  | debugRegRead (rid : Nat)
  | debugRegWrite (rid : Nat)
  | jtagAccess (boundary : Bool) (reg : RegAddr) (write : Bool) (val : U64)
  | modResetNRelease
  | standbyReady
  | lightLost (p : Nat)
  | sensorSample (inst : Nat) (v : Int)
  | trackerEntryExpiry (k : Nat) (t : Nat)
  deriving DecidableEq, Repr

end Sys2Proof
end

