-- ==== Sys2Proof/Decode.lean ====
section
/-! DEFINITION. The decoder of command words. The table of commands gives no row any bits: the block is driven by
register accesses, packets and events, and no word spells a command. Of the rows, ten are instructions of a prep core, for which 05 R168
gives the encodings: their decoder stands beside it. -/
namespace Sys2Proof

/-- The command that a word spells by the table's bits: none, as no row gives bits (log 1). -/
def decodeTableWord (_nbits _w : Nat) : Option Instr := none

/-- The scalar Ezdun instruction of major opcode custom-0 that a word spells for a hart; a field marked 0 is 0 (05 R168). -/
def decodeScalarEzdun (h w : Nat) : Option Instr :=
  let rd := w / 2 ^ 7 % 32
  let rs1 := w / 2 ^ 15 % 32
  let rs2 := w / 2 ^ 20 % 32
  match w / 2 ^ 25 % 128, w / 2 ^ 12 % 8 with
  | 0, 0 => if rs2 = 0 then some (.tspawn h rd rs1) else none
  | 0, 1 => if rs2 = 0 then some (.tjoin h rd rs1) else none
  | 0, 2 => if rs2 = 0 ∧ rs1 = 0 ∧ rd = 0 then some (.tend h) else none
  | 0, 4 => if rd = 0 then some (.pfstream h rs1 rs2) else none
  | 1, 4 => if rs2 = 0 ∧ rd = 0 then some (.pfstop h rs1) else none
  | 0, 5 => if rd = 0 then some (.pfind h rs1 rs2) else none
  | _, _ => none

/-- The vector Ezdun instruction of major opcode custom-2 that a word spells for a hart (05 R168). -/
def decodeVectorEzdun (h w : Nat) : Option Instr :=
  let vd := w / 2 ^ 7 % 32
  let s1 := w / 2 ^ 15 % 32
  let vs2 := w / 2 ^ 20 % 32
  let vm := w.testBit 25
  match w / 2 ^ 26 % 64, w / 2 ^ 12 % 8 with
  | 0, 0 => some (.vxpopcVv h vd vs2 s1 vm)
  | 0, 4 => some (.vxpopcVx h vd vs2 s1 vm)
  | 1, 0 => some (.vxpopcaccVv h vd vs2 s1 vm)
  | 1, 4 => some (.vxpopcaccVx h vd vs2 s1 vm)
  | _, _ => none

/-- The Ezdun instruction that a 32-bit word of the two major opcodes spells for a hart; none for an encoding that is not listed, or that
has a field marked 0 that is not 0 (05 R168). -/
def decodeEzdun (h w : Nat) : Option Instr :=
  match w % 128 with
  | 0x0B => decodeScalarEzdun h w
  | 0x5B => decodeVectorEzdun h w
  | _ => none

/-- A word of the major opcodes custom-0 and custom-2. -/
def isEzdun (w : Nat) : Bool := w % 128 == 0x0B || w % 128 == 0x5B

end Sys2Proof
end

