-- ==== Sys2Proof/Config.lean ====
section
/-! DEFINITION. What the spec leaves open: opaque constants, of which nothing can be evaluated or proved. A free value
is one of them applied to the draw counter of the state (log 2) or to the operands it depends on. -/
namespace Sys2Proof

/-- The k-th free value, as a number (log 2). -/
opaque Config.freeNat : Nat → Nat

/-- The k-th free value, as a bit string of a width (log 2). -/
opaque Config.freeBits (w : Nat) : Nat → BitVec w

/-- Cycles that a clock domain makes in the k-th interval that passes: no ratio between two domains is guaranteed (01 R29; log 203). -/
opaque Config.cycles : Nat → Nat → Nat

/-- Slice and set of a line in a die cache: the hash of the slice is not given, nor the index (05 R190; log 213). -/
opaque Config.dcSlice : Nat → Nat
opaque Config.dcSet : Nat → Nat

/-- Macros of an SRAM controller: the spec gives their entries, not their number (09 R289; log 221). -/
opaque Config.sramMacros : Nat → Nat

/-- Root page of a context's page tables, as `satp` names it (05 R159; log 214). -/
opaque Config.tableRoot : Nat → BitVec 44

/-- GELU and SILU of a finite FP32 value: the spec bounds the error and gives no result (04 R145; log 40). -/
opaque Config.gelu : U32 → U32
opaque Config.silu : U32 → U32

/-- Which of two equal zeros of different sign a minimum or maximum returns (04 R145; log 45). -/
opaque Config.pickFirst : U32 → U32 → Bool

/-- DRAM channel of a device physical line address, as the controller spreads its lines (01 R27 names no map; log 41). -/
opaque Config.dramChannel : Nat → Nat

/-- Symbols of a line's codeword that a DRAM die, a pseudo-channel or a byte lane of a controller holds: no more than 8, taken modulo 9 (09 R282;
log 235). -/
opaque Config.elemSymbols : Nat → Nat → Nat → Nat

/-- Bytes of an SRAM that the spec gives no size (09 R288; log 236). -/
opaque Config.sramBytes : Nat → Nat

/-- Code lengths that the compressor chooses for a chunk (08 R272 fixes the format, not the choice; log 42). -/
opaque Config.huffLengths : Bytes → List Nat

/-- Value that a tasklet, an engine pass or a program of a compiler computes where the spec leaves its order of
evaluation open: FP32 element of the k-th drawn result (04 R156; 14 R413; log 43). -/
opaque Config.freeF32 : Nat → Nat → U32

/-- Digest of a measured object outside the model, by its index and what it depends on (15 R446; log 246). -/
opaque Config.measured : Nat → List Nat → BitVec 384

/-- CRC-32C of a page as stored, encrypted under a random key (10 R299; 15 R450): domain, write sequence number, contents. -/
opaque Config.storedCrc : Nat → Nat → List (Nat × Byte) → U32

end Sys2Proof
end

