-- ==== Sys2Proof/Machine/Table.lean ====
section
/-! DEFINITION. Tables by number, byte memories and byte strings: the plain data out of which the state is built.
A table is a list of (key, value) pairs with strictly rising keys. -/
namespace Sys2Proof.Machine

/-- A table: strictly rising keys. -/
abbrev Tbl (α : Type) := List (Nat × α)

/-- The entry at a key. -/
def tget {α : Type} (t : Tbl α) (k : Nat) : Option α :=
  match t with
  | [] => none
  | (a, v) :: r => if a = k then some v else tget r k

/-- The entry at a key, `d` where there is none. -/
def tgetD {α : Type} (t : Tbl α) (k : Nat) (d : α) : α := (tget t k).getD d

/-- Puts an entry at a key. -/
def tset {α : Type} (t : Tbl α) (k : Nat) (v : α) : Tbl α :=
  match t with
  | [] => [(k, v)]
  | (a, w) :: r => if a < k then (a, w) :: tset r k v else if a = k then (k, v) :: r else (k, v) :: (a, w) :: r

/-- Removes the entry at a key. -/
def tdel {α : Type} (t : Tbl α) (k : Nat) : Tbl α :=
  match t with
  | [] => []
  | (a, w) :: r => if a = k then tdel r k else (a, w) :: tdel r k

/-- Changes the entry at a key, `d` where there is none. -/
def tupd {α : Type} (t : Tbl α) (k : Nat) (d : α) (f : α → α) : Tbl α := tset t k (f (tgetD t k d))

/-- Changes the entry at a key, if there is one. -/
def tmod {α : Type} (t : Tbl α) (k : Nat) (f : α → α) : Tbl α :=
  match tget t k with
  | none => t
  | some v => tset t k (f v)

/-- Changes every entry. -/
def tmap {α : Type} (t : Tbl α) (f : Nat → α → α) : Tbl α := t.map fun e => (e.1, f e.1 e.2)

/-- The entry of an array whose unlisted entries are `d`. -/
def aget {α : Type} (d : α) (t : Tbl α) (k : Nat) : α := tgetD t k d

/-- Writes an array whose unlisted entries are `d`: an entry equal to `d` is not listed. -/
def aset {α : Type} [DecidableEq α] (d : α) (t : Tbl α) (k : Nat) (v : α) : Tbl α :=
  if v = d then tdel t k else tset t k v

/-- A byte memory: strictly rising addresses, no entry equal to what an unlisted address reads as. -/
abbrev Memory := List (Nat × Byte)

/-- What one byte of a memory reads as; `d` at an unlisted address. -/
def Memory.read (d : Byte) (m : Memory) (a : Nat) : Byte := aget d m a

/-- Writes one byte. -/
def Memory.write (d : Byte) (m : Memory) (a : Nat) (b : Byte) : Memory := aset d m a b

/-- Strictly rising keys. -/
def keysRise {α : Type} (t : Tbl α) : Bool :=
  match t with
  | [] => true
  | [_] => true
  | (a, _) :: (b, w) :: r => decide (a < b) && keysRise ((b, w) :: r)

/-- The canonical form: strictly rising addresses, no entry equal to the unlisted value. -/
def Memory.wf (d : Byte) (m : Memory) : Bool := keysRise m && m.all fun e => decide (e.2 ≠ d)

/-- Reads `n` bytes from `a` upward. -/
def Memory.readN (d : Byte) (m : Memory) (a : Nat) (n : Nat) : Bytes :=
  match n with
  | 0 => []
  | k + 1 => Memory.read d m a :: Memory.readN d m (a + 1) k

/-- Writes the bytes of a string from `a` upward. -/
def Memory.writeN (d : Byte) (m : Memory) (a : Nat) (bs : Bytes) : Memory :=
  match bs with
  | [] => m
  | b :: r => Memory.writeN d (Memory.write d m a b) (a + 1) r

/-- Removes the listed bytes of `[a, a + n)`: they read as the unlisted value. -/
def Memory.clear (m : Memory) (a : Nat) (n : Nat) : Memory := m.filter fun e => !(decide (a ≤ e.1) && decide (e.1 < a + n))

/-- The value of a little-endian byte string (00 R13). -/
def leNat (bs : Bytes) : Nat :=
  match bs with
  | [] => 0
  | b :: r => b.toNat + 256 * leNat r

/-- The `n` little-endian bytes of a value (00 R13). -/
def leBytes (n : Nat) (v : Nat) : Bytes :=
  match n with
  | 0 => []
  | k + 1 => BitVec.ofNat 8 v :: leBytes k (v / 256)

/-- `n` bytes of a string from an offset; bytes past its end read as 0. -/
def sub (bs : Bytes) (off : Nat) (n : Nat) : Bytes :=
  let t := (bs.drop off).take n
  t ++ List.replicate (n - t.length) 0

/-- The little-endian field of `n` bytes at an offset of a message (00 R13, R21). -/
def fld (bs : Bytes) (off : Nat) (n : Nat) : Nat := leNat (sub bs off n)

/-- `n` zero bytes. -/
def zeros (n : Nat) : Bytes := List.replicate n 0

/-- Bit `i` of a number. -/
def bit (v : Nat) (i : Nat) : Bool := v.testBit i

/-- Bits `[lo + w - 1 : lo]` of a number. -/
def bits (v : Nat) (lo : Nat) (w : Nat) : Nat := v / 2 ^ lo % 2 ^ w

/-- 1 for true. -/
def b2n (b : Bool) : Nat := if b then 1 else 0

/-- Adds 1, saturating at a bound. -/
def satInc (top : Nat) (n : Nat) : Nat := if n < top then n + 1 else top

/-- Sum of a list of numbers. -/
def sumN (l : List Nat) : Nat := l.foldl (· + ·) 0

/-- The numbers `a`, `a + 1`, … , `n` of them. -/
def rangeFrom (a : Nat) (n : Nat) : List Nat := (List.range n).map (· + a)

/-- Puts an element before the first that it does not follow. -/
def insertBy {α : Type} (le : α → α → Bool) (x : α) (l : List α) : List α :=
  match l with
  | [] => [x]
  | y :: r => if le x y then x :: y :: r else y :: insertBy le x r

/-- Sorts a list; equal elements keep their order. -/
def sortBy {α : Type} (le : α → α → Bool) (l : List α) : List α :=
  match l with
  | [] => []
  | x :: r => insertBy le x (sortBy le r)

/-- The positions of the 1 bits of a mask among the low `n`. -/
def maskBits (m : Nat) (n : Nat) : List Nat := (List.range n).filter fun i => m.testBit i

/-- The mask whose 1 bits are at the listed positions. -/
def bitsMask (l : List Nat) : Nat := l.foldl (fun m i => m ||| 2 ^ i) 0

/-- The characters of a text as bytes (ASCII). -/
def ascii (t : String) : Bytes := t.toList.map fun c => BitVec.ofNat 8 c.toNat

/-- A string padded at its end with spaces to `n` bytes. -/
def padSp (bs : Bytes) (n : Nat) : Bytes := (bs ++ List.replicate n 32).take n

/-- The lowest of `n` numbers from `a` that a test accepts. -/
def findUp (ok : Nat → Bool) (n a : Nat) : Option Nat :=
  match n with
  | 0 => none
  | k + 1 => if ok a then some a else findUp ok k (a + 1)

end Sys2Proof.Machine
end

