-- ==== Sys2Proof/Machine/PartsAgent.lean ====
section
/-! DEFINITION. Records of chapters 07 and 08: models, sessions and snapshots, KV blocks; memory objects, pages and
the migration block. -/
namespace Sys2Proof.Machine

/-- A stage of the decode pipeline (07 R228): its die, its first layer and how many, and the home engines that hold each KV head. -/
structure Stage where
  die : Nat
  first : Nat
  layers : Nat
  heads : List Nat
  deriving DecidableEq, Repr

/-- A loaded model with its decode batch (07 R221 to R231). -/
structure Model where
  ctx : Nat
  layers : Nat
  kvHeads : Nat
  headDim : Nat
  kvFmt : Nat
  kvBlockBytes : Nat
  encoder : Bool
  /-- Handles of the sealed weight objects. -/
  weights : List Nat
  weightBytes : Nat
  mirrorW : Bool
  maxWindow : Nat
  poolMib : Nat
  /-- Blocks in the pool (0 for a model kept with no pool, 02 R59), and free at the last boundary. -/
  poolBlocks : Nat
  freeBlocks : Nat
  /-- Sealed blocks kept as clean retrieval-cache blocks, oldest first (R240). -/
  cache : List Nat
  /-- Bytes of retrieval staging reserved at `LOAD` (R240). -/
  staging : Nat
  maxBatch : Nat
  retrWaitUs : Nat
  /-- `BATCH_CFG` that takes effect at the next boundary: max_batch, retr_wait_us. -/
  nextCfg : Option (Nat × Nat)
  /-- Batch members, in order of admission; joiners, in arrival order (R229, R230). -/
  members : List Nat
  joiners : List Nat
  /-- Decode stages in use, in ring order (R228). -/
  stages : List Stage
  stepUs : Nat
  /-- Digest of the components at LOAD (18 R537). -/
  digest : Nat
  deriving DecidableEq, Repr

/-- What a snapshot holds of a session beside its settings (07 R243). -/
structure SessBody where
  /-- Tokens without pending input. -/
  tokens : Nat
  /-- Tokens of the open block, and the KV of each position as a number. -/
  openToks : List U32
  openKv : List Nat
  pending : List U32
  /-- Sampler program index, parameters of the last generation, state of the program (R238). -/
  sampler : Nat
  sparams : Bytes
  prog : Nat
  rng : U64
  /-- Scheduler position: steps, prefill chunks of the input in progress done and in all, tokens of the generation, generations. -/
  steps : Nat
  chunks : Nat
  chunksTotal : Nat
  generated : Nat
  gens : Nat
  /-- Sealed blocks, oldest first, by block number: the block index (R239). -/
  sealed : List Nat
  deriving DecidableEq, Repr

/-- Session states (07 Sessions). -/
inductive SessState where
  | open | running | paused | closed
  deriving DecidableEq, Repr

def SessState.code : SessState → Nat
  | .open => 1 | .running => 2 | .paused => 3 | .closed => 4

/-- Where a session that joins or generates stands (07 R230, R231, R234, R236, R246). -/
inductive Phase where
  /-- Not in the batch and not waiting. -/
  | none
  /-- Joiner that will create, fork, resume, or generate; a resume that has been admitted and is not complete (R246). -/
  | joinCreate | joinResume | joinGen
  | restoring
  | prefill | reshard
  /-- Resharded, in the decode steps from the next boundary; in the decode steps. -/
  | ready | member
  deriving DecidableEq, Repr

/-- A running generation (07 R235). -/
structure Gen where
  rid : Nat
  maxNew : Nat
  stopTok : Nat
  outSpace : Nat
  outAddr : Nat
  outLen : Nat
  retrMissed : Nat
  deriving DecidableEq, Repr

/-- A snapshot: committed, or in progress with the requests that wait for it (07 R244). -/
structure Snap where
  seq : Nat
  bytes : Nat
  body : SessBody
  /-- Digest of its commit record (R243). -/
  digest : Bytes
  /-- Requests that reply at the commit; a pause releases the pool blocks. -/
  waiters : List Nat
  pause : Bool
  /-- Tokens logged when it was taken. -/
  mark : Nat
  deriving DecidableEq, Repr

/-- An agent session (07 R233 to R249). -/
structure Sess where
  ctx : Nat
  model : Nat
  lc : Bool
  ephemeral : Bool
  mirror : Nat
  mirrorPos : Nat
  window : Nat
  retrBlocks : Nat
  snapPeriod : Nat
  state : SessState
  phase : Phase
  /-- Tokens of the prefill chunk in progress that are left; the sequence-sharded layout of what is prefilled: per die in ring order its
  number of tokens (R226). -/
  chunkLeft : Nat
  shards : List (Nat × Nat)
  /-- Query code of the step in progress, the blocks that it selects, and those of them omitted (R240, R241). -/
  query : Nat
  selected : List Nat
  omitted : List Nat
  pauseReason : Nat
  mirrorState : Nat
  body : SessBody
  gen : Option Gen
  /-- Request that waits for admission (CREATE, FORK, RESUME), and the snapshot to restore. -/
  joinRid : Option Nat
  restore : Option Snap
  /-- Requests that take effect at the next boundary: PAUSE, SNAPSHOT, FORK, CLOSE request identities. -/
  atBoundary : List Nat
  /-- Pool blocks held: 0 when not resident; order in which it became resident (R230). -/
  blocks : Nat
  since : Nat
  /-- Committed snapshots, latest first, at most two; the one in progress; next sequence number. -/
  snaps : List Snap
  inProg : Option Snap
  nextSnap : Nat
  /-- Tokens appended and delivered since the latest committed snapshot (18 R546). -/
  logged : List U32
  /-- MGMT cycle of the last snapshot taken (R242). -/
  snapAt : Nat
  /-- Last snapshot committed at the mirror; a snapshot whose requests wait for the peer (R249). -/
  mirrored : Nat
  mirrorWait : Option (Nat × List Nat)
  /-- Sealed blocks sent to the peer (R249). -/
  sentBlks : List Nat
  deriving DecidableEq, Repr

/-- A sealed KV block (07 R236, R239, R240): its KV position by position, content digest, summary code. -/
structure KvBlk where
  ctx : Nat
  model : Nat
  bytes : Nat
  kv : List Nat
  digest : Bytes
  code : Nat
  /-- It has a T2 copy (R239). -/
  t2 : Bool
  /-- Flash copy: 1 queued, 2 accepted, 3 durable; 0 lost. -/
  flash : Nat
  deriving DecidableEq, Repr

/-- A mirrored session that this module holds for a peer (07 R249; 18 R537). -/
structure MirrorCopy where
  /-- Number that its flash copy carries in place of a session's. -/
  key : Nat
  originPos : Nat
  /-- Serial of the origin when the copy was received (13 R403). -/
  originSerial : Bytes
  originCtx : Nat
  sess : Nat
  digest : Nat
  seq : Nat
  body : SessBody
  lc : Bool
  window : Nat
  retrBlocks : Nat
  snapPeriod : Nat
  /-- The origin has heard that it is committed here. -/
  acked : Bool
  deriving DecidableEq, Repr

/-- Blocks of a mirrored session that came before a snapshot that references them (07 R249). -/
structure MirrorBlks where
  originPos : Nat
  originSerial : Bytes
  originCtx : Nat
  sess : Nat
  blks : List Nat
  deriving DecidableEq, Repr

/-- A `MODEL.LOAD` in progress (07 R222 to R224): its request, the model's handle, whether its pages are pinned in T1, the contents of the
pages still to store, tensor by tensor, and the pages stored of the first of these. -/
structure Load where
  rid : Nat
  model : Nat
  pin : Bool
  rest : List (List Memory)
  cur : List Nat
  deriving DecidableEq, Repr

/-- Models, sessions, blocks and the mirror store (07). -/
structure Agents where
  models : Tbl Model
  loads : List Load
  nextModel : Nat
  sess : Tbl Sess
  nextSerial : Nat
  kv : Tbl KvBlk
  nextBlk : Nat
  /-- Order in which sessions became resident. -/
  clock : Nat
  /-- Snapshots being written and waiting to be, resumes being restored and waiting to be: sessions, oldest first (R245, R246). -/
  snapRun : List Nat
  snapWait : List Nat
  resRun : List Nat
  resWait : List Nat
  mirrorStore : List MirrorCopy
  mirrorBlks : List MirrorBlks
  deriving DecidableEq, Repr

/-- Page states (08 R254). -/
inductive PageKind where
  | writable | sealed
  /-- Made from the sealed page named by a copy-on-write promotion. -/
  | priv (origin : Nat)
  | lost
  deriving DecidableEq, Repr

/-- A 2 MiB page with its copies (08 R254, R264, R268). -/
structure Page where
  ctx : Nat
  kind : PageKind
  /-- T1 frame of its T1 copy; first 4 KiB block of its T2 copy (R252, R271). -/
  t1 : Option Nat
  t2 : Option Nat
  /-- Flash copy: 0 none, 1 queued, 2 accepted, 3 durable; the second copy of a `MIRROR_W` weight page (07 R223). -/
  flash : Nat
  flash2 : Nat
  /-- The T1 copy is dropped once the flash copy is accepted (R264). -/
  dropT1 : Bool
  /-- The DRAM copies are dropped once the flash copy is accepted (COLD, R265). -/
  dropT2 : Bool
  heat : Nat
  promoted : Bool
  /-- Objects that reference the page. -/
  refs : Nat
  /-- Bytes of its T2 copy, and of a flash copy (R255, R271). -/
  stored : Nat
  packed : Nat
  /-- Contents, 2 MiB, unlisted bytes 0. -/
  data : Memory
  deriving DecidableEq, Repr

/-- A memory object (08 R253, R279). -/
structure Obj where
  ctx : Nat
  va : Nat
  aflags : Nat
  pages : List Nat
  /-- Digest of the last seal. -/
  digest : Bytes
  deriving DecidableEq, Repr

/-- Moves of the tier engine in progress (08 R268, R269). -/
inductive MoveKind where
  | promote | demote
  deriving DecidableEq, Repr

/-- Quotas and counters of a context (08 R255, R279). A quota of 0 is the device total. -/
structure Usage where
  t1Quota : Nat
  t2Quota : Nat
  flashQuota : Nat
  promoted : U32
  demoted : U32
  fills : U32
  cowPages : U32
  deriving DecidableEq, Repr

def Usage.init : Usage := ⟨0, 0, 0, 0, 0, 0, 0⟩

/-- Memory tiers (08). -/
structure Tiers where
  objs : Tbl Obj
  nextObj : Nat
  pages : Tbl Page
  nextPage : Nat
  usage : Tbl Usage
  migCtrl : U32
  migEpoch : U32
  /-- `MIG_EPOCH` written and not yet in force (R270). -/
  migEpochNext : Option U32
  /-- FAB cycle at which the epoch in progress began. -/
  epochStart : Nat
  migStat : U32
  migFail : U32
  migCfg : Tbl U32
  moves : List (Nat × MoveKind)
  /-- Pages whose fill has been started (R266). -/
  fills : List Nat
  /-- Key slots loaded in the DRAM controllers (R274); slot 64 is firmware's. -/
  keySlots : List Nat
  /-- T1 pages have their retention copy in T2 (R254). -/
  retained : Bool
  deriving DecidableEq, Repr

def Agents.init : Agents :=
  { models := [], loads := [], nextModel := 1, sess := [], nextSerial := 1, kv := [], nextBlk := 1, clock := 0, snapRun := [], snapWait := [], resRun := []
    resWait := [], mirrorStore := [], mirrorBlks := [] }

/-- No object; the migration block at its reset values (08 R270), slot 64 keyed (R274). -/
def Tiers.init : Tiers := ⟨[], 1, [], 1, [], 0x4041, 0x200000, none, 0, 0, 0, [], [], [], [0, 64], false⟩

end Sys2Proof.Machine
end

