-- ==== Sys2Proof/Machine/PartsCompute.lean ====
section
/-! DEFINITION. Records of chapters 03 to 06: matrix engines and their DMA channels, the stream tables, harts and
tasklets, context slots, semaphores. Units are numbered physically: engine 20·die + peng, core 64·die + core,
hart 512·die + 8·core + thread (R160). -/
namespace Sys2Proof.Machine

/-- The state of an engine that a save keeps (03 R127). -/
structure EngSt where
  /-- Weight registers, keyed 65536·tag + 256·column + row; unlisted 0 (R101). -/
  wreg : Tbl U16
  /-- Weight scale registers, keyed 8192·tag + 32·(16·r + g) + lane; unlisted 0 (R101, R214). -/
  wscale : Tbl Byte
  /-- Column format records, keyed 256·tag + column; unlisted 0 (R101). -/
  colFmt : Tbl Nat
  /-- Local memory, 2 MiB, unlisted bytes 0 (R106). -/
  mem : Memory
  /-- Row types of the 256-lane view: true for INT32; unlisted FP32 (R108). -/
  rowInt : Tbl Bool
  head : U16
  tail : U16
  /-- `SYNC_CNT[0–7]`; unlisted 0. -/
  sync : Tbl U16
  sr : U64
  run : Bool
  deriving DecidableEq, Repr

/-- A cleared engine (03 R128). -/
def EngSt.blank : EngSt := ⟨[], [], [], [], [], 0, 0, [], 0, false⟩

/-- `ENG_STAT.STATE` (03 R121). -/
inductive EngState where
  | idle | run | wait | stopping | stopped | fault | clearing | off
  deriving DecidableEq, Repr

def EngState.code : EngState → Nat
  | .idle => 0 | .run => 1 | .wait => 2 | .stopping => 3 | .stopped => 4 | .fault => 5 | .clearing => 6 | .off => 7

/-- A descriptor ring of a DMA channel or of a tier queue (05 R185, R188). -/
structure Ring where
  base : U64
  cfg : U32
  head : U16
  tail : U16
  /-- `DMA_FAULT` (R185); 0 for a tier queue. -/
  fault : U32
  deriving DecidableEq, Repr

def Ring.init : Ring := ⟨0, 0, 0, 0, 0⟩

/-- An engine with its DMA channel. -/
structure Eng where
  sav : EngSt
  /-- In state `WAIT` a `WAIT` or `SIGNAL` that has been issued holds issue: `head` is past it (R112, R118). -/
  st : EngState
  fault : U32
  faultIdx : U16
  /-- Context that the engine is assigned to (03 R110; 06 R199). -/
  owner : Option Nat
  dma : Ring
  deriving DecidableEq, Repr

/-- A saturation count record on its way to a stream table (04 R152). -/
structure CountRec where
  eng : Nat
  ctx : Nat
  sid : Nat
  elements : Nat
  saturated : Nat
  deriving DecidableEq, Repr

/-- A stream table entry (04 R152). -/
structure Sq where
  cfg : U32
  total : Nat
  sat : Nat
  windows : U16
  events : Nat
  fired : Bool
  deriving DecidableEq, Repr

def Sq.init : Sq := ⟨0, 0, 0, 0, 0, false⟩

/-- The engines, the die completion queues and the stream tables (03, 04). -/
structure Engines where
  /-- The 80 engines built; an unlisted one is as after reset. -/
  eng : Tbl Eng
  /-- Engine completion queue of each die: {logical engine, value, owning context}, oldest first (R118). -/
  cq : Tbl (List (Nat × Nat × Nat))
  /-- Dies whose dispatcher retries a refused signal spawn (05 R187). -/
  retry : List Nat
  recs : List CountRec
  /-- Stream tables, keyed 256·context + SID. -/
  sq : Tbl Sq
  deriving DecidableEq, Repr

/-- Privilege mode of a hart: tenant code in U, the core monitor in M (05 R158, R159). -/
inductive Priv where
  | u | s | m
  deriving DecidableEq, Repr

/-- Code of a privilege mode (RISC-V). -/
def Priv.code : Priv → Nat
  | .u => 0 | .s => 1 | .m => 3

/-- A hart (05 R158 to R161, R182; 06 R214). -/
structure Hart where
  pc : U64
  /-- x1 to x31; unlisted 0. -/
  x : Tbl U64
  f : Tbl U64
  v : Tbl (BitVec 512)
  fcsr : U64
  vtype : U64
  vl : U64
  vstart : U64
  vcsr : U64
  /-- Running tasklet. -/
  task : Option Nat
  /-- Waiting in TJOIN: record address, result register, count last observed (R171). -/
  tjoin : Option (Nat × Nat × Nat)
  /-- Blocked in ACQUIRE on a semaphore (06 R216). -/
  sem : Option Nat
  /-- Halted by DEBUG.HART_HALT (19 R568). -/
  halted : Bool
  priv : Priv
  /-- Context whose page tables `satp` points to (R159). -/
  satp : Option Nat
  /-- The 16 PMP entries: configuration byte and address register; unlisted 0 (R158). -/
  pmp : Tbl (Byte × U64)
  /-- Stores that have not reached the die cache, oldest first, at most 8: context, virtual address, bytes (R161). -/
  sbuf : List (Nat × Nat × Bytes)
  /-- Counters of the `cycle` and `instret` CSRs (01 R43). -/
  cycle : U64
  instret : U64
  deriving DecidableEq, Repr

def vill : U64 := 0x8000000000000000

/-- A hart out of reset: in M-mode, translation off (RISC-V). -/
def Hart.init : Hart := ⟨0, [], [], [], 0, vill, 0, 0, 0, none, none, none, false, .m, none, [], [], 0, 0⟩

/-- A tasklet in flight: it holds a pool slot (05 R176, R180). -/
structure Tasklet where
  ctx : Nat
  entry : U64
  args : List U64
  join : Nat
  place : Nat
  noFaultEvt : Bool
  /-- Die to which stealing is confined, for place 0x10 to 0x13 (06 R208). -/
  onlyDie : Option Nat
  deriving DecidableEq, Repr

/-- A stream-prefetch slot (05 R173). -/
structure PfSlot where
  addr : U64
  stride : Int
  lines : Nat
  target : Nat
  distance : Nat
  hart : Nat
  /-- Lines dropped (R175). -/
  dropped : Nat
  deriving DecidableEq, Repr

/-- Harts, tasklets and prefetch slots (05). -/
structure Tasklets where
  /-- Harts by physical number; an unlisted one is as after reset. -/
  harts : Tbl Hart
  /-- Tasklets in flight, by pool slot. -/
  pool : Tbl Tasklet
  nextSlot : Nat
  /-- Ready queues, keyed 4·context + physical die, oldest first (R181). -/
  ready : Tbl (List Nat)
  /-- Work-stealing deques, keyed 256·context + physical core, bottom last (06 R208). -/
  deque : Tbl (List Nat)
  /-- Stream-prefetch slots, keyed 64·core + slot. -/
  pf : Tbl PfSlot
  /-- Lines of the L1 data caches with the 64 bytes that each holds, keyed by core, context and virtual line (R161). -/
  l1 : Tbl Bytes
  /-- Lines of the die caches, keyed by die, slice, set and way; coherent, so a line carries no bytes of its own (R24, R190). -/
  dc : Tbl Nat
  /-- Harts of a retired core that wait for a free hart of their context on their die: context, die, record (18 R531). -/
  parked : List (Nat × Nat × Hart)
  deriving DecidableEq, Repr

/-- `CTX_ALLOC` and `CTX_CONFIG` configuration (06 R195). -/
structure CtxCfg where
  lc : Bool
  save : Bool
  steal : Bool
  engHome : Nat
  coreHome : Nat
  bwRes : Nat
  waysRes : Nat
  t1Res : Nat
  tdQuota : Nat
  donateUs : Nat
  srSeed : U64
  resumeDesc : Nat
  resumeRec : Nat
  deriving DecidableEq, Repr

/-- Context states (06 R191). -/
inductive CtxState where
  | free | alloc | resident | suspended | freeing
  deriving DecidableEq, Repr

def CtxState.code : CtxState → Nat
  | .free => 0 | .alloc => 1 | .resident => 2 | .suspended => 3 | .freeing => 4

/-- What the save area of a context holds (06 R214), by physical unit; its link transfer records are the transfers of the context that
are cut (06 R213). -/
structure Saved where
  save : Bool
  engines : Tbl (EngSt × Ring)
  harts : Tbl Hart
  deriving DecidableEq, Repr

/-- A context slot with its pages (05 R184, R188; 06 R191, R195, R198, R212). -/
structure Slot where
  state : CtxState
  /-- The configuration last set, and the one in force (R196). -/
  cfg : CtxCfg
  act : CtxCfg
  /-- Home engines and home cores, physical, in logical order (R199, R201). -/
  homeE : List Nat
  homeC : List Nat
  /-- Homes assigned by a configuration change that takes effect at the next switch-in (R196). -/
  nextHomes : Option (List Nat × List Nat)
  homeGen : U32
  hold : Bool
  /-- Held because the module is not Admitted (15 R440). -/
  secHold : Bool
  donated : Bool
  switchOuts : Nat
  lastUs : Nat
  donations : Nat
  starved : Nat
  saved : Option Saved
  /-- It gives way to a waiter: its BE slice has run out, or it has been idle as LC for 100 µs (R204). -/
  yield : Bool
  /-- The spawn of its resume handler was refused for space and is retried (R211; 05 R187). -/
  resumeWait : Bool
  /-- Work-stealing generators by physical core (R208). -/
  gens : Tbl U64
  /-- Tasklet control page (05 R184). -/
  stackBase : U64
  stackLog2 : Nat
  gp : U64
  tdFaults : U32
  sigDesc : Tbl U64
  tq : Ring
  /-- `DC_WAYMASK` and `DC_HWPF` (05 R189, R190). -/
  wayMask : U16
  hwpf : Bool
  deriving DecidableEq, Repr

/-- A waiter of a semaphore (06 R216). -/
structure Waiter where
  ctx : Nat
  hart : Nat
  /-- FAB cycle at which its TIMEOUT falls, 0 for none. -/
  deadline : Nat
  starved : Bool
  /-- Service request that the hart works for (R219). -/
  rid : Option Nat
  deriving DecidableEq, Repr

/-- A hardware semaphore (06 R215, R216). -/
structure Sem where
  mutex : Bool
  count : Nat
  owner : Nat
  mask : U64
  holder : Option (Nat × Nat)
  waiters : List Waiter
  /-- The holder's donation budget ran out: no further donation until it releases (R219). -/
  exhausted : Bool
  deriving DecidableEq, Repr

/-- A donated run in progress: holder context, semaphore, waiting context with the class that it gives (06 R218). -/
structure Donation where
  holder : Nat
  sem : Nat
  waiter : Nat
  lc : Bool
  deriving DecidableEq, Repr

/-- Context slots, semaphores and the scheduler (06). -/
structure Contexts where
  slots : Tbl Slot
  beSliceUs : Nat
  sems : Tbl Sem
  /-- `SEM_RESULT`, keyed 2048·context + hart (R212). -/
  semResult : Tbl U64
  /-- Grants and timeouts that wait until their context is resident: context, hart, result (R216). -/
  semPend : List (Nat × Nat × U64)
  /-- Donated runs in progress (R218). -/
  donations : List Donation
  /-- Contexts observed to have work, longest waiting first (R193, R204). -/
  order : List Nat
  deriving DecidableEq, Repr

/-- The configuration of slot 0 at the first READY (06 R191); the seed is drawn by firmware (log 23). -/
def CtxCfg.admin : CtxCfg := ⟨false, true, false, 0, 0, 0, 0, 0, 2 ^ 22, 2000, 0, 0, 0⟩

/-- A slot newly taken with a configuration: its pages at their reset values (06 R192; 05 R184, R188, R189). -/
def Slot.new (c : CtxCfg) : Slot :=
  ⟨.alloc, c, c, [], [], none, 0, false, false, false, 0, 0, 0, 0, none, false, false, [], 0, 16, 0, 0, [], Ring.init, 0xFFFF, true⟩

/-- Engines after a reset: nothing listed. -/
def Engines.init : Engines := ⟨[], [], [], [], []⟩
def Tasklets.init : Tasklets := ⟨[], [], 0, [], [], [], [], [], []⟩
/-- Slot 0 allocated, the others free; the BE slice at its default (06 R191, R570). -/
def Contexts.init : Contexts := ⟨[(0, Slot.new CtxCfg.admin)], 5000, [], [], [], [], []⟩

end Sys2Proof.Machine
end

