-- ==== Sys2Proof/Machine/PartsFlash.lean ====
section
/-! DEFINITION. Records of chapters 09 and 10: ECC blocks, trackers and remaps; the flash translation layer. -/
namespace Sys2Proof.Machine

/-- An entry of a correction tracker (09 R287). -/
structure Track where
  addr : Nat
  count : Nat
  /-- Interval last counted. -/
  last : Nat
  deriving DecidableEq, Repr

/-- The ECC block of a memory controller (09 R294). -/
structure EccBlk where
  ctrl : U32
  ceCnt : U32
  ueCnt : U32
  ceLast : U64
  passes : U16
  flipCtrl : U32
  flipAddr : U64
  flipMask : Tbl U32
  track : List Track
  /-- Valid remap entries, keyed 32·channel + entry (8·macro + entry in SRAM), and retired entries (R290). -/
  remap : Tbl Nat
  remapOut : List Nat
  /-- Position of the patrol reader (R288). -/
  patrolPos : Nat
  /-- Stored codewords that carry a flip error (R295) or poison (R286): symbols in error, by address. -/
  errs : Tbl Nat
  /-- DRAM dies, pseudo-channels and byte lanes that have failed (R282). -/
  dead : List Nat
  /-- Addresses whose count has reached THRESH and that wait for their remap (R287). -/
  atThresh : List Nat
  deriving DecidableEq, Repr

/-- Reset values of R294. -/
def EccBlk.init : EccBlk := ⟨0x000C1814, 0, 0, 0, 0, 0, 0, [], [], [], [], 0, [], [], []⟩

/-- Of an SRAM controller, whose `PASS_HOURS` is reserved (R294; 00 R17). -/
def EccBlk.sram : EccBlk := { EccBlk.init with ctrl := 0x00001814 }

/-- The reset values of controller `k`. -/
def EccBlk.fresh (k : Nat) : EccBlk := if k < 256 then EccBlk.init else EccBlk.sram

/-- ECC (09). DRAM controllers 0–7 (HBM) and 16–31 (LPDDR); SRAM controllers from 256 upward. -/
structure Ecc where
  blk : Tbl EccBlk
  /-- Flash channel `ECC_FLIP_CTRL` and `ECC_FLIPMASK[0–3]`, by channel (R294). -/
  flashCtrl : Tbl U32
  flashMask : Tbl U32
  /-- Retired 2 MiB frames of T1 and T2; cache ways disabled in their set, by controller and way; mailbox blocks of 4 KiB that have been moved
  to a spare block (R291). -/
  t1Out : List Nat
  t2Out : List Nat
  waysOut : List (Nat × Nat)
  mbxBlocks : List Nat
  deriving DecidableEq, Repr

/-- What a unit of the write buffer holds (10 R306, R307). -/
inductive FItem where
  /-- A user-pool unit of a namespace: NSID. -/
  | ns (nsid : Nat)
  /-- Flash copy of a page of an object: page; 0 a bulk copy, 1 a `DURABLE` copy in the pinned region, 2 the second copy of a weight page
  (08 R264; 07 R223). -/
  | page (pid : Nat) (copy : Nat)
  /-- A sealed KV block. -/
  | kv (blk : Nat)
  /-- An array of a search index: 0 codes, 1 adjacency, 2 keys (12 R368). -/
  | array (idx : Nat) (part : Nat)
  /-- The side-list entries of an epoch of an index, with their bytes (12 R368). -/
  | side (idx : Nat) (epoch : Nat) (bytes : Nat)
  /-- A session snapshot. -/
  | snap (sess : Nat) (seq : Nat)
  /-- A unit moved by folding, garbage collection, wear levelling or the walker: source slot (R311). -/
  | move (old : Nat)
  deriving DecidableEq, Repr

/-- A unit in the write buffer: space, map index; the bytes from `off` that it brings, their contents by offset in
the unit (unlisted bytes 0). The contents of a page, KV block or snapshot stay in its own record. -/
structure BufUnit where
  id : Nat
  item : FItem
  space : Nat
  index : Nat
  off : Nat
  bytes : Nat
  data : Memory
  /-- STORE writes that complete when the unit commits: in write-through (R323). -/
  cmds : List (Nat × Nat)
  /-- Owning flash key domain (15 R450). -/
  dom : Nat
  /-- Source of the last write merged into it (R307, R311); taken in write-through, so not dirty data (R323). -/
  src : Nat
  thru : Bool
  deriving DecidableEq, Repr

/-- A write that waits for the dirty limit (10 R307): its source, the units it brings, the STORE command or request
that completes at acceptance. -/
structure FWrite where
  src : Nat
  bytes : Nat
  units : List BufUnit
  /-- Queue pair and command identifier of a STORE write. -/
  cmd : Option (Nat × Nat)
  deriving DecidableEq, Repr

/-- A programmed slot (10 R299, R301). Its `dcrc` follows from what is stored (`pageMeta`). -/
structure SlotPg where
  space : Nat
  index : Nat
  kgen : Nat
  wseq : Nat
  dom : Nat
  item : FItem
  data : Memory
  deriving DecidableEq, Repr

/-- A superblock that is not free and never erased (10 R298, R300, R313): die·1272 + block. -/
structure Sb where
  slc : Bool
  pinned : Bool
  open_ : Bool
  full : Bool
  /-- Order in which it was opened. -/
  order : Nat
  /-- Stripes programmed. -/
  stripes : Nat
  /-- Erase count in quarters. -/
  erases : Nat
  deriving DecidableEq, Repr

/-- A journal entry (10 R314). -/
structure JEntry where
  kind : Nat
  space : Nat
  index : Nat
  new : Nat
  old : Nat
  deriving DecidableEq, Repr

structure JPage where
  seq : Nat
  entries : List JEntry
  deriving DecidableEq, Repr

/-- The shutdown record (10 R324; 17 R513; 18 R535): cause, completion mark, the `wseq` range of the Abseil pages, the bytes written by steps
4 to 6. -/
structure Shutdown where
  cause : Nat
  complete : Bool
  wseqFrom : Nat
  wseqTo : Nat
  dataBytes : Nat
  deltaBytes : Nat
  ledgerBytes : Nat
  deriving DecidableEq, Repr

/-- Counters of the log pages (10 R329, R330). -/
structure FlashCnt where
  readBytes : Nat
  writtenBytes : Nat
  readCmds : Nat
  writeCmds : Nat
  powerCycles : Nat
  unsafeShut : Nat
  mediaErrs : Nat
  nandWritten : Nat
  accepted : Nat
  abseils : Nat
  abseilMs : Nat
  retryReads : Nat
  softReads : Nat
  rebuilds : Nat
  lostUnits : Nat
  deriving DecidableEq, Repr

/-- The flash translation layer (10) (log 159). -/
structure Ftl where
  /-- Map: slot of each mapped index of the user pool and of the pinned region (R301, R303). -/
  user : Tbl Nat
  pinned : Tbl Nat
  /-- Programmed slots whose contents are not erased. -/
  media : Tbl SlotPg
  sbs : Tbl Sb
  nextOrder : Nat
  wseq : Nat
  /-- Dirty data, oldest first; writes that wait, oldest first. -/
  dirty : List BufUnit
  waiting : List FWrite
  nextUnit : Nat
  /-- Dirty limit in bytes (R323), write-through. -/
  dirtyLimit : Nat
  writeThrough : Bool
  /-- Unjournaled deltas, journal pages, next page sequence (R314). -/
  deltas : List JEntry
  journal : List JPage
  nextJseq : Nat
  /-- Dirty map segments with the journal sequence of their last change, and which slot each was last written to. -/
  segDirty : Tbl Nat
  segSlot : Tbl Nat
  /-- C of R305. -/
  dynC : Nat
  /-- Extents occupied by bulk copies: page or KV block item (R302). -/
  bulkExt : Tbl FItem
  /-- Bulk copies that wait for a free extent (R328). -/
  extWait : List FItem
  /-- Superblocks queued for garbage collection (R318). -/
  gcQueue : List Nat
  /-- Next free index of the pinned region map. -/
  nextPinned : Nat
  /-- Retired blocks; blocks whose program or erase failed and that wait for their retirement. -/
  retired : List Nat
  failing : List Nat
  /-- Dies (18·channel + die) that are being rebuilt, with the order number of the next superblock at their failure; lost units. -/
  rebuilding : Tbl Nat
  lost : List Nat
  /-- Die and AON time of the block retirements of the last 24 h (R320); the read-retry set that last succeeded, by block (R317). -/
  retireAt : List (Nat × Nat)
  retrySet : Tbl Nat
  /-- Bytes that reclaiming has freed and bulk writes have not yet used, while fewer than 48 superblocks are free (R312). -/
  credit : Nat
  /-- Units have been lost since the last power-on reset (10 R329). -/
  lostSince : Bool
  writeProt : Bool
  wearRaised : Nat
  spareLow : Bool
  poolFull : Bool
  shutdown : Option Shutdown
  abseilArea : List BufUnit
  cnt : FlashCnt
  deriving DecidableEq, Repr

def Ecc.init : Ecc := ⟨[], [], [], [], [], [], []⟩
/-- As shipped (log 209), after the power-on reset that reset is (log 208). -/
def FlashCnt.init : FlashCnt := ⟨0, 0, 0, 0, 1, 0, 0, 0, 0, 0, 0, 0, 0, 0, 0⟩

/-- An empty flash translation layer as shipped; until the first measurement of U the limit is that for U = 0 (10
R305, R323; 17 R513). -/
def Ftl.init : Ftl :=
  { user := [], pinned := [], media := [], sbs := [], nextOrder := 0, wseq := 0, dirty := [], waiting := [], nextUnit := 1,
    dirtyLimit := 0, writeThrough := true, deltas := [], journal := [], nextJseq := 1, segDirty := [], segSlot := [],
    dynC := 12000000000000, bulkExt := [], extWait := [], gcQueue := [], nextPinned := 0, retired := [], failing := [],
    rebuilding := [], lost := [], retireAt := [], retrySet := [], credit := 0, lostSince := false, writeProt := false, wearRaised := 0, spareLow := false, poolFull := false,
    shutdown := none, abseilArea := [], cnt := FlashCnt.init }

end Sys2Proof.Machine
end

