-- ==== Sys2Proof/Machine/PartsHost.lean ====
section
/-! DEFINITION. Records of chapters 01, 02 and 18: clock domains, capability state, the control window, the
mailboxes, the event ring, the command ledger and the cairns. -/
namespace Sys2Proof.Machine

/-- A clock domain instance (01 R31, R40, R41, R46, R47). -/
structure Clock where
  /-- Cycle counter (R40). -/
  counter : U64
  /-- Nominal, rate-table current, and actual frequency in kHz (R47, R31). -/
  nominal : Nat
  current : Nat
  actual : Nat
  powered : Bool
  deriving DecidableEq, Repr

/-- What the capability table is built from (01 R48, R49, R50, R51). Units are physical (log 201). -/
structure Caps where
  generation : U32
  /-- The rows of the generation kept in the ledger (R51). -/
  kept : List Nat
  /-- Physical engine (20 per die) of each logical engine, and retired physical engines. -/
  engMap : List Nat
  engFailed : List Nat
  /-- Physical prep core (64 per die) of each logical prep core, and retired ones. -/
  coreMap : List Nat
  coreFailed : List Nat
  /-- Physical die of each logical die, and lost dies. -/
  dieMap : List Nat
  dieFailed : List Nat
  /-- Trained clock of each HBM stack in kHz, 0 for a failed stack (R26). -/
  hbmKhz : List Nat
  lpdFailed : List Nat
  nandFailed : List Nat
  belayFailed : List Nat
  deriving DecidableEq, Repr

/-- Interface state, `CW_STATE.STATE` (02 R55). -/
inductive IfState where
  | boot | ready | scrub | safe | bivouac | abseil | handover | reset | tripped
  deriving DecidableEq, Repr

/-- Encoding of `CW_STATE.STATE` (02 R55). -/
def IfState.code : IfState → Nat
  | .boot => 0 | .ready => 1 | .scrub => 2 | .safe => 3 | .bivouac => 4 | .abseil => 5 | .handover => 6
  | .reset => 7 | .tripped => 8

/-- A mailbox: indices, counts and flags (02 R62). -/
structure Mbx where
  reqTail : Byte
  reqHead : Byte
  rplTail : Byte
  rplHead : Byte
  outstanding : Nat
  resetting : Bool
  badDb : Bool
  lateCnt : U16
  timeoutCnt : U16
  deriving DecidableEq, Repr

def Mbx.init : Mbx := ⟨0, 0, 0, 0, 0, false, false, 0, 0⟩

/-- An event raised and not yet written to the ring (02 R80, R81). -/
structure Ev where
  code : Nat
  srcType : Nat
  srcIdx : Nat
  seq : Nat
  ctx : Nat
  status : Nat
  payload : Bytes
  deriving DecidableEq, Repr

/-- What leaves the block: a message handed to the ports (log 4). -/
inductive Tx where
  /-- A `NOTIFY` message for a cause bit (02 R83). -/
  | notify (bit : Nat)
  /-- An entry written to the event ring: address and 64 bytes (02 R79, R80). -/
  | ringEntry (addr : Nat) (entry : Bytes)
  /-- A remote write to control-node memory on behalf of a context (02 R73). -/
  | ctlWrite (ctx : Nat) (addr : Nat) (data : Bytes)
  /-- Read data or a write acknowledgement returned on a port (13 R392, R393). -/
  | response (ptag : Nat) (pstatus : Nat) (data : Bytes)
  /-- A retransmission request, an acknowledgement, a retransmission from a sequence number (13 R387). -/
  | nak (port : Nat) (seq : Nat)
  | ack (port : Nat) (seq : Nat)
  | resend (port : Nat) (seq : Nat)
  /-- A flit passed on by a relay out of a port: its route and counter (13 R405). -/
  | forward (port : Nat) (route : Nat) (ctr : Nat)
  /-- An outstanding transfer re-issued on the upstream port, with `CUT` (13 R406). -/
  | reissue (ptag : Nat)
  /-- A remote read of control-node memory on behalf of a context (02 R73). -/
  | ctlRead (ctx : Nat) (addr : Nat) (len : Nat)
  /-- Credits of received packets returned on a virtual channel (13 R396); parameters offered at training: width, credits, hops, exit (13
  R396, R399, R400). -/
  | credits (port : Nat) (vc : Nat) (n : Nat)
  | params (port : Nat) (lanes : Nat) (credits : List Nat) (hops : Nat) (exit : Nat)
  /-- A rope heartbeat on a port (13 R404, R407). -/
  | ropeBeat (port : Nat) (payload : Bytes)
  /-- An SPDM response on a port: response code and payload (15 R445). -/
  | spdm (port : Nat) (code : Nat) (payload : Bytes)
  /-- A TUNE control packet of a group (14 R418, R421, R428). -/
  | tune (group : Nat) (pk : TuneCtl)
  /-- A TUNE data packet to the next member (14 R427). -/
  | tuneData (group : Nat) (pk : TunePacket)
  /-- A completion queue entry written by the device (11 R337). -/
  | cqe (queue : Nat) (addr : Nat) (entry : Bytes)
  /-- A mirrored snapshot, a mirrored sealed block sent to the peer (07 R249). -/
  | mirror (peer : Nat) (sess : Nat) (seq : Nat)
  | mirrorBlk (peer : Nat) (sess : Nat) (blk : Nat)
  /-- Word to an origin that its snapshot is committed here, and to a mirror peer that a session was closed (07 R237, R249). -/
  | mirrorAck (peer : Nat) (sess : Nat) (seq : Nat)
  | mirrorDrop (peer : Nat) (sess : Nat)
  /-- An SMBus alert response byte (16 R491). -/
  | smbus (b : Nat)
  deriving DecidableEq, Repr

/-- What ends a handover in progress (17 R520, R526): the image of the inactive slot takes over, for a request and the pause it reports,
or the standby takes over from a failed processor. -/
inductive Hand where
  | activation (rid : Option Nat) (raise : Bool) (pauseUs : Nat)
  | takeover (old cause : Nat) (selfTest : Bool)
  deriving DecidableEq, Repr

/-- The control window, the mailboxes and the events (02). -/
structure HostIf where
  ifState : IfState
  bootStep : Nat
  /-- Slot that the boot in progress found bad, and why: it runs the other one (17 R514). -/
  bootFell : Option (Nat × Nat)
  /-- The handover in progress while `STATE` shows `HANDOVER` (R56). -/
  hand : Option Hand
  /-- `RST_STAT` (R57, R58): last completed reset, the type of the reset in progress, a warm reset held. -/
  rstLast : Nat
  rstBusy : Option Nat
  /-- A warm reset is on its way or held: `LAST` shows it when `READY` is reached (R57). -/
  rstWarm : Bool
  rstMbx : Nat
  warmHeld : Bool
  evtCause : U32
  evtMask : U32
  ringBase : U64
  ringSize : U32
  prod : U16
  cons : U16
  /-- Raised events not yet written, oldest first (R80). -/
  held : List Ev
  /-- Next sequence number of each source, keyed `256 * src_type + src_index` (R81). -/
  seqs : Tbl Nat
  mbx : Tbl Mbx
  /-- Mailbox whose turn of acceptance is next (R65). -/
  turn : Nat
  /-- The mailbox aperture, unlisted bytes 0 (R61). -/
  aperture : Memory
  /-- Messages that wait to be sent, and the record of those sent, oldest first (log 4). -/
  out : List Tx
  gone : List Tx
  /-- The value that the last register read returned. -/
  lastRead : U64
  deriving DecidableEq, Repr

/-- An accepted request: its ledger entry (02 R65, R68; 18 R540). `rid` is its internal identity (R78). -/
structure Req where
  rid : Nat
  mbx : Nat
  /-- `ctx` of the header, carried back in the reply (R69). -/
  hctx : Nat
  svc : Nat
  op : Nat
  tag : Nat
  flags : Nat
  length : Nat
  timeoutUs : Nat
  cairnId : Nat
  payload : Bytes
  /-- MGMT cycle of acceptance (R75). -/
  accepted : Nat
  /-- Status of the settling `CANCELLED` or `TIMEOUT` reply (R76). -/
  settled : Option Nat
  /-- The settling reply waits for the accesses already issued (R77). -/
  owed : Bool
  /-- References not revoked (R77). -/
  refsOpen : Bool
  /-- Completion handed over and not yet written: status and payload (R75). -/
  done : Option (Nat × Bytes)
  /-- The service has taken the request up and continues it by later events. -/
  running : Bool
  /-- Work was redone by a replay (18 R542). -/
  redone : Bool
  /-- Units done and commit points passed (18 R541, R548). -/
  units : Nat
  commits : Nat
  deriving DecidableEq, Repr

/-- A cairn (18 R547, R548). -/
structure Cairn where
  id : Nat
  ctx : Nat
  svc : Nat
  op : Nat
  tag : Nat
  cstate : Nat
  outcome : Nat
  late : Bool
  replayed : Bool
  stopped : Bool
  cause : Nat
  replays : Nat
  commits : Nat
  units : Nat
  total : Nat
  acceptSeq : Nat
  lateStatus : Nat
  body : Bytes
  deriving DecidableEq, Repr

/-- The command ledger and the cairns (18 R540, R547). -/
structure Ledger where
  /-- Next ledger sequence number of acceptance (R548 `accept_seq`). -/
  nextSeq : Nat
  /-- Outstanding requests, and settled ones whose service runs on, oldest first. -/
  reqs : List Req
  cairns : List Cairn
  deriving DecidableEq, Repr

/-- The counts, sizes and logical numbering of the capability table, as one list of numbers: what R51 compares
(01 R48, R51). `ropeN` and `ropeUp` are the ring size and the modules reachable. -/
def Caps.key (c : Caps) (ropeN ropeUp : Nat) : List Nat :=
  [c.engMap.length, c.coreMap.length, c.dieMap.length, ropeN, ropeUp]
    ++ c.engMap ++ c.coreMap ++ c.dieMap ++ c.hbmKhz
    ++ [c.engFailed.length] ++ c.engFailed ++ [c.lpdFailed.length] ++ c.lpdFailed
    ++ [c.nandFailed.length] ++ c.nandFailed ++ [c.belayFailed.length] ++ c.belayFailed

/-- Physical engines that are active on a healthy device: 0 to 17 of the 20 of each die (log 30). -/
def healthyEngines : List Nat := (List.range 72).map fun i => 20 * (i / 18) + i % 18

/-- The capability state of a healthy device, generation 1 (01 R48, R51). -/
def Caps.healthy : Caps :=
  let c : Caps := ⟨1, [], healthyEngines, [], List.range 256, [], [0, 1, 2, 3], [], List.replicate 8 1200000, [], [], []⟩
  { c with kept := c.key 1 1 }

/-- The clock domain identifiers of R46, rising. -/
def domainIds : List Nat :=
  List.range 9 ++ rangeFrom 0x10 9 ++ rangeFrom 0x20 32 ++ rangeFrom 0x40 5 ++ [0x48, 0x49]

/-- Entries per direction of the dual-clock FIFO between two domains, by the table of direct crossings; the MGMT–AON handshake has none
(01 R39). -/
def crossingDepth (a b : Nat) : Option Nat :=
  let link := fun d => decide (0x40 ≤ d ∧ d ≤ 0x44)
  let one := fun (x y : Nat) =>
    if x < 4 ∧ y = x + 4 then some 16
    else if x < 8 ∧ y = 8 then some 32
    else if x = 8 ∧ 0x10 ≤ y ∧ y ≤ 0x18 then some 64
    else if x = 8 ∧ 0x20 ≤ y ∧ y < 0x40 then some 32
    else if x = 8 ∧ link y = true then some 64
    else if x = 8 ∧ y = 0x48 then some 16
    else if link x = true ∧ y = 0x49 then some 8
    else none
  (one a b).or (one b a)

/-- FIFOs of a crossing: one per LPDDR5X controller, and one per virtual channel of a port towards FAB (01 R39). -/
def crossingFifos (a b : Nat) : Nat :=
  if a = 0x18 ∨ b = 0x18 then 16 else if (a = 8 ∧ 0x40 ≤ b ∧ b ≤ 0x44) ∨ (b = 8 ∧ 0x40 ≤ a ∧ a ≤ 0x44) then 8 else 1

/-- Nominal frequency in kHz by identifier (01 Clock domains, R46). -/
def nominalKhz (d : Nat) : Nat :=
  if d < 4 then 1700000 else if d < 8 then 2400000 else if d = 8 then 2000000
  else if d < 0x18 then 1200000 else if d = 0x18 then 1333000 else if d < 0x40 then 1800000
  else if d < 0x48 then 1000000 else if d = 0x48 then 1000000 else 100000

/-- The clocks after a power-on reset: counters 0, every domain powered (R40; 16 R473). -/
def Clock.table : Tbl Clock := domainIds.map fun d => (d, ⟨0, nominalKhz d, nominalKhz d, nominalKhz d, true⟩)

/-- The control window and the mailboxes after a power-on reset (02 R55, R57, R79). -/
def HostIf.init : HostIf :=
  ⟨.boot, 1, none, none, 0, none, false, 0, false, 0, 0, 0, 0, 0, 0, [], [], (List.range 64).map fun n => (n, Mbx.init), 0, [], [], [], 0⟩

end Sys2Proof.Machine
end

