-- ==== Sys2Proof/Machine/PartsLink.lean ====
section
/-! DEFINITION. Records of chapters 13 and 14: ports, keys, remote requests, the rope; reduction groups, buckets,
adapters and training steps. -/
namespace Sys2Proof.Machine

/-- Keys of a traffic class at an end of a link: phase in force, next invocation counter, both phases held by the
receiver until the first flit of the new phase (13 R389). -/
structure TcKey where
  phase : Bool
  ctr : Nat
  both : Bool
  deriving DecidableEq, Repr

/-- A port: 0 H, 1 to 4 P0 to P3 (13 R387 to R401, R410). -/
structure Port where
  /-- `LINK_STAT.TRAIN` (R398). -/
  train : Nat
  /-- 0 none, 1 root, 2 leaf (02 R55). -/
  role : Nat
  lanes : Nat
  lowRate : Bool
  /-- Serial of the partner; spaces for the control node or none. -/
  partner : Bytes
  /-- Credits advertised by the partner, and credits held, by virtual channel. -/
  advertised : List Nat
  pool : List Nat
  /-- Credits in use, oldest first: virtual channel, context that the packet served, credits (06 R213). -/
  held : List (Nat × Nat × Nat)
  /-- Replay buffer: sequence numbers of the data flits sent and not acknowledged, oldest first. -/
  replay : List Nat
  txSeq : Nat
  /-- Next sequence number expected, data flits received since the last acknowledgement, NAK outstanding. -/
  rxSeq : Nat
  unacked : Nat
  nakOut : Bool
  /-- Times in a row that the same sequence number was lost. -/
  lost : Nat
  retrainCnt : Nat
  fecFixed : Nat
  fecLost : Nat
  replays : Nat
  integrity : Nat
  /-- Key of traffic class 3 of the peer link. -/
  tc3 : Option TcKey
  /-- Hops, exit and interface state of the neighbour's last heartbeat; `none` when it is lost or unheard. -/
  beat : Option (Nat × Nat × Nat)
  /-- Virtual channel and context served last by the round-robins (R397). -/
  rrVc : Nat
  rrCtx : Nat
  deriving DecidableEq, Repr

def Port.init (n : Nat) : Port :=
  ⟨1, 0, 0, false, List.replicate 16 32, List.replicate 8 0, List.replicate 8 0, [], [], 0, n, 0, false, 0, 0, 0, 0, 0, 0,
    none, none, 0, 0⟩

/-- Where a device-originated transfer stands: it waits for one of the 192 places of its context, it is outstanding, or it was cut at
its context's switch-out and waits for the switch-in (06 R213). -/
inductive RemStage where
  | waits | out | cut
  deriving DecidableEq, Repr

/-- What a device-originated request to control-node memory is for (13 R391, R395; 02 R73). -/
structure Remote where
  ptag : Nat
  ctx : Nat
  /-- The request of a service that waits for it, if any. -/
  rid : Option Nat
  write : Bool
  addr : Nat
  len : Nat
  /-- Bytes of read data received. -/
  got : Nat
  stage : RemStage
  /-- Data of a write that is not on its way. -/
  data : Bytes
  deriving DecidableEq, Repr

/-- The ports with their rope (13). -/
structure Ports where
  port : Tbl Port
  /-- Keys of traffic class 2, between the control node and the module (R389). -/
  tc2 : Option TcKey
  /-- Last counter accepted, keyed 16·origin + 2·class + phase. -/
  ctrSeen : Tbl Nat
  remote : List Remote
  nextPtag : Nat
  /-- Ring of `ADMIN.ROPE_SET`: position and the serials in ring order; no serials without a rope. -/
  pos : Nat
  serials : List Bytes
  hops : Nat
  exit : Nat
  upstream : Option Nat
  routeDrops : Nat
  /-- Ring positions of neighbours lost under R407 and not heard since. -/
  lostPeers : List Nat
  /-- Flits that wait for the end of a scrub before they are passed on (R409). -/
  heldFwd : List Tx
  deriving DecidableEq, Repr

/-- A directory entry of a bucket (14 R419), and the step that the factor belongs to. -/
structure DirEnt where
  step : Nat
  atag : Nat
  tensor : Nat
  phaseQ : Bool
  first : Nat
  nblk : Nat
  deriving DecidableEq, Repr

/-- A bucket slot in use (14 R419, R421, R426). -/
structure Bucket where
  seq : Nat
  closed : Bool
  dir : List DirEnt
  blocks : Nat
  digest : Nat
  growth : Nat
  grew : Nat
  /-- The next member's grant has arrived; the member's own first chunk has been sent. -/
  granted : Bool
  sent : Bool
  /-- The member's own factor values, FP32, by element. -/
  own : List U32
  /-- Final wire blocks, by block. -/
  final : Tbl WireBlock
  /-- Digest of the previous member, compared at the member's own close. -/
  peerDigest : Option Nat
  /-- Packets received before the member's own close, oldest first (R426). -/
  early : List TunePacket
  deriving DecidableEq, Repr

/-- The record of a bucket (14 R433). -/
structure BucketRec where
  seq : Nat
  state : Nat
  entries : Nat
  blocks : Nat
  growth : Nat
  grew : Nat
  deriving DecidableEq, Repr

/-- A reduction group (14 R416, R418, R433). -/
structure Group where
  id : Nat
  mask : Nat
  owner : Nat
  waitMs : Nat
  k : Nat
  index : Nat
  h : Nat
  ready : Bool
  /-- Mask of the last HELLO received. -/
  hello : Option Nat
  nextSeq : Nat
  broken : Nat
  stepSeq : Nat
  slots : List Bucket
  /-- Sequence numbers whose grant, and whose ABORT, arrived before the bucket was opened; packets that came for them. -/
  grants : List Nat
  aborts : List Nat
  ahead : List TunePacket
  recs : List BucketRec
  deriving DecidableEq, Repr

/-- A tensor of an adapter (14 R413, R431). -/
structure Tensor where
  wAddr : Nat
  m : Nat
  n : Nat
  /-- W is held in FP32, else in BF16. -/
  fp32 : Bool
  q0 : List U32
  e : List U32
  deriving DecidableEq, Repr

/-- An adapter (14 R431). -/
structure Adapter where
  ctx : Nat
  group : Nat
  rank : Nat
  atag : Nat
  tensors : List Tensor
  deriving DecidableEq, Repr

/-- Where a tensor of a step stands (14 R415, R420): a factor still to come, its P reduced, applied, skipped as NONFINITE, not
applied because a bucket broke. -/
inductive TStage where
  | wait | gotP | applied | skipped | broke
  deriving DecidableEq, Repr

/-- A tensor of a step: index, gradient format and address, M, the reduced P, the local Q, stage. -/
structure StepTensor where
  idx : Nat
  fmt : Nat
  gAddr : Nat
  mval : List U32
  pr : List U32
  nonFinite : Bool
  stage : TStage
  deriving DecidableEq, Repr

/-- A training step in progress (14 R420, R432). -/
structure TStep where
  rid : Nat
  adapter : Nat
  group : Nat
  lr : U32
  stepSeq : Nat
  tensors : List StepTensor
  applied : Nat
  skipped : Nat
  buckets : List Nat
  growth : Nat
  grew : Nat
  /-- Status that the reply carries so far. -/
  status : Nat
  /-- Placement: 0 placing P factors, 1 waiting for their buckets, 2 placing Q factors, 3 done; the next tensor to place. -/
  phase : Nat
  next : Nat
  /-- The reply has been handed over, or the request has ended. -/
  replied : Bool
  /-- Cause of the first bucket of it that broke (R428). -/
  brk : Option Nat
  deriving DecidableEq, Repr

/-- TUNE (14). -/
structure Tune where
  groups : Tbl Group
  adapters : Tbl Adapter
  nextAdapter : Nat
  steps : List TStep
  /-- Masks of `HELLO`s for groups that are not set yet and name this position. -/
  hellos : Tbl Nat
  deriving DecidableEq, Repr

/-- The ports after a power-on reset: waiting for light, no rope (13 R398, R402). -/
def Ports.init : Ports :=
  ⟨(List.range 5).map fun n => (n, Port.init 0), none, [], [], 0, 0, [], 0xFF, 0xFF, none, 0, [], []⟩
def Tune.init : Tune := ⟨[], [], 1, [], []⟩

end Sys2Proof.Machine
end

