-- ==== Sys2Proof/Machine/PartsPower.lean ====
section
/-! DEFINITION. Records of chapters 16 and 19: feeds, bank, power states, sensors, SMBus; monitors and injections. -/
namespace Sys2Proof.Machine

/-- `CW_STATE.PWR` (16 R473); `off` is the state without power, in which the field does not exist. -/
inductive PwrState where
  | active | capped | idle | bivouac | abseil | tripped | off
  deriving DecidableEq, Repr

def PwrState.code : PwrState → Nat
  | .active => 0 | .capped => 1 | .idle => 2 | .bivouac => 3 | .abseil => 4 | .tripped => 5 | .off => 6

/-- A feed with its input stage (16 R464 to R467). -/
structure Feed where
  good : Bool
  mv : Nat
  ma : Nat
  /-- The eFuse of the stage is open. -/
  openFuse : Bool
  /-- AON cycles of the last current trips; after the third within 60 s the stage stays open until power-on. -/
  trips : List Nat
  latched : Bool
  deriving DecidableEq, Repr

/-- What the SMBus shows of the telemetry (16 R492), frozen during a scrub. -/
structure Telemetry where
  feedAV : Nat
  feedBV : Nat
  feedAI : Nat
  feedBI : Nat
  power : Nat
  cap : Nat
  tJmax : Int
  tInlet : Int
  tOutlet : Int
  tNand : Int
  tBank : Int
  bankV : Nat
  bankU : Nat
  throttle : Nat
  deriving DecidableEq, Repr

/-- Power, thermal limits and sideband (16). -/
structure Power where
  feedA : Feed
  feedB : Feed
  /-- Bank voltage in mV, usable energy U in 0.1 J (R469, R470). -/
  bankMv : Nat
  bankU : Nat
  /-- The 3 ohm discharge load is closed (R472). -/
  discharge : Bool
  pwr : PwrState
  /-- Cap in W, 0 for none (R478). -/
  cap : Nat
  /-- Firmware setting in kHz of each domain that changes frequency (R479); unlisted: its nominal. -/
  setKhz : Tbl Nat
  /-- Crampon limit in kHz of a throttled unit's domains (R482), by domain identifier. -/
  limKhz : Tbl Nat
  /-- Throttled units: 0 to 3 dies, 4 hub. -/
  throttled : List Nat
  /-- Last sample of each sensor, by monitor instance 78 to 95; unlisted 0. -/
  sensors : Tbl Int
  /-- Mean power over the last whole second, mW. -/
  powerMw : Nat
  emergency : Bool
  coolant : Bool
  /-- `SB_ALERT_STAT`, `SB_ALERT_MASK` (R492), level of `MOD_ALERT_N` (true: asserted). -/
  alertStat : U16
  alertMask : U16
  alert : Bool
  frozen : Option Telemetry
  /-- `MOD_RESET_N` is held low after its reset has flushed (R489). -/
  resetHeld : Bool
  /-- A wake request arrived during a Bivouac entry, or a doorbell in Bivouac, and is not applied yet (R474, R477). -/
  wakeLatched : Bool
  /-- A junction trip has acted and is not released (R483). -/
  trip : Bool
  /-- SMBus address selected by the pins (R491). -/
  addrSel : Nat
  deriving DecidableEq, Repr

/-- Accumulators of a monitor window (19 R555, R557). -/
structure MonAcc where
  count : Nat
  sum : Int
  min : Int
  max : Int
  bins : Tbl Nat
  usBins : Tbl Nat
  deriving DecidableEq, Repr

def MonAcc.empty : MonAcc := ⟨0, 0, 0, 0, [], []⟩

/-- A monitor instance (19 R558). -/
structure Mon where
  en : Bool
  mode : Nat
  winLog2 : Nat
  shift : Nat
  linBase : Int
  linWidth : Nat
  seq : U32
  partial_ : Bool
  winStart : Nat
  winEnd : Nat
  closed : MonAcc
  /-- The open window began under R554; its index; its accumulators. -/
  openPartial : Bool
  openIdx : Nat
  acc : MonAcc
  deriving DecidableEq, Repr

/-- An armed injection (19 R562). -/
structure Injection where
  handle : Nat
  id : Nat
  target : Nat
  param : Nat
  value : Nat
  data : Bytes
  permanent : Bool
  deriving DecidableEq, Repr

/-- Monitors and injections (19). -/
structure Mons where
  /-- Instances 0 to 95; an unlisted one is as after reset. -/
  mon : Tbl Mon
  injEnabled : Bool
  armed : List Injection
  nextHandle : Nat
  /-- Sensor overrides, by instance: the value, and the AON cycle at which it ends (R566). -/
  override : Tbl (Int × Nat)
  deriving DecidableEq, Repr

/-- A good feed at its nominal voltage (16 R464). -/
def Feed.init : Feed := ⟨true, 40000, 0, false, [], false⟩

/-- Power after a power-on reset with both feeds good (16 R469, R473, R478, R492; log 26). -/
def Power.init : Power :=
  ⟨Feed.init, Feed.init, 0, 0, false, .active, 0, [], [], [], [], 0, false, false, 0, 0x00FF, false, none, false, false, false, 0⟩

def Mons.init : Mons := ⟨[], false, [], 1, []⟩

end Sys2Proof.Machine
end

