-- ==== Sys2Proof/Machine/PartsStore.lean ====
section
/-! DEFINITION. Records of chapters 11 and 12: queue pairs, namespaces, features; predicate programs, scan units and
search indexes. -/
namespace Sys2Proof.Machine

/-- A reference descriptor (02 R72). -/
structure Ref where
  addr : Nat
  len : Nat
  space : Nat
  dir : Nat
  deriving DecidableEq, Repr

/-- A command fetched and not completed (11 R337). -/
structure Cmd where
  /-- Number of the command within its queue pair. -/
  seq : Nat
  sqe : Bytes
  /-- SQ head after the command was fetched, and MGMT cycle of the fetch. -/
  sqHead : Nat
  fetched : Nat
  /-- Its namespace was attached to the context at the fetch (R348, R349). -/
  nsOk : Bool
  /-- The command waits for room in the write buffer, or in write-through for its commit (10 R307, R323). -/
  waiting : Bool
  /-- NVMe status and completion Dwords 0 and 1, once executed and not yet posted. -/
  result : Option (Nat × Nat × Nat)
  deriving DecidableEq, Repr

/-- An I/O queue pair (11 R335 to R338, R357) (log 163). -/
structure Qp where
  ctx : Nat
  depth : Nat
  dataSpace : Nat
  ien : Bool
  dbVa : Nat
  sq : Ref
  cq : Ref
  sqHead : Nat
  sqTail : Nat
  cqHead : Nat
  cqTail : Nat
  phase : Bool
  /-- Doorbell word last observed (R336). -/
  dbSeen : U64
  /-- `QP_DELETE` or another deletion in progress: the request that it replies to. -/
  deleting : Option (Option Nat)
  fetched : List Cmd
  nextCmd : Nat
  /-- Entries posted since the last notification, and MGMT cycle of the first of them (R357). -/
  unnotified : Nat
  firstAt : Nat
  deriving DecidableEq, Repr

/-- A namespace (11 R347 to R349). -/
structure Ns where
  nsze : Nat
  /-- LBA format: 0 for 4 KiB, 1 for 16 KiB blocks. -/
  lbaf : Nat
  nmic : Bool
  /-- Reserved extents, as ranges (start, count), in order (10 R302). -/
  extents : List (Nat × Nat)
  nguid : Nat
  attached : List Nat
  /-- Being deleted; the request that asked for it. -/
  deleting : Option Nat
  deriving DecidableEq, Repr

/-- An entry of the error information log (11 R352). -/
structure ErrEntry where
  count : Nat
  sqid : Nat
  cid : Nat
  status : Nat
  lba : Nat
  nsid : Nat
  deriving DecidableEq, Repr

/-- Features of a context (11 R353, R354). -/
structure Feat where
  thr : Nat
  time : Nat
  kato : Nat
  /-- MGMT cycle at which the keep-alive timer last restarted. -/
  katoFrom : Nat
  errs : List ErrEntry
  errCount : Nat
  deriving DecidableEq, Repr

def Feat.init : Feat := ⟨0, 0, 0, 0, [], 0⟩

/-- The STORE service (11). -/
structure Store where
  /-- Queue pairs, keyed 1024·context + qid. -/
  qps : Tbl Qp
  ns : Tbl Ns
  nextNguid : Nat
  feat : Tbl Feat
  /-- Sanitize in progress: SANACT; the last one ended; progress in 1/65,536 steps (R355). -/
  sanitize : Option Nat
  sanLast : Option Nat
  deriving DecidableEq, Repr

/-- A predicate program (12 R361). -/
structure Prog where
  ctx : Nat
  code : Bytes
  deriving DecidableEq, Repr

/-- A graph node: key and code (12 R368). -/
structure GNode where
  key : Nat
  code : Bytes
  deriving DecidableEq, Repr

/-- A published graph: nodes in node order, neighbours of each, entry nodes (12 R368, R376). -/
structure Graph where
  nodes : List GNode
  adj : List (List Nat)
  entry : List Nat
  deriving DecidableEq, Repr

/-- A side-list entry: an item, or the delete epoch of a graph node (12 R371). -/
structure SideEnt where
  key : Nat
  code : Bytes
  ins : Nat
  del : Option Nat
  /-- The entry marks the graph node of its key as deleted at `ins`. -/
  tomb : Bool
  deriving DecidableEq, Repr

/-- An insert or delete applied whose epoch has not advanced (12 R369). -/
structure Pend where
  rid : Nat
  epoch : Nat
  done : Nat
  other : Nat
  /-- Status that the request ends with at the advance. -/
  st : Nat
  /-- Its entries are accepted into the write buffer. -/
  acc : Bool
  deriving DecidableEq, Repr

/-- A merge in progress (12 R376): its epoch M and the requests that wait for it. -/
structure Merge where
  epoch : Nat
  waiters : List Nat
  deriving DecidableEq, Repr

/-- A search index (12 R367 to R377). -/
structure Index where
  ctx : Nat
  codeBits : Nat
  degree : Nat
  pfAhead : Nat
  cacheMib : Nat
  maxNodes : Nat
  epoch : Nat
  mergeEpoch : Nat
  graph : Graph
  side : List SideEnt
  /-- Requests applied and not advanced, in epoch order: the next epoch to assign follows them (R369). -/
  pend : List Pend
  merge : Option Merge
  /-- An array or side-list page that was accepted is gone: a flush cut short or a sanitize. -/
  gone : Bool
  deriving DecidableEq, Repr

/-- SCAN and SEARCH (12). -/
structure Search where
  progs : Tbl Prog
  nextProg : Nat
  /-- AON cycles of the disagreements of each scan unit, and disabled units (R364). -/
  disagree : Tbl (List Nat)
  scanOff : List Nat
  /-- Result queue of each channel controller, 64 KiB: output with the program of its scan (R359). -/
  resultQ : Tbl (List (Nat × Bytes))
  idx : Tbl Index
  nextIdx : Nat
  deriving DecidableEq, Repr

def Store.init : Store := ⟨[], [], 1, [], none, none⟩
def Search.init : Search := ⟨[], 1, [], [], [], [], 1⟩

end Sys2Proof.Machine
end

