-- ==== Sys2Proof/Machine/PartsSys.lean ====
section
/-! DEFINITION. Records of chapters 15 and 17: security state, keys, SPDM, the scrub; the firmware array, images
and components. -/
namespace Sys2Proof.Machine

/-- `CW_STATE.SEC` (15 R436). -/
inductive SecState where
  | blank | provisioned | admitted | quarantined
  deriving DecidableEq, Repr

def SecState.code : SecState → Nat
  | .blank => 0 | .provisioned => 1 | .admitted => 2 | .quarantined => 3

/-- `CW_STATE.DBG` (15 R437). -/
inductive DbgState where
  | sealed | unlocked | open
  deriving DecidableEq, Repr

def DbgState.code : DbgState → Nat
  | .sealed => 0 | .unlocked => 1 | .open => 2

/-- A flash key domain (15 R450 to R453) (log 156). -/
structure KeyDom where
  /-- Active generations, newest last, and the write generation. -/
  gens : List Nat
  wgen : Nat
  /-- Keys unwrapped into the channel controllers; false: wrapped only. -/
  loaded : Bool
  /-- Every key of the domain was destroyed. -/
  destroyed : Bool
  /-- Mapped units under the old generation at the last walker pass. -/
  oldUnits : Nat
  deriving DecidableEq, Repr

/-- A new domain: generation 0 with a fresh key (11 R347; 15 R450). -/
def KeyDom.fresh : KeyDom := ⟨[0], 0, true, false, 0⟩

/-- How far the SPDM exchange on a port has come (15 R445, R448). -/
structure Spdm where
  version : Bool
  caps : Bool
  algs : Bool
  /-- Session being set up by KEY_EXCHANGE, and the session in force. -/
  opening : Option Nat
  session : Option Nat
  /-- Consecutive verification failures (R449). -/
  failures : Nat
  deriving DecidableEq, Repr

def Spdm.init : Spdm := ⟨false, false, false, none, none, 0⟩

/-- A running scrub (15 R457): MGMT cycle S, the interface state it returns to, the contexts covered. -/
structure Scrub where
  start : Nat
  prev : IfState
  ctxs : List Nat
  deriving DecidableEq, Repr

/-- An access from port H held during a scrub (15 R459; 02 R56). -/
structure HeldAccess where
  pk : Packet
  data : Bytes
  write : Bool
  /-- A completion of a request that the module made. -/
  reply : Bool
  deriving DecidableEq, Repr

/-- Security (15). -/
structure Sec where
  sec : SecState
  dbg : DbgState
  /-- Quarantine cause mask: bit 0 ATTEST, bit 1 TAMPER, bit 2 DEBUG (R439). -/
  causes : Nat
  /-- A cause set during a scrub: Quarantined is entered after it (R459). -/
  quarantineNext : Bool
  /-- Tamper latch of the AON controller with its source (R442). -/
  latch : Option Nat
  scope : Nat
  /-- Next identity leaf; signatures since power-on; AON cycles of those of the last 24 h (R444). -/
  nextLeaf : Nat
  sigPower : Nat
  sigDay : List Nat
  /-- `SEC_LEAVES_LOW` raised below 131,072 and below 16,384. -/
  low1 : Bool
  low2 : Bool
  spdm : Tbl Spdm
  /-- Debug nonce in force (R456). -/
  nonce : Option Bytes
  /-- Flash key domains, keyed 2^32·kind + NSID or context. -/
  doms : Tbl KeyDom
  scrub : Option Scrub
  /-- Contexts that wait for the next scrub. -/
  scrubNext : List Nat
  /-- A scrub is due: a context has reached its scrub step, or Quarantined was entered (R457). -/
  scrubDue : Bool
  /-- A debug unlock that waits for its scrub: its request and scope (R456). -/
  unlock : Option (Nat × Nat)
  scrubs : Nat
  /-- Accesses from port H held during the scrub, oldest first. -/
  heldPortH : List HeldAccess
  /-- Part of the security of the module that never changes: its serial (02 R85). -/
  serial : Bytes
  deriving DecidableEq, Repr

/-- An operation of the firmware array in progress or suspended (17 R500, R502). -/
structure FaOp where
  /-- 1 program, 2 sector erase, 3 bank erase. -/
  op : Nat
  bank : Nat
  /-- Word index within the bank of a program; sector of a sector erase. -/
  at_ : Nat
  data : U64
  progress : Nat
  deriving DecidableEq, Repr

/-- The firmware array (17 R498 to R508). -/
structure FaArray where
  /-- Data space, 64 MiB, unlisted bytes 0xFF. -/
  mem : Memory
  /-- Programs since the last erase of each word (1: ECC slot A in force, 2: slot B), by word of the array (R503). -/
  words : Tbl Nat
  /-- Erase-open markers: sectors 0 to 1,023 of the array (R509). -/
  eopen : List Nat
  addr : U32
  data : U64
  /-- Unlock sequence 0 to 3, and the command taken (R501). -/
  seq : Nat
  cmd : Nat
  busy : Option FaOp
  susp : Option FaOp
  done : Bool
  conflict : Bool
  refused : Bool
  relock : Bool
  ue : Bool
  vfail : Bool
  tries : Nat
  step : Int
  count : Nat
  /-- AON cycles of the reads that needed retry in the last 24 h, by sector of the array (R508). -/
  retries : Tbl (List Nat)
  /-- Die revision and serial number that read-ID returns. -/
  rev : Nat
  dieSerial : Nat
  deriving DecidableEq, Repr

/-- A slot of Belay images (17 R510, R518). -/
structure ImgSlot where
  /-- 0 empty, 1 staging, 2 valid, 3 invalid. -/
  state : Nat
  svn : Nat
  ifver : Nat
  belayVer : Nat
  length : Nat
  /-- SHAKE256 digest over the image and the slot number, 48 bytes (R516); none for an image that no `STAGE` wrote (log 25). -/
  digest : Option Nat
  deriving DecidableEq, Repr

/-- A `STAGE` in progress (17 R519): its request, the slot, what the header says, the image, whether the slot is erased, the sectors
programmed. -/
structure Staging where
  rid : Nat
  slot : Nat
  hdr : ImgSlot
  img : Bytes
  erased : Bool
  sectors : Nat
  deriving DecidableEq, Repr

/-- An activation before its quiet point (17 R520, R521): its request, if unanswered; RAISE_SVN; once step 2 is done, the pause in µs that
its reply will give. -/
structure Activation where
  rid : Option Nat
  raise : Bool
  ready : Option Nat
  deriving DecidableEq, Repr

/-- Firmware (17). -/
structure Firmware where
  fa : FaArray
  slotA : ImgSlot
  slotB : ImgSlot
  /-- Slot named by the boot selector, and slot of the running image. -/
  bootSel : Nat
  running : Nat
  ifver : Nat
  belayVer : Nat
  basecampVer : Nat
  fuseSvn : Nat
  /-- Active Belay processor; standby ready; AON cycles of the failures of each processor in 24 h (R526). -/
  belay : Nat
  standbyOk : Bool
  bpFails : Tbl (List Nat)
  takeovers : Nat
  restarts : Nat
  /-- AON cycles of the restarts of each component in the last 60 s, and components held stopped (R525). -/
  compTimes : Tbl (List Nat)
  compDown : List Nat
  /-- `STAGE` in progress (R519); an activation before its quiet point (R520, R521). -/
  staging : Option Staging
  pending : Option Activation
  /-- Current sector (bank 0 or 1) of each record pair, the words used in it, and the last sequence number of the kind (R510); pairs
  whose other sector waits for its erase. -/
  recCur : Tbl Nat
  recPos : Tbl Nat
  recSeq : Tbl Nat
  recErase : List Nat
  /-- Retired sectors of the array (R502). -/
  sectorsOut : List Nat
  deriving DecidableEq, Repr

/-- Security of a module as provisioned, after a power-on reset (15 R438, R439; log 24). -/
def Sec.init : Sec :=
  ⟨.provisioned, .sealed, 0, false, none, 0, 0, 0, [], false, false, [], none, [], none, [], false, none, 0, [], List.replicate 16 48⟩

/-- The firmware array as shipped: erased outside what the model keeps elsewhere (17 R498, R500). -/
def FaArray.init : FaArray :=
  ⟨[], [], [], 0, 0, 0, 0, none, none, false, false, false, false, false, false, 0, 0, 0, [], 0, 0⟩

def ImgSlot.empty : ImgSlot := ⟨0, 0, 0, 0, 0, some 0⟩

/-- The factory image in slot A, slot B empty (17 R514); versions of log 25. -/
def Firmware.init : Firmware :=
  ⟨FaArray.init, ⟨2, 0, 0x0400, 0x01000000, 2724, none⟩, ImgSlot.empty, 0, 0, 0x0400, 0x01000000, 0x01000000, 0, 0, false,
    [], 0, 0, [], [], none, none, [], [], [], [], []⟩

end Sys2Proof.Machine
end

