-- ==== Sys2Proof/Machine/State.lean ====
section
/-! DEFINITION. The state of the block: everything the spec gives the module, and the queue of waiting commands. -/
namespace Sys2Proof.Machine

/-- Reasons for a fault. The spec gives every command an effect, and a block has no trap: no meaning faults, so there
is no reason to list. -/
inductive Fault where
  deriving DecidableEq, Repr

/-- Reasons for a refusal. -/
inductive Refusal where
  /-- A command with no meaning yet, by its mnemonic. Raised by an arm of `exec` alone, never by a meaning. Safe: the
  machine stops where the hardware goes on. -/
  | notModelled (mnemonic : String)
  deriving DecidableEq, Repr

/-- The state. Each field is a record of one chapter; INVENTORY.md lists every register under '## State'. -/
structure State where
  /-- The model's own: commands that wait, first in, first out (log 1). -/
  pending : List Instr
  /-- The model's own: how many free values have been drawn (log 2). -/
  freeCtr : Nat
  /-- Clock domains by the identifiers of R46 (01). -/
  clocks : Tbl Clock
  caps : Caps
  host : HostIf
  ledger : Ledger
  eng : Engines
  task : Tasklets
  ctxs : Contexts
  agents : Agents
  mem : Tiers
  ecc : Ecc
  ftl : Ftl
  store : Store
  search : Search
  ports : Ports
  tune : Tune
  sec : Sec
  pwr : Power
  fw : Firmware
  mon : Mons
  deriving DecidableEq, Repr

/-- The module right after a power-on reset of a device as shipped, before boot step 1 (02 R57; 17 R513, R514). -/
def State.reset : State :=
  { pending := [], freeCtr := 0, clocks := Clock.table, caps := Caps.healthy, host := HostIf.init, ledger := ⟨1, [], []⟩,
    eng := Engines.init, task := Tasklets.init, ctxs := Contexts.init, agents := Agents.init, mem := Tiers.init,
    ecc := Ecc.init, ftl := Ftl.init, store := Store.init, search := Search.init, ports := Ports.init, tune := Tune.init,
    sec := Sec.init, pwr := Power.init, fw := Firmware.init, mon := Mons.init }

end Sys2Proof.Machine
end

