-- ==== Sys2Proof/Machine/Ops.lean ====
section
/-! DEFINITION. Operations that the meanings share: clocks, the state word, events, notifications, monitor samples,
the command ledger, settling and replying, the capability generation. -/
namespace Sys2Proof.Machine

/-- What a meaning answers. -/
abbrev Res := Host.Outcome State Fault Refusal

/-! ### Free values and clocks -/

/-- The state after one more free value has been drawn (log 2). -/
def bumpFree (s : State) : State := { s with freeCtr := s.freeCtr + 1 }

/-- `n` bytes that nothing constrains, and the state after they have been drawn (log 2). -/
def freeBytes (n : Nat) (s : State) : Bytes := (List.range n).map fun i => Config.freeBits 8 (s.freeCtr + i)
def bumpFreeBy (n : Nat) (s : State) : State := { s with freeCtr := s.freeCtr + n }

/-- The cycle counter of a domain (01 R40). -/
def clockNow (d : Nat) (s : State) : Nat :=
  match tget s.clocks d with
  | some c => c.counter.toNat
  | none => 0

/-- A domain's counter moved on to a cycle that an event names; a counter never decreases (01 R40, R42). -/
def clockTo (d t : Nat) (s : State) : State :=
  { s with clocks := tmod s.clocks d (fun c => { c with counter := BitVec.ofNat 64 (max c.counter.toNat t) }) }

def domMgmt : Nat := 0x48
def domFab : Nat := 8
def domAon : Nat := 0x49

/-- Whether a domain is powered. -/
def clockPowered (d : Nat) (s : State) : Bool :=
  match tget s.clocks d with
  | some c => c.powered
  | none => false

/-- Powers the listed domains and no other (16 R473). -/
def powerDomains (keep : Nat → Bool) (s : State) : State :=
  { s with clocks := tmap s.clocks (fun d c => { c with powered := keep d }) }

/-- ARITH and CORE domain of a die that is lost: its rail is open (16 R484; 18 R532). -/
def dieDomainLost (d : Nat) (s : State) : Bool := decide (d < 8) && s.caps.dieFailed.contains (d % 4)

/-- Whether a port's link carries traffic: `LINK_STAT.UP` (13 R398). -/
def portUp (p : Nat) (s : State) : Bool :=
  match tget s.ports.port p with
  | some q => decide (q.train = 6 ∨ q.train = 8)
  | none => false

/-- Counters that advance at a tick: powered, and for a port's domain the link up (01 R41; log 1). -/
def tickRuns (d : Nat) (c : Clock) (s : State) : Bool :=
  c.powered && (if 0x40 ≤ d ∧ d ≤ 0x44 then portUp (d - 0x40) s else true)

/-- MGMT cycle in which a request expires, where it has a timeout (02 R75). -/
def expiry (r : Req) : Nat := r.accepted + 1000 * r.timeoutUs

/-- A request that its timer can still settle: outstanding, no completion observed (02 R76). -/
def timed (r : Req) : Bool := decide (r.timeoutUs ≠ 0) && r.settled.isNone && r.done.isNone

/-- The first expiry that stands, from a cycle on. -/
def nextExpiry (from_ : Nat) (s : State) : Option Nat :=
  (s.ledger.reqs.filter fun r => timed r && decide (from_ ≤ expiry r)).foldl (fun m r => match m with
    | none => some (expiry r)
    | some e => some (min e (expiry r))) none

/-- A bound on the cycles left to a MGMT cycle that is still to come. -/
def notPast (now : Nat) (e : Option Nat) (n : Nat) : Nat := match e with | some e => if now ≤ e then min n (e - now) else n | none => n

/-- MGMT cycle at which the running scrub is over (15 R457). -/
def scrubOver (s : State) : Option Nat := s.sec.scrub.map fun b => b.start + 5000000

/-- Cycles of a domain in an interval: at least one and fewer than 2^20, and MGMT not past the next expiry or the end of a scrub (01 R29,
R40; 02 R75; 15 R457; log 203). -/
def passed (d : Nat) (c : Clock) (s : State) : Nat :=
  let n := Config.cycles s.freeCtr d % 2 ^ 20 + 1
  let now := c.counter.toNat
  if d = domMgmt then notPast now (scrubOver s) (notPast now (nextExpiry now s) n) else n

/-- Cycles that a CORE domain makes in the interval. -/
def passedCore (d : Nat) (s : State) : Nat :=
  match tget s.clocks (4 + d) with
  | some c => if tickRuns (4 + d) c s then passed (4 + d) c s else 0
  | none => 0

/-- An interval passes: every running counter advances by the cycles of its domain, and with it the `cycle` counter of a hart that
executes a tasklet (01 R40, R41, R43; log 1) (log 203). -/
def tick (s : State) : State :=
  { s with freeCtr := s.freeCtr + 1,
           clocks := tmap s.clocks (fun d c => if tickRuns d c s then { c with counter := c.counter + BitVec.ofNat 64 (passed d c s) } else c),
           task := { s.task with harts := tmap s.task.harts fun h v => if v.task.isSome then { v with cycle := v.cycle + BitVec.ofNat 64 (passedCore (h / 512) s) } else v } }

/-! ### The state word -/

/-- `CW_STATE` (02 R55). -/
def cwState (s : State) : Nat :=
  s.host.ifState.code + 16 * (if s.host.ifState = .boot then s.host.bootStep else 0) + 256 * s.pwr.pwr.code
    + 4096 * s.sec.sec.code + 16384 * s.sec.dbg.code + 65536 * s.fw.running + 131072 * s.fw.belay
    + 262144 * b2n s.fw.standbyOk

/-- A tenant context is Admitted: the module is Admitted and the slot is not `FREE` (15 R440). -/
def tenantAdmitted (s : State) : Bool :=
  decide (s.sec.sec = .admitted) && s.ctxs.slots.any fun e => decide (e.1 ≠ 0) && decide (e.2.state ≠ .free)

/-- A counter as a context reads it (01 R44). -/
def counterSeen (c d : Nat) (s : State) : Nat :=
  if c ≠ 0 ∨ tenantAdmitted s = true then clockNow d s / 4096 * 4096 else clockNow d s

/-- A request is outstanding: accepted and not replied to. -/
def outstanding (r : Req) : Bool := r.settled.isNone || r.owed

/-- A context's slot. -/
def slotOf (c : Nat) (s : State) : Option Slot := tget s.ctxs.slots c

/-- State of a context slot; an unlisted slot is `FREE` (06 R191). -/
def slotState (c : Nat) (s : State) : CtxState :=
  match tget s.ctxs.slots c with
  | some k => k.state
  | none => .free

/-- Allocated: `ALLOC`, `RESIDENT` or `SUSPENDED`. -/
def slotAllocated (c : Nat) (s : State) : Bool :=
  match slotState c s with
  | .alloc | .resident | .suspended => true
  | _ => false

def modSlot (c : Nat) (f : Slot → Slot) (s : State) : State :=
  { s with ctxs := { s.ctxs with slots := tmod s.ctxs.slots c f } }

/-! ### Messages out, causes and events -/

def emit (m : Tx) (s : State) : State := { s with host := { s.host with out := s.host.out ++ [m] } }

/-- Sets an `EVT_CAUSE` bit; a bit that goes from 0 to 1 under its mask sends one notification (02 R82, R83). -/
def setCause (b : Nat) (s : State) : State :=
  if s.host.evtCause.toNat.testBit b then s
  else
    let t := { s with host := { s.host with evtCause := s.host.evtCause ||| BitVec.ofNat 32 (2 ^ b) } }
    if s.host.evtMask.toNat.testBit b then emit (.notify b) t else t

/-- A path to the control node exists: port H up, or an upstream port (13 R404, R406). -/
def pathUp (s : State) : Bool := portUp 0 s || s.ports.upstream.isSome

/-- `LOG2N` of the event ring. -/
def ringLog (s : State) : Nat := s.host.ringSize.toNat % 16

/-- The ring is full (02 R80). -/
def ringFull (s : State) : Bool := decide ((s.host.prod - s.host.cons).toNat ≥ 2 ^ ringLog s)

/-- States in which the device writes events: not during a scrub, Bivouac or the safe state, nor while resetting (02
R80; 15 R459; 16 R476; 18 R536). -/
def eventsFlow : IfState → Bool
  | .boot | .ready | .handover => true
  | _ => false

/-- The device can write an event: ring enabled and not full, state and path permitting (02 R80). -/
def ringWritable (s : State) : Bool :=
  s.host.ringSize.toNat.testBit 31 && !(ringFull s) && eventsFlow s.host.ifState && pathUp s

/-- The 64 bytes of an event entry at an index of the ring (02 R80). -/
def eventEntry (e : Ev) (i log : Nat) : Bytes :=
  leBytes 2 e.code ++ leBytes 1 e.srcType ++ leBytes 1 e.srcIdx ++ leBytes 4 e.seq ++ leBytes 1 e.ctx
    ++ leBytes 1 (1 - i / 2 ^ log % 2) ++ leBytes 2 e.status ++ zeros 4 ++ sub e.payload 0 48

/-- Writes the oldest held event: by one remote write, counted and `EVENT` set; a refused write sets `RING_FAULT` and
clears `EN`, and the entry stays held (02 R79, R80). -/
def eventOut (refused : Bool) (s : State) : State :=
  match s.host.held with
  | [] => s
  | e :: r =>
    if ringWritable s = false then s
    else if refused then
      setCause 2 { s with host := { s.host with ringSize := BitVec.ofNat 32 (ringLog s) } }
    else
      let i := s.host.prod.toNat
      let t := emit (.ringEntry (s.host.ringBase.toNat + 64 * (i % 2 ^ ringLog s)) (eventEntry e i (ringLog s))) s
      setCause 0 { t with host := { t.host with held := r, prod := t.host.prod + 1 } }

/-- Raises an event: its source's sequence number is used up, and the event is held until it is written. Where 256 are held, the
oldest one is written first if one can be written, else the event is dropped and `RING_OVF` set (02 R80, R81). -/
def raiseEvent (code srcType srcIdx ctx status : Nat) (payload : Bytes) (s : State) : State :=
  let key := 256 * srcType + srcIdx
  let q := tgetD s.host.seqs key 0
  let t := { s with host := { s.host with seqs := tset s.host.seqs key ((q + 1) % 2 ^ 32) } }
  let t := if t.host.held.length < 256 then t else eventOut false t
  if t.host.held.length < 256 then
    { t with host := { t.host with held := t.host.held ++ [⟨code, srcType, srcIdx, q, ctx, status, payload⟩] } }
  else setCause 1 t

/-- A device-level event without context or status. -/
def devEvent (code srcType srcIdx : Nat) (payload : Bytes) (s : State) : State :=
  raiseEvent code srcType srcIdx 0xFF 0 payload s

/-- Reports a change of `CW_STATE` against an earlier state: `STATE_CHANGED`, and `EVT_CAUSE.STATE` when the interface
state changed (02 R82; 15 R463). -/
def announce (old : State) (s : State) : State :=
  if cwState old = cwState s then s
  else
    let t := if old.host.ifState = s.host.ifState then s else setCause 3 s
    devEvent 1 0 0 (leBytes 4 (cwState old) ++ leBytes 4 (cwState s)) t

/-- Runs a change and reports what it does to `CW_STATE`. -/
def announced (f : State → State) (s : State) : State := announce s (f s)

/-! ### Monitors (19) -/

/-- Kind of an instance: 1 latency, 2 stall, 3 prefetch, 4 saturation, 5 temperature, 6 voltage (R551, R558). -/
def monKind (i : Nat) : Nat :=
  if i < 66 then 1 else if i < 70 then 2 else if i < 74 then 3 else if i < 78 then 4 else if i < 87 then 5 else 6

/-- Domain of an instance (R551). -/
def monDomain (i : Nat) : Nat :=
  if i < 17 then domMgmt else if i < 25 then 0x10 + (i - 17) else if i < 29 then 0x18 else if i < 61 then 0x20 + (i - 29)
  else if i < 66 then 0x40 + (i - 61) else if i < 70 then i - 66 else if i < 74 then 4 + (i - 70)
  else if i < 78 then i - 74 else domAon

/-- Source of an instance, in the order of R551: service, reads or writes, stack, quadrant, channel, port, die,
sensor. -/
def monSource (i : Nat) : Nat :=
  if i < 15 then i + 1 else if i < 17 then i - 15 else if i < 25 then i - 17 else if i < 29 then i - 25
  else if i < 61 then i - 29 else if i < 66 then i - 61 else if i < 70 then i - 66 else if i < 74 then i - 70
  else if i < 78 then i - 74 else i - 78

/-- Nominal voltage in mV of the rail of a voltage instance: the rail's higher set point (R551; 16 R481). -/
def railMv (i : Nat) : Nat :=
  [12000, 850, 850, 850, 850, 750, 1100, 1050].getD (i - 87) 2500

/-- Reset values of an instance (R558; the rounding of the voltage span is log 50). -/
def monReset (i : Nat) : Mon :=
  let base : Int := if monKind i = 6 then (railMv i * 9 / 10 : Nat) else 0
  let width : Nat := if monKind i = 6 then (railMv i * 2 / 10 + 31) / 32 else if monKind i = 5 then 64 else 1
  ⟨true, if monKind i = 2 then 2 else if monKind i ≥ 5 then 1 else 0, if i < 78 then 30 else 27, 0, base, width, 0, false,
    0, 0, MonAcc.empty, false, 0, MonAcc.empty⟩

def monGet (i : Nat) (s : State) : Mon := tgetD s.mon.mon i (monReset i)

/-- Closes the windows that have ended by a cycle of the instance's domain (R552). -/
def monAdvance (now : Nat) (m : Mon) : Mon :=
  let k := now / 2 ^ m.winLog2
  if k ≤ m.openIdx then m
  else
    let one := decide (k = m.openIdx + 1)
    { m with seq := m.seq + BitVec.ofNat 32 (k - m.openIdx), partial_ := one && m.openPartial
             winStart := (k - 1) * 2 ^ m.winLog2, winEnd := k * 2 ^ m.winLog2
             closed := if one then m.acc else MonAcc.empty, openPartial := false, openIdx := k, acc := MonAcc.empty }

/-- Histogram bin of a value in modes 0 and 1 (R556). -/
def monBin (m : Mon) (v : Int) : Nat :=
  if m.mode = 1 then
    let b := (v - m.linBase) / (m.linWidth : Int)
    if b < 0 then 0 else min b.toNat 31
  else
    let q := v.toNat / 2 ^ m.shift
    if v < 0 ∨ q = 0 then 0 else min (Nat.log2 q + 1) 31

def top64 : Nat := 2 ^ 64 - 1

/-- Adds a sample to the accumulators: in ROW mode bin `row` adds the value (R555, R556); `us` is the microsecond bin
of a latency sample (R557). -/
def monAdd (m : Mon) (v : Int) (row us : Nat) (a : MonAcc) : MonAcc :=
  let bin := if m.mode = 2 then row else monBin m v
  let inc := if m.mode = 2 then v.toNat else 1
  { count := min (a.count + 1) top64
    sum := if a.sum + v > (top64 : Int) then (top64 : Int) else a.sum + v
    min := if a.count = 0 then v else min a.min v
    max := if a.count = 0 then v else max a.max v
    bins := tupd a.bins bin 0 (fun n => min (n + inc) top64)
    usBins := tupd a.usBins (min us 31) 0 (fun n => min (n + 1) top64) }

/-- Records a sample of an instance in the current cycle of its domain (R551, R552). -/
def monSample (i : Nat) (v : Int) (row : Nat) (s : State) : State :=
  let d := monDomain i
  let m := monAdvance (clockNow d s) (monGet i s)
  let khz := match tget s.clocks d with | some c => c.nominal | none => 1
  let us := v.toNat * 1000 / max khz 1
  if m.en then { s with mon := { s.mon with mon := tset s.mon.mon i { m with acc := monAdd m v row us m.acc } } } else s

/-! ### The ledger, commit points and cairns (18) -/

def findReq (rid : Nat) (s : State) : Option Req := s.ledger.reqs.find? fun r => decide (r.rid = rid)

def modReqs (f : List Req → List Req) (s : State) : State := { s with ledger := { s.ledger with reqs := f s.ledger.reqs } }

/-- Changes one ledger entry. -/
def modReq (rid : Nat) (f : Req → Req) (s : State) : State :=
  modReqs (fun l => l.map fun r => if r.rid = rid then f r else r) s

def dropReq (rid : Nat) (s : State) : State := modReqs (fun l => l.filter fun r => decide (r.rid ≠ rid)) s

/-- Changes the cairn that a request names, if it names one (R547). -/
def modCairn (r : Req) (f : Cairn → Cairn) (s : State) : State :=
  if bit r.flags 1 then
    let l := s.ledger.cairns.map fun k => if k.ctx = r.mbx ∧ k.id = r.cairnId then f k else k
    { s with ledger := { s.ledger with cairns := l } }
  else s

/-- `k` commit points passed: `n` more units done, with the new body of the cairn (R541, R548). A request already
settled stops here: its entry leaves the ledger and the cairn shows `STOPPED` (02 R77). -/
def commitN (rid k n : Nat) (body : Option Bytes) (s : State) : State :=
  match findReq rid s with
  | none => s
  | some r =>
    let t := modReq rid (fun q => { q with units := q.units + n, commits := q.commits + k }) s
    let t := modCairn r (fun x =>
      { x with commits := x.commits + k, units := x.units + n, body := body.getD x.body,
               stopped := x.stopped || r.settled.isSome }) t
    if r.settled.isSome then (if r.owed then modReq rid (fun q => { q with running := false }) t else dropReq rid t) else t

/-- One commit point passed. -/
def commit (rid n : Nat) (body : Option Bytes) (s : State) : State := commitN rid 1 n body s

/-- A service goes on with a request: it is in the ledger, not completed and not stopped. -/
def live (rid : Nat) (s : State) : Bool :=
  match findReq rid s with
  | some r => r.done.isNone && r.settled.isNone
  | none => false

/-- Status of a completion: `SUCCESS` becomes `SUCCESS_REPLAYED` where work was redone (R542). -/
def finalStatus (r : Req) (st : Nat) : Nat := if st = 0 ∧ r.redone = true then 1 else st

/-- Requests with commit points of their own (R251, R382, R435, R519 and the table of R548). -/
def ownCommits (svc op : Nat) : Bool :=
  decide ((svc = 4 ∧ op ≠ 9) ∨ (svc = 3 ∧ op = 1) ∨ svc = 8 ∨ (svc = 7 ∧ op = 3) ∨ (svc = 6 ∧ (op = 3 ∨ op = 4 ∨ op = 5 ∨ op = 6))
    ∨ (svc = 9 ∧ op = 5) ∨ (svc = 5 ∧ (op = 3 ∨ op = 5)) ∨ (svc = 12 ∧ op = 2) ∨ (svc = 10 ∧ op = 4) ∨ (svc = 2 ∧ op = 1))

/-- A request that passes commit points of its own; a query in graph mode passes one at its completion. -/
def ownReq (r : Req) : Bool := ownCommits r.svc r.op && !(decide (r.svc = 6 ∧ r.op = 5) && decide (fld r.payload 6 1 ≠ 1))

/-- A service hands over its completion: the commit point at completion is passed, then the mailbox unit observes it
(R541; 02 R75). -/
def complete (rid st : Nat) (payload : Bytes) (s : State) : State :=
  match findReq rid s with
  | none => s
  | some r =>
    if r.done.isSome then s
    else
      let f := finalStatus r st
      let n := if ownReq r then 0 else b2n (decide (f ≤ 1))
      let c := if ownReq r then 0 else 1
      let t := modReq rid (fun q => { q with done := some (f, payload), running := false, units := q.units + n, commits := q.commits + c }) s
      modCairn r (fun k => { k with commits := k.commits + c, units := k.units + n }) t

/-! ### Mailboxes (02) -/

def modMbx (n : Nat) (f : Mbx → Mbx) (s : State) : State := { s with host := { s.host with mbx := tmod s.host.mbx n f } }
def mbxOf (n : Nat) (s : State) : Mbx := tgetD s.host.mbx n Mbx.init

/-- A mailbox is enabled apart from pauses (R60). -/
def mbxEnabled (n : Nat) (s : State) : Bool :=
  decide (n = 0) || (decide (n < 64) && slotAllocated n s && decide (s.host.ifState ≠ .boot))

/-- `MBX_STAT[n].STATE` (R57, R60, R62): 0 DISABLED, 1 ENABLED, 2 PAUSED, 3 RESETTING. -/
def mbxState (n : Nat) (s : State) : Nat :=
  if (mbxOf n s).resetting then 3
  else if mbxEnabled n s then
    match s.host.ifState with
    | .ready => 1
    | _ => 2
  else 0

/-- The mailbox unit runs: MGMT powered and not in reset. -/
def mbxUnitRuns : IfState → Bool
  | .boot | .ready | .scrub | .handover => true
  | _ => false

/-- The interface version that replies carry: `CW_IFVER[15:0]` (R55, R69). -/
def replyHeader (r : Req) (st len : Nat) (s : State) : Bytes :=
  leBytes 2 s.fw.ifver ++ leBytes 1 r.svc ++ leBytes 1 r.op ++ leBytes 2 r.tag ++ leBytes 2 0 ++ leBytes 4 len
    ++ leBytes 4 r.timeoutUs ++ leBytes 8 r.cairnId ++ leBytes 2 st ++ leBytes 1 r.hctx ++ zeros 5

/-- Address in the aperture of the reply slot of an index (R61, R62). -/
def replySlot (n : Nat) (i : Byte) : Nat := n * 0x8000 + 0x4000 + i.toNat % 32 * 0x200

/-- Writes a reply whole into its slot, then counts it and sets `EVT_CAUSE.REPLY`; records the service time (R66, R69;
19 R551). -/
def writeReply (r : Req) (st : Nat) (payload : Bytes) (s : State) : State :=
  let m := mbxOf r.mbx s
  let ap := Memory.writeN 0 s.host.aperture (replySlot r.mbx m.rplTail) (replyHeader r st payload.length s ++ payload)
  let t := { s with host := { s.host with aperture := ap } }
  let t := modMbx r.mbx (fun m => { m with rplTail := m.rplTail + 1, outstanding := m.outstanding - 1 }) t
  let t := setCause 5 t
  if 1 ≤ r.svc ∧ r.svc ≤ 15 then monSample (r.svc - 1) ((clockNow domMgmt s - r.accepted : Nat) : Int) 0 t else t

/-- Settles a request by a reply that ends its work: the entry leaves the ledger, the cairn is settled and stopped
(R76; 18 R548). -/
def settleDone (r : Req) (st : Nat) (payload : Bytes) (s : State) : State :=
  let t := writeReply r st payload s
  let t := modCairn r (fun k => { k with cstate := 1, outcome := st, stopped := true }) t
  dropReq r.rid t

/-- Status codes of R71. -/
def stSuccess : Nat := 0
def stReplayed : Nat := 1
def stDeferred : Nat := 2
def stInvalidField : Nat := 0x0100
def stInvalidOpcode : Nat := 0x0101
def stAccessDenied : Nat := 0x0102
def stNoSpace : Nat := 0x0200
def stPausedForMemory : Nat := 0x0201
def stStarved : Nat := 0x0202
def stTimeout : Nat := 0x0300
def stCancelled : Nat := 0x0301
def stDataLost : Nat := 0x0400
def stWriteProtected : Nat := 0x0401

/-- A request has an access to control-node memory outstanding (R73, R77). -/
def accessing (rid : Nat) (s : State) : Bool := s.ports.remote.any fun q => decide (q.rid = some rid)

/-- The `CANCELLED` or `TIMEOUT` reply is written; a request that has not begun leaves the ledger (R77). -/
def writeSettled (r : Req) (st : Nat) (s : State) : State :=
  let t := writeReply r st [] s
  if r.running then modReq r.rid (fun q => { q with owed := false }) t else dropReq r.rid t

/-- Settles a request by `CANCELLED` or `TIMEOUT`: references revoked, the service asked to stop; one that has not begun stops at
once. The mailbox unit writes the reply, after the accesses already issued (R76, R77). -/
def settleStop (r : Req) (st : Nat) (s : State) : State :=
  let t := modCairn r (fun k => { k with cstate := 1, outcome := st, stopped := k.stopped || !r.running }) s
  let t := modReq r.rid (fun q => { q with settled := some st, refsOpen := false, owed := true }) t
  if accessing r.rid s then t else writeSettled r st t

/-- The expiry of a request with no completion observed: `TIMEOUT` (R75, R76). -/
def expire (r : Req) (s : State) : State :=
  modMbx r.mbx (fun m => { m with timeoutCnt := BitVec.ofNat 16 (satInc 0xFFFF m.timeoutCnt.toNat) }) (settleStop r stTimeout s)

/-- The requests whose expiry lies before a cycle expire, first in their order of expiry (R75, R76). -/
def expireBefore (t : Nat) (s : State) : State :=
  if mbxUnitRuns s.host.ifState then
    (sortBy (fun a b => decide (expiry a ≤ expiry b)) (s.ledger.reqs.filter fun r => timed r && decide (expiry r < t))).foldl (fun u r => expire r u) s
  else s

/-- The MGMT counter reaches a cycle; what expires before it has expired (R75). -/
def reachMgmt (t : Nat) (s : State) : State := clockTo domMgmt t (expireBefore t s)

/-! ### Services -/

/-- Component that runs a service (17 R496). -/
def svcComponent (svc : Nat) : Nat :=
  match svc with
  | 2 => 2 | 3 => 3 | 4 => 3 | 8 => 3 | 6 => 4 | 7 => 4 | 9 => 5 | 5 => 6 | 10 => 7 | 11 => 8 | _ => 1

/-- A component runs: not held stopped (17 R525). -/
def compUp (c : Nat) (s : State) : Bool := !(s.fw.compDown.contains c)

/-- Services run in READY, and go on inside during a scrub (02 R56; 15 R459). -/
def servicesRun : IfState → Bool
  | .ready | .scrub => true
  | _ => false

/-- Takes an accepted request up: it is of the service and opcode, not begun and not completed, and its component
runs. A command that names no such request has no effect (log 5). -/
def serve (svc op rid : Nat) (f : Req → State → State) (s : State) : State :=
  match findReq rid s with
  | none => s
  | some r =>
    if r.svc = svc ∧ r.op = op ∧ r.done = none ∧ r.settled = none ∧ r.running = false ∧ servicesRun s.host.ifState = true
        ∧ compUp (svcComponent svc) s = true then f r s else s

/-- Marks a request as taken up and continuing by later events. -/
def setRunning (rid : Nat) (s : State) : State := modReq rid (fun r => { r with running := true }) s

/-- Ends a request with a status and no payload. -/
def fail (rid st : Nat) (s : State) : State := complete rid st [] s

/-- Chooses the first condition that holds, else goes on: the order of R569. -/
def firstErr (l : List (Bool × Nat)) : Option Nat := (l.find? fun e => e.1).map fun e => e.2

/-- Ends a request with the first condition that holds, else does its work (02 R569). -/
def checked (rid : Nat) (l : List (Bool × Nat)) (ok : State → State) (s : State) : State :=
  match firstErr l with
  | some st => fail rid st s
  | none => ok s

/-! ### Capabilities (01) -/

/-- Modules of the ring: 1 without a rope (13 R402). -/
def ropeN (s : State) : Nat := max s.ports.serials.length 1
/-- Ring modules reachable (01 R50). -/
def ropeUp (s : State) : Nat := ropeN s - s.ports.lostPeers.length

def capsKey (s : State) : List Nat := s.caps.key (ropeN s) (ropeUp s)

/-- A change of the capability table while the module runs: the generation increments and `CAPS_CHANGED` is raised;
no change, no increment (01 R51). -/
def capsChanged (s : State) : State :=
  if capsKey s = s.caps.kept then s
  else
    let g := s.caps.generation + 1
    devEvent 2 0 0 (leBytes 4 g.toNat) { s with caps := { s.caps with generation := g, kept := capsKey s } }

/-- Logical number of a physical unit in a map. -/
def logicalOf (m : List Nat) (p : Nat) : Option Nat := m.findIdx? fun q => decide (q = p)

/-- Replay of service work: each listed request restarts from its last commit point, and its cairn shows the replay
(18 R542). -/
def replayReqs (sel : Req → Bool) (s : State) : State :=
  let hit := s.ledger.reqs.filter fun r => sel r && r.running && r.done.isNone && r.settled.isNone
  let t := modReqs (fun l => l.map fun r => if sel r && r.running && r.done.isNone && r.settled.isNone then { r with redone := true } else r) s
  hit.foldl (fun u r => modCairn r (fun k => { k with replayed := true, replays := satInc 0xFFFF k.replays }) u) t

end Sys2Proof.Machine
end

