-- ==== Sys2Proof/Machine/CapTable.lean ====
section
/-! DEFINITION. The capability table as `ADMIN.IDENTIFY_CAPS` writes it (01 R46 to R52; 02 R88). -/
namespace Sys2Proof.Machine

/-- A unit row: type, level, built, active, failed, and parameters; the spares are what is left (R48). -/
def unitRow (ty level built active failed : Nat) (ps : List Nat) : Bytes :=
  leBytes 2 ty ++ leBytes 1 level ++ zeros 1 ++ leBytes 4 built ++ leBytes 4 active ++ leBytes 4 (built - active - failed) ++ leBytes 4 failed ++ zeros 4
    ++ ((List.range 5).flatMap fun i => leBytes 8 (ps.getD i 0))

/-- Bytes per second of an HBM3E stack at a trained clock in kHz, and of an LPDDR5X package (R88). -/
def hbmRate (khz : Nat) : Nat := khz * 1024000
def lpdRate : Nat := 85336000000

/-- The unit rows, in the order of the unit-type table. -/
def unitRows (s : State) : Bytes :=
  let c := s.caps
  let e := c.engMap.length
  let ef := c.engFailed.length
  let hbms := c.hbmKhz.filter fun k => decide (k ≠ 0)
  let low := hbms.foldl (fun m k => if m = 0 ∨ k < m then k else m) 0
  let lpd := 16 - c.lpdFailed.length
  let up := bitsMask ((List.range 5).filter fun p => portUp p s)
  [ unitRow 1 1 5242880 (65536 * e) (65536 * ef) [0x010204],
    unitRow 2 2 20480 (256 * e) (256 * ef) [256],
    unitRow 3 3 80 e ef [2097152, 524288, 262144, 131072],
    unitRow 4 4 4 c.dieMap.length c.dieFailed.length [100663296, 20, 64, bitsMask c.dieMap],
    unitRow 5 5 1 1 0 [],
    unitRow 6 6 1 1 0 [leNat (ascii "EZQ940-F"), fld s.sec.serial 0 8, fld s.sec.serial 8 8],
    unitRow 7 7 (ropeN s) (ropeUp s) (ropeN s - ropeUp s) [s.ports.pos],
    unitRow 0x10 0 256 c.coreMap.length c.coreFailed.length [8, 65536, 65536, 512],
    unitRow 0x11 0 2048 (8 * c.coreMap.length) (8 * c.coreFailed.length) [],
    unitRow 0x20 0 4 4 0 [16777216],
    unitRow 0x21 0 8 hbms.length (8 - hbms.length) [38654705664, sumN (hbms.map hbmRate), hbmRate low],
    unitRow 0x22 0 16 lpd c.lpdFailed.length [68719476736, lpd * lpdRate, lpdRate],
    unitRow 0x30 0 32 32 0 [18, 3600000000],
    unitRow 0x31 0 576 (576 - c.nandFailed.length) c.nandFailed.length [250000000000],
    unitRow 0x40 0 5 5 0 [0x0404040402, 200000000000, 400000000000, up],
    unitRow 0x50 0 64 64 0 [],
    unitRow 0x51 0 64 64 0 [32, 32, 512],
    unitRow 0x52 0 16384 16384 0 [],
    unitRow 0x60 0 2 (2 - c.belayFailed.length) c.belayFailed.length [s.fw.belay] ].flatten

/-- The rate rows, in rising identifier order (R47). -/
def rateRows (s : State) : Bytes :=
  s.clocks.flatMap fun e => leBytes 1 e.1 ++ leBytes 1 (b2n e.2.powered) ++ zeros 2 ++ leBytes 4 e.2.nominal ++ leBytes 4 e.2.current ++ zeros 4

/-- The rope entries: the serials in ring order; without a rope the module's own (R402). -/
def ropeRows (s : State) : Bytes := if s.ports.serials.isEmpty then s.sec.serial else s.ports.serials.flatMap id

/-- The capability table with its header (R88). -/
def capTable (s : State) : Bytes :=
  let u := unitRows s
  let r := rateRows s
  let p := ropeRows s
  leBytes 4 s.caps.generation.toNat ++ leBytes 4 (32 + u.length + r.length + p.length) ++ leBytes 2 (u.length / 64) ++ leBytes 2 (r.length / 16)
    ++ leBytes 2 (p.length / 16) ++ zeros 2 ++ leBytes 4 32 ++ leBytes 4 (32 + u.length) ++ leBytes 4 (32 + u.length + r.length) ++ zeros 4 ++ u ++ r ++ p

end Sys2Proof.Machine
end

