-- ==== Sys2Proof/Machine/Operands.lean ====
section
/-! DEFINITION. Operand forms: context virtual memory with its protection and copy-on-write (08), references to
buffers (02 R72), and the tier frames that pages occupy. -/
namespace Sys2Proof.Machine

def pageBytes : Nat := 2 ^ 21

/-- The 2 MiB pages that a number of bytes takes. -/
def pagesFor (n : Nat) : Nat := (pageBytes - 1 + n) / pageBytes

/-- An access through context memory: done, no translation or no permission, or a lost page (08 R259, R278). -/
inductive Acc where
  | ok (s : State)
  | xlate
  | lost

/-! ### Frames and use -/

/-- T1 frames, 18,432 of 2 MiB in each HBM stack; T2 frames, 32,768 in each LPDDR package, of 512 blocks of 4 KiB each (08 R252, R271; log
31). -/
def t1PerStack : Nat := 18432
def t2PerPack : Nat := 32768
def t2Blocks : Nat := 512
/-- Frame and package of a T2 block. -/
def t2Frame (u : Nat) : Nat := u / t2Blocks
def t2Pack (u : Nat) : Nat := u / t2Blocks / t2PerPack
/-- Blocks that a number of bytes takes. -/
def t2Span (n : Nat) : Nat := (n + 4095) / 4096

/-- Stacks that passed training. -/
def t1Frames (s : State) : List Nat :=
  (List.range 8).filter fun k => decide (s.caps.hbmKhz.getD k 0 ≠ 0)

/-- T1 frames that objects may use: 280 GB, less 36 GB for each failed stack, less retired frames (08 R252; 18 R529). -/
def t1Total (s : State) : Nat := 143360 - t1PerStack * (8 - (t1Frames s).length) - s.ecc.t1Out.length

/-- T2 frames that objects may use: 976 GB, less 64 GB for each failed package, less retired frames. -/
def t2Total (s : State) : Nat := 499712 - t2PerPack * s.caps.lpdFailed.length - s.ecc.t2Out.length

def t1Used (s : State) : List Nat := s.mem.pages.filterMap fun e => e.2.t1
/-- Blocks of T2 that are taken, as ranges: by pages, by retired frames. -/
def t2Used (s : State) : List (Nat × Nat) :=
  (s.mem.pages.filterMap fun e => e.2.t2.map fun u => (u, t2Span e.2.stored)) ++ s.ecc.t2Out.map fun f => (t2Blocks * f, t2Blocks)

/-- The lowest number of a range that is not in a list, if any. -/
def lowestFree (n : Nat) (used : List Nat) : Option Nat := (List.range (min n (used.length + 1))).find? fun i => !used.contains i

/-- The lowest T1 frame that is in service and not used (log 31). -/
def newT1 (s : State) : Option Nat :=
  let bad := t1Used s ++ s.ecc.t1Out
  ((t1Frames s).filterMap fun k =>
    (lowestFree t1PerStack (bad.filterMap fun f => if f / t1PerStack = k then some (f % t1PerStack) else none)).map (· + k * t1PerStack)).head?

/-- Two ranges meet. -/
def rangesMeet (a n : Nat) (r : Nat × Nat) : Bool := decide (a < r.1 + r.2) && decide (r.1 < a + n)

/-- The first place from `a`, a multiple of `al`, at which `n` blocks meet no range of a list. -/
def fitRun (fuel al n : Nat) (rs : List (Nat × Nat)) (a : Nat) : Nat :=
  match fuel with
  | 0 => a
  | k + 1 => match rs.find? (rangesMeet a n) with
    | some r => fitRun k al n rs ((r.1 + r.2 + al - 1) / al * al)
    | none => a

/-- Bytes of the save area of a context (06 R214). -/
def saveBytes (k : Slot) : Nat := 1024 * (16 + 32 * k.homeC.length + (if k.act.save then 2336 else 4) * k.homeE.length)

/-- Bytes of a model's KV pool and retrieval staging in T1 (07 R224, R240); a model kept with no pool has none. -/
def modelT1 (m : Model) : Nat :=
  if m.poolBlocks = 0 then 0 else m.poolMib * 2 ^ 20 + m.staging

/-- Bytes that an adapter takes in T1 (14 R431). -/
def adapterT1 (a : Adapter) : Nat := sumN (a.tensors.map fun t => 4 * (t.n * a.rank + t.m * t.n))

/-- T1 use of a context in bytes: pages with a T1 copy, save area, pools and staging, and TUNE's slots and adapters (08
R255; 14 R416, R431). -/
def t1Use (c : Nat) (s : State) : Nat :=
  pageBytes * (s.mem.pages.filter fun e => decide (e.2.ctx = c) && e.2.t1.isSome).length
    + (match slotOf c s with | some k => saveBytes k | none => 0)
    + sumN (s.agents.models.map fun e => if e.2.ctx = c then modelT1 e.2 else 0)
    + sumN (s.tune.groups.map fun e => if e.2.owner = c then 67108864 else 0)
    + sumN (s.tune.adapters.map fun e => if e.2.ctx = c then adapterT1 e.2 else 0)

/-- Bytes of T1 in use over all contexts. -/
def t1UseAll (s : State) : Nat := sumN (s.ctxs.slots.map fun e => t1Use e.1 s)

/-- T1 for objects that is free, in bytes, outside what is reserved for other contexts (08 R255; 06 R203). -/
def t1Reserved (c : Nat) (s : State) : Nat :=
  sumN (s.ctxs.slots.map fun e => if e.1 ≠ c ∧ e.2.act.lc then e.2.act.t1Res * 2 ^ 30 - t1Use e.1 s else 0)

def t1FreeFor (c : Nat) (s : State) : Nat := t1Total s * pageBytes - t1UseAll s - t1Reserved c s

def usageOf (c : Nat) (s : State) : Usage := tgetD s.mem.usage c Usage.init
def modUsage (c : Nat) (f : Usage → Usage) (s : State) : State :=
  { s with mem := { s.mem with usage := tupd s.mem.usage c Usage.init f } }

/-- The T1 quota in force; 0 stands for the device total (08 R279). -/
def t1Quota (c : Nat) (s : State) : Nat := if (usageOf c s).t1Quota = 0 then t1Total s * pageBytes else (usageOf c s).t1Quota
def t2Quota (c : Nat) (s : State) : Nat := if (usageOf c s).t2Quota = 0 then t2Total s * pageBytes else (usageOf c s).t2Quota
/-- The device total of flash is the user capacity. -/
def flashQuota (c : Nat) (s : State) : Nat := if (usageOf c s).flashQuota = 0 then 122880000000000 else (usageOf c s).flashQuota

/-- `n` more bytes of T1 fit the context's quota and the free T1 (08 R265) (log 160). -/
def t1Fits (c n : Nat) (s : State) : Bool := decide (t1Use c s + n ≤ t1Quota c s) && decide (n ≤ t1FreeFor c s)

/-- Bytes of the arrays of a graph, each as it is stored: codes, adjacency, keys (12 R368). -/
def arrayBytes (x : Index) : List Nat :=
  let n := x.graph.nodes.length
  [n * (x.codeBits / 8), n * 4 * x.degree, n * 8]

/-- Bytes of the side list in T2, and of its flash copy: per entry a key, a code and two epochs (12 R368, R371; log 230). -/
def sideBytes (x : Index) : Nat := x.side.length * (24 + x.codeBits / 8)

/-- Bytes of an index in T2: its hot region and its side list (12 R368). -/
def indexT2 (x : Index) : Nat := min (x.cacheMib * 2 ^ 20) (sumN (arrayBytes x)) + sideBytes x

/-- Bytes of the T2 copies of a context's sealed KV blocks (07 R239; log 231). -/
def kvT2 (c : Nat) (s : State) : Nat := sumN (s.agents.kv.map fun e => if e.2.ctx = c ∧ e.2.t2 = true then e.2.bytes else 0)

/-- T2 use: bytes stored in T2 for the context's pages and sealed KV blocks; a page of a `COMPRESSIBLE` object counts its stored bytes;
and its indexes (12 R368). -/
def t2Use (c : Nat) (s : State) : Nat :=
  sumN (s.mem.pages.map fun e => if e.2.ctx = c ∧ e.2.t2.isSome then e.2.stored else 0)
    + kvT2 c s + sumN (s.search.idx.map fun e => if e.2.ctx = c then indexT2 e.2 else 0)

/-- Flash use: bytes of the flash copies after compression, of sealed KV blocks and of index arrays (08 R255, R571; 12 R368). -/
def flashUse (c : Nat) (s : State) : Nat :=
  sumN (s.mem.pages.map fun e => if e.2.ctx = c then e.2.packed * (b2n (decide (e.2.flash ≠ 0)) + b2n (decide (e.2.flash2 ≠ 0))) else 0)
    + sumN (s.agents.kv.map fun e => if e.2.ctx = c ∧ e.2.flash ≠ 0 then e.2.bytes else 0)
    + sumN (s.search.idx.map fun e => if e.2.ctx = c then sumN (arrayBytes e.2) + sideBytes e.2 else 0)

/-- Bytes of T2 occupied by objects, sealed KV blocks and indexes. -/
def t2UseAll (s : State) : Nat :=
  sumN (s.mem.pages.map fun e => if e.2.t2.isSome then e.2.stored else 0)
    + sumN (s.agents.kv.map fun e => if e.2.t2 then e.2.bytes else 0) + sumN (s.search.idx.map fun e => indexT2 e.2)

/-- The lowest blocks of a T2 package in service that hold `n` bytes, a whole page on a frame of its own, while T2 has room for them (R252;
log 31). -/
def newT2 (n : Nat) (s : State) : Option Nat :=
  if t2UseAll s + n ≤ t2Total s * pageBytes then
    let used := t2Used s
    let al := if n = pageBytes then t2Blocks else 1
    ((List.range 16).filter fun k => !s.caps.lpdFailed.contains k).findSome? fun k =>
      let mine := used.filter fun r => decide (t2Pack r.1 = k)
      let a := fitRun (mine.length + 1) al (t2Span n) mine (k * t2PerPack * t2Blocks)
      if a + t2Span n ≤ (k + 1) * t2PerPack * t2Blocks then some a else none
  else none

/-- A request of a context that adds bytes to T2 and to flash keeps its quotas (08 R571). -/
def quotaFits (c t2 flash : Nat) (s : State) : Bool :=
  (decide (t2 = 0) || decide (t2Use c s + t2 ≤ t2Quota c s)) && (decide (flash = 0) || decide (flashUse c s + flash ≤ flashQuota c s))

/-! ### Pages and translation -/

def pageGet (p : Nat) (s : State) : Option Page := tget s.mem.pages p
def modPage (p : Nat) (f : Page → Page) (s : State) : State := { s with mem := { s.mem with pages := tmod s.mem.pages p f } }
def modObj (h : Nat) (f : Obj → Obj) (s : State) : State := { s with mem := { s.mem with objs := tmod s.mem.objs h f } }

/-- The object of a context that holds a virtual address, with its handle (08 R253). -/
def objAt (c va : Nat) (s : State) : Option (Nat × Obj) :=
  s.mem.objs.find? fun e => decide (e.2.ctx = c) && decide (e.2.va ≤ va) && decide (va < e.2.va + pageBytes * e.2.pages.length)

/-- The page that a context's virtual address lies in. -/
def pidAt (c va : Nat) (s : State) : Option Nat :=
  match objAt c va s with
  | some (_, o) => o.pages[(va - o.va) / pageBytes]?
  | none => none

def pageAt (c va : Nat) (s : State) : Option Page := (pidAt c va s).bind fun p => pageGet p s

/-- Base addresses of the pages that a range touches. -/
def pagesOf (va n : Nat) : List Nat :=
  if n = 0 then [] else (List.range ((va + n - 1) / pageBytes - va / pageBytes + 1)).map fun i => (va / pageBytes + i) * pageBytes

def isLost (p : Page) : Bool := decide (p.kind = .lost)

/-! ### Stored errors (09 R281, R282, R284, R286) -/

def eccOf (k : Nat) (s : State) : EccBlk := tgetD s.ecc.blk k (EccBlk.fresh k)
def modEcc (k : Nat) (f : EccBlk → EccBlk) (s : State) : State := { s with ecc := { s.ecc with blk := tset s.ecc.blk k (f (eccOf k s)) } }

def isDram (k : Nat) : Bool := decide (k < 8) || (decide (16 ≤ k) && decide (k < 32))
/-- Symbols or bits that the code corrects (R281). -/
def eccCorrects (k : Nat) : Nat := if isDram k then 8 else 1

/-- The remap entry that serves an address. -/
def remapOf (a : Nat) (b : EccBlk) : Option Nat := (b.remap.find? fun e => decide (e.2 = a)).map (·.1)

/-- Symbols in error in the codeword of an address: those that failed elements hold, of which a spare has none, and those stored (R282,
R286, R295). -/
def lineErrs (k a : Nat) (s : State) : Nat :=
  let b := eccOf k s
  tgetD b.errs a 0 + (if (remapOf a b).isSome then 0 else sumN (b.dead.map fun e => Config.elemSymbols k e a % 9))

/-- `n` bytes written at an address by the owner: a line written whole holds good data; one written in part is corrected first, so what
cannot be corrected stays (R284, R286). -/
def healLines (k a n : Nat) (s : State) : State :=
  let u := if isDram k then 64 else 8
  let keeps := fun (e : Nat × Nat) => decide (e.1 + u ≤ a ∨ a + n ≤ e.1) || (decide (e.1 < a ∨ a + n < e.1 + u) && decide (eccCorrects k < e.2))
  modEcc k (fun b => { b with errs := b.errs.filter keeps }) s

/-- Controller and address of a T1 frame, of a T2 block. -/
def t1Line (f : Nat) : Nat × Nat := (f / t1PerStack, f % t1PerStack * pageBytes)
def t2Line (u : Nat) : Nat × Nat := (16 + t2Pack u, u % (t2PerPack * t2Blocks) * 4096)
def healT1 (f : Option Nat) (s : State) : State := match f with | some f => healLines (t1Line f).1 (t1Line f).2 pageBytes s | none => s
def healT2 (u n : Nat) (s : State) : State := healLines (t2Line u).1 (t2Line u).2 n s

/-- A page's DRAM copy that reads are served from has a line among `n` bytes from an offset that cannot be corrected. -/
def poisoned (p : Page) (off n : Nat) (s : State) : Bool :=
  let bad := fun (x : Nat × Nat) (o n : Nat) =>
    (List.range ((o + n + 63) / 64 - o / 64)).any fun i => decide (eccCorrects x.1 < lineErrs x.1 ((x.2 + o) / 64 * 64 + 64 * i) s)
  match p.t1, p.t2 with
  | some f, _ => bad (t1Line f) off n
  | none, some u => if p.stored = pageBytes then bad (t2Line u) off n else bad (t2Line u) 0 p.stored
  | none, none => false

/-- A page read meets a line that it cannot be served around: no other copy of a sealed page, or no sealed page (08 R276, R277). -/
def unreadable (p : Page) (off n : Nat) (s : State) : Bool :=
  poisoned p off n s && !(decide (p.kind = .sealed) && (decide (2 ≤ p.flash) || decide (2 ≤ p.flash2) || (p.t1.isSome && p.t2.isSome && !(poisoned { p with t1 := none } off n s))))

/-- A context's memory allows a read of a range: every page mapped, none lost. -/
inductive Check where
  | fine | xlate | lost
  deriving DecidableEq, Repr

def checkRead (c va n : Nat) (s : State) : Check :=
  let l := (pagesOf va n).map fun a => (a, pageAt c a s)
  if l.any (fun x => x.2.isNone) then .xlate
  else if l.any (fun x => match x.2 with
    | some q => isLost q || unreadable q (va - x.1) (min (va + n) (x.1 + pageBytes) - max va x.1) s
    | none => false) then .lost else .fine

/-- One byte as a context reads it; 0 where nothing is mapped. -/
def rdByte (c : Nat) (s : State) (va : Nat) : Byte :=
  match pageAt c va s with
  | some p => Memory.read 0 p.data (va % pageBytes)
  | none => 0

/-- `n` bytes as a context reads them. -/
def rdBytes (c va n : Nat) (s : State) : Bytes := (List.range n).map fun i => rdByte c s (va + i)

/-- Sealed T2 copies of a context that may be dropped at once: a T1 copy or an accepted flash copy remains (R571). -/
def t2Droppable (c : Nat) (s : State) : List (Nat × Page) :=
  s.mem.pages.filter fun e => decide (e.2.ctx = c) && e.2.t2.isSome && (e.2.t1.isSome || decide (2 ≤ e.2.flash))

/-- The coldest entry of a list of pages. -/
def coldest (l : List (Nat × Page)) : Option Nat :=
  match l with
  | [] => none
  | e :: r => some (r.foldl (fun (b : Nat × Page) x => if x.2.heat < b.2.heat then x else b) e).1

/-- The oldest sealed KV block, of those that satisfy a test, whose T2 copy may be dropped: its flash copy is accepted (07 R239; log 231). -/
def kvOldest (p : KvBlk → Bool) (s : State) : Option Nat := (s.agents.kv.find? fun e => e.2.t2 && decide (2 ≤ e.2.flash) && p e.2).map (·.1)
def setKvT2 (b : Nat) (v : Bool) (s : State) : State := { s with agents := { s.agents with kv := tmod s.agents.kv b fun k => { k with t2 := v } } }

/-- T2 copies that could be dropped one by one: the pages and the KV blocks. -/
def t2Copies (s : State) : Nat := s.mem.pages.length + s.agents.kv.length

/-- Drops T2 copies of a context, coldest first, until `n` more bytes fit its quota (R571). -/
def t2Room (fuel c n : Nat) (s : State) : State :=
  match fuel with
  | 0 => s
  | k + 1 =>
    if t2Use c s + n ≤ t2Quota c s then s
    else match kvOldest (fun b => decide (b.ctx = c)) s, coldest (t2Droppable c s) with
      | some b, _ => t2Room k c n (setKvT2 b false s)
      | none, some p => t2Room k c n (modPage p (fun q => { q with t2 := none }) s)
      | none, none => s

/-- Gives a sealed page a T2 copy, after room for it under the quota has been made (R571). -/
def addT2 (pid : Nat) (s : State) : State :=
  match pageGet pid s with
  | none => s
  | some p =>
    if p.t2.isSome then s
    else
      let t := t2Room (t2Copies s) p.ctx p.stored s
      if t2Use p.ctx t + p.stored ≤ t2Quota p.ctx t then
        match newT2 p.stored t with
        | some u => healT2 u p.stored (modPage pid (fun q => { q with t2 := some u }) t)
        | none => t
      else t

/-- The device makes the sealed page's DRAM copy if it has none: the fill of R266, into T1 for a `HOT` or `PINNED_T1`
object and into T2 otherwise. -/
def fillPage (hot : Bool) (pid : Nat) (s : State) : State :=
  match pageGet pid s with
  | none => s
  | some p =>
    if p.t1.isSome ∨ p.t2.isSome ∨ p.kind ≠ .sealed then s
    else
      let t :=
        if hot = true ∧ t1Fits p.ctx pageBytes s = true ∧ (newT1 s).isSome = true then healT1 (newT1 s) (modPage pid (fun q => { q with t1 := newT1 s }) s)
        else addT2 pid s
      modUsage p.ctx (fun u => { u with fills := u.fills + 1 }) t

/-- Placement of an object: `HOT` unless another placement flag is set (08 R256). -/
def aHot (f : Nat) : Bool := !(bit f 1) && !(bit f 2) && !(bit f 3)
def aWarm (f : Nat) : Bool := bit f 1
def aCold (f : Nat) : Bool := bit f 2
def aPinned (f : Nat) : Bool := bit f 3
def aComp (f : Nat) : Bool := bit f 4
def aDurable (f : Nat) : Bool := bit f 5
def aCow (f : Nat) : Bool := bit f 6
def aExec (f : Nat) : Bool := bit f 7

/-- Fills every page without a DRAM copy that a range touches (08 R266). -/
def fillRange (c va n : Nat) (s : State) : State :=
  (pagesOf va n).foldl (fun t a =>
    match objAt c a t, pidAt c a t with
    | some (_, o), some p => fillPage (aHot o.aflags || aPinned o.aflags) p t
    | _, _ => t) s

/-- A page fresh in T1: writable or private, zero or a copy. -/
def newPage (c : Nat) (kind : PageKind) (data : Memory) (s : State) : Nat × State :=
  let p : Page := ⟨c, kind, newT1 s, none, 0, 0, false, false, 0, false, 1, 0, 0, data⟩
  (s.mem.nextPage, healT1 (newT1 s) { s with mem := { s.mem with pages := tset s.mem.pages s.mem.nextPage p, nextPage := s.mem.nextPage + 1 } })

/-- Drops one reference to a page; the last one frees it with its copies (08 R261, R262). -/
def unrefPage (pid : Nat) (s : State) : State :=
  match pageGet pid s with
  | none => s
  | some p =>
    if p.refs ≤ 1 then { s with mem := { s.mem with pages := tdel s.mem.pages pid } }
    else modPage pid (fun q => { q with refs := q.refs - 1 }) s

/-- A chosen move of a page is abandoned and counted (R269). -/
def abandonMove (pid : Nat) (s : State) : State :=
  if s.mem.moves.any fun m => decide (m.1 = pid) then
    { s with mem := { s.mem with moves := s.mem.moves.filter (fun m => decide (m.1 ≠ pid)), migFail := if s.mem.migFail = 0xFFFFFFFF then s.mem.migFail else s.mem.migFail + 1 } }
  else s

/-- The copy-on-write promotion of the page at an address of a `COW` object: the T1 page is allocated, the sealed page filled and copied,
the entry switched (08 R260). A move of the page that was chosen is abandoned (08 R269). -/
def cowPage (c va : Nat) (s : State) : Option State :=
  match objAt c va s, pidAt c va s with
  | some (h, o), some p =>
    match pageGet p s with
    | some q =>
      if q.kind = .sealed ∧ aCow o.aflags = true ∧ t1Fits c pageBytes s = true then
        let (n, t) := newPage c (.priv p) q.data s
        let t := abandonMove p (fillPage (aHot o.aflags || aPinned o.aflags) p t)
        let t := modObj h (fun o => { o with pages := o.pages.set ((va - o.va) / pageBytes) n }) t
        some (modUsage c (fun u => { u with cowPages := u.cowPages + 1 }) t)
      else none
    | none => none
  | _, _ => none

/-- Whether a write to a page may be performed: writable or private at once, sealed with `COW` after a promotion. -/
def writableKind (k : PageKind) : Bool :=
  match k with
  | .writable | .priv _ => true
  | _ => false

/-- Makes every page of a range writable, promoting sealed pages of `COW` objects; `none` where one cannot be written
(08 R259, R260). -/
def openWrite (c : Nat) (l : List Nat) (s : State) : Option State :=
  match l with
  | [] => some s
  | a :: r =>
    match pageAt c a s with
    | none => none
    | some p =>
      if writableKind p.kind then openWrite c r s
      else match cowPage c a s with
        | some t => openWrite c r t
        | none => none

/-- Writes one byte where a page is mapped. -/
def wrByte (c va : Nat) (b : Byte) (s : State) : State :=
  match pidAt c va s with
  | some p => modPage p (fun q => { q with data := Memory.write 0 q.data (va % pageBytes) b }) s
  | none => s

def wrBytes (c va : Nat) (bs : Bytes) (s : State) : State :=
  match bs with
  | [] => s
  | b :: r => wrBytes c (va + 1) r (wrByte c va b s)

/-- The lines that a write covers in T1 hold good data again (09 R284). -/
def healWrite (c va n : Nat) (s : State) : State :=
  (pagesOf va n).foldl (fun t a => match (pageAt c a t).bind (·.t1) with
    | some f => healLines (t1Line f).1 ((t1Line f).2 + (va - a)) (min (va + n) (a + pageBytes) - max va a) t
    | none => t) s

def wrRaw (c va : Nat) (bs : Bytes) (s : State) : State := healWrite c va bs.length (wrBytes c va bs s)

/-- A write of a context to its memory: all of it, or none of it (08 R259, R260, R278; log 32). -/
def ctxWrite (c va : Nat) (bs : Bytes) (s : State) : Acc :=
  match checkRead c va bs.length s with
  | .xlate => .xlate
  | .lost => .lost
  | .fine =>
    match openWrite c (pagesOf va bs.length) s with
    | none => .xlate
    | some t => .ok (wrRaw c va bs t)

/-- A read of a context: the bytes, after the fills it starts. -/
def ctxRead (c va n : Nat) (s : State) : Except Check (Bytes × State) :=
  match checkRead c va n s with
  | .fine => .ok (rdBytes c va n s, fillRange c va n s)
  | e => .error e

/-! ### Remote accesses (13 R392, R395) -/

/-- Transfers of a context that are outstanding. -/
def outCount (c : Nat) (s : State) : Nat := (s.ports.remote.filter fun q => decide (q.ctx = c ∧ q.stage = .out)).length

/-- Issues a transfer that waited or was cut, from where it stands (06 R213). -/
def startRemote (q : Remote) (s : State) : State :=
  let t := emit (if q.write then .ctlWrite q.ctx q.addr q.data else .ctlRead q.ctx (q.addr + q.got) (q.len - q.got)) s
  { t with ports := { t.ports with remote := t.ports.remote.map fun x => if x.ptag = q.ptag then { x with stage := .out, data := [] } else x } }

/-- Waiting transfers of a context are issued, oldest first, while fewer than 192 are outstanding (06 R213). -/
def pumpRemote (fuel c : Nat) (s : State) : State :=
  match fuel with
  | 0 => s
  | n + 1 =>
    match s.ports.remote.find? fun q => decide (q.ctx = c ∧ q.stage = .waits) with
    | some q => if outCount c s < 192 then pumpRemote n c (startRemote q s) else s
    | none => s

/-- A new device-originated transfer, issued at once or when its context has fewer than 192 outstanding (13 R391, R395; 06 R213). -/
def newRemote (q : Remote) (s : State) : State :=
  let t := { s with ports := { s.ports with remote := s.ports.remote ++ [{ q with ptag := s.ports.nextPtag, stage := .waits }], nextPtag := (s.ports.nextPtag + 1) % 65536 } }
  pumpRemote 1 q.ctx t

/-- A device-originated write to control-node memory. -/
def remoteWrite (c : Nat) (rid : Option Nat) (addr : Nat) (data : Bytes) (s : State) : State :=
  newRemote ⟨0, c, rid, true, addr, data.length, 0, .waits, data⟩ s

/-- A device-originated read of control-node memory. -/
def remoteRead (c : Nat) (rid : Option Nat) (addr n : Nat) (s : State) : State := newRemote ⟨0, c, rid, false, addr, n, 0, .waits, []⟩ s

/-- A message that belongs to a transfer and has not gone out whole. -/
def unsentOf (q : Remote) (m : Tx) : Bool :=
  match m with
  | .ctlWrite c a d => q.write && decide (c = q.ctx ∧ q.addr ≤ a ∧ a + d.length = q.addr + q.len)
  | .ctlRead c a n => !q.write && decide (c = q.ctx ∧ q.addr ≤ a ∧ a + n = q.addr + q.len)
  | _ => false

/-- A transfer cut at its next packet boundary: a write keeps what has not gone out, a read what has not come in. A write that has gone
out whole completes. -/
def cutOne (q : Remote) (m : Option Tx) : Remote :=
  if q.write then
    match m with
    | some (.ctlWrite _ a d) => { q with stage := .cut, addr := a, len := d.length, data := d, got := 0 }
    | _ => q
  else { q with stage := .cut, addr := q.addr + q.got, len := q.len - q.got, got := 0 }

/-- The transfers of a context, newest first, cut with the messages that still wait, newest first. -/
def cutAll (c : Nat) (l : List Remote) (out : List Tx) : List Remote × List Tx :=
  match l with
  | [] => ([], out)
  | q :: r =>
    if q.ctx = c ∧ q.stage = .out then
      let m := out.find? (unsentOf q)
      let (l, o) := cutAll c r (match m with | some x => out.erase x | none => out)
      (cutOne q m :: l, o)
    else
      let (l, o) := cutAll c r out
      (q :: l, o)

/-- The credits of VC4 that a context's packets hold return to their port's pool (06 R213). -/
def returnCredits (c : Nat) (q : Port) : Port :=
  let mine := q.held.filter fun e => decide (e.1 = 4 ∧ e.2.1 = c)
  { q with pool := q.pool.set 4 (min (q.advertised.getD 4 0) (q.pool.getD 4 0 + sumN (mine.map (·.2.2)))), held := q.held.filter fun e => !(decide (e.1 = 4 ∧ e.2.1 = c)) }

/-- Step 5 of a switch-out: the transfers of the context complete or are cut, and their credits return (06 R210, R213). -/
def cutLinks (c : Nat) (s : State) : State :=
  let (l, o) := cutAll c s.ports.remote.reverse s.host.out.reverse
  { s with ports := { s.ports with remote := l.reverse, port := tmap s.ports.port fun _ q => returnCredits c q }, host := { s.host with out := o.reverse } }

/-- At the switch-in the cut transfers are issued again from where they were cut (06 R213). -/
def resumeLinks (c : Nat) (s : State) : State :=
  let cut := s.ports.remote.filter fun q => decide (q.ctx = c ∧ q.stage = .cut)
  pumpRemote 192 c (cut.foldl (fun t q => startRemote q t) s)

/-! ### References (02 R72) -/

/-- The reference descriptor at an offset of a message. -/
def refAt (bs : Bytes) (off : Nat) : Ref := ⟨fld bs off 8, fld bs (off + 8) 4, fld bs (off + 12) 1, fld bs (off + 13) 1⟩

/-- A reference of length 0 is absent where it is embedded (07 R220). -/
def refAbsent (r : Ref) : Bool := decide (r.len = 0)
/-- Well formed: a length, a known space, no reserved bit of `dir` (R72). -/
def refGood (r : Ref) : Bool := decide (1 ≤ r.len) && decide (r.space ≤ 1) && decide (r.dir ≤ 3)
def refReads (r : Ref) : Bool := refGood r && bit r.dir 0
def refWrites (r : Ref) : Bool := refGood r && bit r.dir 1

/-- Writes data through a reference at an offset: context memory, or control-node memory (02 R72, R73). A revoked
reference writes nothing (R77). -/
def refWrite (q : Req) (r : Ref) (off : Nat) (data : Bytes) (s : State) : Acc :=
  if q.refsOpen = false then .ok s
  else if r.space = 0 then ctxWrite q.mbx (r.addr + off) data s
  else .ok (remoteWrite q.mbx (some q.rid) (r.addr + off) data s)

/-- Data read through a reference: from context memory, or by a remote read of control-node memory. What the control node supplies is the
operand; fewer bytes than asked for mean that it refused the read (02 R73; log 3). -/
def refRead (q : Req) (r : Ref) (n : Nat) (given : Bytes) (s : State) : Except Check (Bytes × State) :=
  if r.space = 0 then ctxRead q.mbx r.addr n s
  else if given.length < n then .error .xlate
  else .ok (given.take n, emit (.ctlRead q.mbx r.addr n) s)

/-- Whether a read through a reference is refused, and with which status (02 R73; 08 R259, R278). -/
def refDenied (q : Req) (r : Ref) (n : Nat) (given : Bytes) (s : State) : Option Nat :=
  if r.space = 0 then (match checkRead q.mbx r.addr n s with | .fine => none | .lost => some stDataLost | .xlate => some stAccessDenied)
  else if given.length < n then some stAccessDenied else none

/-- Status that an access error gives a service request (08 R259, R278; 02 R73). -/
def checkStatus : Check → Nat
  | .lost => stDataLost
  | _ => stAccessDenied

/-- Goes on after a write, or ends the request with the status of the refused access. -/
def afterWrite (rid : Nat) (a : Acc) (ok : State → State) (s : State) : State :=
  match a with
  | .ok t => ok t
  | .xlate => fail rid stAccessDenied s
  | .lost => fail rid stDataLost s

/-- `bit` of the header flags: `REF`. -/
def hasRef (r : Req) : Bool := bit r.flags 0

end Sys2Proof.Machine
end

