-- ==== Sys2Proof/Machine/Flags.lean ====
section
/-! DEFINITION. Status words: what each read-only register of the control window and of the unit blocks computes from
the state. -/
namespace Sys2Proof.Machine

/-- `MBX_STAT[n]` (02 R62). -/
def mbxStat (n : Nat) (s : State) : Nat :=
  let m := mbxOf n s
  m.reqHead.toNat + 2 ^ 8 * m.rplTail.toNat + 2 ^ 16 * (m.outstanding % 64) + 2 ^ 24 * mbxState n s + 2 ^ 28 * b2n m.badDb
    + 2 ^ 32 * m.lateCnt.toNat + 2 ^ 48 * m.timeoutCnt.toNat

/-- `MBX_DB[n]` as it reads: the indices; write enables read 0 (02 R62). -/
def mbxDb (n : Nat) (s : State) : Nat := (mbxOf n s).reqTail.toNat + 2 ^ 16 * (mbxOf n s).rplHead.toNat

def portOf (p : Nat) (s : State) : Port := tgetD s.ports.port p (Port.init 0)
def modPort (p : Nat) (f : Port → Port) (s : State) : State := { s with ports := { s.ports with port := tmod s.ports.port p f } }

/-- The LINK domain of a port runs at 62.5 MHz in low-rate mode, else at 1 GHz; the rate table follows by its update (01 R30, R47). -/
def linkKhz (p : Nat) (low : Bool) (s : State) : State :=
  { s with clocks := tmod s.clocks (0x40 + p) fun c => { c with actual := if low then 62500 else c.nominal } }

/-- A port enters low-rate mode, on lane 0 (01 R30; 13 R408). -/
def goLowRate (p : Nat) (s : State) : State := linkKhz p true (modPort p (fun q => { q with train := 8, lowRate := true, lanes := 1 }) s)

/-- Ring position of a neighbour by its serial (13 R402). -/
def neighbourPos (p : Nat) (s : State) : Option Nat :=
  let n := s.ports.serials.length
  if n ≤ 1 then none
  else ([(s.ports.pos + 1) % n, (s.ports.pos + n - 1) % n].find? fun q => decide (s.ports.serials.getD q [] = (portOf p s).partner))

/-- A peer port carries data classes only to a ring neighbour (13 R402). -/
def peerCarries (p : Nat) (s : State) : Bool := (neighbourPos p s).isSome

/-- `LINK_STAT.ENC`: every traffic class that the port carries data on is keyed (13 R390). -/
def linkEnc (p : Nat) (s : State) : Bool :=
  if p = 0 then s.ports.tc2.isSome else peerCarries p s && s.ports.tc2.isSome && (portOf p s).tc3.isSome

/-- `LINK_STAT[p]` (02 R55; 13 R398). -/
def linkStat (p : Nat) (s : State) : Nat :=
  let q := portOf p s
  b2n (portUp p s) + 2 * q.role + 16 * q.lanes + 128 * b2n q.lowRate + 256 * b2n (linkEnc p s) + 4096 * q.train
    + 65536 * q.retrainCnt

/-- `RST_STAT` (02 R57). -/
def rstStat (s : State) : Nat := s.host.rstLast + 256 * b2n s.host.rstBusy.isSome

/-- `EVT_RING_HEAD` (02 R79). -/
def ringHead (s : State) : Nat := s.host.prod.toNat + 65536 * s.host.cons.toNat

/-- One half of a 64-bit register, or all of it (02 R54). -/
def halfOf (h : Half) (v : Nat) : Nat :=
  match h with
  | .full => v
  | .low => v % 2 ^ 32
  | .high => v / 2 ^ 32

/-- Replaces one half of a 64-bit register, or all of it. -/
def setHalf (h : Half) (old new : Nat) : Nat :=
  match h with
  | .full => new % 2 ^ 64
  | .low => old / 2 ^ 32 * 2 ^ 32 + new % 2 ^ 32
  | .high => new % 2 ^ 32 * 2 ^ 32 + old % 2 ^ 32

/-- Registers of the control window that the AON controller or a resetting module still serves (02 R56). -/
def aonServes (off : Nat) : Bool :=
  decide (off = 0 ∨ off = 4 ∨ off = 8 ∨ off = 0x100 ∨ off = 0x104 ∨ (0x3000 ≤ off ∧ off < 0x3050))

/-- Whether the control window serves a read or write of an offset now (02 R56); accesses during a scrub are held and
applied after it. -/
def cwServes (write : Bool) (off : Nat) (s : State) : Bool :=
  match s.host.ifState with
  | .boot | .ready | .handover | .scrub => true
  | .safe | .bivouac => aonServes off || (decide (s.host.ifState = .bivouac) && write && decide (0x1000 ≤ off ∧ off < 0x1400))
  | .abseil => !write && portUp 0 s && decide (off = 0 ∨ off = 8)
  | .reset => !write && decide (off = 0 ∨ off = 4 ∨ off = 8 ∨ off = 0x104)
  | .tripped => false

/-- Records the value that a register read returned. -/
def setRead (v : Nat) (s : State) : State := { s with host := { s.host with lastRead := BitVec.ofNat 64 v } }

/-- A register access of the control window during a scrub is held in arrival order, then applied (02 R56; 15 R459). -/
def holdCw (write : Bool) (off len v : Nat) (s : State) : State :=
  let pk : Packet := ⟨2, 0, 0, 65536, 0, len, 0, off, 0xFE, true⟩
  { s with sec := { s.sec with heldPortH := s.sec.heldPortH ++ [⟨pk, leBytes len v, write, false⟩] } }

/-- Serves a control window access as R56 states: held during a scrub, done where served, otherwise without effect. -/
def cwAccess (write : Bool) (off len v : Nat) (f : State → State) (s : State) : State :=
  if s.host.ifState = .scrub then holdCw write off len v s
  else if cwServes write off s then f s
  else if write then s else setRead 0 s

/-- `ECC_FLIP` and engine blocks name physical engine `32·die + engine` in firmware's registers; the model's number is
`20·die + engine`. -/
def physOfTarget (t : Nat) : Option Nat := if t / 32 < 4 ∧ t % 32 < 20 then some (20 * (t / 32) + t % 32) else none

end Sys2Proof.Machine
end

