-- ==== Sys2Proof/Machine/Formats.lean ====
section
/-! DEFINITION. The arithmetic of chapter 04: element encodings, FP32 rounding, tile partials, the column tree, the
epilogue operations, block scales, conversion and stochastic rounding. Values are exact: a finite value is
`(−1)^neg · m · 2^e`. -/
namespace Sys2Proof.Machine

/-- A float value. -/
inductive Fv where
  | nan
  | inf (neg : Bool)
  | fin (neg : Bool) (m : Nat) (e : Int)
  deriving DecidableEq, Repr

/-- Format codes (R92, R130): operand formats 1 to 9. -/
def fmtOperand (c : Nat) : Bool := decide (1 ≤ c) && decide (c ≤ 9)
def fmtInt (c : Nat) : Bool := decide (c = 6 ∨ c = 7)
/-- Width of an element in bits. -/
def fmtBits (c : Nat) : Nat := if c = 1 ∨ c = 6 then 4 else if c = 2 ∨ c = 3 then 6 else if c = 4 ∨ c = 5 ∨ c = 7 then 8 else 16
/-- Width class (R92): 4 for 4-bit, 8 for 6- and 8-bit, 16 for 16-bit. -/
def fmtClass (c : Nat) : Nat := if fmtBits c = 6 then 8 else fmtBits c
/-- Bits of the exponent and of the mantissa, and the bias (R132); FP32 is code 10. -/
def fmtE (c : Nat) : Nat := match c with | 1 => 2 | 2 => 3 | 3 => 2 | 4 => 4 | 5 => 5 | 8 => 8 | 9 => 5 | _ => 8
def fmtM (c : Nat) : Nat := match c with | 1 => 1 | 2 => 2 | 3 => 3 | 4 => 3 | 5 => 2 | 8 => 7 | 9 => 10 | _ => 23
def fmtBias (c : Nat) : Int := match c with | 1 => 1 | 2 => 3 | 3 => 1 | 4 => 7 | 5 => 15 | 8 => 127 | 9 => 15 | _ => 127
/-- Code of the largest finite value (R132); for an integer format the largest magnitude written (R148). -/
def fmtMax (c : Nat) : Nat :=
  match c with
  | 1 => 7 | 2 => 0x1F | 3 => 0x1F | 4 => 0x7E | 5 => 0x7B | 6 => 7 | 7 => 127 | 8 => 0x7F7F | 9 => 0x7BFF | _ => 0x7F7FFFFF
/-- Formats with infinities, whose all-ones exponent is special (R132). -/
def fmtIeee (c : Nat) : Bool := decide (c = 5 ∨ c = 8 ∨ c = 9 ∨ c = 10)
/-- The canonical NaN that a conversion writes; FP4 and FP6 have none and take +0 (R133, R148). -/
def fmtNan (c : Nat) : Nat := match c with | 4 => 0x7F | 5 => 0x7E | 8 => 0x7FC0 | 9 => 0x7E00 | 10 => 0x7FC00000 | _ => 0

/-- Two's complement value of the low `w` bits. -/
def signed (w v : Nat) : Int := if v % 2 ^ w < 2 ^ (w - 1) then ((v % 2 ^ w : Nat) : Int) else ((v % 2 ^ w : Nat) : Int) - Int.ofNat (2 ^ w)

/-- The value of an element of a float format (R132, R133); an FP32 subnormal is a zero of its sign. -/
def decodeFloat (c v : Nat) : Fv :=
  let m := fmtM c
  let f := v % 2 ^ m
  let x := v / 2 ^ m % 2 ^ fmtE c
  let neg := v.testBit (m + fmtE c)
  if fmtIeee c ∧ x = 2 ^ fmtE c - 1 then if f = 0 then .inf neg else .nan
  else if c = 4 ∧ v % 128 = 127 then .nan
  else if x = 0 then if c = 10 then .fin neg 0 0 else .fin neg f (1 - fmtBias c - m)
  else .fin neg (2 ^ m + f) ((x : Int) - fmtBias c - m)

def f32 (v : U32) : Fv := decodeFloat 10 v.toNat

def fpNan : U32 := 0x7FC00000
def fpInf (neg : Bool) : U32 := if neg then 0xFF800000 else 0x7F800000
def fpZero (neg : Bool) : U32 := if neg then 0x80000000 else 0

/-- Shifts right by `n` to nearest, ties to even. -/
def shrEven (a n : Nat) : Nat :=
  let q := a / 2 ^ n
  let r := a % 2 ^ n
  if 2 * r > 2 ^ n ∨ (2 * r = 2 ^ n ∧ q % 2 = 1) then q + 1 else q

/-- The magnitude `a · 2^e` rounded to FP32 with its sign: 24 bits, ties to even, infinity beyond the largest value, a
zero of its sign below 2^−126 (R133, R140). -/
def roundF32 (neg : Bool) (a : Nat) (e : Int) : U32 :=
  if a = 0 then fpZero neg
  else
    let l := Nat.log2 a
    let (q, x) := if l ≤ 23 then (a * 2 ^ (23 - l), e - ((23 - l : Nat) : Int)) else (shrEven a (l - 23), e + ((l - 23 : Nat) : Int))
    let (q, x) := if q = 2 ^ 24 then (2 ^ 23, x + 1) else (q, x)
    if x + 23 > 127 then fpInf neg
    else if x + 23 < -126 then fpZero neg
    else BitVec.ofNat 32 ((if neg then 2 ^ 31 else 0) + (x + 23 + 127).toNat * 2 ^ 23 + (q - 2 ^ 23))

/-- 2^n as an integer. -/
def pow2 (n : Nat) : Int := Int.ofNat (2 ^ n)

/-- Sum of exact values `n · 2^e`, at the least exponent. -/
def exactSum (l : List (Int × Int)) : Int × Int :=
  match l with
  | [] => (0, 0)
  | t :: r =>
    let lo := r.foldl (fun e u => min e u.2) t.2
    (((t :: r).map fun u => u.1 * pow2 (u.2 - lo).toNat).foldl (· + ·) 0, lo)

/-- Rounds an exact value; zero gives +0. -/
def roundInt (n : Int) (e : Int) : U32 := roundF32 (decide (n < 0)) n.natAbs e

/-- A product, exact (R139). -/
def fvMul (a b : Fv) : Fv :=
  match a, b with
  | .nan, _ => .nan
  | _, .nan => .nan
  | .inf s, .inf t => .inf (s != t)
  | .inf s, .fin t m _ => if m = 0 then .nan else .inf (s != t)
  | .fin t m _, .inf s => if m = 0 then .nan else .inf (s != t)
  | .fin s m e, .fin t n f => .fin (s != t) (m * n) (e + f)

def fvIsNan (a : Fv) : Bool := match a with | .nan => true | _ => false
def fvIsInf (neg : Bool) (a : Fv) : Bool := match a with | .inf s => s == neg | _ => false
def fvTerm (a : Fv) : Option (Int × Int) :=
  match a with
  | .fin s m e => some (if s then -(m : Int) else (m : Int), e)
  | _ => none

/-- Truncates a term toward zero to a multiple of 2^cut (R141). -/
def truncTerm (cut : Int) (t : Int × Int) : Int × Int :=
  if cut ≤ t.2 then t
  else
    let q := t.1.natAbs / 2 ^ (cut - t.2).toNat
    (if t.1 < 0 then -(q : Int) else (q : Int), cut)

/-- The least multiple that R141 keeps: 47 bits below the leading bit of the largest product. -/
def truncCut (l : List (Int × Int)) : Option Int :=
  (l.filterMap fun t => if t.1 = 0 then none else some ((Nat.log2 t.1.natAbs : Int) + t.2 - 47)).max?

/-- A tile partial of a float pass (R140, R141): the exact sum of the products, truncated first in a 16-bit pass,
times 2^s, rounded once. `none` for a NaN scale. -/
def tilePartial (wide : Bool) (sc : Option Int) (ps : List Fv) : U32 :=
  match sc with
  | none => fpNan
  | some s =>
    if ps.any fvIsNan ∨ (ps.any (fvIsInf true) = true ∧ ps.any (fvIsInf false) = true) then fpNan
    else if ps.any (fvIsInf true) then fpInf true
    else if ps.any (fvIsInf false) then fpInf false
    else
      let ts := ps.filterMap fvTerm
      let ts := match wide, truncCut ts with
        | true, some cut => ts.map (truncTerm cut)
        | _, _ => ts
      let (n, e) := exactSum ts
      roundInt n (e + s)

/-- FP32 addition (R142). -/
def fpAdd (a b : U32) : U32 :=
  match f32 a, f32 b with
  | .nan, _ => fpNan
  | _, .nan => fpNan
  | .inf s, .inf t => if s = t then fpInf s else fpNan
  | .inf s, .fin _ _ _ => fpInf s
  | .fin _ _ _, .inf s => fpInf s
  | .fin s m e, .fin t n f =>
    let (v, x) := exactSum [(if s then -(m : Int) else (m : Int), e), (if t then -(n : Int) else (n : Int), f)]
    if v = 0 then fpZero (s && t) else roundInt v x

/-- FP32 multiplication: exact, rounded once (R145); a zero product takes the XOR of the signs (log 44). -/
def fpMul (a b : U32) : U32 :=
  match fvMul (f32 a) (f32 b) with
  | .nan => fpNan
  | .inf s => fpInf s
  | .fin s m e => roundF32 s m e

/-! ### INT32 (R143, R144) -/

def poison : Int := -2147483648
def satInt (v : Int) : Int := if v > 2147483647 then 2147483647 else if v < -2147483647 then -2147483647 else v
def int32 (v : U32) : Int := v.toInt
def ofInt32 (v : Int) : U32 := BitVec.ofInt 32 v

/-- An in-tile sum shifted by its scale, or poison for a NaN scale. -/
def intPartial (sc : Option Int) (sum : Int) : Int :=
  match sc with
  | none => poison
  | some s =>
    if s ≥ 0 then satInt (sum * pow2 s.toNat)
    else
      let q := shrEven sum.natAbs (-s).toNat
      if sum < 0 then -(q : Int) else (q : Int)

/-- A saturating sum; a poison operand gives poison. -/
def intAdd (a b : Int) : Int := if a = poison ∨ b = poison then poison else satInt (a + b)

/-! ### The column tree (R142) -/

/-- One level: adjacent pairs are combined. -/
def pairUp {α : Type} (f : α → α → α) : List α → List α
  | a :: b :: r => f a b :: pairUp f r
  | l => l

/-- Four levels over the 16 tile rows. -/
def columnTree {α : Type} (f : α → α → α) (l : List α) : List α := pairUp f (pairUp f (pairUp f (pairUp f l)))

/-! ### Epilogue (R145) -/

/-- Whether one FP32 value is at least another; false with a NaN. Zeros of both signs are equal. -/
def fvLe (a b : Fv) : Bool :=
  match a, b with
  | .nan, _ => false
  | _, .nan => false
  | .inf true, _ => true
  | _, .inf false => true
  | .inf false, _ => false
  | _, .inf true => false
  | .fin s m e, .fin t n f => decide ((exactSum [(if s then -(m : Int) else (m : Int), e), (if t then (n : Int) else -(n : Int), f)]).1 ≤ 0)

/-- A value with an FP32 subnormal taken as a zero of its sign (R133). -/
def flush (a : U32) : U32 := match f32 a with | .fin s 0 _ => fpZero s | _ => a

/-- The greater, the lesser of two values that are no NaN. Where they are equal zeros of different sign, the spec does
not say which is returned (log 45). -/
def fpMax (a b : U32) : U32 :=
  if fvLe (f32 a) (f32 b) && fvLe (f32 b) (f32 a) then if Config.pickFirst a b then a else b
  else if fvLe (f32 a) (f32 b) then b else a
def fpMin (a b : U32) : U32 :=
  if fvLe (f32 a) (f32 b) && fvLe (f32 b) (f32 a) then if Config.pickFirst a b then a else b
  else if fvLe (f32 a) (f32 b) then a else b

def fpRelu (a : U32) : U32 := if fvIsNan (f32 a) then fpNan else fpMax (flush a) 0

def fpAbs (a : U32) : U32 := a &&& 0x7FFFFFFF
def fpNeg (a : U32) : U32 := a ^^^ 0x80000000

def fpClamp (a imm : U32) : U32 :=
  if fvIsNan (f32 a) ∨ fvIsNan (f32 imm) then fpNan
  else
    let b := fpAbs (flush imm)
    fpMin (fpMax (flush a) (fpNeg b)) b

/-- The unit of the fixed-point numbers below. -/
def fxOne : Nat := 2 ^ 256

/-- `e^x` of a fixed-point x below 128: 64 terms of the series at x / 256, squared eight times. -/
def fxExp (x : Nat) : Nat :=
  let r := x / 256
  let t := (List.range 64).foldl (fun acc i => fxOne + r * acc / ((64 - i) * fxOne)) fxOne
  (List.range 8).foldl (fun acc _ => acc * acc / fxOne) t

/-- The argument of the logistic function that each formula of R145 comes to, for |a| = n / 2^149: GELU is a / (1 + e^(−2u)) with
u = 0.7978846 (a + 0.044715 a³), SILU a / (1 + e^(−a)). -/
def fxGelu (n : Nat) : Nat := 15957692 * (1000000 * n * 2 ^ 298 + 44715 * n ^ 3) * fxOne / (10000000000000 * 2 ^ 447)
def fxSilu (n : Nat) : Nat := n * 2 ^ 107

/-- The logistic function at ± a fixed-point argument, as a fraction; at 128 and above it is 1 or 0 to within 2^−180. -/
def fxLogistic (neg : Bool) (x : Nat) : Nat × Nat :=
  if 128 * fxOne ≤ x then (if neg then 0 else 1, 1)
  else
    let p := fxExp x
    (if neg then fxOne else p, p + fxOne)

/-- A result keeps the bound of R145 around the exact value (−1)^neg · (n / 2^149) · (k / d): 4 units in its last place or 2^−30, whichever
is larger. The fraction's own error, less than 2^−149 or than 2^−180 of the value, is allowed for. -/
def actNear (neg : Bool) (n k d : Nat) (y : U32) : Bool :=
  match f32 y with
  | .fin s m e =>
    let v : Int := (if s then -1 else 1) * Int.ofNat (m * 2 ^ (e + 149).toNat * d)
    let x : Int := (if neg then -1 else 1) * Int.ofNat (n * k)
    let bound := max (if m = 0 then 0 else 4 * 2 ^ (e + 149).toNat) (2 ^ 119)
    decide ((v - x).natAbs ≤ d * (bound + n / 2 ^ 180 + 1))
  | _ => false

/-- GELU and SILU (R145): a finite input gives the value that the device's function proposes where it keeps the bound, else the exact
value rounded (log 40). -/
def fpAct (arg : Nat → Nat) (f : U32 → U32) (a : U32) : U32 :=
  match f32 a with
  | .nan => fpNan
  | .inf false => fpInf false
  | .inf true => fpZero false
  | .fin s m e =>
    let n := m * 2 ^ (e + 149).toNat
    let (k, d) := fxLogistic s (arg n)
    let y := f (flush a)
    if actNear s n k d y then y else roundF32 s (n * k * 2 ^ 64 / d) (-213)

/-- An INT32 entry as an FP32 factor, and its product with a value, rounded once. -/
def fpDeq (a v : U32) : U32 :=
  if int32 a = poison then fpNan
  else
    match fvMul (.fin (decide (int32 a < 0)) (int32 a).natAbs 0) (f32 v) with
    | .nan => fpNan
    | .inf s => fpInf s
    | .fin s m e => roundF32 s m e

/-! ### Block scales and conversion (R146 to R149) -/

def fmtEmax (c : Nat) : Int := match c with | 1 => 2 | 2 => 4 | 3 => 2 | 4 => 8 | 5 => 15 | 6 => 2 | _ => 6

/-- The scale of a block of 32 values (R146). -/
def blockScale (c : Nat) (xs : List U32) : Nat :=
  if xs.any (fun x => match f32 x with | .fin _ _ _ => false | _ => true) then 0xFF
  else
    let lg := xs.filterMap fun x => match f32 x with
      | .fin _ m e => if m = 0 then none else some ((Nat.log2 m : Int) + e)
      | _ => none
    match lg.max? with
    | none => 0x7F
    | some l => (min (max (l - fmtEmax c + 127) 0) 254).toNat

/-- A step of the stochastic rounding generator (R149). -/
def srStep (s : U64) : U64 :=
  let a := s ^^^ (s <<< 13)
  let b := a ^^^ (a >>> 7)
  b ^^^ (b <<< 17)

/-- The 16 bits drawn from a generator state. -/
def srDraw (s : U64) : Nat := (s >>> 48).toNat

/-- The magnitude `a · 2^e` in units `2^u`: to nearest with ties to even, or by the 16 random bits (R147, R149). -/
def roundUnits (sr : Option Nat) (a : Nat) (e u : Int) : Nat :=
  if u ≤ e then a * 2 ^ (e - u).toNat
  else
    let n := (u - e).toNat
    match sr with
    | none => shrEven a n
    | some r => if r < 65536 * (a % 2 ^ n) / 2 ^ n then a / 2 ^ n + 1 else a / 2 ^ n

/-- A finite value `±a · 2^e` converted to a format: its code, and whether it is counted as saturated (R147, R148). -/
def convertFin (c : Nat) (sr : Option Nat) (neg : Bool) (a : Nat) (e : Int) : Nat × Bool :=
  if fmtInt c then
    let n := if a = 0 then 0 else roundUnits sr a e 0
    let v := min n (fmtMax c)
    (if neg then (2 ^ fmtBits c - v) % 2 ^ fmtBits c else v, decide (n > fmtMax c))
  else
    let s := if neg then 2 ^ (fmtBits c - 1) else 0
    if a = 0 then (s, false)
    else
      let lo := 1 - fmtBias c - fmtM c
      let u := max ((Nat.log2 a : Int) + e - fmtM c) lo
      let n := roundUnits sr a e u
      let v := if n = 0 then 0 else (u - lo).toNat * 2 ^ fmtM c + n
      (s + min v (fmtMax c), decide (v > fmtMax c))

/-- An element converted: `none` for an unscaled one, else the scale of its block (R147, R148). -/
def convert (c : Nat) (scale : Option Nat) (sr : Option Nat) (x : U32) : Nat × Bool :=
  match scale with
  | some e =>
    if e = 0xFF then (0, true)
    else match f32 x with
      | .fin s m f => convertFin c sr s m (f + 127 - e)
      | _ => (0, true)
  | none =>
    match f32 x with
    | .nan => (fmtNan c, true)
    | .inf s =>
      let v := if fmtIeee c then (2 ^ fmtE c - 1) * 2 ^ fmtM c else fmtMax c
      (if fmtInt c then (if s then 2 ^ fmtBits c - fmtMax c else fmtMax c) else (if s then 2 ^ (fmtBits c - 1) else 0) + v, true)
    | .fin s m f => convertFin c sr s m f

/-- Elements packed from the lowest address (R136). -/
def packElems (w : Nat) (l : List Nat) : Bytes :=
  leBytes (l.length * w / 8) (l.reverse.foldl (fun acc v => acc * 2 ^ w + v % 2 ^ w) 0)

/-- The next `n` chunks of 32 elements of a list. -/
def blocks32 {α : Type} (n : Nat) (l : List α) : List (List α) :=
  match n with
  | 0 => []
  | k + 1 => l.take 32 :: blocks32 k (l.drop 32)

/-- Converts the values of one block: packed bytes, count of saturations, generator after it (R146 to R149). -/
def convertElems (c : Nat) (scale : Option Nat) (sr : Bool) (xs : List U32) (g : U64) : List Nat × Nat × U64 :=
  match xs with
  | [] => ([], 0, g)
  | x :: r =>
    let g1 := if sr then srStep g else g
    let (v, sat) := convert c scale (if sr then some (srDraw g1) else none) x
    let (vs, n, g2) := convertElems c scale sr r g1
    (v :: vs, n + b2n sat, g2)

def convertBlocks (c : Nat) (scaled sr : Bool) (bs : List (List U32)) (g : U64) : Bytes × Nat × U64 :=
  match bs with
  | [] => ([], 0, g)
  | b :: r =>
    let e := blockScale c b
    let (vs, n, g1) := convertElems c (if scaled then some e else none) sr b g
    let (bytes, m, g2) := convertBlocks c scaled sr r g1
    (packElems (fmtBits c) vs ++ (if scaled then [BitVec.ofNat 8 e] else []) ++ bytes, n + m, g2)

end Sys2Proof.Machine
end

