-- ==== Sys2Proof/Machine/Homes.lean ====
section
/-! DEFINITION. Home units of contexts: how they are assigned, and how a capability change reassigns or renumbers
them (06 R199 to R201, R206). Units are physical. -/
namespace Sys2Proof.Machine

/-- Engines and cores in logical order. -/
def actEng (s : State) : List Nat := s.caps.engMap
def actCore (s : State) : List Nat := s.caps.coreMap

/-- Active engines of a physical die, in logical order (01 R49; 03 R118 `TARGET`). -/
def dieEngs (d : Nat) (s : State) : List Nat := s.caps.engMap.filter fun p => decide (p / 20 = d)

/-- Units homed by the other LC contexts. -/
def lcHomedE (c : Nat) (s : State) : List Nat := (s.ctxs.slots.filter fun e => decide (e.1 ≠ c) && e.2.cfg.lc).flatMap fun e => (e.2.nextHomes.getD (e.2.homeE, e.2.homeC)).1
def lcHomedC (c : Nat) (s : State) : List Nat := (s.ctxs.slots.filter fun e => decide (e.1 ≠ c) && e.2.cfg.lc).flatMap fun e => (e.2.nextHomes.getD (e.2.homeE, e.2.homeC)).2

/-- How many other contexts home a unit. -/
def homedBy (c : Nat) (eng : Bool) (u : Nat) (s : State) : Nat :=
  (s.ctxs.slots.filter fun e => decide (e.1 ≠ c) && (if eng then e.2.homeE else e.2.homeC).contains u).length

/-- The units of a list in rising order of a rank, units of one rank in list order. -/
def byRank (rank : Nat → Nat) (top : Nat) (l : List Nat) : List Nat :=
  (List.range (top + 1)).flatMap fun k => l.filter fun u => decide (rank u = k)

/-- The dies after a die in the ring order, that die last (01 R23). -/
def ringAfter (d : Nat) : List Nat := (List.range 4).map fun i => (d + 1 + i) % 4

/-- The dies that hold the given engines, then the others in ring order after the last of them (01 R23; 06 R201; log 226). -/
def diesFirst (engs : List Nat) (s : State) : List Nat :=
  let first := s.caps.dieMap.filter fun d => engs.any fun e => decide (e / 20 = d)
  first ++ (ringAfter (first.getLastD 3)).filter fun d => s.caps.dieMap.contains d && !first.contains d

/-- The first `n` candidates in logical order; the result is in logical order. -/
def inOrder (all picked : List Nat) : List Nat := all.filter fun u => picked.contains u

/-- Home engines for a context, keeping those listed (06 R201). -/
def pickEng (c : Nat) (lc : Bool) (n : Nat) (keep : List Nat) (s : State) : List Nat :=
  let free := (actEng s).filter fun u => !keep.contains u
  let cand := if lc then free.filter fun u => !(lcHomedE c s).contains u else byRank (fun u => homedBy c true u s) 64 free
  inOrder (actEng s) (keep ++ cand.take (n - keep.length))

/-- Home cores for a context with the given engines, keeping those listed (06 R201). -/
def pickCore (c : Nat) (lc : Bool) (n : Nat) (keep engs : List Nat) (s : State) : List Nat :=
  let free := (actCore s).filter fun u => !keep.contains u
  let cand := if lc then (diesFirst engs s).flatMap fun d => free.filter fun u => decide (u / 64 = d) && !(lcHomedC c s).contains u
    else byRank (fun u => homedBy c false u s) 64 free
  inOrder (actCore s) (keep ++ cand.take (n - keep.length))

/-- The homes that firmware assigns to a configuration (06 R201). -/
def assignHomes (c : Nat) (k : CtxCfg) (s : State) : List Nat × List Nat :=
  let e := pickEng c k.lc k.engHome [] s
  (e, pickCore c k.lc k.coreHome [] e s)

/-- What each LC context keeps of a reservation when only `n` units remain, in ascending context order (06 R206). -/
def shareOut (n : Nat) (l : List (Nat × Nat)) : List (Nat × Nat) :=
  match l with
  | [] => []
  | (c, w) :: r => (c, min w n) :: shareOut (n - w) r

/-- Renames the saved records of units that were replaced (06 R206). -/
def renameSaved (pe pc : List (Nat × Nat)) (v : Saved) : Saved :=
  let re := fun k => ((pe.find? fun e => decide (e.1 = k)).map (·.2)).getD k
  let rc := fun h => ((pc.find? fun e => decide (e.1 = h / 8)).map fun e => 8 * e.2 + h % 8).getD h
  { v with engines := v.engines.foldl (fun t e => tset t (re e.1) e.2) [], harts := v.harts.foldl (fun t e => tset t (rc e.1) e.2) [] }

/-- The home engines of a context that stay, a spare in the place of the engine that it replaced. -/
def keptE (sub : List (Nat × Nat)) (ne : Nat) (k : Slot) (s : State) : List Nat :=
  ((k.homeE.map fun u => ((sub.find? fun e => decide (e.1 = u)).map (·.2)).getD u).filter (actEng s).contains).take ne

/-- The home cores of a context that stay, a core chosen for a retired one in its place (18 R531). -/
def keptC (sub : List (Nat × Nat)) (nc : Nat) (k : Slot) (s : State) : List Nat :=
  ((k.homeC.map fun u => ((sub.find? fun e => decide (e.1 = u)).map (·.2)).getD u).filter (actCore s).contains).take nc

/-- Waits of a context that is out follow its hart records to their new numbers. -/
def renameWaits (pc : List (Nat × Nat)) (c : Nat) (s : State) : State :=
  let rc := fun h => ((pc.find? fun e => decide (e.1 = h / 8)).map fun e => 8 * e.2 + h % 8).getD h
  let sems := tmap s.ctxs.sems fun _ m => { m with waiters := m.waiters.map fun w => if w.ctx = c then { w with hart := rc w.hart } else w }
  { s with ctxs := { s.ctxs with sems := sems, semPend := s.ctxs.semPend.map fun e => if e.1 = c then (c, rc e.2.1, e.2.2) else e } }

/-- The homes of one context after a capability change: lost units replaced, the reservation cut to `ne` engines and `nc` cores (06
R206). `k` is the slot before the change, `sub` names the spare that took a failed engine's place, `subC` the core chosen for a retired
one. A configuration that waits for its switch-in has its homes mended in the same way. -/
def rehome (sub subC : List (Nat × Nat)) (c : Nat) (k : Slot) (ne nc : Nat) (s : State) : State :=
  let hE := pickEng c k.act.lc ne (keptE sub ne k s) s
  let hC := pickCore c k.act.lc nc (keptC subC nc k s) hE s
  let t := modSlot c (fun q => { q with homeE := hE, homeC := hC, act := { q.act with engHome := hE.length, coreHome := hC.length } }) s
  match k.nextHomes with
  | none =>
    modSlot c (fun q => { q with cfg := { q.cfg with
      engHome := if hE.length < k.homeE.length then hE.length else q.cfg.engHome, coreHome := if hC.length < k.homeC.length then hC.length else q.cfg.coreHome } }) t
  | some (nE, nC) =>
    let n := { k with homeE := nE, homeC := nC }
    let gE := pickEng c k.cfg.lc nE.length (keptE sub nE.length n s) t
    let gC := pickCore c k.cfg.lc nC.length (keptC subC nC.length n s) gE t
    modSlot c (fun q => { q with nextHomes := some (gE, gC), cfg := { q.cfg with
      engHome := if gE.length < nE.length then gE.length else q.cfg.engHome, coreHome := if gC.length < nC.length then gC.length else q.cfg.coreHome } }) t

/-- Ways of a die that the contexts before leave, of the 12 that may be reserved (06 R200). -/
def waysLeft (taken : List (List Nat × Nat)) (d : Nat) : Nat := 12 - sumN (taken.map fun e => if e.1.contains d then e.2 else 0)

/-- What each LC context keeps of its way reservation on the dies of its home cores, in ascending context order (06 R206). -/
def shareWays (l : List (Nat × List Nat × Nat)) (taken : List (List Nat × Nat)) : List (Nat × Nat) :=
  match l with
  | [] => []
  | (c, dies, w) :: r =>
    let g := dies.foldl (fun m d => min m (waysLeft taken d)) w
    (c, g) :: shareWays r (taken ++ [(dies, g)])

/-- The way reservations cut to what remains: those in force, and those configured (06 R206). -/
def cutWays (s : State) : State :=
  let dies := fun (h : List Nat) => (h.map (· / 64)).eraseDups
  let act := shareWays ((s.ctxs.slots.filter fun e => e.2.act.lc).map fun e => (e.1, dies e.2.homeC, e.2.act.waysRes)) []
  let cfg := shareWays ((s.ctxs.slots.filter fun e => e.2.cfg.lc).map fun e => (e.1, dies (e.2.nextHomes.getD (e.2.homeE, e.2.homeC)).2, e.2.cfg.waysRes)) []
  let of := fun (l : List (Nat × Nat)) (c w : Nat) => ((l.find? fun x => decide (x.1 = c)).map (·.2)).getD w
  { s with ctxs := { s.ctxs with slots := tmap s.ctxs.slots fun c k =>
    { k with act := { k.act with waysRes := of act c k.act.waysRes }, cfg := { k.cfg with waysRes := of cfg c k.cfg.waysRes } } } }

/-- What follows for a context whose homes, or only their numbers, have changed: `HOME_GEN` increments, saved records and waits are
renumbered, `HOMES_CHANGED` is raised (06 R206). `k` is the slot before the change. -/
def tellHomes (oldE oldC : List Nat) (c : Nat) (k : Slot) (s : State) : State :=
  match slotOf c s with
  | none => s
  | some q =>
    let moved := decide (q.homeE ≠ k.homeE) || decide (q.homeC ≠ k.homeC)
    let renum := decide (k.homeE.map (logicalOf oldE) ≠ q.homeE.map (logicalOf (actEng s))) || decide (k.homeC.map (logicalOf oldC) ≠ q.homeC.map (logicalOf (actCore s)))
    let cut := k.act.lc && (decide (q.homeE.length < k.homeE.length) || decide (q.homeC.length < k.homeC.length) || decide (q.act.waysRes < k.act.waysRes))
    let pe := (k.homeE.filter fun u => !q.homeE.contains u).zip (q.homeE.filter fun u => !k.homeE.contains u)
    let pc := (k.homeC.filter fun u => !q.homeC.contains u).zip (q.homeC.filter fun u => !k.homeC.contains u)
    if moved || renum then
      let t := modSlot c (fun x => { x with homeGen := x.homeGen + 1, saved := x.saved.map (renameSaved pe pc) }) s
      let t := if k.saved.isSome then renameWaits pc c t else t
      raiseEvent 0x15 0 0 c 0 (leBytes 2 q.homeE.length ++ leBytes 2 q.homeC.length ++ leBytes 1 (b2n cut + 2 * b2n (!moved))) t
    else s

/-- Every context's homes after a capability change (06 R206): LC contexts keep their reservations in ascending order. -/
def rehomeAll (oldE oldC : List Nat) (sub : List (Nat × Nat)) (subC : Nat → List (Nat × Nat)) (s : State) : State :=
  let lc := s.ctxs.slots.filter fun e => e.2.act.lc
  let se := shareOut (actEng s).length (lc.map fun e => (e.1, e.2.homeE.length))
  let sc := shareOut (actCore s).length (lc.map fun e => (e.1, e.2.homeC.length))
  let ne := fun (e : Nat × Slot) => ((se.find? fun x => decide (x.1 = e.1)).map (·.2)).getD (min e.2.homeE.length (actEng s).length)
  let nc := fun (e : Nat × Slot) => ((sc.find? fun x => decide (x.1 = e.1)).map (·.2)).getD (min e.2.homeC.length (actCore s).length)
  let t := s.ctxs.slots.foldl (fun t e => modSlot e.1 (fun q => { q with homeE := keptE sub (ne e) e.2 s, homeC := keptC (subC e.1) (nc e) e.2 s }) t) s
  let t := cutWays (s.ctxs.slots.foldl (fun t e => rehome sub (subC e.1) e.1 e.2 (ne e) (nc e) t) t)
  s.ctxs.slots.foldl (fun t e => tellHomes oldE oldC e.1 e.2 t) t

end Sys2Proof.Machine
end

