-- ==== Sys2Proof/Machine/Engine.lean ====
section
/-! DEFINITION. Matrix engines (03) and saturation counting (04 R151 to R155): decoding an instruction of the ring,
the meanings of the engine instructions, faults, stops, clearing, and spare replacement. An instruction completes in the
command that runs it (log 46). -/
namespace Sys2Proof.Machine

/-! ### Access to an engine -/

/-- An engine; one that nothing has touched is as after reset: `STOPPED` if active, `OFF` otherwise (R121). -/
def engOf (e : Nat) (s : State) : Eng :=
  match tget s.eng.eng e with
  | some g => g
  | none => ⟨EngSt.blank, if s.caps.engMap.contains e then .stopped else .off, 0, 0, none, Ring.init⟩

def setEng (e : Nat) (g : Eng) (s : State) : State := { s with eng := { s.eng with eng := tset s.eng.eng e g } }
def modEng (e : Nat) (f : Eng → Eng) (s : State) : State := setEng e (f (engOf e s)) s
def modSav (e : Nat) (f : EngSt → EngSt) (s : State) : State := modEng e (fun g => { g with sav := f g.sav }) s

/-- Physical die of an engine. -/
def engDie (e : Nat) : Nat := e / 20

/-- The engine's registers answer: it is powered. -/
def engOn (e : Nat) (s : State) : Bool := decide (e < 80) && decide ((engOf e s).st ≠ .off) && clockPowered (engDie e) s

/-- Index of the instruction that a command of the sequencer acts on: the held one in `WAIT`, else the next to issue (R112, R121). -/
def engIdx (g : Eng) : U16 := if g.st = .wait then g.sav.head - 1 else g.sav.head

/-- The sequencer may go on: `RUN` set, no stop, fault or clearing, and an instruction waits or is held; an engine that has reached
`STOPPED` with `RUN` written 1 again goes on from there (R121; log 48). -/
def canIssue (g : Eng) : Bool := g.sav.run && (decide (g.st = .wait) || (decide (g.st = .idle ∨ g.st = .run ∨ g.st = .stopped) && decide (g.sav.head ≠ g.sav.tail)))

/-- The instruction at an index of the ring, as a 128-bit number (R110, R111). -/
def ringInstr (g : EngSt) (i : U16) : Nat := leNat (Memory.readN 0 g.mem (0x1C0000 + 16 * (i.toNat % 8192)) 16)

/-! ### Decoding (R111) -/

/-- Formats of a pass agree (R92). -/
def passOk (a w : Nat) : Bool :=
  fmtOperand a && fmtOperand w && decide (fmtClass a = fmtClass w) && decide (fmtInt a = fmtInt w)

/-- Rows of a view, lanes of a view, bytes of a row (R108). -/
def viewRows (v : Bool) : Nat := if v then 512 else 256
def viewLanes (v : Bool) : Nat := if v then 256 else 512
def viewBytes (v : Bool) : Nat := if v then 1024 else 2048

/-- Reserved bits of a list of fields (position, width) are all 0. -/
def zeroFields (w : Nat) (l : List (Nat × Nat)) : Bool := l.all fun f => decide (bits w f.1 f.2 = 0)

/-- `ROW0` and `NROWS` are in the range of the view. -/
def rowsOk (w : Nat) : Bool :=
  let n := viewRows (bit w 6)
  decide (bits w 16 9 < n) && decide (1 ≤ bits w 32 10) && decide (bits w 32 10 ≤ n)

/-- `DADDR` or `LADDR`: activation buffer or operand area. -/
def areaOk (a : Nat) : Bool := decide (a ≤ 2047) || decide (3840 ≤ a)

/-- Chunks that a row forms (R117). -/
def chunksPerRow (fmt : Nat) (v : Bool) : Nat := if fmtClass fmt = 4 then 1 else viewLanes v / 256

def ldwLegal (w : Nat) : Bool :=
  zeroFields w [(6, 2), (12, 4), (24, 8), (41, 7), (57, 7), (77, 51)] && fmtOperand (bits w 8 4)
    && !(bit w 5 && decide (fmtClass (bits w 8 4) = 16)) && decide (1 ≤ bits w 32 9) && decide (bits w 16 8 + bits w 32 9 ≤ 256)

def strmLegal (w : Nat) : Bool :=
  zeroFields w [(7, 1), (27, 5), (43, 5), (57, 7), (80, 48)] && passOk (bits w 8 4) (bits w 12 4)
    && !(bit w 5 && decide (fmtClass (bits w 12 4) = 16)) && decide (1 ≤ bits w 32 11) && decide (bits w 32 11 ≤ 1024)
    && decide (bits w 48 9 < viewRows (decide (fmtClass (bits w 12 4) = 16))) && decide (bits w 64 16 ≠ 0)

def drnLegal (w : Nat) : Bool := zeroFields w [(5, 1), (7, 9), (25, 7), (42, 6), (60, 68)] && rowsOk w && areaOk (bits w 48 12)

def epiLegal (w : Nat) : Bool :=
  zeroFields w [(4, 2), (7, 1), (12, 4), (25, 7), (42, 6), (60, 4), (96, 32)] && decide (bits w 8 4 ≤ 9) && rowsOk w && areaOk (bits w 48 12)

def scqLegal (w : Nat) : Bool :=
  zeroFields w [(7, 1), (12, 4), (25, 7), (42, 6), (59, 5), (78, 2), (88, 40)] && fmtOperand (bits w 8 4)
    && !(bit w 4 && decide (fmtClass (bits w 8 4) = 16)) && rowsOk w
    && decide (1 ≤ bits w 76 2) && decide (bits w 76 2 ≤ 2) && decide (bits w 75 1 + bits w 76 2 ≤ chunksPerRow (bits w 8 4) (bit w 6))

def syncLegal (active w : Nat) : Bool :=
  zeroFields w [(11, 5), (37, 91)] && decide (bits w 4 4 ≤ 3) && !(decide (bits w 4 4 = 2) && decide (active ≤ bits w 32 5))

/-- Which instruction a 128-bit word is: `CLASS`, and `OP` for `EPI` and `SYNC`; none if it is illegal (R111). `active`
is the number of active engines of the die. -/
def engDecode (active w : Nat) : Option (Nat × Nat) :=
  match bits w 0 4 with
  | 1 => if ldwLegal w then some (1, 0) else none
  | 2 => if strmLegal w then some (2, 0) else none
  | 3 => if drnLegal w then some (3, 0) else none
  | 4 => if epiLegal w then some (4, bits w 8 4) else none
  | 5 => if scqLegal w then some (5, 0) else none
  | 6 => if syncLegal active w then some (6, bits w 4 4) else none
  | _ => none

/-! ### Faults (R124, R125) -/

/-- Bits of `ENG_FAULT`. -/
def fIllegal : Nat := 0
def fFormat : Nat := 1
def fTag : Nat := 2
def fEcc : Nat := 3
def fTail : Nat := 4

/-- Logical index of an engine, `0xFF` when not active (R121). -/
def engLogical (e : Nat) (s : State) : Nat := ((logicalOf s.caps.engMap e).getD 0xFF) % 256

/-- `ENG_ID` (R121): the role of an engine is active, spare or failed. -/
def engId (e : Nat) (s : State) : Nat :=
  let role := if s.caps.engMap.contains e then 0 else if s.caps.engFailed.contains e then 2 else 1
  engDie e + 2 ^ 2 * (e % 20) + 2 ^ 8 * engLogical e s + 2 ^ 16 * role

/-- `ENG_STAT` (R121). The `BUSY` bits read 0: an instruction is one action, so none is in progress between two commands (log 46). -/
def engStat (e : Nat) (s : State) : Nat := (engOf e s).st.code

/-- A fault: the bit, the index, `RUN` cleared, state `FAULT`, and `ENGINE_FAULT`. -/
def engFault (e b : Nat) (idx : U16) (s : State) : State :=
  let t := modEng e (fun g => { g with fault := g.fault ||| BitVec.ofNat 32 (2 ^ b), faultIdx := idx, st := .fault, sav := { g.sav with run := false } }) s
  let g := engOf e t
  raiseEvent 0x10 2 (engDie e) (g.owner.getD 0xFF) 0
    (leBytes 1 (e % 20) ++ leBytes 1 g.fault.toNat ++ leBytes 2 idx.toNat ++ leBytes 1 (engLogical e s)) t

/-- The engine completes the instruction it issues or holds with a new saved state, and goes on (R112, R121). -/
def engNext (e : Nat) (f : EngSt → EngSt) (s : State) : State :=
  modEng e (fun g =>
    let v := f g.sav
    let v := { v with head := engIdx g + 1 }
    { g with sav := v, st := if v.head = v.tail then .idle else .run }) s

/-- Issues the instruction at the head, or looks at the held one again: an illegal one faults, one of the class and operation given runs, any
other command finds nothing to do (R111, R112; log 5). -/
def engIssue (e cls op : Nat) (go : Nat → State → State) (s : State) : State :=
  let g := engOf e s
  if engOn e s && canIssue g then
    let w := ringInstr g.sav (engIdx g)
    match engDecode (dieEngs (engDie e) s).length w with
    | none => engFault e fIllegal (engIdx g) (modSav e (fun v => { v with head := engIdx g }) s)
    | some k => if k = (cls, op) then go w s else s
  else s

/-! ### `LDW` (R91, R109, R113) -/

/-- Weight registers of one cell column from its record; bits that the mode leaves unused are 0 (R91). -/
def loadColumn (tag fmt : Nat) (col rec : Nat) (g : EngSt) : EngSt :=
  let bytes := Memory.readN 0 g.mem (0x180000 + 512 * (rec % 512)) 512
  let mask : Nat := if fmtBits fmt = 6 then 0x3F3F else 0xFFFF
  let w := (List.range 256).foldl (fun t i => aset 0 t (65536 * tag + 256 * col + i) (BitVec.ofNat 16 (fld bytes (2 * i) 2 &&& mask))) g.wreg
  { g with wreg := w, colFmt := aset 0 g.colFmt (256 * tag + col) fmt }

/-- Staging byte at an offset that wraps modulo 256 KiB (R109). -/
def stagingByte (g : EngSt) (off : Nat) : Byte := Memory.read 0 g.mem (0x180000 + off % 0x40000)

/-- Scale registers of the two lanes of a cell column in the 16 tiles of its group (R109, R113). -/
def loadScales (tag fmt col : Nat) (plane : Option Nat) (g : EngSt) : EngSt :=
  let val := fun (l r : Nat) =>
    match plane with
    | none => (0x7F : Byte)
    | some off => if fmtClass fmt = 4 then stagingByte g (off + 16 * l + r) else stagingByte g (off + 8 * l + r / 2)
  let put := fun (t : Tbl Byte) (lr : Nat × Nat) =>
    aset 0 t (8192 * tag + 32 * (16 * lr.2 + col / 16) + 2 * (col % 16) + lr.1) (val lr.1 lr.2)
  { g with wscale := ((List.range 2).flatMap fun l => (List.range 16).map fun r => (l, r)).foldl put g.wscale }

/-- Loads `NCOL` columns in ascending order (R113). -/
def ldwState (w : Nat) (g : EngSt) : EngSt :=
  let tag := bits w 4 1
  let fmt := bits w 8 4
  let sb := if fmtClass fmt = 4 then 32 else 16
  (List.range (bits w 32 9)).foldl (fun v k =>
    let plane := if bit w 5 then some (32 * bits w 64 13 + k * sb) else none
    loadScales tag fmt (bits w 16 8 + k) plane (loadColumn tag fmt (bits w 16 8 + k) (bits w 48 9 + k) v)) g

/-- Log 165. -/
def execLdw (e : Nat) (s : State) : Res := .next (engIssue e 1 0 (fun w t => engNext e (ldwState w) t) s)

/-- A software fault of the instruction at the head. Of what was issued behind it only an `LDW` can have taken effect, and runs to
completion; whether it was issued is timing, and a free bit says it (R124; log 218). -/
def engSoft (e b : Nat) (s : State) : State :=
  let g := (engOf e s).sav
  let w := ringInstr g (g.head + 1)
  let behind := decide (g.head + 1 ≠ g.tail) && decide (engDecode (dieEngs (engDie e) s).length w = some (1, 0)) && decide (Config.freeBits 1 s.freeCtr = 1)
  engFault e b g.head (bumpFree (if behind then modSav e (ldwState w) s else s))

/-! ### Accumulator rows (R108) -/

/-- Local address of a lane of a row. -/
def laneAddr (v : Bool) (row lane : Nat) : Nat :=
  if v then 0x100000 + 0x8000 * (lane / 16) + 64 * row + 4 * (lane % 16)
  else 0x100000 + 0x8000 * (lane / 32) + 128 * row + 4 * (lane % 32)

def readLane (g : EngSt) (v : Bool) (row lane : Nat) : U32 := BitVec.ofNat 32 (leNat (Memory.readN 0 g.mem (laneAddr v row lane) 4))
def writeLane (v : Bool) (row lane : Nat) (x : U32) (g : EngSt) : EngSt :=
  { g with mem := Memory.writeN 0 g.mem (laneAddr v row lane) (leBytes 4 x.toNat) }

/-- Row types: of a 512-lane row the type of its two halves when they agree (R108). -/
def rowType (g : EngSt) (v : Bool) (row : Nat) : Option Bool :=
  if v then some (aget false g.rowInt row)
  else if aget false g.rowInt (2 * row) = aget false g.rowInt (2 * row + 1) then some (aget false g.rowInt (2 * row)) else none

def setRowType (v : Bool) (row : Nat) (ty : Bool) (g : EngSt) : EngSt :=
  if v then { g with rowInt := aset false g.rowInt row ty }
  else { g with rowInt := aset false (aset false g.rowInt (2 * row) ty) (2 * row + 1) ty }

/-- Rows that an accumulator instruction names, in order (R115). -/
def rowList (w : Nat) : List Nat := (List.range (bits w 32 10)).map fun k => (bits w 16 9 + k) % viewRows (bit w 6)

/-! ### `STRM` (R93 to R95, R114, R139 to R144) -/

/-- The vector of a slot as its number of blocks of 32 elements, each a number and its scale (R107, R137). -/
def slotVector (g : EngSt) (fmt : Nat) (scaled : Bool) (slot : Nat) : List (Nat × Nat) :=
  let w := fmtBits fmt
  let sz := 4 * w + b2n scaled
  (List.range (if w = 4 then 16 else 8)).map fun b =>
    (leNat (Memory.readN 0 g.mem (512 * slot + b * sz) (4 * w)), if scaled then (Memory.read 0 g.mem (512 * slot + b * sz + 4 * w)).toNat else 0x7F)

/-- Element `k` of a vector. -/
def vecElem (w : Nat) (v : List (Nat × Nat)) (k : Nat) : Nat := bits (v.getD (k / 32) (0, 0x7F)).1 (w * (k % 32)) w

/-- Weight of reduction index `k` and lane `n` in the registers of a tag (R91). -/
def weightOf (g : EngSt) (tag fmt k n : Nat) : Nat :=
  let reg := fun (i j : Nat) => (aget (0 : U16) g.wreg (65536 * tag + 256 * j + i)).toNat
  match fmtClass fmt with
  | 4 => bits (reg (k / 2) (n / 2)) (8 * (k % 2) + 4 * (n % 2)) 4
  | 8 => bits (reg k (n / 2)) (8 * (n % 2)) (fmtBits fmt)
  | _ => reg k n

/-- Reduction indices of a tile row (R90, R94). -/
def tileK (cls r : Nat) : List Nat := if cls = 4 then rangeFrom (32 * r) 32 else rangeFrom (16 * r) 16

/-- Exponent that both scales of a tile's lane add, none for a NaN scale: that of the activation block, `0x7F` where the slots carry none,
and that of the lane's scale register; a 16-bit pass has no scale (R94, R135, R140, R141; log 166). -/
def tileShift (g : EngSt) (tag cls r n : Nat) (v : List (Nat × Nat)) : Option Int :=
  if cls = 16 then some 0
  else
    let ea := (v.getD (if cls = 4 then r else r / 2) (0, 0x7F)).2
    let ew := (aget (0 : Byte) g.wscale (8192 * tag + 32 * (16 * r + n / 32) + n % 32)).toNat
    if ea = 0xFF ∨ ew = 0xFF then none else some ((ea : Int) + ew - 254)

/-- The sum that a vector brings to a lane: 16 tile partials through the column tree (R140 to R144). -/
def laneSum (g : EngSt) (w : Nat) (v : List (Nat × Nat)) (n : Nat) : U32 :=
  let tag := bits w 4 1
  let fa := bits w 8 4
  let fw := bits w 12 4
  let cls := fmtClass fw
  let sh := fun r => tileShift g tag cls r n v
  if fmtInt fw then
    let part := fun r => intPartial (sh r) (((tileK cls r).map fun k => signed (fmtBits fa) (vecElem (fmtBits fa) v k) * signed (fmtBits fw) (weightOf g tag fw k n)).foldl (· + ·) 0)
    ofInt32 ((columnTree intAdd ((List.range 16).map part)).headD 0)
  else
    let part := fun r => tilePartial (decide (cls = 16)) (sh r) ((tileK cls r).map fun k => fvMul (decodeFloat fa (vecElem (fmtBits fa) v k)) (decodeFloat fw (weightOf g tag fw k n)))
    (columnTree fpAdd ((List.range 16).map part)).headD 0

/-- The view of a `STRM`: 256 lanes for the 16-bit class. -/
def strmView (w : Nat) : Bool := decide (fmtClass (bits w 12 4) = 16)

/-- Accumulator row of the k-th vector (R114). -/
def strmRow (w k : Nat) : Nat := (bits w 48 9 + k) % viewRows (strmView w)

/-- Lanes of the masked column groups, of a pass. -/
def strmLanes (w : Nat) : List Nat :=
  let per := if strmView w then 16 else 32
  (maskBits (bits w 64 16) 16).flatMap fun g => rangeFrom (per * g) per

/-- One vector of a pass: each lane of the masked groups is set or added to (R95, R114, R142, R143). -/
def strmVector (w k : Nat) (g : EngSt) : EngSt :=
  let v := slotVector g (bits w 8 4) (bit w 5) ((bits w 16 11 + k) % 2048)
  let row := strmRow w k
  let view := strmView w
  let int := fmtInt (bits w 12 4)
  let g1 := (strmLanes w).foldl (fun t n =>
    let x := laneSum g w v n
    let y := if bit w 6 then (if int then ofInt32 (intAdd (int32 (readLane g view row n)) (int32 x)) else fpAdd (readLane g view row n) x) else x
    writeLane view row n y t) g
  if bit w 6 then g1 else setRowType view row int g1

/-- The checks before the first vector: column formats of the masked groups, and row types with `ACC` (R114). -/
def strmOk (w : Nat) (g : EngSt) : Bool :=
  (maskBits (bits w 64 16) 16).all (fun q => (rangeFrom (16 * q) 16).all fun c => decide (aget 0 g.colFmt (256 * bits w 4 1 + c) = bits w 12 4))
    && (!(bit w 6) || (List.range (bits w 32 11)).all fun k => decide (rowType g (strmView w) (strmRow w k) = some (fmtInt (bits w 12 4))))

def strmState (w : Nat) (g : EngSt) : EngSt := (List.range (bits w 32 11)).foldl (fun v k => strmVector w k v) g

/-- Accumulator rows of the 256-lane view made undefined: bytes that nothing constrains (R97, R124). -/
def undefRows (rows : List Nat) (ctr : Nat) (g : EngSt) : EngSt :=
  { g with mem := (rows.zip (List.range rows.length)).foldl (fun m e =>
      (List.range 256).foldl (fun m l => Memory.writeN 0 m (laneAddr true e.1 l) ((List.range 4).map fun b => Config.freeBits 8 (ctr + 1024 * e.2 + 4 * l + b))) m) g.mem }

/-- 256-lane rows that a pass targets. -/
def strmRows (w : Nat) : List Nat :=
  ((List.range (min (bits w 32 11) (viewRows (strmView w)))).map (strmRow w)).flatMap fun r => if strmView w then [r] else [2 * r, 2 * r + 1]

/-- Most cycles that a feeder can lose over the vectors of a `STRM`: one in 32 to its activation bank, one in 64 to an accumulator bank
(R99, R126). -/
def stallMax (n : Nat) : Nat := (n + 31) / 32 + (n + 63) / 64

/-- Stall cycles of the 16 feeders at the completion of a `STRM`: as many as R99 allows, which the spec leaves to the banks (19 R551; log
47). -/
def stallSamples (e n : Nat) (s : State) : State :=
  (List.range 16).foldl (fun t r => bumpFree (monSample (66 + engDie e) (Config.freeNat t.freeCtr % (stallMax n + 1) : Nat) r t)) s

/-- `STRM`; with `tagFault` a column-tree node saw unequal tags: the rows of the pass are undefined (R97, R114, R124). -/
def strmRun (e : Nat) (tagFault : Bool) (w : Nat) (s : State) : State :=
  let g := engOf e s
  if strmOk w g.sav then
    if tagFault then
      let t := engNext e (fun v => undefRows (strmRows w) s.freeCtr (strmState w v)) s
      engFault e fTag g.sav.head (stallSamples e (bits w 32 11) (bumpFreeBy (1024 * (strmRows w).length) t))
    else stallSamples e (bits w 32 11) (engNext e (strmState w) s)
  else engSoft e fFormat s

def execStrm (e : Nat) (tagFault : Bool) (s : State) : Res := .next (engIssue e 2 0 (strmRun e tagFault) s)

/-! ### `DRN` (R115) -/

/-- The region of a 512 B unit address: its base and its size (R114). -/
def areaOf (unit : Nat) : Nat × Nat := if unit ≤ 2047 then (0, 0x100000) else (0x1E0000, 0x20000)

/-- Address at an offset from a unit, wrapped within its region. -/
def areaAddr (unit off : Nat) : Nat := (areaOf unit).1 + (512 * unit + off - (areaOf unit).1) % (areaOf unit).2

def readArea (g : EngSt) (unit off n : Nat) : Bytes := (List.range n).map fun i => Memory.read 0 g.mem (areaAddr unit (off + i))
def writeArea (unit off : Nat) (bs : Bytes) (g : EngSt) : EngSt :=
  { g with mem := (bs.zip (List.range bs.length)).foldl (fun m e => Memory.write 0 m (areaAddr unit (off + e.2)) e.1) g.mem }

/-- A row as little-endian entries in lane order (R108). -/
def rowBytes (g : EngSt) (v : Bool) (row : Nat) : Bytes := (List.range (viewLanes v)).flatMap fun n => leBytes 4 (readLane g v row n).toNat

/-- Copies one row out, and clears it if `ZERO` is set. -/
def drnRow (w : Nat) (row k : Nat) (g : EngSt) : EngSt :=
  let v := bit w 6
  let g1 := writeArea (bits w 48 12) (k * viewBytes v) (rowBytes g v row) g
  if bit w 4 then (List.range (viewLanes v)).foldl (fun t n => writeLane v row n 0 t) g1 else g1

def drnState (w : Nat) (g : EngSt) : EngSt := ((rowList w).zip (List.range (bits w 32 10))).foldl (fun t e => drnRow w e.1 e.2 t) g

def execDrn (e : Nat) (s : State) : Res := .next (engIssue e 3 0 (fun w t => engNext e (drnState w) t) s)

/-! ### `EPI` (R116, R145) -/

/-- Applies a lane function to one row: the entry, the lane, the row's number in the instruction. -/
def epiRow (w : Nat) (f : U32 → Nat → Nat → U32) (row k : Nat) (g : EngSt) : EngSt :=
  (List.range (viewLanes (bit w 6))).foldl (fun t n => writeLane (bit w 6) row n (f (readLane g (bit w 6) row n) n k) t) g

/-- An `EPI` over rows of one type: the types of all rows are checked first (R116). -/
def epiRun (e : Nat) (int : Bool) (f : EngSt → Nat → U32 → Nat → Nat → U32) (w : Nat) (s : State) : State :=
  let g := (engOf e s).sav
  if (rowList w).all fun r => decide (rowType g (bit w 6) r = some int) then
    engNext e (fun v => ((rowList w).zip (List.range (bits w 32 10))).foldl (fun t x =>
      let t1 := epiRow w (f v w) x.1 x.2 t
      if int then setRowType (bit w 6) x.1 false t1 else t1) v) s
  else engSoft e fFormat s

/-- The per-lane vector, the per-row matrix at `LADDR`, and the immediate (R116). The vector wraps within its region too (log 219). -/
def epiVec (g : EngSt) (w lane : Nat) : U32 := BitVec.ofNat 32 (leNat (readArea g (bits w 48 12) (4 * lane) 4))
def epiMat (g : EngSt) (w k lane : Nat) : U32 := BitVec.ofNat 32 (leNat (readArea g (bits w 48 12) (k * viewBytes (bit w 6) + 4 * lane) 4))
def epiImm (w : Nat) : U32 := BitVec.ofNat 32 (bits w 64 32)

def execAddVec (e : Nat) (s : State) : Res := .next (engIssue e 4 0 (epiRun e false (fun g w a l _ => fpAdd a (epiVec g w l))) s)
def execMulVec (e : Nat) (s : State) : Res := .next (engIssue e 4 1 (epiRun e false (fun g w a l _ => fpMul a (epiVec g w l))) s)
def execAddImm (e : Nat) (s : State) : Res := .next (engIssue e 4 2 (epiRun e false (fun _ w a _ _ => fpAdd a (epiImm w))) s)
def execMulImm (e : Nat) (s : State) : Res := .next (engIssue e 4 3 (epiRun e false (fun _ w a _ _ => fpMul a (epiImm w))) s)
def execRelu (e : Nat) (s : State) : Res := .next (engIssue e 4 4 (epiRun e false (fun _ _ a _ _ => fpRelu a)) s)
def execGelu (e : Nat) (s : State) : Res := .next (engIssue e 4 5 (epiRun e false (fun _ _ a _ _ => fpAct fxGelu Config.gelu a)) s)
def execSilu (e : Nat) (s : State) : Res := .next (engIssue e 4 6 (epiRun e false (fun _ _ a _ _ => fpAct fxSilu Config.silu a)) s)
def execClamp (e : Nat) (s : State) : Res := .next (engIssue e 4 7 (epiRun e false (fun _ w a _ _ => fpClamp a (epiImm w))) s)
def execDeq (e : Nat) (s : State) : Res := .next (engIssue e 4 8 (epiRun e true (fun g w a l _ => fpDeq a (epiVec g w l))) s)
def execAddRows (e : Nat) (s : State) : Res := .next (engIssue e 4 9 (epiRun e false (fun g w a l k => fpAdd a (epiMat g w k l))) s)

/-! ### `SCQ` (R117, R146 to R149, R152) -/

/-- The bytes of one chunk: its elements converted, and padding of zeros to 512 for a 256-lane row of a 4-bit output,
whose blocks carry the scale `0x7F` (R117). Also the count of saturations and the generator. -/
def scqChunk (w : Nat) (xs : List U32) (g : U64) : Bytes × Nat × U64 :=
  let fmt := bits w 8 4
  let (bs, n, g1) := convertBlocks fmt (bit w 4) (bit w 5) (blocks32 (xs.length / 32) xs) g
  let pad := if fmtClass fmt = 4 ∧ xs.length = 256 then (List.replicate 8 (zeros 16 ++ if bit w 4 then [0x7F] else [])).flatten else []
  (bs ++ pad, n, g1)

/-- Writes a chunk into its slot, the rest of the slot zeros. -/
def writeSlot (slot : Nat) (bs : Bytes) (g : EngSt) : EngSt := { g with mem := Memory.writeN 0 g.mem (512 * slot) (sub bs 0 512) }

/-- Quantises the rows in order of row, then chunk; the state and the count of saturated elements. -/
def scqRow (w row k : Nat) (a : EngSt × Nat) : EngSt × Nat :=
  let v := bit w 6
  let len := if fmtClass (bits w 8 4) = 4 then min 512 (viewLanes v) else 256
  (List.range (bits w 76 2)).foldl (fun a i =>
    let c := bits w 75 1 + i
    let xs := (rangeFrom (c * len) len).map fun n => readLane a.1 v row n
    let (bs, n, g) := scqChunk w xs a.1.sr
    (writeSlot ((bits w 48 11 + i * bits w 64 11 + k) % 2048) bs { a.1 with sr := if bit w 5 then g else a.1.sr }, a.2 + n)) a

def scqState (w : Nat) (g : EngSt) : EngSt × Nat := ((rowList w).zip (List.range (bits w 32 10))).foldl (fun a e => scqRow w e.1 e.2 a) (g, 0)

/-- Elements that an `SCQ` converts; padding is not counted (R117). -/
def scqElements (w : Nat) : Nat :=
  bits w 32 10 * bits w 76 2 * (if fmtClass (bits w 8 4) = 4 then viewLanes (bit w 6) else 256)

/-- `SCQ`: on completion one count record for the owner's stream table, and the die's saturation sample. -/
def scqRun (e w : Nat) (s : State) : State :=
  let g := engOf e s
  if (rowList w).all fun r => decide (rowType g.sav (bit w 6) r = some false) then
    let n := (scqState w g.sav).2
    let t := engNext e (fun v => (scqState w v).1) s
    let t := match g.owner with
      | some c => { t with eng := { t.eng with recs := t.eng.recs ++ [⟨e, c, bits w 80 8, scqElements w, n⟩] } }
      | none => t
    monSample (74 + engDie e) (n : Int) 0 t
  else engSoft e fFormat s

def execScq (e : Nat) (s : State) : Res := .next (engIssue e 5 0 (scqRun e) s)

/-! ### Stream tables (R151 to R155) -/

/-- `LIMIT` in units of 2^−16: saturations above `FRAC · 2^(WIN_LOG2 − 16)`. -/
def sqOver (q : Sq) (sat : Nat) : Bool := decide (sat * 65536 > bits q.cfg.toNat 16 16 * 2 ^ bits q.cfg.toNat 8 5)

/-- Applies a count record to its stream table entry (R153, R155). -/
def applyRecord (r : CountRec) (s : State) : State :=
  let key := 256 * r.ctx + r.sid
  let q := tgetD s.eng.sq key Sq.init
  if bit q.cfg.toNat 0 then
    let total := q.total + r.elements
    let sat := q.sat + r.saturated
    let fire := sqOver q sat && !q.fired
    let q1 := { q with total := total, sat := sat, fired := q.fired || fire, events := if fire then satInc 255 q.events else q.events }
    let q2 := if 2 ^ bits q.cfg.toNat 8 5 ≤ total then { q1 with windows := q.windows + 1, total := 0, sat := 0, fired := false } else q1
    let t := if fire then
        raiseEvent 0x11 2 (engDie r.eng) r.ctx 0
          (leBytes 1 r.sid ++ leBytes 1 (bits q.cfg.toNat 8 5) ++ leBytes 2 (bits q.cfg.toNat 16 16) ++ leBytes 4 sat ++ leBytes 4 total
            ++ leBytes 2 q.windows.toNat ++ leBytes 1 (r.eng % 20)) s
      else s
    { t with eng := { t.eng with sq := tset t.eng.sq key q2 } }
  else s

/-- The first record of an engine is applied; records of one engine go in completion order (R152). -/
def execStreamRecordApply (e : Nat) (s : State) : Res :=
  .next (match s.eng.recs.find? fun r => decide (r.eng = e) with
    | none => s
    | some r => applyRecord r { s with eng := { s.eng with recs := s.eng.recs.erase r } })

/-! ### `SYNC` (R118) -/

def syncCnt (g : EngSt) (k : Nat) : U16 := aget 0 g.sync k
def setSync (k : Nat) (v : U16) (g : EngSt) : EngSt := { g with sync := aset 0 g.sync k v }

/-- A `SYNC` is issued and holds issue: `SEQ_HEAD` is past it (R112, R121). -/
def engWait (e : Nat) (s : State) : State := modEng e (fun g => { g with st := .wait, sav := { g.sav with head := engIdx g + 1 } }) s

def execFence (e : Nat) (s : State) : Res := .next (engIssue e 6 0 (fun _ t => engNext e id t) s)

def execWait (e : Nat) (s : State) : Res :=
  .next (engIssue e 6 1 (fun w t =>
    if (syncCnt (engOf e t).sav (bits w 8 3) - BitVec.ofNat 16 (bits w 16 16)).toNat < 2 ^ 15 then engNext e id t else engWait e t) s)

/-- `INC` on an engine of the die by its die-local logical number; one that is not the context's is not reached (R118;
06 R199). -/
def incTarget (e w : Nat) (s : State) : State :=
  match (dieEngs (engDie e) s)[bits w 32 5]? with
  | none => s
  | some q =>
    if (engOf q s).owner = (engOf e s).owner then
      modSav q (fun v => setSync (bits w 8 3) (syncCnt v (bits w 8 3) + BitVec.ofNat 16 (bits w 16 16)) v) s
    else s

def execInc (e : Nat) (s : State) : Res := .next (engIssue e 6 2 (fun w t => incTarget e w (engNext e id t)) s)

/-- Record of the completion queue of a die: 16 entries (R118; 01 R39). -/
def signalPush (e w : Nat) (s : State) : State :=
  let q := tgetD s.eng.cq (engDie e) []
  { s with eng := { s.eng with cq := tset s.eng.cq (engDie e) (q ++ [(engLogical e s, bits w 16 16, (engOf e s).owner.getD 0xFF)]) } }

def execSignal (e : Nat) (s : State) : Res :=
  .next (engIssue e 6 3 (fun w t =>
    if (tgetD t.eng.cq (engDie e) []).length < 16 then signalPush e w (engNext e id t) else engWait e t) s)

/-! ### Control (R121, R122, R126, R128) -/

/-- `RUN` written 1: ignored in `FAULT`, `CLEARING` and `OFF`; while a stop is being taken it is remembered (log 48). -/
def execRun (e : Nat) (s : State) : Res :=
  .next (let g := engOf e s
    if engOn e s && decide (g.st ≠ .fault) && decide (g.st ≠ .clearing) then
      setEng e { g with sav := { g.sav with run := true },
                        st := if g.st = .stopped then (if g.sav.head = g.sav.tail then .idle else .run) else g.st } s
    else s)

/-- `RUN` written 0: a stop at the next boundary. A `WAIT` that does not hold yet and a `SIGNAL` that finds the queue full are withdrawn:
`SEQ_HEAD` returns to it (R121, R126). -/
def stopEng (e : Nat) (s : State) : State :=
  modEng e (fun g => { g with sav := { g.sav with run := false, head := engIdx g }, st := if g.st = .idle ∨ g.st = .run ∨ g.st = .wait then .stopping else g.st }) s

def execStopRequest (e : Nat) (s : State) : Res := .next (if engOn e s then stopEng e s else s)

/-- The boundary is reached, in state `STOPPED`; `RUN` written 1 meanwhile lets issue go on from there (R126) (log 176). -/
def execEngineStopped (e : Nat) (s : State) : Res :=
  .next (let g := engOf e s
    if g.st = .stopping then setEng e { g with st := .stopped } s else s)

def execSkip (e : Nat) (s : State) : Res :=
  .next (let g := engOf e s
    if engOn e s && decide (g.st = .stopped) && decide (g.sav.head ≠ g.sav.tail) then setEng e { g with sav := { g.sav with head := g.sav.head + 1 } } s else s)

/-- `CLR` in state `STOPPED` starts clearing; `RUN` stays 0 (R121, R128). -/
def execClr (e : Nat) (s : State) : Res :=
  .next (let g := engOf e s
    if engOn e s && decide (g.st = .stopped) then setEng e { g with st := .clearing, sav := { g.sav with run := false } } s else s)

/-- Clearing ends: the blank state, the index registers 0 (R128). -/
def execClearDone (e : Nat) (s : State) : Res :=
  .next (let g := engOf e s
    if g.st = .clearing then setEng e { g with st := .stopped, sav := EngSt.blank, faultIdx := 0 } s else s)

/-- `SEQ_TAIL` written: taken or refused with `BAD_TAIL` (R122). -/
def seqTail (e : Nat) (v : U32) (g : Eng) (s : State) : State :=
  let n : U16 := BitVec.ofNat 16 v.toNat
  if (n - g.sav.head).toNat ≤ 8192 ∧ (g.sav.tail - g.sav.head).toNat ≤ (n - g.sav.head).toNat then
    setEng e { g with sav := { g.sav with tail := n }, st := if g.st = .idle ∧ n ≠ g.sav.head then .run else g.st } s
  else setEng e { g with fault := g.fault ||| BitVec.ofNat 32 (2 ^ fTail) } s

def execSeqTailWrite (e : Nat) (v : U32) (s : State) : Res := .next (if engOn e s then seqTail e v (engOf e s) s else s)

/-- `SYNC_INC`: the counter in bits 2:0 increases by the amount in bits 31:16 (R121, R123). -/
def execSyncInc (e : Nat) (v : U32) (s : State) : Res :=
  .next (if engOn e s then modSav e (fun g => setSync (bits v.toNat 0 3) (syncCnt g (bits v.toNat 0 3) + BitVec.ofNat 16 (bits v.toNat 16 16)) g) s else s)

def execSyncCntWrite (e : Nat) (k : Nat) (v : U32) (s : State) : Res :=
  .next (if engOn e s && decide (k < 8) then modSav e (setSync k (BitVec.ofNat 16 v.toNat)) s else s)

/-- `ENG_FAULT` bits written 1 are cleared; with only `BAD_TAIL` left the engine leaves `FAULT` (R124). -/
def execEngFaultClear (e : Nat) (v : U32) (s : State) : Res :=
  .next (if engOn e s then modEng e (fun g =>
      let f := g.fault &&& ~~~v
      { g with fault := f, st := if g.st = .fault ∧ f &&& 0xF = 0 then .stopped else g.st }) s
    else s)

/-! ### Hardware errors and spares (R124, R129) -/

/-- Completes the instruction in progress at a hardware error: the one at the head, whose rows are undefined after it (R124). A held
`SYNC` is withdrawn. -/
def engRunHead (e : Nat) (s : State) : State :=
  let g := engOf e s
  let w := ringInstr g.sav g.sav.head
  match engDecode (dieEngs (engDie e) s).length w with
  | some (1, _) => engNext e (ldwState w) s
  | some (2, _) => if strmOk w g.sav then stallSamples e (bits w 32 11) (engNext e (strmState w) s) else s
  | some (3, _) => engNext e (drnState w) s
  | some (5, _) => scqRun e w s
  | some (4, op) =>
    if (rowList w).all fun r => decide (rowType g.sav (bit w 6) r = some (decide (op = 8))) then
      engNext e (fun v => if op = 8 then (rowList w).foldl (fun t r => setRowType (bit w 6) r false t) v else v) s
    else s
  | _ => s

/-- 256-lane rows of accumulator rows of a view. -/
def rows256 (v : Bool) (l : List Nat) : List Nat := l.flatMap fun r => if v then [r] else [2 * r, 2 * r + 1]

/-- Accumulator rows that an instruction targets: those of a pass, of an `EPI`, of a `DRN` that clears them (R124; log 220). -/
def targetRows (active w : Nat) : List Nat :=
  match engDecode active w with
  | some (2, _) => strmRows w
  | some (3, _) => if bit w 4 then rows256 (bit w 6) (rowList w).eraseDups else []
  | some (4, _) => rows256 (bit w 6) (rowList w).eraseDups
  | _ => []

/-- An uncorrectable error, with (`busy`) or without an instruction in progress, met by its own read (`onRead`) or not. The instruction
completes, and the rows it targets become undefined, no others; `FAULT_IDX` is its index for its own read, else `SEQ_HEAD` (R124). -/
def eccUe (e : Nat) (busy onRead : Bool) (s : State) : State :=
  let g := engOf e s
  let idx := g.sav.head
  let running := busy && canIssue g && decide (g.st ≠ .wait)
  if running then
    let t := engRunHead e s
    let rs := targetRows (dieEngs (engDie e) s).length (ringInstr g.sav idx)
    let t := bumpFreeBy (1024 * rs.length) (modSav e (undefRows rs t.freeCtr) t)
    engFault e fEcc (if onRead then idx else idx + 1) t
  else engFault e fEcc idx (modSav e (fun v => { v with head := engIdx g }) s)

def execEccUe (e : Nat) (busy onRead : Bool) (s : State) : Res := .next (if engOn e s then eccUe e busy onRead s else s)

/-- The spare that firmware brings in for an engine: the lowest engine of its die that is neither active nor failed. -/
def spareFor (e : Nat) (s : State) : Option Nat :=
  (rangeFrom (20 * engDie e) 20).find? fun q => !(s.caps.engMap.contains q) && !(s.caps.engFailed.contains q)

/-- A service's work on a home unit of a context is replayed (R129; 18 R542): MODEL, AGENT, EMBED and TUNE run on home units (06 R211; 14
R413). -/
def replayOn (c : Nat) (s : State) : State :=
  replayReqs (fun r => decide (r.mbx = c) && (r.svc == 3 || r.svc == 4 || r.svc == 8 || r.svc == 9)) s

/-- A prep core moved or a die lost: also SEARCH and SCAN, which run on home cores (18 R542; 06 R202). -/
def replayHomes (c : Nat) (s : State) : State :=
  replayReqs (fun r => decide (r.mbx = c) && (r.svc == 3 || r.svc == 4 || r.svc == 6 || r.svc == 7 || r.svc == 8 || r.svc == 9)) s

/-- Firmware retires an engine: a spare of its die takes its logical index with the state that can still be read, or the
active count falls; homes, capabilities and replay follow (R129; 01 R49 to R51; 06 R206) (log 174). -/
def replaceEngine (e : Nat) (s : State) : State :=
  let g := engOf e s
  let oldE := s.caps.engMap
  let dead : Eng := { g with st := .off, owner := none, sav := EngSt.blank, fault := 0, faultIdx := 0, dma := Ring.init }
  let t := setEng e dead s
  let t := match spareFor e s with
    | some q =>
      let t := { t with caps := { t.caps with engMap := t.caps.engMap.map (fun p => if p = e then q else p), engFailed := t.caps.engFailed ++ [e] } }
      let t := setEng q { g with st := .stopped, fault := 0, faultIdx := 0, sav := { g.sav with run := false } } t
      rehomeAll oldE s.caps.coreMap [(e, q)] (fun _ => []) t
    | none =>
      let t := { t with caps := { t.caps with engMap := t.caps.engMap.filter (fun p => decide (p ≠ e)), engFailed := t.caps.engFailed ++ [e] } }
      rehomeAll oldE s.caps.coreMap [] (fun _ => []) t
  let t := capsChanged t
  match g.owner with
  | some c => replayOn c t
  | none => t

end Sys2Proof.Machine
end

