-- ==== Sys2Proof/Machine/Codec.lean ====
section
/-! DEFINITION. CRC-32C, SHAKE256 and the compressed chunk format of 08 R272. The two functions are standards that the
spec names and does not restate (log 51). -/
namespace Sys2Proof.Machine

/-! ### CRC-32C -/

/-- One bit of the reflected CRC. -/
def crcBit (c : U32) : U32 := if c &&& 1 = 1 then (c >>> 1) ^^^ 0x82F63B78 else c >>> 1
def crcByte (c : U32) (b : Byte) : U32 :=
  let x := c ^^^ b.setWidth 32
  crcBit (crcBit (crcBit (crcBit (crcBit (crcBit (crcBit (crcBit x)))))))
def crc32c (bs : Bytes) : U32 := ~~~(bs.foldl crcByte 0xFFFFFFFF)

/-! ### SHAKE256 -/

/-- The lane of column `x` and row `y`, both taken modulo 5, and a state built lane by lane. -/
def lane (a : List U64) (x y : Nat) : U64 := a.getD (x % 5 + 5 * (y % 5)) 0
def lanes (f : Nat → Nat → U64) : List U64 := (List.range 25).map fun i => f (i % 5) (i / 5)

/-- The standard's feedback register after `n` steps, from 1: eight bits, taps at 0, 4, 5 and 6. -/
def iotaReg (n : Nat) : Nat :=
  match n with
  | 0 => 1
  | k + 1 => let r := 2 * iotaReg k; if r < 256 then r else (r ^^^ 0x71) % 256

/-- What round `i` adds to lane (0, 0): bit 2^j − 1 is bit 0 of the register after 7·i + j steps. -/
def iotaLane (i : Nat) : U64 :=
  BitVec.ofNat 64 (sumN ((List.range 7).map fun j => iotaReg (7 * i + j) % 2 * 2 ^ (2 ^ j - 1)))

/-- Lanes in the order in which the rotations grow: from (1, 0), each (x, y) followed by (y, 2x + 3y). -/
def rhoWalk (n x y : Nat) : List (Nat × Nat) :=
  match n with
  | 0 => []
  | k + 1 => (x, y) :: rhoWalk k y ((2 * x + 3 * y) % 5)

/-- Rotation of a lane: the triangular number of its place in that order; none for (0, 0). -/
def rhoTurn (x y : Nat) : Nat :=
  match (rhoWalk 24 1 0).idxOf? (x, y) with
  | some t => (t + 1) * (t + 2) / 2 % 64
  | none => 0

/-- One round: the parities of the neighbouring columns, the rotated lanes moved to their new places, the rows combined. -/
def keccakRound (a : List U64) (i : Nat) : List U64 :=
  let parity := fun x => (List.range 5).foldl (fun v y => v ^^^ lane a x y) 0
  let mixed := lanes fun x y => lane a x y ^^^ parity (x + 4) ^^^ (parity (x + 1)).rotateLeft 1
  let moved := lanes fun x y => let z := (x + 3 * y) % 5; (lane mixed z x).rotateLeft (rhoTurn z x)
  let rows := lanes fun x y => lane moved x y ^^^ (lane moved (x + 2) y &&& ~~~(lane moved (x + 1) y))
  rows.set 0 (lane rows 0 0 ^^^ iotaLane i)

def keccakF (a : List U64) : List U64 := (List.range 24).foldl keccakRound a

/-- Absorbs one 136-byte block. -/
def absorb (a : List U64) (b : Bytes) : List U64 := keccakF ((List.range 25).map fun i => a.getD i 0 ^^^ (if i < 17 then BitVec.ofNat 64 (fld b (8 * i) 8) else 0))

def absorbAll (fuel : Nat) (a : List U64) (bs : Bytes) : List U64 :=
  match fuel with
  | 0 => a
  | n + 1 =>
    if bs.length < 136 then
      let p := bs ++ [(0x1F : Byte)] ++ zeros (135 - bs.length)
      absorb a (p.take 135 ++ [(p.getD 135 0) ||| 0x80])
    else absorbAll n (absorb a (bs.take 136)) (bs.drop 136)

/-- The first `n` bytes, at most 136, of SHAKE256. -/
def shake256 (bs : Bytes) (n : Nat) : Bytes :=
  ((absorbAll (bs.length / 136 + 1) (List.replicate 25 0) bs).flatMap fun w => leBytes 8 w.toNat).take n

/-! ### Canonical Huffman codes (RFC 1951 section 3.2.2) -/

/-- Codes from lengths: per byte value its code, most significant bit first; the empty list for length 0. -/
def codeBits (len code : Nat) : List Bool := (List.range len).map fun i => code.testBit (len - 1 - i)

def firstCode (lens : List Nat) (n : Nat) : Nat :=
  match n with
  | 0 => 0
  | k + 1 => 2 * (firstCode lens k + if k = 0 then 0 else (lens.filter fun l => decide (l = k)).length)

def huffCode (lens : List Nat) (v : Nat) : List Bool :=
  let l := lens.getD v 0
  if l = 0 then [] else codeBits l (firstCode lens l + ((lens.take v).filter fun x => decide (x = l)).length)

def huffTable (lens : List Nat) : List (List Bool) := (List.range 256).map (huffCode lens)

/-- Bits as bytes, filled from bit 0 upward. -/
def packBits (n : Nat) (bs : List Bool) : Bytes :=
  match n with
  | 0 => []
  | k + 1 => BitVec.ofNat 8 ((bs.take 8).zipIdx.foldl (fun a e => a + b2n e.1 * 2 ^ e.2) 0) :: packBits k (bs.drop 8)

def unpackBits (bs : Bytes) : List Bool := bs.flatMap fun b => (List.range 8).map fun i => b.toNat.testBit i

/-- Decodes `n` bytes; none where the bits spell no code. -/
def huffDecode (tab : List (List Bool)) (n : Nat) (bs : List Bool) : Option Bytes :=
  match n with
  | 0 => some []
  | k + 1 =>
    match tab.findIdx? fun c => !c.isEmpty && c.isPrefixOf bs with
    | none => none
    | some v => (huffDecode tab k (bs.drop (tab.getD v []).length)).map fun r => BitVec.ofNat 8 v :: r

/-- The 4-bit length of a byte value in the 128 bytes of lengths (R272). -/
def lengthsOf (b : Bytes) : List Nat := (List.range 256).map fun v => bits (b.getD (v / 2) 0).toNat (4 * (v % 2)) 4
def lengthBytes (lens : List Nat) : Bytes := (List.range 128).map fun i => BitVec.ofNat 8 (lens.getD (2 * i) 0 + 16 * lens.getD (2 * i + 1) 0)

/-- Lengths that give every byte of a chunk a code, and no other value one, without exceeding the code space. -/
def lengthsOk (lens : List Nat) (raw : Bytes) : Bool :=
  decide (lens.length = 256) && lens.all (fun l => decide (l ≤ 15))
    && (List.range 256).all (fun v => decide (lens.getD v 0 ≠ 0) == raw.contains (BitVec.ofNat 8 v))
    && decide (sumN ((lens.filter fun l => decide (l ≠ 0)).map fun l => 2 ^ (15 - l)) ≤ 2 ^ 15)

/-- A chunk header (R272). -/
def chunkHeader (method raw comp : Nat) (crc : U32) : Bytes :=
  ascii "EZTC" ++ leBytes 1 method ++ zeros 3 ++ leBytes 4 raw ++ leBytes 4 comp ++ leBytes 4 crc.toNat ++ zeros 4

/-- Compresses a chunk: method 1 where it is shorter (R272; the code lengths are the compressor's, log 42). -/
def compressChunk (raw : Bytes) : Bytes :=
  let lens := Config.huffLengths raw
  let bs := raw.flatMap fun b => (huffTable lens).getD b.toNat []
  let body := lengthBytes lens ++ packBits ((bs.length + 7) / 8) bs
  if lengthsOk lens raw = true ∧ body.length < raw.length then chunkHeader 1 raw.length body.length (crc32c raw) ++ body
  else chunkHeader 0 raw.length raw.length (crc32c raw) ++ raw

def padTo8 (bs : Bytes) : Bytes := bs ++ zeros ((8 - bs.length % 8) % 8)

/-- Compresses a stream: chunks of 64 KiB, each header at an 8-byte-aligned offset (R272, R273). -/
def compressAll (fuel : Nat) (raw : Bytes) : Bytes :=
  match fuel with
  | 0 => []
  | n + 1 =>
    if raw.length ≤ 65536 then compressChunk raw else padTo8 (compressChunk (raw.take 65536)) ++ compressAll n (raw.drop 65536)

/-- The raw bytes of the chunk at the start of a string, and the chunk's length; none where it is bad (R273). -/
def decompressChunk (b : Bytes) : Option (Bytes × Nat) :=
  let raw := fld b 8 4
  let comp := fld b 12 4
  if b.length < 24 ∨ b.take 4 ≠ ascii "EZTC" ∨ 1 < fld b 4 1 ∨ raw = 0 ∨ 65536 < raw ∨ b.length < 24 + comp then none
  else
    let body := sub b 24 comp
    let out := if fld b 4 1 = 0 then (if raw ≤ comp then some (body.take raw) else none)
      else if comp < 128 then none else huffDecode (huffTable (lengthsOf body)) raw (unpackBits (body.drop 128))
    match out with
    | some o => if (crc32c o).toNat = fld b 16 4 then some (o, 24 + comp) else none
    | none => none

end Sys2Proof.Machine
end

