-- ==== Sys2Proof/Machine/FwOps.lean ====
section
/-! DEFINITION. Operations of the firmware array that other services use (17 R498, R510, R512): records, the boot selector, and what is
recorded of the mailbox memory. -/
namespace Sys2Proof.Machine

def modFw (f : Firmware → Firmware) (s : State) : State := { s with fw := f s.fw }
def modFa (f : FaArray → FaArray) (s : State) : State := modFw (fun w => { w with fa := f w.fa }) s

/-- Array offset of a word of a bank; bytes and words of a sector (R498). -/
def faOff (bank word : Nat) : Nat := bank * 0x2000000 + 8 * word
def sectorWords : Nat := 8192

/-- Programs a fresh word of the array: the data, ECC slot A in force (R503). -/
def faPut (off : Nat) (v : U64) (s : State) : State :=
  modFa (fun a => { a with mem := Memory.writeN 0xFF a.mem off (leBytes 8 v.toNat), words := tset a.words (off / 8) 1 }) s

/-- Words of a record of kind `j`: header, one payload word, CRC word (R510). -/
def recordWords (j seq : Nat) (payload : U64) : List U64 :=
  let h : U64 := BitVec.ofNat 64 (j * 2 ^ 56 + 2 ^ 40 + seq % 2 ^ 40)
  [h, payload, BitVec.ofNat 64 (crc32c (leBytes 8 h.toNat ++ leBytes 8 payload.toNat)).toNat]

/-- Appends a record of one payload word to a pair's current sector. When that sector is full the other one becomes current, and
the full one waits for its erase (R510 to R512). -/
def writeRecord (j : Nat) (payload : U64) (s : State) : State :=
  let q := (tgetD s.fw.recSeq j 0 + 1) % 2 ^ 40
  let full := decide (sectorWords < tgetD s.fw.recPos j 0 + 3)
  let bank := if full then 1 - tgetD s.fw.recCur j 0 else tgetD s.fw.recCur j 0
  let pos := if full then 0 else tgetD s.fw.recPos j 0
  let base := faOff bank ((384 + j) * sectorWords + pos)
  let t := (recordWords j q payload).zipIdx.foldl (fun t e => faPut (base + 8 * e.2) e.1 t) s
  modFw (fun w => { w with
    recSeq := tset w.recSeq j q, recCur := tset w.recCur j bank, recPos := tset w.recPos j (pos + 3),
    recErase := if full && !(w.recErase.contains j) then w.recErase ++ [j] else w.recErase }) t

/-- A record whose payload the spec does not spell: one word that nothing constrains (log 110) (log 190). -/
def writeRecordFree (j : Nat) (s : State) : State := bumpFree (writeRecord j (Config.freeBits 64 s.freeCtr) s)

/-- A wrapped flash data key is written or erased: its copy in the key mirror has a record of its own (R510, kind 8; 15 R443) (log 190). -/
def keyRecord (s : State) : State := writeRecordFree 8 s

def imgSlotOf (n : Nat) (s : State) : ImgSlot := if n = 0 then s.fw.slotA else s.fw.slotB
def setImgSlot (n : Nat) (f : ImgSlot → ImgSlot) (s : State) : State :=
  modFw (fun w => if n = 0 then { w with slotA := f w.slotA } else { w with slotB := f w.slotB }) s

/-- Measurement index 2 of a slot: the digest over its image; of an image that no `STAGE` wrote the bytes are not known (15 R446; R516, R518;
log 25). -/
def imageDigest (n : Nat) (s : State) : Nat := (imgSlotOf n s).digest.getD (Config.measured 2 [n]).toNat

/-- Changes the boot selector: its record names the boot slot and each slot's state (R510, kind 0). -/
def bootSelector (f : State → State) (s : State) : State := writeRecordFree 0 (f s)

/-- A 4 KiB block of the mailbox memory moves to a spare block, of which there are 16 (R291; 17 R527). -/
def moveMbxBlock (b : Nat) (s : State) : State :=
  if s.ecc.mbxBlocks.length < 16 then
    writeRecordFree 5 (modEcc 344 (fun x => { x with errs := x.errs.filter (fun e => decide (e.1 / 4096 ≠ b)), atThresh := x.atThresh.filter fun a => decide (a / 4096 ≠ b) })
      { s with ecc := { s.ecc with mbxBlocks := s.ecc.mbxBlocks ++ [b] } })
  else s

end Sys2Proof.Machine
end

