-- ==== Sys2Proof/Machine/FlashOps.lean ====
section
/-! DEFINITION. Operations of the flash translation layer (10) that other services share: the maps and what a unit
holds, extents, the write queue, copies of pages, blocks and snapshots, superblocks and slots. -/
namespace Sys2Proof.Machine

def iu : Nat := 16384
def userUnits : Nat := 7500000000
def extentsTotal : Nat := 58593750
def noSlot : Nat := 0x3FFFFFFFF

def modFtl (f : Ftl → Ftl) (s : State) : State := { s with ftl := f s.ftl }
def modCnt (f : FlashCnt → FlashCnt) (s : State) : State := { s with ftl := { s.ftl with cnt := f s.ftl.cnt } }

/-- Whether the flash channels work: not in a powered-down or lost state. -/
def flashRuns (s : State) : Bool :=
  match s.host.ifState with
  | .boot | .ready | .scrub | .handover => true
  | _ => false

/-! ### Maps (R301 to R303) -/

/-- Slot of an index of a space: 0 user pool, 1 pinned region. -/
def mapGet (space idx : Nat) (s : State) : Option Nat := if space = 0 then tget s.ftl.user idx else tget s.ftl.pinned idx

def mapSet (space idx : Nat) (v : Option Nat) (f : Ftl) : Ftl :=
  let up := fun (t : Tbl Nat) => match v with | some x => tset t idx x | none => tdel t idx
  if space = 0 then { f with user := up f.user } else { f with pinned := up f.pinned }

/-- Dirty unit of an index: the write buffer serves it (R308). -/
def dirtyAt (space idx : Nat) (s : State) : Option BufUnit := s.ftl.dirty.find? fun u => decide (u.space = space ∧ u.index = idx)

/-- Contents of a unit: from the buffer, from its slot, or zeros (R301, R308). -/
def unitData (space idx : Nat) (s : State) : Memory :=
  match dirtyAt space idx s with
  | some u => u.data
  | none =>
    match (mapGet space idx s).bind fun k => tget s.ftl.media k with
    | some p => p.data
    | none => []

/-- A delta enters the unjournaled deltas (R314). -/
def addDelta (e : JEntry) (f : Ftl) : Ftl := { f with deltas := f.deltas ++ [e] }

/-! ### The journal and the map store (R314, R315) -/

def jEntriesPerPage : Nat := 1020
/-- 512 MiB of deltas; pages of the 16 GB of the journal. -/
def deltaLimit : Nat := 33554432
def journalCap : Nat := 976562

/-- Map segment of an index: 16 KiB are 256 lines of 15 entries; the pinned region's segments follow the user pool's. -/
def segOf (space idx : Nat) : Nat := if space = 0 then idx / 3840 else 1953125 + idx / 3840
def mapKind (e : JEntry) : Bool := decide (e.kind ≤ 3)

/-- A dirty segment goes to its alternate slot; pages of which every segment has been written since are free (R315). -/
def segmentOut (seg : Nat) (s : State) : State :=
  let left := tdel s.ftl.segDirty seg
  let keep := fun (p : JPage) => p.entries.any fun e => mapKind e && (tget left (segOf e.space e.index)).isSome
  let t := modFtl (fun f => { f with segDirty := left, segSlot := tupd f.segSlot seg 0 (fun n => 1 - n), journal := f.journal.filter keep }) s
  modCnt (fun c => { c with nandWritten := c.nandWritten + iu }) t

/-- The ring is full: the segments of its oldest page are written, which frees it. -/
def journalRoom (s : State) : State :=
  match s.ftl.journal with
  | p :: _ => if s.ftl.journal.length < journalCap then s else ((p.entries.filter mapKind).map fun e => segOf e.space e.index).eraseDups.foldl (fun t g => segmentOut g t) s
  | [] => s

/-- Programs one journal page of the oldest deltas. -/
def journalPage (s : State) : State :=
  if s.ftl.deltas.isEmpty then s
  else
    let s := journalRoom s
    let l := s.ftl.deltas.take jEntriesPerPage
    let f := s.ftl
    let dirt := (l.filter mapKind).foldl (fun m e => tset m (segOf e.space e.index) f.nextJseq) f.segDirty
    let t := modFtl (fun f => { f with journal := f.journal ++ [⟨f.nextJseq, l⟩], nextJseq := f.nextJseq + 1, deltas := f.deltas.drop jEntriesPerPage, segDirty := dirt }) s
    modCnt (fun c => { c with nandWritten := c.nandWritten + iu }) t

/-- Programs every delta. -/
def flushDeltas (fuel : Nat) (s : State) : State :=
  match fuel with
  | 0 => s
  | k + 1 => if s.ftl.deltas.isEmpty then s else flushDeltas k (journalPage s)

def flushAllDeltas (s : State) : State := flushDeltas s.ftl.deltas.length s

/-- A commit finds room among the deltas: at their limit a journal page is programmed first (R314). -/
def deltaRoom (s : State) : State := if s.ftl.deltas.length < deltaLimit then s else journalPage s

/-- An unconditional unmapping of an index, if it is mapped (R311, R314). -/
def unmapIdx (space idx : Nat) (s : State) : State :=
  match mapGet space idx s with
  | some k => modFtl (fun f => addDelta ⟨3, space, idx, noSlot, k⟩ (mapSet space idx none f)) (deltaRoom s)
  | none => s

/-- A delta that no journal page holds is undone: the map store and the journal hold the entry's old slot (R315). -/
def undoDelta (e : JEntry) (f : Ftl) : Ftl :=
  if mapKind e then mapSet e.space e.index (if e.old = noSlot then none else some e.old) f else f

/-- The deltas after the first `n` journal pages' worth are lost; the map at boot is the one without them. -/
def loseDeltas (n : Nat) (s : State) : State :=
  let t := flushDeltas n s
  modFtl (fun f => { f.deltas.reverse.foldl (fun g e => undoDelta e g) f with deltas := [] }) t

/-- A journal entry as a 128-bit value (R314). -/
def jEntryBits (e : JEntry) : Nat := e.kind % 16 + 2 ^ 4 * (e.space % 2) + 2 ^ 5 * (e.index % 2 ^ 33) + 2 ^ 38 * (e.new % 2 ^ 34) + 2 ^ 72 * (e.old % 2 ^ 34)

/-- A journal page as programmed: header, entries, zeros after the last; the CRC is taken with its own field 0 (R314; log 239). -/
def journalImage (p : JPage) : Bytes :=
  let body := p.entries.flatMap fun e => leBytes 16 (jEntryBits e)
  let head := leBytes 8 p.seq ++ leBytes 4 p.entries.length
  let rest := zeros 48 ++ body ++ zeros (16320 - body.length)
  head ++ leBytes 4 (crc32c (head ++ zeros 4 ++ rest)).toNat ++ rest

/-- A line of a map: 15 entries of 34 bits (R303). -/
def mapLine (space line : Nat) (s : State) : Nat :=
  ((List.range 15).map fun k => 2 ^ (34 * k) * ((mapGet space (15 * line + k) s).getD noSlot)).foldl (· + ·) 0

/-! ### Slots and superblocks (R298 to R301) -/

def sbDie (sb : Nat) : Nat := sb / 1272
def sbBlock (sb : Nat) : Nat := sb % 1272

/-- Slot number of a page (R301). -/
def slotNo (b pl pg d ch : Nat) : Nat := (((b * 4 + pl) * 3072 + pg) * 18 + d) * 32 + ch
/-- Superblock, plane and channel of a slot. -/
def slotSb (k : Nat) : Nat := k / 32 % 18 * 1272 + k / 32 / 18 / 3072 / 4
def slotPlane (k : Nat) : Nat := k / 32 / 18 / 3072 % 4
def slotCh (k : Nat) : Nat := k % 32
/-- Number of a block: channel, die, plane, block (R298). -/
def blockNo (ch d pl b : Nat) : Nat := ((ch * 18 + d) * 4 + pl) * 1272 + b

def sbOf (sb : Nat) (s : State) : Sb := tgetD s.ftl.sbs sb ⟨false, false, false, false, 0, 0, 0⟩
def modSb (sb : Nat) (f : Sb → Sb) (s : State) : State := { s with ftl := { s.ftl with sbs := tset s.ftl.sbs sb (f (sbOf sb s)) } }

/-- Erased and not yet opened (R312). -/
def sbFree (sb : Nat) (s : State) : Bool := decide (sb < 22896) && !(sbOf sb s).open_ && !(sbOf sb s).full && decide ((sbOf sb s).stripes = 0)

/-- Superblocks that are neither free nor of the pinned region, and free superblocks: 22,896 less the 1,282 of the pinned
region less those in use (R304, R312). -/
def freeSbs (s : State) : Nat := 22896 - 1282 - (s.ftl.sbs.filter fun e => !(sbFree e.1 s) && !e.2.pinned).length

/-- A NAND die has failed (R320): numbered 18·channel + die. -/
def dieFailed (ch d : Nat) (s : State) : Bool := s.caps.nandFailed.contains (18 * ch + d)

/-- Channels that hold the pages of a plane of a superblock, the parity channel and the others (R300, R319, R320). -/
def stripeChans (sb pl : Nat) (s : State) : Option Nat × List Nat :=
  let ok := (List.range 32).filter fun ch => !(s.ftl.retired.contains (blockNo ch (sbDie sb) pl (sbBlock sb))) && !(dieFailed ch (sbDie sb) s)
  let par := if ok.contains (sbBlock sb % 32) then some (sbBlock sb % 32) else ok.head?
  (par, ok.filter fun ch => decide (some ch ≠ par))

/-- Stripes of a superblock in its mode (R298). -/
def sbStripes (slc : Bool) : Nat := if slc then 3072 else 12288

/-- Stripes that one program writes: a QLC program writes the 4 pages of a word line of one plane (R298). -/
def progStripes (slc : Bool) : Nat := if slc then 1 else 4

/-- Plane and page of a stripe: programs advance plane by plane, then page by page (log 62). -/
def stripePlane (slc : Bool) (n : Nat) : Nat := n / progStripes slc % 4
def stripePage (slc : Bool) (n : Nat) : Nat := progStripes slc * (n / (4 * progStripes slc)) + n % progStripes slc

/-- Data slots that the next program of a superblock writes. -/
def progSlots (sb : Nat) (s : State) : List Nat :=
  let x := sbOf sb s
  let chans := (stripeChans sb (stripePlane x.slc x.stripes) s).2
  (rangeFrom x.stripes (progStripes x.slc)).flatMap fun n => chans.map fun ch => slotNo (sbBlock sb) (stripePlane x.slc n) (stripePage x.slc n) (sbDie sb) ch

/-- Superblocks of the pinned region in use. -/
def pinnedSbs (s : State) : Nat := (s.ftl.sbs.filter fun e => !(sbFree e.1 s) && e.2.pinned).length

/-- A region may open one more superblock: 1,282 are the pinned region's (R304). -/
def regionRoom (pinned : Bool) (s : State) : Bool := if pinned then decide (pinnedSbs s < 1282) else decide (0 < freeSbs s)

/-- Mapped indices whose slot lies in a superblock, of a space. -/
def validIn (sb space : Nat) (s : State) : List (Nat × Nat) :=
  (if space = 0 then s.ftl.user else s.ftl.pinned).filter fun e => decide (slotSb e.2 = sb)

def validCount (sb : Nat) (s : State) : Nat := (validIn sb 0 s).length + (validIn sb 1 s).length

/-- Bytes held by the dynamic SLC cache: user-pool units in SLC superblocks (R305). -/
def dynUsed (s : State) : Nat := iu * (s.ftl.user.filter fun e => (sbOf (slotSb e.2) s).slc).length

/-- Bytes held by the checkpoint store, with what is on its way there (R304). -/
def ckptUsed (s : State) : Nat :=
  iu * (s.ftl.pinned.length + (s.ftl.dirty.filter fun u => decide (u.space = 1)).length
    + sumN (s.ftl.waiting.map fun w => (w.units.filter fun u => decide (u.space = 1)).length))
def ckptCap : Nat := 1896000000000

/-! ### Extents (R302) -/

/-- Extents that no bulk copy may take: reserved by namespaces, or occupied. -/
def usedRanges (s : State) : List (Nat × Nat) := (s.store.ns.flatMap fun e => e.2.extents) ++ s.ftl.bulkExt.map fun e => (e.1, 1)

/-- The first number from `e` that lies in no range. -/
def skipRanges (fuel : Nat) (rs : List (Nat × Nat)) (e : Nat) : Nat :=
  match fuel with
  | 0 => e
  | n + 1 =>
    match rs.find? fun r => decide (r.1 ≤ e) && decide (e < r.1 + r.2) with
    | none => e
    | some r => skipRanges n rs (r.1 + r.2)

def freeExtent (s : State) : Option Nat :=
  let rs := usedRanges s
  let e := skipRanges (rs.length + 1) rs 0
  if e < extentsTotal then some e else none

/-- Extents not reserved and not occupied. -/
def freeExtents (s : State) : Nat := extentsTotal - sumN ((usedRanges s).map (·.2))

/-- `n` extents from the lowest, as ranges; none if too few are free (R347). -/
def takeExtents (fuel n : Nat) (rs : List (Nat × Nat)) : Option (List (Nat × Nat)) :=
  match fuel with
  | 0 => none
  | k + 1 =>
    if n = 0 then some []
    else
      let a := skipRanges (rs.length + 1) rs 0
      if extentsTotal ≤ a then none
      else
        let stop := (rs.filterMap fun r => if a < r.1 then some r.1 else none).min?.getD extentsTotal
        let len := min n (stop - a)
        (takeExtents k (n - len) ((a, len) :: rs)).map fun l => (a, len) :: l

/-- The lowest free extents for a number of bytes: one gap between used ranges a turn (R347). -/
def extentsFor (bytes : Nat) (s : State) : Option (List (Nat × Nat)) :=
  takeExtents (2 + (usedRanges s).length) (pagesFor bytes) (usedRanges s)

/-! ### Writing (R306, R307) -/

/-- Sources of writes: the bulk copies of a context, a STORE submission queue, a mailbox request. -/
def srcBulk (c : Nat) : Nat := c
def srcQueue (q : Nat) : Nat := 0x1000000 + q
def srcReq (rid : Nat) : Nat := 0x2000000 + rid

/-- Data accepted and not committed (R307). In write-through it is not dirty data (R323). -/
def dirtyBytes (s : State) : Nat := sumN (s.ftl.dirty.map fun u => match u.item with | .move _ => 0 | _ => if u.thru then 0 else u.bytes)

/-- Numbers the units of a write and puts it at the end of the waiting writes. -/
def queueWrite (src : Nat) (units : List BufUnit) (cmd : Option (Nat × Nat)) (s : State) : State :=
  let n := s.ftl.nextUnit
  let us := units.zipIdx.map fun e => { e.1 with id := n + e.2, src := src }
  let w : FWrite := ⟨src, sumN (us.map (·.bytes)), us, cmd⟩
  modFtl (fun f => { f with waiting := f.waiting ++ [w], nextUnit := n + us.length }) s

/-- Flash key domain of a context, of a namespace (15 R450). -/
def domCtx (c : Nat) : Nat := 2 ^ 32 + c
def domNs (n : Nat) : Nat := n

/-- Units of a copy of `bytes` bytes from a map index. -/
def copyUnits (item : FItem) (space idx bytes dom : Nat) : List BufUnit :=
  (List.range ((bytes + iu - 1) / iu)).map fun i => ⟨0, item, space, idx + i, 0, min iu (bytes - i * iu), [], [], dom, 0, false⟩

/-- Takes the next indices of the pinned region for a checkpoint write (R304, R306). -/
def queuePinned (c : Nat) (item : FItem) (bytes : Nat) (s : State) : State :=
  let us := copyUnits item 1 s.ftl.nextPinned bytes (domCtx c)
  queueWrite (srcBulk c) us none (modFtl (fun f => { f with nextPinned := f.nextPinned + us.length }) s)

/-- Queues a bulk copy into extents of its own, 2 MiB each; without a free extent it waits, and the first to wait raises
`FLASH_POOL_FULL` (R302, R328). -/
def queueBulk (c : Nat) (item : FItem) (bytes : Nat) (s : State) : State :=
  match extentsFor bytes s with
  | some rs =>
    let exts := rs.flatMap fun r => rangeFrom r.1 r.2
    let t := modFtl (fun f => { f with bulkExt := exts.foldl (fun m e => tset m e item) f.bulkExt }) s
    let us := exts.zipIdx.flatMap fun e => copyUnits item 0 (128 * e.1) (min pageBytes (bytes - pageBytes * e.2)) (domCtx c)
    queueWrite (srcBulk c) us none t
  | none =>
    let t := if s.ftl.extWait.isEmpty then devEvent 0x0205 1 2 (leBytes 8 bytes) s else s
    modFtl (fun f => { f with extWait := f.extWait ++ [item], poolFull := true }) t

/-- Bytes and owner of an item that is a copy. -/
def itemOf (i : FItem) (s : State) : Option (Nat × Nat) :=
  match i with
  | .page p _ => (pageGet p s).map fun q => (q.ctx, q.packed)
  | .kv b => (tget s.agents.kv b).map fun q => (q.ctx, q.bytes)
  | .array h k => (tget s.search.idx h).map fun x => (x.ctx, (arrayBytes x).getD k 0)
  | .side h _ n => (tget s.search.idx h).map fun x => (x.ctx, n)
  | _ => none

/-- Copies that waited for an extent are queued while extents are free. -/
def retryExtents (s : State) : State :=
  let l := s.ftl.extWait
  let t := modFtl (fun f => { f with extWait := [] }) s
  let u := l.foldl (fun t i => match itemOf i t with
    | some (c, n) =>
      if (extentsFor n t).isSome then queueBulk c i n t
      else modFtl (fun f => { f with extWait := f.extWait ++ [i] }) t
    | none => t) t
  modFtl (fun f => { f with poolFull := !f.extWait.isEmpty }) u

/-- Units of an item that are not committed. -/
def itemPending (i : FItem) (s : State) : Bool :=
  s.ftl.dirty.any (fun u => decide (u.item = i)) || s.ftl.waiting.any (fun w => w.units.any fun u => decide (u.item = i)) || s.ftl.extWait.contains i
def itemWaiting (i : FItem) (s : State) : Bool :=
  s.ftl.waiting.any (fun w => w.units.any fun u => decide (u.item = i)) || s.ftl.extWait.contains i

/-- A copy is durable: accepted into the buffer, in write-through committed (07 R244; R323). -/
def itemDone (i : FItem) (s : State) : Bool := if s.ftl.writeThrough then !(itemPending i s) else !(itemWaiting i s)

/-- Removes a copy: its units on their way, its extents and its map entries (R262, R306). -/
def dropCopy (i : FItem) (s : State) : State :=
  let exts := (s.ftl.bulkExt.filter fun e => decide (e.2 = i)).map (·.1)
  let idx0 := (s.ftl.user.filter fun e => exts.contains (e.1 / 128)).map (·.1)
  let idx1 := (s.ftl.pinned.filter fun e => match tget s.ftl.media e.2 with | some p => decide (p.item = i) | none => false).map (·.1)
  let t := idx1.foldl (fun t n => unmapIdx 1 n t) (idx0.foldl (fun t n => unmapIdx 0 n t) s)
  modFtl (fun f => { f with
    dirty := f.dirty.filter (fun u => decide (u.item ≠ i))
    waiting := f.waiting.filter (fun w => w.units.isEmpty || w.units.any fun u => decide (u.item ≠ i))
    bulkExt := f.bulkExt.filter (fun e => decide (e.2 ≠ i))
    extWait := f.extWait.filter (fun j => decide (j ≠ i)) }) t

/-- Starts the flash copy of a sealed page that has none (08 R264). -/
def copyPage (pid : Nat) (durable : Bool) (s : State) : State :=
  match pageGet pid s with
  | none => s
  | some p =>
    if p.flash ≠ 0 then s
    else
      let t := modPage pid (fun q => { q with flash := 1 }) s
      if durable then queuePinned p.ctx (.page pid 1) p.packed t else queueBulk p.ctx (.page pid 0) p.packed t

/-- Starts the second flash copy of a weight page (07 R223). -/
def copyTwin (pid : Nat) (s : State) : State :=
  match pageGet pid s with
  | none => s
  | some p => if p.flash2 ≠ 0 then s else queueBulk p.ctx (.page pid 2) p.packed (modPage pid (fun q => { q with flash2 := 1 }) s)

/-- The flash copies of a page go (08 R262). -/
def dropPageCopies (pid : Nat) (s : State) : State := [0, 1, 2].foldl (fun t k => dropCopy (.page pid k) t) s

/-- Frees a page: its last reference drops its copies too (08 R261, R262). -/
def releaseOne (pid : Nat) (s : State) : State :=
  match pageGet pid s with
  | none => s
  | some p => if p.refs ≤ 1 then unrefPage pid (dropPageCopies pid s) else unrefPage pid s

/-! ### Two copies on different channels (07 R223) -/

/-- The other copy of a weight page. -/
def twinOf (i : FItem) : Option FItem :=
  match i with
  | .page p 0 => some (.page p 2)
  | .page p 2 => some (.page p 0)
  | _ => none

/-- Extents of a copy, in order. -/
def copyExts (i : FItem) (s : State) : List Nat := (s.ftl.bulkExt.filter fun e => decide (e.2 = i)).map (·.1)

/-- Map indices of a copy, in order. -/
def copyIdx (i : FItem) (s : State) : List Nat :=
  match itemOf i s with
  | some (_, n) => ((copyExts i s).flatMap fun e => rangeFrom (128 * e) 128).take ((n + iu - 1) / iu)
  | none => []

/-- Slot that holds the same part of the other copy. -/
def twinSlot (i : FItem) (idx : Nat) (s : State) : Option Nat :=
  match twinOf i with
  | none => none
  | some j =>
    match (copyIdx i s).idxOf? idx with
    | some k => ((copyIdx j s)[k]?).bind fun n => mapGet 0 n s
    | none => none

/-- A slot lies on the channel that holds the other copy of a unit. -/
def twinOn (i : FItem) (idx slot : Nat) (s : State) : Bool := match twinSlot i idx s with | some k => decide (slotCh k = slotCh slot) | none => false

/-- Gives each slot the first unit left that may lie there. -/
def assignSlots {α : Type} [DecidableEq α] (bad : α → Nat → Bool) (us : List α) (slots : List Nat) : List (α × Nat) :=
  match slots with
  | [] => []
  | k :: r =>
    match us.find? fun u => !bad u k with
    | some u => (u, k) :: assignSlots bad (us.erase u) r
    | none => assignSlots bad us r

/-- Frees a page, and the reference of a private page on the page it was promoted from (08 R254, R260). -/
def releasePage (pid : Nat) (s : State) : State :=
  match pageGet pid s with
  | some p =>
    match p.kind with
    | .priv o => releaseOne o (releaseOne pid s)
    | _ => releaseOne pid s
  | none => s

/-- Frees a sealed KV block with its copy (07 R236). -/
def freeKv (b : Nat) (s : State) : State := dropCopy (.kv b) { s with agents := { s.agents with kv := tdel s.agents.kv b } }

end Sys2Proof.Machine
end

