-- ==== Sys2Proof/Machine/MemoryOps.lean ====
section
/-! DEFINITION. Operations of the memory tiers (08): objects, placement, sealing, lost pages, moves and pressure. -/
namespace Sys2Proof.Machine

def gib : Nat := 2 ^ 30
def stNoObject : Nat := 0x8000
def stNotSealed : Nat := 0x8001
def stAlreadySealed : Nat := 0x8002
def stRangeInUse : Nat := 0x8003

/-! ### Objects -/

def aflagsPlace (f : Nat) : Nat := f % 16
/-- More than one placement flag (R256). -/
def manyPlaces (f : Nat) : Bool := decide (1 < (maskBits (f % 16) 4).length)

def objOf (c h : Nat) (s : State) : Option Obj :=
  match tget s.mem.objs h with
  | some o => if o.ctx = c then some o else none
  | none => none

def pageKindOf (pid : Nat) (s : State) : Option PageKind := (pageGet pid s).map (·.kind)
def isWritableKind (k : Option PageKind) : Bool := match k with | some .writable => true | _ => false
def isPrivKind (k : Option PageKind) : Bool := match k with | some (.priv _) => true | _ => false
def isSealedPage (pid : Nat) (s : State) : Bool := decide (pageKindOf pid s = some .sealed)

/-- Holds no writable and no private page: `SEALED` (R254). -/
def objSealed (o : Obj) (s : State) : Bool := o.pages.all fun p => !(isWritableKind (pageKindOf p s)) && !(isPrivKind (pageKindOf p s))
/-- 0 `WRITABLE`, 1 `SEALED`, 2 `PARTIAL` (R254). -/
def objState (o : Obj) (s : State) : Nat :=
  if objSealed o s then 1 else if o.pages.any fun p => isPrivKind (pageKindOf p s) then 2 else 0

/-- The objects that reference a page, with the page's position in each. -/
def objsOf (pid : Nat) (s : State) : List (Nat × Nat) :=
  s.mem.objs.flatMap fun e => e.2.pages.zipIdx.filterMap fun x => if x.1 = pid then some (e.1, x.2) else none

/-- Flags of the first object that references a page; placement and compression are shared (R261). -/
def pageFlags (pid : Nat) (s : State) : Nat :=
  match objsOf pid s with
  | (h, _) :: _ => (match tget s.mem.objs h with | some o => o.aflags | none => 0)
  | [] => 0

/-- Address ranges of a context that an object may not take: its objects and the windows (R253). -/
def vaRanges (c : Nat) (s : State) : List (Nat × Nat) :=
  (0x00FE00000000, 0x200000000) :: s.mem.objs.filterMap fun e => if e.2.ctx = c then some (e.2.va, pageBytes * e.2.pages.length) else none

/-- A range obeys R253. -/
def vaFree (c va n : Nat) (s : State) : Bool :=
  decide (2 ^ 21 ≤ va) && decide (va + n ≤ 2 ^ 47) && !((vaRanges c s).any (rangesMeet va n))

/-- The lowest range of a size that obeys R253 (log 33). -/
def pickVa (fuel n : Nat) (rs : List (Nat × Nat)) (a : Nat) : Option Nat :=
  match fuel with
  | 0 => none
  | k + 1 =>
    if 2 ^ 47 < a + n then none
    else match rs.find? (rangesMeet a n) with
      | some r => pickVa k n rs (r.1 + r.2)
      | none => some a

def chooseVa (c n : Nat) (s : State) : Option Nat := pickVa ((vaRanges c s).length + 1) n (vaRanges c s) (2 ^ 21)

/-- A new object over pages, with its handle (R253). -/
def newObj (c va aflags : Nat) (pages : List Nat) (digest : Bytes) (s : State) : Nat × State :=
  let h := 2 ^ 58 * c + s.mem.nextObj % 2 ^ 58
  (h, { s with mem := { s.mem with objs := tset s.mem.objs h ⟨c, va, aflags, pages, digest⟩, nextObj := s.mem.nextObj + 1 } })

/-- `n` fresh writable pages. -/
def newPages (c n : Nat) (s : State) : List Nat × State :=
  match n with
  | 0 => ([], s)
  | k + 1 =>
    let (p, t) := newPage c .writable [] s
    let (r, u) := newPages c k t
    (p :: r, u)

def freeObj (h : Nat) (s : State) : State :=
  match tget s.mem.objs h with
  | none => s
  | some o => o.pages.foldl (fun t p => releasePage p t) { s with mem := { s.mem with objs := tdel s.mem.objs h } }

/-- Bytes of an object in address order. -/
def objBytes (o : Obj) (s : State) : Bytes :=
  o.pages.flatMap fun p => match pageGet p s with | some q => Memory.readN 0 q.data 0 pageBytes | none => zeros pageBytes

/-! ### Copies and placement (R256, R263 to R266, R571) -/

/-- Bytes of T2 that pages may still take. -/
def t2Free (s : State) : Nat := t2Total s * pageBytes - t2UseAll s

/-- Bytes of T2 copies that wait for their flash copy to be dropped. -/
def t2Leaving (s : State) : Nat := sumN (s.mem.pages.map fun e => if e.2.t2.isSome && e.2.dropT2 then e.2.stored else 0)

/-- T1 bytes on their way out: their flash copy is queued; those of a context. -/
def t1Leaving (s : State) : Nat := pageBytes * (s.mem.pages.filter fun e => e.2.t1.isSome && (e.2.dropT1 || e.2.dropT2)).length
def ctxLeaving (c : Nat) (s : State) : Nat := pageBytes * (s.mem.pages.filter fun e => decide (e.2.ctx = c) && e.2.t1.isSome && (e.2.dropT1 || e.2.dropT2)).length

def hottest (l : List (Nat × Page)) : Option Nat :=
  match l with
  | [] => none
  | e :: r => some (r.foldl (fun (b : Nat × Page) x => if b.2.heat < x.2.heat then x else b) e).1

/-- The T1 copy is released at once where a flash copy is accepted, else once it is (R264). -/
def leaveT1 (pid : Nat) (s : State) : State :=
  match pageGet pid s with
  | none => s
  | some p =>
    if 2 ≤ p.flash then modPage pid (fun q => { q with t1 := none, promoted := false }) s
    else copyPage pid (aDurable (pageFlags pid s)) (modPage pid (fun q => { q with dropT1 := true }) s)

/-- Demotes a sealed T1 page to T2 (R265, R269). -/
def demotePage (pid : Nat) (s : State) : State :=
  let t := addT2 pid s
  match pageGet pid t with
  | some p =>
    if p.t1.isSome ∧ p.t2.isSome then leaveT1 pid (modUsage p.ctx (fun u => { u with demoted := u.demoted + 1 }) t) else t
  | none => t

/-- Promotes a sealed page to T1; its T2 copy stays (R269). -/
def promotePage (pid : Nat) (s : State) : State :=
  match pageGet pid s with
  | none => s
  | some p =>
    match newT1 s with
    | some f =>
      if p.t1.isSome then s
      else modUsage p.ctx (fun u => { u with promoted := u.promoted + 1 }) (healT1 (some f) (modPage pid (fun q => { q with t1 := some f, promoted := true }) s))
    | none => s

/-- Drops the DRAM copies once a flash copy is accepted (R256 `COLD`, R265). -/
def leaveDram (pid : Nat) (s : State) : State :=
  match pageGet pid s with
  | none => s
  | some p =>
    if 2 ≤ p.flash then modPage pid (fun q => { q with t1 := none, t2 := none, promoted := false }) s
    else copyPage pid (aDurable (pageFlags pid s)) (modPage pid (fun q => { q with dropT2 := true }) s)

/-- Applies placement flags to a sealed page (R256). -/
def applyPlace (flags pid : Nat) (s : State) : State :=
  if aCold flags then leaveDram pid s
  else if aWarm flags then
    let t := addT2 pid s
    match pageGet pid t with
    | some p => if p.t2.isSome ∧ p.t1.isSome then leaveT1 pid t else t
    | none => t
  else
    match pageGet pid s with
    | some p =>
      if p.t1.isSome then modPage pid (fun q => { q with dropT1 := false, dropT2 := false }) s
      else modPage pid (fun q => { q with promoted := false }) (promotePage pid s)
    | none => s

/-- The flash copy of a page is accepted: what waited for it happens (R264, R265). -/
def pageAccepted (pid : Nat) (s : State) : State :=
  modPage pid (fun q =>
    let q := { q with flash := max q.flash 2 }
    if q.dropT2 then { q with t1 := none, t2 := none, dropT1 := false, dropT2 := false, promoted := false }
    else if q.dropT1 then { q with t1 := none, dropT1 := false, promoted := false } else q) s

/-- The flash copy of a page is durable. -/
def pageDurable (pid : Nat) (s : State) : State := modPage pid (fun q => { q with flash := 3 }) (pageAccepted pid s)

/-! ### Sealing (R257, R261, R264) -/

/-- The 32 chunks of a page, each as it is compressed (R271, R272). -/
def pageChunks (m : Memory) : List Nat := (List.range 32).map fun i => (compressChunk (Memory.readN 0 m (65536 * i) 65536)).length

/-- Bytes that a page takes in T2: of a `COMPRESSIBLE` object each chunk rounded up to 4 KiB, else raw (R271). -/
def storedOf (flags : Nat) (m : Memory) : Nat := if aComp flags then sumN ((pageChunks m).map fun n => (n + 4095) / 4096 * 4096) else pageBytes

/-- What a compressed T2 copy holds: chunk after chunk, each from a 4 KiB block (R271, R272). -/
def t2Image (m : Memory) : Bytes :=
  (List.range 32).flatMap fun i => let c := compressChunk (Memory.readN 0 m (65536 * i) 65536); c ++ zeros ((4096 - c.length % 4096) % 4096)

/-- The raw bytes that a changed compressed copy holds: each chunk that still decodes, and bytes that nothing constrains in place of one that does
not (log 229). -/
def t2Raw (fuel : Nat) (img : Bytes) (ctr : Nat) : Bytes :=
  match fuel with
  | 0 => []
  | n + 1 =>
    let len := 24 + fld img 12 4
    match decompressChunk img with
    | some (raw, _) => (raw ++ zeros 65536).take 65536 ++ t2Raw n (img.drop ((len + 4095) / 4096 * 4096)) ctr
    | none => (List.range 65536).map (fun i => Config.freeBits 8 (ctr + i)) ++ t2Raw n (img.drop ((min len 65560 + 4095) / 4096 * 4096)) (ctr + 65536)

/-- Bytes of its flash copy: chunk after chunk, each from an 8-byte-aligned offset, else raw (R255, R271, R272). -/
def packedOf (flags : Nat) (m : Memory) : Nat := if aComp flags then sumN ((pageChunks m).map fun n => (n + 7) / 8 * 8) else pageBytes

/-- Seals one writable or private page: a private one lets go of the page it was made from. -/
def sealPage (flags sflags pid : Nat) (s : State) : State :=
  match pageGet pid s with
  | none => s
  | some p =>
    let doSeal := fun (t : State) =>
      let t := modPage pid (fun q => { q with kind := .sealed, stored := storedOf flags p.data, packed := packedOf flags p.data }) t
      let t := if bit sflags 0 || aDurable flags || aCold flags then copyPage pid (aDurable flags) t else t
      applyPlace flags pid t
    match p.kind with
    | .writable => doSeal s
    | .priv o => doSeal (releasePage o s)
    | _ => s

/-- Seals the pages of a list in order. -/
def sealPages (flags sflags : Nat) (l : List Nat) (s : State) : State := l.foldl (fun t p => sealPage flags sflags p t) s

/-- What a waiting `SEAL` or `PLACE` still waits for (R256, R258, R279). -/
def sealReady (r : Req) (s : State) : Bool :=
  match tget s.mem.objs (fld r.payload 0 8) with
  | none => true
  | some o =>
    let ps := o.pages.filterMap fun p => pageGet p s
    if r.op = 3 then
      ps.all fun q => decide (q.flash = 0) || (if aDurable o.aflags then decide (q.flash = 3) else !(bit (fld r.payload 8 2) 1) || decide (2 ≤ q.flash))
    else ps.all fun q => !q.dropT1 && !q.dropT2

/-- Payload of the completion of a `SEAL` or `PLACE`. -/
def sealPayload (r : Req) (s : State) : Bytes :=
  if r.op = 3 then (match tget s.mem.objs (fld r.payload 0 8) with | some o => o.digest | none => []) else []

/-- Completes every `SEAL` and `PLACE` that waited and is ready. -/
def sealProgress (s : State) : State :=
  s.ledger.reqs.foldl (fun t r =>
    if r.running && r.done.isNone && decide (r.svc = 5) && sealReady r t then complete r.rid stSuccess (sealPayload r t) t else t) s

/-! ### Lost pages (R277, R278) -/

/-- Units of a copy that cannot be read: their slots are lost. -/
def copyLost (i : FItem) (s : State) : Bool :=
  s.ftl.lost.any fun k => match tget s.ftl.media k with | some p => decide (p.item = i) && decide (mapGet p.space p.index s = some k) | none => false

/-- An accepted flash copy of a page of which no unit is lost: its first or its second (08 R276). -/
def copyReads (pid : Nat) (s : State) : Bool :=
  match pageGet pid s with
  | some p => (decide (2 ≤ p.flash) && !(copyLost (.page pid 0) s) && !(copyLost (.page pid 1) s)) || (decide (2 ≤ p.flash2) && !(copyLost (.page pid 2) s))
  | none => false

/-- Marks a page lost and raises `PAGE_LOST` for each object that references it. A private page lets go of the page it was made from: none of
its objects can return to that one (log 228). A chosen move of the page is abandoned (R269). -/
def losePage (pid : Nat) (s : State) : State :=
  match pageGet pid s with
  | none => s
  | some p =>
    if p.kind = .lost then s
    else
      let t := match p.kind with | .priv o => releaseOne o s | _ => s
      let t := modPage pid (fun q => { q with kind := .lost, t1 := none, t2 := none, flash := 0, flash2 := 0, dropT1 := false, dropT2 := false }) (abandonMove pid (dropPageCopies pid t))
      (objsOf pid s).foldl (fun t e => raiseEvent 0x500 1 5 p.ctx 0 (leBytes 8 e.1 ++ leBytes 4 e.2) t) t

/-! ### Pressure and heat (R265, R268) -/

def t1FreeAll (s : State) : Nat := t1Total s * pageBytes - t1UseAll s

/-- A page's context stays at or above its reservation without it and without what is leaving already (R265, R268). -/
def aboveRes (c : Nat) (s : State) : Bool :=
  match slotOf c s with
  | some k => !(k.act.lc) || decide (k.act.t1Res * gib + pageBytes ≤ t1Use c s - ctxLeaving c s)
  | none => true

/-- Sealed T1 pages that pressure may demote. -/
def t1Victims (s : State) : List (Nat × Page) :=
  s.mem.pages.filter fun e =>
    decide (e.2.kind = .sealed) && e.2.t1.isSome && !e.2.dropT1 && !e.2.dropT2
      && (let f := pageFlags e.1 s; aHot f || (aWarm f && e.2.promoted)) && aboveRes e.2.ctx s

/-- Demotes the coldest pages until 8 GB is free (R265). -/
def relieveT1 (fuel : Nat) (s : State) : State :=
  match fuel with
  | 0 => s
  | k + 1 =>
    if 8 * gib ≤ t1FreeAll s + t1Leaving s then s
    else match coldest (t1Victims s) with
      | some p =>
        let t := demotePage p s
        if t = s then s else relieveT1 k t
      | none => s

/-- T2 copies in the order in which pressure takes them: beside a T1 copy, `COLD`, then `WARM` and `HOT` (R265). -/
def t2Victims (s : State) : List (Nat × Page) :=
  let all := s.mem.pages.filter fun e => e.2.t2.isSome && !e.2.dropT2 && decide (e.2.kind = .sealed)
  let a := all.filter fun e => e.2.t1.isSome
  if !a.isEmpty then a
  else
    let b := all.filter fun e => aCold (pageFlags e.1 s)
    if !b.isEmpty then b else all.filter fun e => let f := pageFlags e.1 s; aWarm f || aHot f

/-- Sealed KV blocks, which have no placement flag, go with the `HOT` pages, before them (log 231). Drops T2 copies until 32 GB is free (R265). -/
def relieveT2 (fuel : Nat) (s : State) : State :=
  match fuel with
  | 0 => s
  | k + 1 =>
    if 32 * gib ≤ t2Free s + t2Leaving s then s
    else match (if (t2Victims s).any (fun e => e.2.t1.isSome || aCold (pageFlags e.1 s)) then none else kvOldest (fun _ => true) s), coldest (t2Victims s) with
      | some b, _ => relieveT2 k (setKvT2 b false s)
      | none, some p =>
        let keep := match pageGet p s with | some q => q.t1.isSome | none => false
        relieveT2 k (if keep then modPage p (fun q => { q with t2 := none }) s else leaveDram p s)
      | none, none => s

/-- The migration policy of a context; unlisted at its reset value (R270). -/
def migCfgOf (c : Nat) (s : State) : Nat := (tgetD s.mem.migCfg c 0x00042001).toNat
def migPromote (c : Nat) (s : State) : Nat := bits (migCfgOf c s) 8 8
def migDemote (c : Nat) (s : State) : Nat := bits (migCfgOf c s) 16 8

/-- Line requests of an epoch that miss the hub cache at a quadrant's crossbar and are bound for DRAM: the traffic's, which the spec does not
fix; one of every 2^`SAMPLE_LOG2` is sampled (R268; log 47). -/
def samples (s : State) : Nat := sumN ((List.range 4).map fun q => Config.freeNat (s.freeCtr + q) / 2 ^ bits s.mem.migCtrl.toNat 4 4)

/-- Shares the samples out over the pages: each adds 1, saturating, to the heat of the page that its request addresses, a page with a T1
or T2 copy (R268). -/
def shareHeat (n ctr : Nat) (l : List (Nat × Page)) : List (Nat × Page) :=
  match l with
  | [] => []
  | e :: r =>
    if e.2.t1.isSome || e.2.t2.isSome then
      let k := min n (Config.freeNat ctr)
      (e.1, { e.2 with heat := min 255 (e.2.heat + k) }) :: shareHeat (n - k) (ctr + 1) r
    else e :: shareHeat n ctr r

def heatSamples (s : State) : State :=
  let t := { s with mem := { s.mem with pages := shareHeat (samples s) (s.freeCtr + 4) s.mem.pages } }
  bumpFreeBy (4 + s.mem.pages.length) t

def movable (e : Nat × Page) (s : State) : Bool := decide (e.2.kind = .sealed) && bit (migCfgOf e.2.ctx s) 0 && !(s.mem.moves.any fun m => decide (m.1 = e.1))

def addMove (p : Nat) (k : MoveKind) (s : State) : State := { s with mem := { s.mem with moves := s.mem.moves ++ [(p, k)] } }

/-- T1 bytes that promotions chosen and not yet made will take: of a context, of all. -/
def pendingT1 (c : Nat) (s : State) : Nat :=
  pageBytes * (s.mem.moves.filter fun m => decide (m.2 = .promote) && (match pageGet m.1 s with | some p => decide (p.ctx = c) | none => false)).length
def pendingT1All (s : State) : Nat := pageBytes * (s.mem.moves.filter fun m => decide (m.2 = .promote)).length

/-- The context's T1 quota and the free T1 have room for one more promotion (R268). -/
def moveFits (c : Nat) (s : State) : Bool :=
  decide (t1Use c s + pendingT1 c s + pageBytes ≤ t1Quota c s) && decide (pendingT1All s + pageBytes ≤ t1FreeFor c s)

/-- Chooses moves in the order of the table, at most `n` (R268). -/
def chooseMoves (fuel n : Nat) (s : State) : State :=
  match fuel with
  | 0 => s
  | k + 1 =>
    if n = 0 then s
    else
      let live := s.mem.pages.filter fun e => movable e s
      let dem := live.filter fun e => e.2.promoted && e.2.t1.isSome && aWarm (pageFlags e.1 s) && decide (e.2.heat ≤ migDemote e.2.ctx s)
      match dem with
      | e :: _ => chooseMoves k (n - 1) (addMove e.1 .demote s)
      | [] =>
        let pro := live.filter fun e => e.2.t1.isNone && e.2.t2.isSome && (let f := pageFlags e.1 s; aWarm f || aHot f) && decide (migPromote e.2.ctx s ≤ e.2.heat)
        let fits := pro.filter fun e => moveFits e.2.ctx s
        match hottest fits with
        | some p => chooseMoves k (n - 1) (addMove p .promote s)
        | none =>
          let swaps := pro.filterMap fun e =>
            let cand := live.filter fun x => decide (x.2.ctx = e.2.ctx) && x.2.t1.isSome && (let f := pageFlags x.1 s; aWarm f || aHot f)
            match coldest cand with
            | some q => (match pageGet q s with | some x => if x.heat ≤ migDemote x.ctx s ∧ aboveRes x.ctx s = true then some (e, q) else none | none => none)
            | none => none
          match hottest (swaps.map (·.1)) with
          | some p =>
            match (swaps.find? fun x => decide (x.1.1 = p)).map (·.2) with
            | some q => if 2 ≤ n then chooseMoves k (n - 2) (addMove p .promote (addMove q .demote s)) else s
            | none => s
          | none => s

end Sys2Proof.Machine
end

