-- ==== Sys2Proof/Machine/MemorySvc.lean ====
section
/-! DEFINITION. The MEMORY service (08 R279, R280) and the events of the tiers: copy-on-write, fills, migration epochs,
page moves, pressure. -/
namespace Sys2Proof.Machine

/-- Requests that name one object take effect in acceptance order (R279): none accepted earlier still waits. -/
def objTurn (r : Req) (s : State) : Bool :=
  !(s.ledger.reqs.any fun q => decide (q.rid < r.rid ∧ q.svc = 5 ∧ 2 ≤ q.op ∧ q.op ≤ 6 ∧ q.mbx = r.mbx ∧ fld q.payload 0 8 = fld r.payload 0 8)
    && q.done.isNone && !q.running)

/-- A MEMORY request on an object: found and its turn (R279). -/
def onObj (r : Req) (errs : List (Bool × Nat)) (late : Obj → List (Bool × Nat)) (f : Nat → Obj → State → State) (s : State) : State :=
  let h := fld r.payload 0 8
  if objTurn r s then
    match objOf r.mbx h s with
    | none => checked r.rid ((hasRef r, stInvalidField) :: errs ++ [(true, stNoObject)]) id s
    | some o => checked r.rid ((hasRef r, stInvalidField) :: errs ++ late o) (f h o) s
  else s

def objCount (c : Nat) (s : State) : Nat := (s.mem.objs.filter fun e => decide (e.2.ctx = c)).length

def allocBody (r : Req) (s : State) : State :=
  let va := fld r.payload 0 8
  let n := fld r.payload 8 8
  let fl := fld r.payload 16 2
  let len := pageBytes * pagesFor n
  checked r.rid [(hasRef r, stInvalidField), (manyPlaces fl || decide (256 ≤ fl) || decide (n = 0) || decide (2 ^ 40 < n) || decide (va % pageBytes ≠ 0), stInvalidField),
    (decide (va ≠ 0) && !(vaFree r.mbx va len s), stRangeInUse),
    (!(t1Fits r.mbx len s) || decide (2 ^ 20 ≤ objCount r.mbx s) || (decide (va = 0) && (chooseVa r.mbx len s).isNone), stNoSpace)]
    (fun t =>
      let at_ := if va = 0 then (chooseVa r.mbx len t).getD 0 else va
      let (ps, t) := newPages r.mbx (pagesFor n) t
      let (h, t) := newObj r.mbx at_ fl ps [] t
      complete r.rid stSuccess (leBytes 8 h ++ leBytes 8 at_) t) s

def execMemoryAlloc (rid : Nat) (s : State) : Res := .next (serve 5 1 rid allocBody s)

def execMemoryFree (rid : Nat) (s : State) : Res :=
  .next (serve 5 2 rid (fun r t => onObj r [] (fun _ => []) (fun h _ u => complete rid stSuccess [] (freeObj h u)) t) s)

/-- The pages that a seal takes, with their positions, up to the first lost page (R280). -/
def sealList (o : Obj) (s : State) : List (Nat × Nat) := o.pages.zipIdx.takeWhile fun e => decide (pageKindOf e.1 s ≠ some .lost)
def sealTodo (o : Obj) (s : State) : List (Nat × Nat) :=
  (sealList o s).filter fun e => isWritableKind (pageKindOf e.1 s) || isPrivKind (pageKindOf e.1 s)

/-- Bytes that the pages of a seal take in T2, and as flash copies (R271). -/
def sealStored (o : Obj) (s : State) : Nat := sumN ((sealTodo o s).map fun e => match pageGet e.1 s with | some q => storedOf o.aflags q.data | none => 0)
def sealPacked (o : Obj) (s : State) : Nat := sumN ((sealTodo o s).map fun e => match pageGet e.1 s with | some q => packedOf o.aflags q.data | none => 0)

def sealBody (h : Nat) (r : Req) (o : Obj) (s : State) : State :=
  let sf := fld r.payload 8 2
  let lost := decide ((sealList o s).length < o.pages.length)
  let todo := sealTodo o s
  let t := sealPages o.aflags sf (todo.map (·.1)) s
  let t := if lost then t else modObj h (fun x => { x with digest := shake256 (objBytes x t) 32 }) t
  let t := commit r.rid todo.length (some (leBytes 8 h)) t
  match findReq r.rid t with
  | none => t
  | some q =>
    if lost then fail r.rid stDataLost t
    else if sealReady q t then complete r.rid stSuccess (sealPayload q t) t else setRunning r.rid t

/-- Writes to the object of a `SEAL` that an IOMMU or a hart accepted before its write permission went are performed first; a write that is
not among them comes after the seal (R257; log 250). -/
def sealWrites (rid : Nat) (l : List (Nat × Bytes)) (s : State) : State :=
  match findReq rid s with
  | none => s
  | some r =>
    match objOf r.mbx (fld r.payload 0 8) s with
    | none => s
    | some o => l.foldl (fun t e =>
        if o.va ≤ e.1 ∧ e.1 + e.2.length ≤ o.va + pageBytes * o.pages.length then (match ctxWrite r.mbx e.1 e.2 t with | .ok u => u | _ => t) else t) s

/-- `SEAL`: T2 for a `WARM` object and flash copies within the quotas (R571), the pinned region for a `DURABLE` one (R280). -/
def execMemorySeal (rid : Nat) (racing : List (Nat × Bytes)) (s : State) : Res :=
  .next (serve 5 3 rid (fun r t =>
    onObj r [(decide (4 ≤ fld r.payload 8 2), stInvalidField)]
      (fun o =>
        let n := sealPacked o t
        let copies := bit (fld r.payload 8 2) 0 || aDurable o.aflags || aCold o.aflags || aWarm o.aflags
        [(objSealed o t, stAlreadySealed),
         (!(quotaFits r.mbx (if aWarm o.aflags then sealStored o t else 0) (if copies then n else 0) t)
            || (aDurable o.aflags && decide (ckptCap < ckptUsed t + n)), stNoSpace)])
      (fun h o u => sealBody h r o u) t) (sealWrites rid racing s))

/-- `CLONE`: the pages of a sealed object at another address (R261). -/
def cloneBody (r : Req) (o : Obj) (s : State) : State :=
  let va := fld r.payload 8 8
  let len := pageBytes * o.pages.length
  let at_ := if va = 0 then (chooseVa r.mbx len s).getD 0 else va
  let fl := fld r.payload 16 2 + o.aflags % 64
  let t := o.pages.foldl (fun t p => modPage p (fun q => { q with refs := q.refs + 1 }) t) s
  let (h, t) := newObj r.mbx at_ fl o.pages o.digest t
  complete r.rid stSuccess (leBytes 8 h ++ leBytes 8 at_) t

def execMemoryClone (rid : Nat) (s : State) : Res :=
  .next (serve 5 4 rid (fun r t =>
    onObj r [(decide (fld r.payload 16 2 &&& 0xFF3F ≠ 0) || decide (fld r.payload 8 8 % pageBytes ≠ 0), stInvalidField)]
      (fun o => [(decide (fld r.payload 8 8 ≠ 0) && !(vaFree r.mbx (fld r.payload 8 8) (pageBytes * o.pages.length) t), stRangeInUse), (!(objSealed o t), stNotSealed),
        (decide (2 ^ 20 ≤ objCount r.mbx t) || (decide (fld r.payload 8 8 = 0) && (chooseVa r.mbx (pageBytes * o.pages.length) t).isNone), stNoSpace)])
      (fun _ o u => cloneBody r o u) t) s)

/-- Reply of `QUERY` (R279). -/
def objQuery (h : Nat) (o : Obj) (s : State) : Bytes :=
  let ps := o.pages.filterMap fun p => pageGet p s
  let sealed := ps.filter fun q => decide (q.kind = .sealed)
  let copy := ((sealed.map (·.flash)).min?).getD 0
  leBytes 8 h ++ leBytes 8 o.va ++ leBytes 8 (pageBytes * o.pages.length) ++ leBytes 2 o.aflags ++ leBytes 1 (objState o s) ++ leBytes 1 copy
    ++ leBytes 4 (ps.filter fun q => q.t1.isSome).length ++ leBytes 4 (ps.filter fun q => q.t2.isSome).length
    ++ leBytes 4 (sealed.filter fun q => q.t1.isNone && q.t2.isNone && decide (q.flash ≠ 0)).length
    ++ leBytes 4 (o.pages.filter fun p => isPrivKind (pageKindOf p s)).length ++ leBytes 4 (ps.filter isLost).length
    ++ leBytes 8 (sumN (sealed.map fun q => q.stored * b2n q.t2.isSome + q.packed * (b2n (decide (q.flash ≠ 0)) + b2n (decide (q.flash2 ≠ 0)))))
    ++ sub o.digest 0 32

def execMemoryQuery (rid : Nat) (s : State) : Res :=
  .next (serve 5 6 rid (fun r t => onObj r [] (fun _ => []) (fun h o u => complete rid stSuccess (objQuery h o u) u) t) s)

/-- The context that a request names at byte 0; a tenant may name only itself (R280). -/
def ctxNamed (r : Req) : Option Nat :=
  let c := fld r.payload 0 1
  if c < 64 ∧ (r.mbx = 0 ∨ c = r.mbx) then some c else none

/-- Bytes of `DURABLE` copies of a context. -/
def pinnedUse (c : Nat) (s : State) : Nat :=
  sumN (s.mem.pages.map fun e => if e.2.ctx = c ∧ e.2.flash ≠ 0 ∧ aDurable (pageFlags e.1 s) = true then e.2.packed else 0)

/-- Reply of `USAGE` (R279). -/
def usageReply (c : Nat) (s : State) : Bytes :=
  let u := usageOf c s
  let res := match slotOf c s with | some k => if k.act.lc then k.act.t1Res * gib else 0 | none => 0
  leBytes 8 (t1Use c s) ++ leBytes 8 (t1Quota c s) ++ leBytes 8 res ++ leBytes 8 (t2Use c s) ++ leBytes 8 (t2Quota c s)
    ++ leBytes 8 (flashUse c s) ++ leBytes 8 (flashQuota c s) ++ leBytes 8 (pinnedUse c s)
    ++ leBytes 4 u.promoted.toNat ++ leBytes 4 u.demoted.toNat ++ leBytes 4 u.fills.toNat ++ leBytes 4 u.cowPages.toNat
    ++ leBytes 4 (objCount c s) ++ zeros 4

def execMemoryUsage (rid : Nat) (s : State) : Res :=
  .next (serve 5 7 rid (fun r t =>
    checked rid [(hasRef r || (ctxNamed r).isNone, stInvalidField)]
      (fun u => complete rid stSuccess (usageReply ((ctxNamed r).getD 0) u) u) t) s)

/-- Demotes sealed T1 pages of a context until its T1 use is within the quota (R279). -/
def shrinkT1 (fuel c : Nat) (s : State) : State :=
  match fuel with
  | 0 => s
  | k + 1 =>
    if t1Use c s - ctxLeaving c s ≤ t1Quota c s then s
    else
      let cand := s.mem.pages.filter fun e => decide (e.2.ctx = c ∧ e.2.kind = .sealed) && e.2.t1.isSome && !e.2.dropT1 && !e.2.dropT2 && !(aPinned (pageFlags e.1 s))
      match coldest cand with
      | some p =>
        let t := demotePage p s
        if t = s then s else shrinkT1 k c t
      | none => s

/-- `QUOTA` (R279, R571). -/
def quotaBody (r : Req) (s : State) : State :=
  let c := fld r.payload 0 1
  checked r.rid [(hasRef r || decide (64 ≤ c), stInvalidField)] (fun t =>
    let t := modUsage c (fun u => { u with t1Quota := fld r.payload 8 8, t2Quota := fld r.payload 16 8, flashQuota := fld r.payload 24 8 }) t
    let t := t2Room (t2Copies t) c 0 (shrinkT1 t.mem.pages.length c t)
    complete r.rid stSuccess [] t) s

def execMemoryQuota (rid : Nat) (s : State) : Res := .next (serve 5 8 rid quotaBody s)

/-- `MIG_CFG` (R270, R279). -/
def migCfgBody (r : Req) (s : State) : State :=
  let p := fld r.payload 2 1
  let d := fld r.payload 3 1
  checked r.rid [(hasRef r || (ctxNamed r).isNone || decide (1 < fld r.payload 1 1) || decide (p ≤ d), stInvalidField)] (fun t =>
    let v : U32 := BitVec.ofNat 32 (fld r.payload 1 1 + 256 * p + 65536 * d)
    complete r.rid stSuccess [] { t with mem := { t.mem with migCfg := tset t.mem.migCfg ((ctxNamed r).getD 0) v } }) s

def execMemoryMigCfg (rid : Nat) (s : State) : Res := .next (serve 5 9 rid migCfgBody s)

/-! ### Events of the tiers -/

/-- A write to a sealed page of a `COW` object promotes it (R260). -/
def execCowPromotion (c va : Nat) (s : State) : Res := .next ((cowPage c va s).getD s)

/-- A fill of a sealed page with no DRAM copy ends: mapped, or the page is lost when every recovery failed (R266, R276,
R277). -/
def fillEvent (c va : Nat) (ok : Bool) (s : State) : State :=
  match pidAt c va s with
  | none => s
  | some p =>
    match pageGet p s with
    | none => s
    | some q =>
      if q.kind = .sealed ∧ q.t1.isNone = true ∧ q.t2.isNone = true then
        if ok && copyReads p s then fillPage (aHot (pageFlags p s) || aPinned (pageFlags p s)) p s else losePage p s
      else s

def execFill (c va : Nat) (ok : Bool) (s : State) : Res := .next (fillEvent c va ok s)

/-- The end of a migration epoch: the cycle, the moves chosen, heat halved, the next length in force (R268, R270). -/
def epochEnd (s : State) : State :=
  let t := clockTo domFab (s.mem.epochStart + s.mem.migEpoch.toNat) s
  let start := s.mem.epochStart + s.mem.migEpoch.toNat
  let t := { t with mem := { t.mem with epochStart := start, migEpoch := s.mem.migEpochNext.getD s.mem.migEpoch, migEpochNext := none } }
  if bit s.mem.migCtrl.toNat 0 then
    let old := t.mem.moves.length
    let t := heatSamples t
    let t := chooseMoves 256 (bits s.mem.migCtrl.toNat 8 8) t
    let new := t.mem.moves.drop old
    let p := (new.filter fun m => decide (m.2 = .promote)).length
    let stat : U32 := BitVec.ofNat 32 (p + 65536 * (new.length - p))
    { t with mem := { t.mem with migStat := stat, pages := t.mem.pages.map fun e => (e.1, { e.2 with heat := e.2.heat / 2 }) } }
  else { t with mem := { t.mem with migStat := 0 } }

def execMigrationEpoch (s : State) : Res := .next (if clockPowered domFab s then epochEnd s else s)

/-- A chosen move ends in its switch, or is abandoned and counted (R269). -/
def pageMoveBody (pid : Nat) (s : State) : State :=
  match s.mem.moves.find? fun m => decide (m.1 = pid) with
  | none => s
  | some m =>
    if isSealedPage pid s then
      let t := { s with mem := { s.mem with moves := s.mem.moves.erase m } }
      match m.2 with
      | .promote => promotePage pid t
      | .demote => demotePage pid t
    else abandonMove pid s

def execPageMove (pid : Nat) (s : State) : Res := .next (pageMoveBody pid s)

/-- `MIG_FAIL` is read and cleared (R270). -/
def execMigFailRead (s : State) : Res := .next ({ setRead s.mem.migFail.toNat s with mem := { s.mem with migFail := 0 } })

/-- T1 pressure below 4 GB free, T2 pressure below 16 GB free (R265). -/
def execT1Pressure (s : State) : Res := .next (if t1FreeAll s < 4 * gib then relieveT1 s.mem.pages.length s else s)
def execT2Pressure (s : State) : Res := .next (if t2Free s < 16 * gib then relieveT2 (t2Copies s) s else s)

end Sys2Proof.Machine
end

