-- ==== Sys2Proof/Machine/Ecc.lean ====
section
/-! DEFINITION. Error correction in stored data (09): reads and their counting, remaps, page retirement, loss of an LPDDR5X
package, flip masks. Controllers: 0 to 7 HBM, 16 to 31 LPDDR, 256 + e local memory of engine e, 336 + d die cache,
340 + q hub cache slice, 344 mailbox memory, 345 firmware SRAM, 512 + 2·core + (0 instructions, 1 data) L1 caches; flash channels
1024 + ch. -/
namespace Sys2Proof.Machine

def isEccCtl (k : Nat) : Bool := isDram k || (decide (256 ≤ k) && decide (k ≤ 345)) || (decide (512 ≤ k) && decide (k < 1024))

/-- Clock domain of a controller. -/
def eccDomain (k : Nat) : Nat :=
  if k < 8 then 0x10 + k else if k < 32 then 0x18 else if k < 336 then (k - 256) / 20 else if k < 340 then 4 + (k - 336) else if k < 344 then domFab
  else if k < 512 then domMgmt else 4 + (k - 512) / 128

/-- `src_type` and `src_index` of a controller's events (R297). -/
def eccSource (k : Nat) : Nat × Nat :=
  if k < 32 then (3, k) else if k < 336 then (2, (k - 256) / 20) else if k < 340 then (2, k - 336) else if k < 512 then (0, 0) else (2, (k - 512) / 128)

/-- Channel or macro of an address, and remap entries of each (R289). -/
def eccChannel (k a : Nat) : Nat := if isDram k then Config.dramChannel a % (if k < 8 then 16 else 4) else a / 65536
def remapPer (k : Nat) : Nat := if isDram k then 32 else 8
/-- Address at the code unit: a 64-byte line, an 8-byte word (R281). -/
def eccUnit (k a : Nat) : Nat := if isDram k then a / 64 * 64 else a / 8 * 8
/-- Counting interval of now (R287). -/
def eccInterval (k : Nat) (s : State) : Nat := clockNow (eccDomain k) s / 2 ^ bits (eccOf k s).ctrl.toNat 8 5

/-- Adds an entry to a full or free tracker: a free place, else the place of the lowest count, among equals the one counted
longest ago (R287). -/
def trackNew (cap a now : Nat) (l : List Track) : List Track :=
  if l.length < cap then l ++ [⟨a, 1, now⟩]
  else match l with
    | [] => [⟨a, 1, now⟩]
    | t :: r =>
      let v := r.foldl (fun (b : Track) x => if x.count < b.count ∨ (x.count = b.count ∧ x.last < b.last) then x else b) t
      l.map fun x => if x = v then ⟨a, 1, now⟩ else x

/-- Counts a correction: in `CE_CNT` always, in the tracker once an interval; at `THRESH` the address waits for its
remap (R287). -/
def countCorrection (k a : Nat) (s : State) : State :=
  let now := eccInterval k s
  modEcc k (fun b =>
    let b := { b with ceCnt := if b.ceCnt = 0xFFFFFFFF then b.ceCnt else b.ceCnt + 1, ceLast := BitVec.ofNat 64 (a / 64 * 64) }
    let cap := if isDram k then 64 else 16
    let track := if b.track.any fun t => decide (t.addr = a) then b.track.map fun t => if t.addr = a ∧ t.last ≠ now then { t with count := min 15 (t.count + 1), last := now } else t
      else trackNew cap a now b.track
    let hit := track.any fun t => decide (t.addr = a) && decide (bits b.ctrl.toNat 0 4 ≤ t.count)
    { b with track := track, atThresh := if hit && !(b.atThresh.contains a) then b.atThresh ++ [a] else b.atThresh }) s

/-- A page's T2 copy takes a block; meets a frame. -/
def inT2 (p : Page) (u : Nat) : Bool := match p.t2 with | some a => decide (a ≤ u) && decide (u < a + t2Span p.stored) | none => false
def meetsFrame (p : Page) (f : Nat) : Bool := match p.t2 with | some a => rangesMeet (t2Blocks * f) t2Blocks (a, t2Span p.stored) | none => false

/-- The page whose T1 or T2 copy holds an address of a DRAM controller (log 31). -/
def pageOfLine (k a : Nat) (s : State) : Option Nat :=
  (s.mem.pages.find? fun e => if k < 8 then decide (e.2.t1 = some (k * t1PerStack + a / pageBytes)) else inT2 e.2 (((k - 16) * t2PerPack * t2Blocks + a / 4096))).map (·.1)

/-- Recovery of a page whose DRAM copy cannot be read: that copy is dropped and the page served from another, else it is
lost (08 R276, R277). -/
def recoverPage (k pid : Nat) (s : State) : State :=
  match pageGet pid s with
  | none => s
  | some p =>
    let other := if k < 8 then p.t2.isSome else p.t1.isSome
    if p.kind = .sealed ∧ (other = true ∨ copyReads pid s = true) then
      modPage pid (fun q => if k < 8 then { q with t1 := none, promoted := false } else { q with t2 := none }) s
    else losePage pid s

/-- A DRAM controller is given a poisoned line to write: no later read of it is correctable until it is written with good data (R286). -/
def storePoison (k a : Nat) (s : State) : State := modEcc k (fun b => { b with errs := tset b.errs a 80 }) s

/-- A modified line of a cache is lost: poison is stored in the page's T1 copy, and the page is lost (R285, R286; 08 R277). -/
def loseLine (pid line : Nat) (s : State) : State :=
  match (pageGet pid s).bind (·.t1) with
  | some f => losePage pid (storePoison (t1Line f).1 ((t1Line f).2 + 64 * line) s)
  | none => s

/-- A cache that cannot correct a word of a line: a clean line is invalidated; a modified one, which no sealed page has, is poisoned. The state
does not tell which of the writable lines are modified (R285; log 237). -/
def cacheUe (k a : Nat) (s : State) : State :=
  if 512 ≤ k then
    if k % 2 = 0 then s
    else
      let set := s.task.l1.filter fun e => decide (e.1 / 2 ^ 64 = (k - 512) / 2 ∧ e.1 % 256 = a / 64 % 256)
      match set[a / 64 / 256 % 4]? with
      | some e => { s with task := { s.task with l1 := tdel s.task.l1 e.1 } }
      | none => s
  else
    let way := 8 * (k - 336) * 12288 * 16 + a / 64
    let line := if k < 340 then tget s.task.dc way else if s.mem.pages.isEmpty then none else
      (s.mem.pages[Config.freeNat s.freeCtr % s.mem.pages.length]?).map fun e => 32768 * e.1 + Config.freeNat (s.freeCtr + 1) % 32768
    let t := bumpFreeBy 3 (if k < 340 then { s with task := { s.task with dc := tdel s.task.dc way } } else s)
    match line with
    | some l =>
      match pageGet (l / 32768) s with
      | some p => if writableKind p.kind && decide (Config.freeBits 1 (s.freeCtr + 2) = 1) then loseLine (l / 32768) (l % 32768) t else t
      | none => t
    | none => t

/-- An uncorrectable read: counted and reported, then what R285 gives for the memory. `how`: 0 demand, 1 patrol, 2 remap install (R285,
R297). -/
def uncorrectable (k a how : Nat) (s : State) : State :=
  let t := modEcc k (fun b => { b with ueCnt := if b.ueCnt = 0xFFFFFFFF then b.ueCnt else b.ueCnt + 1 }) s
  let t := devEvent 0x17 (eccSource k).1 (eccSource k).2 (leBytes 8 a ++ leBytes 1 how) t
  if isDram k then
    match pageOfLine k a t with
    | some p => recoverPage k p t
    | none => t
  else if k < 336 then (if engOn (k - 256) t then eccUe (k - 256) false false t else t)
  else if k < 344 ∨ 512 ≤ k then cacheUe k a t
  else if k = 344 then moveMbxBlock (a / 4096) t
  else t

/-- How a read of a codeword fares. -/
inductive ReadFate where
  | clean | corrected | uncorrectable
  deriving DecidableEq, Repr

/-- The symbols in error decide: those of the codeword, and those that the read meets (R281, R282). -/
def readOutcome (k a met : Nat) (s : State) : ReadFate :=
  let n := lineErrs k a s + met
  if n = 0 then .clean else if n ≤ eccCorrects k then .corrected else .uncorrectable

def eccRead (k a how met : Nat) (s : State) : State :=
  match readOutcome k a met s with
  | .clean => s
  | .corrected => countCorrection k a s
  | .uncorrectable => uncorrectable k a how s

/-- A DRAM die, a pseudo-channel or a lane fails and stays failed (R282). -/
def failElement (k : Nat) (e : Option Nat) (s : State) : State :=
  match e with
  | some e => if isDram k && !((eccOf k s).dead.contains e) then modEcc k (fun b => { b with dead := b.dead ++ [e] }) s else s
  | none => s

/-- The data of a line of a DRAM controller as it lies in the page that it belongs to; elsewhere nothing constrains it. -/
def lineData (k a : Nat) (s : State) : Nat :=
  match (pageOfLine k a s).bind (fun p => pageGet p s) with
  | some p =>
    let off := if k < 8 then a % pageBytes else ((k - 16) * t2PerPack * t2Blocks * 4096 + a) - 4096 * p.t2.getD 0
    leNat (if 16 ≤ k ∧ p.stored ≠ pageBytes then sub (t2Image p.data) off 8 else Memory.readN 0 p.data off 8)
  | none => Config.freeNat s.freeCtr

/-- A request read from DRAM is timed by the instance of its stack or quadrant: the cycles are free (19 R551; log 248). -/
def latencySample (k : Nat) (s : State) : State :=
  if isDram k then monSample (if k < 8 then 17 + k else 25 + (k - 16) / 4) (Config.freeNat s.freeCtr : Int) 0 (bumpFree s) else s

/-- A line read by a context: corrected and counted, or recovered from another copy; the data delivered is recorded, the first 8 bytes of
the line (R276, R284, R285, R287). -/
def execDramRead (k addr _c : Nat) (heal : DramHeal) (s : State) : Res :=
  .next (if isEccCtl k && clockPowered (eccDomain k) s then
      let a := eccUnit k addr
      let t := failElement k heal.element s
      let u := latencySample k (eccRead k a 0 heal.symbols t)
      if isDram k && decide (readOutcome k a heal.symbols t ≠ .uncorrectable) then setRead (lineData k a u) (bumpFree u) else u
    else s)

/-- Bytes of a controller's memory (R288; 03 R106; 05 R158, R190; 01 R48; 02 R61; log 236). -/
def eccSize (k : Nat) : Nat :=
  if k < 8 then t1PerStack * pageBytes else if k < 32 then t2PerPack * pageBytes else if k < 336 then 0x200000 else if k < 340 then 0x6000000
  else if k < 344 then 0x1000000 else if k < 512 then max 8 (Config.sramBytes k / 8 * 8) else 0x10000

/-- A patrol read of the next code unit: counted as a demand read; after the last one a pass is complete (R288, R294). -/
def execPatrolRead (k : Nat) (heal : DramHeal) (s : State) : Res :=
  .next (if isEccCtl k && bit (eccOf k s).ctrl.toNat 4 && clockPowered (eccDomain k) s && decide (s.host.ifState ≠ .bivouac) then
      let a := (eccOf k s).patrolPos
      let n := a + (if isDram k then 64 else 8)
      let t := eccRead k a 1 heal.symbols (failElement k heal.element s)
      modEcc k (fun b => { b with patrolPos := if n < eccSize k then n else 0, passes := if n < eccSize k then b.passes else b.passes + 1 }) t
    else s)

/-- Free remap entries of a channel or macro. -/
def remapFree (k ch : Nat) (b : EccBlk) : List Nat :=
  (List.range (remapPer k)).filter fun e => (tget b.remap (remapPer k * ch + e)).isNone && !(b.remapOut.contains (remapPer k * ch + e))

/-- No entry is free: a cache way is disabled in its set, its modified line written back; a mailbox block moves. An engine is retired by
`SPARE_REPLACE`, a DRAM page by `PAGE_RETIRED` (R291). -/
def remapFull (k a : Nat) (s : State) : State :=
  if 336 ≤ k ∧ k < 344 then
    if s.ecc.waysOut.contains (k, a / 64) then s
    else
      let t := { s with ecc := { s.ecc with waysOut := s.ecc.waysOut ++ [(k, a / 64)] } }
      let t := if k < 340 then { t with task := { t.task with dc := tdel t.task.dc (8 * (k - 336) * 12288 * 16 + a / 64) } } else t
      writeRecordFree 5 (modEcc k (fun b => { b with atThresh := b.atThresh.erase a, track := b.track.filter (fun x => decide (x.addr ≠ a)) }) t)
  else if k = 344 then moveMbxBlock (a / 4096) s else s

/-- Installs the remap of an address at `THRESH`, or finds no free entry, or cannot correct it; the entry is recorded (R290 to R292). -/
def installRemap (k a : Nat) (s : State) : State :=
  let b := eccOf k s
  let ch := eccChannel k a
  if !(b.atThresh.contains a) then s
  else if eccCorrects k < lineErrs k a s then
    uncorrectable k a 2 (modEcc k (fun b => { b with atThresh := b.atThresh.erase a }) s)
  else
    match remapFree k ch b with
    | [] => remapFull k a (devEvent 0x19 (eccSource k).1 (eccSource k).2 (leBytes 8 a ++ leBytes 1 ch) s)
    | e :: rest =>
      let t := modEcc k (fun b => { b with ceCnt := if b.ceCnt = 0xFFFFFFFF then b.ceCnt else b.ceCnt + 1, ceLast := BitVec.ofNat 64 (a / 64 * 64) }) s
      let t := modEcc k (fun b =>
        let old := remapOf a b
        { b with remap := tset (match old with | some o => tdel b.remap o | none => b.remap) (remapPer k * ch + e) a
                 remapOut := (match old with | some o => b.remapOut ++ [o] | none => b.remapOut)
                 errs := tdel b.errs a, atThresh := b.atThresh.erase a, track := b.track.filter (fun t => decide (t.addr ≠ a)) }) t
      writeRecordFree 4 (devEvent 0x18 (eccSource k).1 (eccSource k).2 (leBytes 8 a ++ leBytes 1 ch ++ leBytes 1 e ++ leBytes 2 rest.length) t)

def execRemapInstall (k addr : Nat) (s : State) : Res :=
  .next (if isEccCtl k && clockPowered (eccDomain k) s then installRemap k (eccUnit k addr) s else s)

/-- Controller and offset of a frame. -/
def frameCtl (t2 : Bool) (f : Nat) : Nat × Nat := if t2 then (16 + f / t2PerPack, f % t2PerPack) else (f / t1PerStack, f % t1PerStack)

/-- A page leaves a frame that is retired: a sealed page with another copy drops this one, any other moves (R291). -/
def leaveFrame (t2 : Bool) (pid : Nat) (s : State) : State :=
  match pageGet pid s with
  | none => s
  | some q =>
    let elsewhere := if t2 then q.t1.isSome else q.t2.isSome
    if q.kind = .sealed ∧ (elsewhere = true ∨ copyReads pid s = true) then modPage pid (fun x => if t2 then { x with t2 := none } else { x with t1 := none, promoted := false }) s
    else if t2 then
      let t := modPage pid (fun x => { x with t2 := none }) s
      modPage pid (fun x => { x with t2 := newT2 x.stored t }) t
    else healT1 (newT1 s) (modPage pid (fun x => { x with t1 := newT1 s }) s)

/-- Retires the physical page that holds an address for which no remap entry was left: its contents move or are dropped,
its remap entries are freed, and it is never allocated again; it is recorded. A writable page waits for a fresh T1 page (R291, R292). -/
def retireFrame (t2 : Bool) (f : Nat) (s : State) : State :=
  let (k, off) := frameCtl t2 f
  let inPage := fun (a : Nat) => decide (a / pageBytes = off)
  let hit := s.mem.pages.filter fun e => if t2 then meetsFrame e.2 f else decide (e.2.t1 = some f)
  if !((eccOf k s).atThresh.any inPage) || (if t2 then s.ecc.t2Out else s.ecc.t1Out).contains f
      || (!t2 && (newT1 s).isNone && hit.any fun e => decide (e.2.kind ≠ .sealed)) then s
  else
    let t := { s with ecc := { s.ecc with t1Out := if t2 then s.ecc.t1Out else s.ecc.t1Out ++ [f], t2Out := if t2 then s.ecc.t2Out ++ [f] else s.ecc.t2Out } }
    let t := modEcc k (fun b => { b with atThresh := b.atThresh.filter (fun a => !inPage a), remap := b.remap.filter (fun e => !inPage e.2), track := b.track.filter (fun x => !inPage x.addr) }) t
    let t := hit.foldl (fun t e => leaveFrame t2 e.1 t) t
    writeRecordFree 5 <| raiseEvent 0x501 1 5 (match hit with | e :: _ => e.2.ctx | [] => 0xFF) 0 (leBytes 8 (f * pageBytes) ++ leBytes 1 (if t2 then 2 else 1)) t

/-- `pid` names the page that lies there; the state knows it. -/
def execPageRetired (t2 : Bool) (page _pid : Nat) (s : State) : Res := .next (retireFrame t2 page s)

/-- Loss of an LPDDR5X package: its T2 copies are gone, every content has a second source, and T2 falls by 64 GB; the retirement is recorded
(R293; 01 R50). -/
def losePackage (p : Nat) (s : State) : State :=
  let hit := s.mem.pages.filter fun e => match e.2.t2 with | some u => decide (t2Pack u = p) | none => false
  let t := hit.foldl (fun t e => recoverPage 16 e.1 t) s
  writeRecordFree 3 (capsChanged { t with caps := { t.caps with lpdFailed := t.caps.lpdFailed ++ [p] } })

def execLpddrPackageLoss (p : Nat) (s : State) : Res := .next (if p < 16 ∧ s.caps.lpdFailed.contains p = false then losePackage p s else s)

/-- A read of `ECC_CE_CNT` or `ECC_UE_CNT` clears it (R294). -/
def execEccCeCntRead (k : Nat) (ue : Bool) (s : State) : Res :=
  .next (if isEccCtl k then
      let b := eccOf k s
      modEcc k (fun b => if ue then { b with ueCnt := 0 } else { b with ceCnt := 0 }) (setRead (if ue then b.ueCnt.toNat else b.ceCnt.toNat) s)
    else s)

/-! ### Flip masks (R295, R296) -/

/-- Injection is available to a context (15 R454; 19 R561). -/
def injectAvail (c : Nat) (s : State) : Bool :=
  decide (s.sec.sec ≠ .admitted)
    && ((decide (s.sec.dbg = .unlocked) && bit s.sec.scope 2) || decide (s.sec.dbg = .open) || (decide (c = 0) && s.mon.injEnabled))

/-- `ECC_FLIP_CTRL` fields: `ARM` set by a 1, `MATCH` written, `APPLIED` cleared by a 1 (R294). -/
def flipCtrlNext (old v : Nat) : Nat := b2n (bit old 0 || bit v 0) + 2 * b2n (bit v 1) + 4 * b2n (bit old 2 && !(bit v 2))

/-- A flash channel controller also keeps `OFF` in bits 27:16. -/
def flipCtrlWrite (k : Nat) (v : U32) (s : State) : State :=
  if 1024 ≤ k ∧ k < 1056 then
    let old := (tgetD s.ecc.flashCtrl (k - 1024) 0).toNat
    let n : U32 := BitVec.ofNat 32 (flipCtrlNext old v.toNat + 65536 * bits v.toNat 16 12)
    { s with ecc := { s.ecc with flashCtrl := tset s.ecc.flashCtrl (k - 1024) n } }
  else if isEccCtl k then modEcc k (fun b => { b with flipCtrl := BitVec.ofNat 32 (flipCtrlNext b.flipCtrl.toNat v.toNat) }) s
  else s

def execEccFlipCtrlWrite (k : Nat) (v : U32) (c : Nat) (s : State) : Res := .next (if injectAvail c s then flipCtrlWrite k v s else s)

/-- Symbols of a codeword that a mask corrupts: bytes of a DRAM mask, bits of an SRAM mask. -/
def maskSymbols (k : Nat) (m : Tbl U32) : Nat :=
  if isDram k then sumN (m.map fun e => ((List.range 4).filter fun i => decide (bits e.2.toNat (8 * i) 8 ≠ 0)).length)
  else sumN (m.map fun e => (maskBits e.2.toNat (if e.1 < 2 then 32 else if e.1 = 2 then 8 else 0)).length)

/-- The first write of a whole codeword that qualifies takes the mask; `ARM` and the masks clear, `APPLIED` is set
(R295). -/
def applyFlip (k a : Nat) (s : State) : State :=
  if 1024 ≤ k ∧ k < 1056 then
    let c := tgetD s.ecc.flashCtrl (k - 1024) 0
    if bit c.toNat 0 then
      { s with ecc := { s.ecc with flashCtrl := tset s.ecc.flashCtrl (k - 1024) ((c &&& ~~~1) ||| 4), flashMask := s.ecc.flashMask.filter (fun e => decide (e.1 / 4 ≠ k - 1024)) } }
    else s
  else
    let b := eccOf k s
    if bit b.flipCtrl.toNat 0 && (!(bit b.flipCtrl.toNat 1) || decide (b.flipAddr.toNat / 64 = a / 64)) then
      modEcc k (fun b => { b with flipCtrl := (b.flipCtrl &&& ~~~1) ||| 4, flipMask := [], errs := aset 0 b.errs a (maskSymbols k b.flipMask) }) s
    else s

def execFlipApply (k addr : Nat) (s : State) : Res :=
  .next (if (isEccCtl k && clockPowered (eccDomain k) s) || (decide (1024 ≤ k) && decide (k < 1056)) then applyFlip k (if k < 1024 then eccUnit k addr else addr) s else s)

/-- A tracker entry not counted for 256 intervals is freed (R287). -/
def execTrackerEntryExpiry (k t : Nat) (s : State) : Res :=
  .next (match (eccOf k s).track[t]? with
    | none => s
    | some e =>
      if isEccCtl k && clockPowered (eccDomain k) s then
        modEcc k (fun b => { b with track := b.track.erase e }) (clockTo (eccDomain k) ((e.last + 256) * 2 ^ bits (eccOf k s).ctrl.toNat 8 5) s)
      else s)

end Sys2Proof.Machine
end

