-- ==== Sys2Proof/Machine/Mailbox.lean ====
section
/-! DEFINITION. Commands of the control window, the event ring and the mailboxes (02). -/
namespace Sys2Proof.Machine

/-! ### Causes and the ring -/

/-- A write to `EVT_CAUSE` clears the bits written 1 (R15, R82). -/
def causeWrite (v : U32) (s : State) : State := { s with host := { s.host with evtCause := s.host.evtCause &&& ~~~v } }

def execEvtCauseWrite (v : U32) (s : State) : Res := .next (cwAccess true 0x200 4 v.toNat (causeWrite v) s)

/-- A write to `EVT_RING_SIZE`: `LOG2N` ignored while `EN` is 1; a write of `EN` = 1 with `LOG2N` outside 6 to 15
ignored; enabling sets `PROD` and `CONS` to 0 (R79, R80; log 60). -/
def ringSizeWrite (v : U32) (s : State) : State :=
  let en := v.toNat.testBit 31
  let lg := v.toNat % 16
  if s.host.ringSize.toNat.testBit 31 then
    if en then s else { s with host := { s.host with ringSize := BitVec.ofNat 32 (ringLog s) } }
  else if en then
    if 6 ≤ lg then { s with host := { s.host with ringSize := BitVec.ofNat 32 (lg + 2 ^ 31), prod := 0, cons := 0 } } else s
  else { s with host := { s.host with ringSize := BitVec.ofNat 32 lg } }

def execEvtRingSizeWrite (v : U32) (s : State) : Res := .next (cwAccess true 0x210 4 v.toNat (ringSizeWrite v) s)

/-- A write to `EVT_RING_HEAD`: `CONS` is taken only if it consumes no more entries than were written (R80). -/
def ringConsWrite (v : U32) (s : State) : State :=
  let new : U16 := BitVec.ofNat 16 (v.toNat / 65536)
  if (new - s.host.cons).toNat ≤ (s.host.prod - s.host.cons).toNat then { s with host := { s.host with cons := new } } else s

def execEvtRingConsWrite (v : U32) (s : State) : Res := .next (cwAccess true 0x214 4 v.toNat (ringConsWrite v) s)

def execEventWrite (refused : Bool) (s : State) : Res := .next (eventOut refused s)

/-! ### Doorbells and status -/

def badDoorbell (n : Nat) (s : State) : State := modMbx n (fun m => { m with badDb := true }) s

/-- The fields of a doorbell that pass their checks are taken, each on its own; one that fails sets `BAD_DB` (R63). -/
def takeDoorbell (v : U32) (m : Mbx) : Mbx :=
  let newT : Byte := BitVec.ofNat 8 v.toNat
  let newH : Byte := BitVec.ofNat 8 (v.toNat / 65536)
  let okT := decide ((m.reqTail - m.reqHead).toNat ≤ (newT - m.reqHead).toNat) && decide ((newT - m.reqHead).toNat ≤ 32)
  let okH := decide ((newH - m.rplHead).toNat ≤ (m.rplTail - m.rplHead).toNat)
  let weT := v.toNat.testBit 31
  let weH := v.toNat.testBit 30
  { m with reqTail := if weT && okT then newT else m.reqTail, rplHead := if weH && okH then newH else m.rplHead,
           badDb := m.badDb || (weT && !okT) || (weH && !okH) }

/-- A doorbell write: ignored with `BAD_DB` where the mailbox is disabled or resetting; a wake request in Bivouac (R56,
R60, R63). -/
def doorbell (n : Nat) (v : U32) (s : State) : State :=
  if n ≥ 64 then s
  else if s.host.ifState = .bivouac then { s with pwr := { s.pwr with wakeLatched := true } }
  else if mbxState n s = 0 ∨ mbxState n s = 3 then badDoorbell n s
  else modMbx n (takeDoorbell v) s

def execReqTailWrite (n : Nat) (v : U32) (s : State) : Res := .next (cwAccess true (0x1000 + 16 * n) 4 v.toNat (doorbell n v) s)
def execRplHeadWrite (n : Nat) (v : U32) (s : State) : Res := .next (cwAccess true (0x1000 + 16 * n) 4 v.toNat (doorbell n v) s)

/-- A read of `MBX_STAT[n]`: the upper half's counts are cleared by it as one action (R15, R62). -/
def mbxStatRead (n : Nat) (h : Half) (s : State) : State :=
  let v := halfOf h (mbxStat n s)
  let t := if h = .low then s else modMbx n (fun m => { m with lateCnt := 0, timeoutCnt := 0 }) s
  setRead v t

/-- Bytes of an access to one half or to all of a register. -/
def halfLen (h : Half) : Nat := if h = .full then 8 else 4
def halfOff (h : Half) : Nat := if h = .high then 4 else 0

def execMbxStatRead (n : Nat) (half : Half) (s : State) : Res :=
  .next (if n < 64 then cwAccess false (0x2000 + 16 * n + halfOff half) (halfLen half) 0 (mbxStatRead n half) s else s)

/-- A read of `LINK_STAT[p]` clears `RETRAIN_CNT` (R55). -/
def linkStatRead (p : Nat) (s : State) : State := setRead (linkStat p s) (modPort p (fun q => { q with retrainCnt := 0 }) s)

def execLinkStatRead (p : Nat) (s : State) : Res :=
  .next (if p < 5 then cwAccess false (0x3000 + 16 * p) 4 0 (linkStatRead p) s else s)

/-! ### Acceptance -/

/-- Known opcodes of each service (R70 check 2; the opcode tables of the services). -/
def opKnown (svc op : Nat) : Bool :=
  match svc with
  | 1 => decide (1 ≤ op ∧ op ≤ 9) || decide (0x10 ≤ op ∧ op ≤ 0x18)
  | 2 => decide (1 ≤ op ∧ op ≤ 4)
  | 3 => decide (1 ≤ op ∧ op ≤ 4)
  | 4 => decide (1 ≤ op ∧ op ≤ 9)
  | 5 => decide (1 ≤ op ∧ op ≤ 9)
  | 6 => decide (1 ≤ op ∧ op ≤ 7)
  | 7 => decide (1 ≤ op ∧ op ≤ 3)
  | 8 => decide (1 ≤ op ∧ op ≤ 2)
  | 9 => decide (1 ≤ op ∧ op ≤ 6)
  | 10 => decide (1 ≤ op ∧ op ≤ 8)
  | 11 => decide (1 ≤ op ∧ op ≤ 3)
  | 12 => decide (1 ≤ op ∧ op ≤ 4)
  | 13 => decide (1 ≤ op ∧ op ≤ 6)
  | 14 => decide (1 ≤ op ∧ op ≤ 7)
  | 15 => decide (1 ≤ op ∧ op ≤ 3)
  | _ => false

/-- Opcodes that tenant contexts may use (the Contexts columns; R70 check 3). -/
def opTenant (svc op : Nat) : Bool :=
  match svc with
  | 1 => decide (op ≤ 5)
  | 5 => decide (op ≠ 8)
  | 9 => decide (3 ≤ op)
  | 10 => decide (op = 1 ∨ op = 4 ∨ op = 5)
  | 11 => false
  | 12 => false
  | 13 => decide (op ≤ 2)
  | 14 => false
  | _ => true

/-- Services that context 0 reaches in the security and debug state (15 R441; 19 R567). -/
def svcReach (svc : Nat) (s : State) : Bool :=
  let base := decide (svc = 1 ∨ svc = 10 ∨ svc = 11 ∨ svc = 12 ∨ svc = 13 ∨ svc = 15)
  match s.sec.sec with
  | .blank => true
  | .provisioned => base || decide (svc = 5)
  | .admitted => decide (svc ≠ 14)
  | .quarantined => base || (decide (svc = 14) && decide (s.sec.dbg = .unlocked) && bit s.sec.scope 1)

/-- Services that run on home cores, refused to a context configured without any (06 R202). -/
def svcNeedsCores (svc : Nat) : Bool := decide (svc = 3 ∨ svc = 4 ∨ svc = 8 ∨ svc = 6 ∨ svc = 7 ∨ svc = 9)

/-- Check 3 of R70: the service and opcode are permitted to the context (R70; 15 R440, R441; 06 R202). -/
def opPermitted (c svc op : Nat) (s : State) : Bool :=
  (if c = 0 then svcReach svc s else opTenant svc op && decide (s.sec.sec = .admitted))
    && !(svcNeedsCores svc && (match slotOf c s with | some k => decide (k.cfg.coreHome = 0) | none => true))

/-- The request that a slot of the aperture holds (R65, R68). -/
def slotReq (n : Nat) (s : State) : Req :=
  let raw := Memory.readN 0 s.host.aperture (n * 0x8000 + (mbxOf n s).reqHead.toNat % 32 * 0x200) 512
  let len := fld raw 8 4
  { rid := s.ledger.nextSeq, mbx := n, hctx := fld raw 26 1, svc := fld raw 2 1, op := fld raw 3 1, tag := fld raw 4 2,
    flags := fld raw 6 2, length := len, timeoutUs := fld raw 12 4, cairnId := fld raw 16 8,
    payload := sub raw 32 (min len 480), accepted := clockNow domMgmt s, settled := none, owed := false, refsOpen := true, done := none,
    running := false, redone := false, units := 0, commits := 0 }

/-- The checks of R70 in their order. -/
def acceptErr (r : Req) (s : State) : Option Nat :=
  firstErr [
    (decide (r.hctx ≠ r.mbx), stAccessDenied),
    (!(opKnown r.svc r.op), stInvalidOpcode),
    (!(opPermitted r.mbx r.svc r.op s), stAccessDenied),
    (decide (r.length > 480) || (hasRef r && decide (r.length % 16 ≠ 0))
      || s.ledger.reqs.any (fun q => decide (q.mbx = r.mbx ∧ q.tag = r.tag) && outstanding q), stInvalidField)]

/-- The checks of a named cairn after those of R70 (18 R547). -/
def cairnErr (r : Req) (s : State) : Option Nat :=
  if bit r.flags 1 then
    firstErr [
      (decide (r.cairnId = 0) || s.ledger.cairns.any (fun k => decide (k.ctx = r.mbx ∧ k.id = r.cairnId)), stInvalidField),
      (decide (65536 ≤ (s.ledger.cairns.filter fun k => decide (k.ctx = r.mbx)).length)
        || decide (1048576 ≤ s.ledger.cairns.length), stNoSpace)]
  else none

/-- Units requested, where they are known at acceptance (18 R548). -/
def cairnTotal (r : Req) (s : State) : Nat :=
  match r.svc, r.op with
  | 4, 3 => fld r.payload 8 4
  | 4, 2 => fld r.payload 8 4
  | 3, 1 => 0
  | 8, _ => 0
  | 7, 3 => fld r.payload 16 4
  | 6, 5 => if fld r.payload 6 1 = 1 then 0 else 1
  | 9, 5 => fld r.payload 8 2
  | 5, 3 | 5, 5 => (match tget s.mem.objs (fld r.payload 0 8) with | some o => o.pages.length | none => 0)
  | 12, 2 => (65535 + fld r.payload 8 4) / 65536
  | 2, 1 => if fld r.payload 0 1 = 0x84 then 65536 else 1
  | _, _ => 1

/-- The body of a cairn at its creation (18 R548). -/
def cairnBody (r : Req) (s : State) : Bytes :=
  match r.svc, r.op with
  | 4, 3 => sub r.payload 0 8 ++ zeros 24 ++ leBytes 4 0xFF ++ zeros 4
  | 4, 2 => sub r.payload 0 8 ++ zeros 8
  | 4, 1 | 4, 7 => zeros 8
  | 4, 4 | 4, 5 | 4, 6 => sub r.payload 0 8 ++ zeros 16
  | 3, 1 => zeros 16
  | 8, _ => zeros 16
  | 7, 3 => zeros 24
  | 6, 3 | 6, 4 | 6, 6 => zeros 8
  | 6, 5 => if fld r.payload 6 1 = 1 then zeros 16 else []
  | 9, 5 => zeros 272
  | 5, 3 | 5, 5 => sub r.payload 0 8
  | 12, 2 => leBytes 1 (1 - s.fw.running)
  | 2, 1 => sub r.payload 0 1 ++ zeros 3
  | 10, 4 => zeros 1
  | _, _ => []

/-- The cairn created at acceptance (18 R547, R548). -/
def newCairn (r : Req) (s : State) : Cairn :=
  ⟨r.cairnId, r.mbx, r.svc, r.op, r.tag, 0, 0, false, false, false, 0, 0, 0, 0, cairnTotal r s, r.rid, 0, cairnBody r s⟩

/-- The conditions of R65 for accepting the request at `REQ_HEAD`. -/
def canAccept (n : Nat) (s : State) : Bool :=
  let m := mbxOf n s
  decide (n < 64) && decide (m.reqTail ≠ m.reqHead) && decide (mbxState n s = 1)
    && decide (m.outstanding + (m.rplTail - m.rplHead).toNat < 32)

/-- Round-robin across the mailboxes: the first that can accept, from the one whose turn it is (R65). -/
def hasTurn (n : Nat) (s : State) : Bool :=
  decide ((List.range 64).find? (fun i => canAccept ((s.host.turn + i) % 64) s) = some ((n + 64 - s.host.turn) % 64))

/-- An accepted `STORE.ADMIN` restarts the keep-alive timer of its context (11 R354). -/
def keepAlive (r : Req) (s : State) : State :=
  if r.svc = 2 ∧ r.op = 1 then { s with store := { s.store with feat := tupd s.store.feat r.mbx Feat.init (fun f => { f with katoFrom := r.accepted }) } } else s

/-- Accepts the request at `REQ_HEAD`: indices and the ledger's sequence move on in one action; then it is replied to
at once, or entered in the ledger with its cairn (R65, R70; 18 R540, R547). `ue` tells that its slot held an
uncorrectable error, and whether its header words read (17 R527). -/
def acceptRequest (n : Nat) (ue : Option Bool) (s : State) : State :=
  if canAccept n s = false ∨ hasTurn n s = false then s
  else
    let r := slotReq n s
    let t := modMbx n (fun m => { m with reqHead := m.reqHead + 1, outstanding := m.outstanding + 1 }) s
    let t := { t with ledger := { t.ledger with nextSeq := t.ledger.nextSeq + 1 }, host := { t.host with turn := (n + 1) % 64 } }
    match ue with
    | some hdr =>
      let q := if hdr then { r with hctx := n } else { r with svc := 0xFF, op := 0xFF, tag := 0xFFFF, hctx := n, timeoutUs := 0, cairnId := 0 }
      let t := writeReply q stDataLost [] t
      moveMbxBlock ((n * 0x8000 + (mbxOf n s).reqHead.toNat % 32 * 0x200) / 4096) t
    | none =>
      match acceptErr r s with
      | some st => writeReply r st [] t
      | none =>
        match cairnErr r s with
        | some st => writeReply r st [] t
        | none =>
          let l := if bit r.flags 1 then t.ledger.cairns ++ [newCairn r s] else t.ledger.cairns
          keepAlive r { t with ledger := { t.ledger with reqs := t.ledger.reqs ++ [r], cairns := l } }

/-- Log 205. -/
def execRequestAccept (n : Nat) (ue : Option Bool) (s : State) : Res := .next (acceptRequest n ue s)

/-! ### Replies and timeouts -/

/-- A completion of a settled request is discarded: `LATE_CNT` counts it and the cairn records it (R78). -/
def lateCompletion (r : Req) (st : Nat) (s : State) : State :=
  let t := modMbx r.mbx (fun m => { m with lateCnt := BitVec.ofNat 16 (satInc 0xFFFF m.lateCnt.toNat) }) s
  let t := modCairn r (fun k => { k with late := true, lateStatus := st, stopped := true }) t
  dropReq r.rid t

/-- The mailbox unit observes a completion: it writes the reply, or discards the completion as late (R66, R76, R78). A reply waits for
the completions of the request's own remote accesses, also the one that a cancellation or an expiry owes (R77; 13 R392). -/
def replyReq (rid : Nat) (s : State) : State :=
  match findReq rid s with
  | none => s
  | some r =>
    if mbxUnitRuns s.host.ifState = false ∨ accessing rid s = true then s
    else match r.settled, r.done with
      | some st, _ => if r.owed then writeSettled r st s else (match r.done with | some (d, _) => lateCompletion r d s | none => s)
      | none, some (st, pl) => settleDone r st pl s
      | none, none => s

def execReply (rid : Nat) (s : State) : Res := .next (replyReq rid s)

/-- The MGMT counter reaches the expiry of a request with no completion observed: `TIMEOUT` (R75, R76). -/
def timeoutReq (rid : Nat) (s : State) : State :=
  match findReq rid s with
  | none => s
  | some r => if timed r && mbxUnitRuns s.host.ifState && decide (clockNow domMgmt s ≤ expiry r) then expire r (reachMgmt (expiry r) s) else s

end Sys2Proof.Machine
end

