-- ==== Sys2Proof/Machine/MirrorStore.lean ====
section
/-! DEFINITION. Sealed KV blocks that nothing references, and the mirror store: snapshots that the module holds for its rope peers (07
R236, R237, R249; 18 R537, R538). -/
namespace Sys2Proof.Machine

def modAgents (f : Agents → Agents) (s : State) : State := { s with agents := f s.agents }

/-! ### Sealed KV blocks (R236) -/

def bodyRefs (x : Sess) : List Nat :=
  x.body.sealed ++ x.snaps.flatMap (fun n => n.body.sealed) ++ (match x.inProg with | some n => n.body.sealed | none => [])
    ++ (match x.restore with | some n => n.body.sealed | none => [])

/-- Frees the sealed blocks that no session and no mirror copy references (R236); the caches hold none of them (R240). -/
def sweepKv (s : State) : State :=
  let used := s.agents.sess.flatMap (fun e => bodyRefs e.2) ++ s.agents.mirrorStore.flatMap (fun c => c.body.sealed) ++ s.agents.mirrorBlks.flatMap fun m => m.blks
  let gone := (s.agents.kv.filter fun e => !(used.contains e.1)).map (·.1)
  let t := gone.foldl (fun t b => freeKv b t) s
  modAgents (fun a => { a with models := tmap a.models fun _ m => { m with cache := m.cache.filter fun b => !(gone.contains b) } }) t

/-- A new sealed block of a context and a model, with its digest, queued for flash as bulk data (R239). -/
def newKv (c m bytes : Nat) (kv : List Nat) (code : Nat) (s : State) : Nat × State :=
  let b := s.agents.nextBlk
  let k : KvBlk := ⟨c, m, bytes, kv, shake256 (kv.flatMap fun v => leBytes (bytes / 256) v) 32, code, false, 1⟩
  (b, queueBulk c (.kv b) bytes (modAgents (fun a => { a with kv := tset a.kv b k, nextBlk := b + 1 }) s))

/-! ### Sealed blocks of mirrored sessions (R249) -/

/-- The sealed blocks of a mirrored session that are durable and have not been sent go to its peer. -/
def sendKv (id : Nat) (s : State) : State :=
  match tget s.agents.sess id with
  | none => s
  | some x =>
    let l := if x.mirror = 0 then [] else x.body.sealed.filter fun b => !(x.sentBlks.contains b) && (match tget s.agents.kv b with | some k => decide (k.flash = 3) | none => false)
    modAgents (fun a => { a with sess := tmod a.sess id fun y => { y with sentBlks := y.sentBlks ++ l } }) (l.foldl (fun t b => emit (.mirrorBlk x.mirrorPos id b) t) s)

/-- A sealed block is durable: it goes to the peers of the sessions that hold it. -/
def kvDurable (b : Nat) (s : State) : State :=
  let t := modAgents (fun a => { a with kv := tmod a.kv b fun k => { k with flash := 3 } }) s
  (t.agents.sess.filter fun e => e.2.body.sealed.contains b).foldl (fun t e => sendKv e.1 t) t

/-! ### The mirror store (R249) -/

/-- Serial of the module at a ring position (13 R403). -/
def serialAt (pos : Nat) (s : State) : Bytes := s.ports.serials.getD pos (List.replicate 16 32)

/-- The copies held of a session of an origin, and the latest of them. -/
def copiesFor (m : Mirrored) (s : State) : List MirrorCopy :=
  s.agents.mirrorStore.filter fun x => decide (x.originPos = m.origin ∧ x.originSerial = serialAt m.origin s ∧ x.originCtx = m.ctx ∧ x.sess = m.sess)
def copyOf (m : Mirrored) (s : State) : Option MirrorCopy := (copiesFor m s).getLast?

/-- Copies of one session. -/
def sameSess (x y : MirrorCopy) : Bool := decide (x.originPos = y.originPos ∧ x.originSerial = y.originSerial ∧ x.originCtx = y.originCtx ∧ x.sess = y.sess)

/-- Stores sealed blocks that a peer sent, as bulk data; their numbers (R249). -/
def storeBlocks (l : List MirrorBlk) (s : State) : List Nat × State :=
  l.foldl (fun a m => let (b, t) := newKv 0 0 m.bytes m.kv m.code a.2; (a.1 ++ [b], t)) ([], s)

/-- The blocks of a session of an origin that came before a snapshot. -/
def early (m : Mirrored) (x : MirrorBlks) : Bool := decide (x.originPos = m.origin ∧ x.originCtx = m.ctx ∧ x.sess = m.sess)
def earlyBlks (m : Mirrored) (s : State) : List Nat :=
  match s.agents.mirrorBlks.find? fun x => early m x && decide (x.originSerial = serialAt m.origin s) with
  | some x => x.blks
  | none => []
def setEarly (m : Mirrored) (l : List Nat) (s : State) : State :=
  modAgents (fun a => { a with mirrorBlks := a.mirrorBlks.filter (fun x => !(early m x && decide (x.originSerial = serialAt m.origin s)))
    ++ (if l.isEmpty then [] else [⟨m.origin, serialAt m.origin s, m.ctx, m.sess, l⟩]) }) s

/-- A copy leaves the mirror store, with its flash copy and the blocks that it alone references (R237). -/
def dropMirror (x : MirrorCopy) (s : State) : State :=
  sweepKv (dropCopy (.snap x.key x.seq) (modAgents (fun a => { a with mirrorStore := a.mirrorStore.erase x }) s))

/-- A mirrored snapshot is committed here with every block that it references: its origin hears of it once, and the one before goes (R249;
18 R538). -/
def copyDurable (x : MirrorCopy) (s : State) : Bool :=
  itemDone (.snap x.key x.seq) s && x.body.sealed.all fun b => match tget s.agents.kv b with | some k => decide (k.flash = 3) | none => false
def ackMirrors (s : State) : State :=
  (s.agents.mirrorStore.filter fun x => !x.acked && copyDurable x s).foldl (fun t x =>
    let t := (t.agents.mirrorStore.filter fun y => sameSess x y && y.acked).foldl (fun t y => dropMirror y t) t
    emit (.mirrorAck x.originPos x.sess x.seq)
      (modAgents (fun a => { a with mirrorStore := a.mirrorStore.map fun y => if y = x then { y with acked := true } else y }) t)) s

/-- The blocks of a session that the module holds for a peer: of its copy, then those that came after it. -/
def heldBlks (m : Mirrored) (s : State) : List Nat := (match copyOf m s with | some x => x.body.sealed | none => []) ++ earlyBlks m s

/-- A mirrored snapshot is stored in the pinned region beside the one before, the blocks that it references and that are not here
yet as bulk data (R249; log 181). -/
def keepMirror (m : Mirrored) (s : State) : State :=
  let had := (heldBlks m s).take m.blocks.length
  let (new, t) := storeBlocks (m.blocks.drop had.length) s
  let key := 2 ^ 64 + t.agents.nextBlk
  let (st, ch, cht, gn, gs) := m.position
  let body : SessBody :=
    { tokens := m.tokens, openToks := m.openToks, openKv := m.openKv, pending := m.waiting, sampler := m.sampler, sparams := m.sparams, prog := m.prog, rng := m.rng
      steps := st, chunks := ch, chunksTotal := cht, generated := gn, gens := gs, sealed := had ++ new }
  let c : MirrorCopy := ⟨key, m.origin, serialAt m.origin s, m.ctx, m.sess, m.digest, m.seq, body, m.lc, m.window, m.retrBlocks, m.snapPeriod, false⟩
  let t := modAgents (fun a => { a with nextBlk := a.nextBlk + 1, mirrorStore := a.mirrorStore ++ [c] }) t
  let t := queuePinned 0 (.snap key m.seq) m.bytes t
  setEarly m ((heldBlks m s).drop m.blocks.length) t

/-- What arrives on VC6 from a peer: kept, dropped with its session, or passed on to the peer that it names (13 R391). -/
def takeMirror (m : Mirrored) (s : State) : State :=
  if m.dest ≠ s.ports.pos then
    emit (match m.kind with | .closed => .mirrorDrop m.dest m.sess | .snap => .mirror m.dest m.sess m.seq | .blocks => .mirrorBlk m.dest m.sess m.seq) s
  else match m.kind with
    | .closed => sweepKv ((copiesFor m s).foldl (fun t x => dropMirror x t) (setEarly m [] s))
    | .blocks => let (l, t) := storeBlocks m.blocks s; setEarly m (earlyBlks m s ++ l) t
    | .snap => keepMirror m s

/-- The flash copy of an adopted snapshot belongs to its new session (18 R538). -/
def retagCopy (a b : FItem) (s : State) : State :=
  let r := fun (i : FItem) => if i = a then b else i
  modFtl (fun f => { f with
    media := tmap f.media fun _ p => { p with item := r p.item }
    dirty := f.dirty.map fun u => { u with item := r u.item }
    waiting := f.waiting.map fun w => { w with units := w.units.map fun u => { u with item := r u.item } } }) s

end Sys2Proof.Machine
end

