-- ==== Sys2Proof/Machine/Transmit.lean ====
section
/-! DEFINITION. The transmitters of the ports (13 R387, R389 to R391, R396, R397): which waiting message goes out next on a
port, in data flits, for credits, under its key. The empty queue's step drives them. -/
namespace Sys2Proof.Machine

/-- Adds to the record of what was sent without waiting: link-level answers and copies kept for the reader. -/
def record (m : Tx) (s : State) : State := { s with host := { s.host with gone := s.host.gone ++ [m] } }

/-- The port towards the control node: H while it is up, else the upstream port (R405). -/
def pathPort (s : State) : Option Nat := if portUp 0 s then some 0 else s.ports.upstream

/-- The lowest up peer port to a ring neighbour, if any. -/
def peerPort (s : State) : Option Nat := [1, 2, 3, 4].find? fun p => portUp p s && peerCarries p s

/-- The lowest up peer port to the ring neighbour in a direction: 0 rising, 1 falling (14 R417). -/
def ringPort (dir : Nat) (s : State) : Option Nat :=
  let n := s.ports.serials.length
  let q := if dir = 0 then (s.ports.pos + 1) % n else (s.ports.pos + n - 1) % n
  if n = 0 then none else [1, 2, 3, 4].find? fun p => portUp p s && decide (neighbourPos p s = some q)

/-- Port, virtual channel, context and data length of a waiting message (R391). -/
def txInfo (m : Tx) (s : State) : Option (Nat × Nat × Nat × Nat) :=
  match m with
  | .notify _ => (pathPort s).map fun p => (p, 4, 0, 8)
  | .ringEntry _ e => (pathPort s).map fun p => (p, 4, 0, e.length)
  | .ctlWrite c _ d => (pathPort s).map fun p => (p, 4, c, d.length)
  | .ctlRead c _ _ => (pathPort s).map fun p => (p, 4, c, 0)
  | .response _ _ d => (pathPort s).map fun p => (p, 3, 0, d.length)
  | .ropeBeat p d => some (p, 7, 0, d.length)
  | .spdm p _ d => some (p, 1, 0, d.length)
  | .tune _ pk => (ringPort pk.dir s).map fun p => (p, 7, 0, 16)
  | .tuneData _ _ => (ringPort 0 s).map fun p => (p, 6, 0, 4096)
  | .mirror _ _ _ | .mirrorBlk _ _ _ => (peerPort s).map fun p => (p, 6, 0, 4096)
  | .mirrorAck _ _ _ | .mirrorDrop _ _ => (peerPort s).map fun p => (p, 7, 0, 16)
  | _ => none

/-- Credits that a packet costs (R396). -/
def packetCost (len : Nat) : Nat := (32 + (len + 15) / 16 * 16 + 63) / 64

/-- Data flits that a packet fills (R386; log 70). -/
def packetFlits (len : Nat) : Nat := (32 + (len + 15) / 16 * 16 + 591) / 592

/-- The part of a message that goes in its next packet, and what is left of it (R392). -/
def firstPacket (m : Tx) : Tx × Option Tx :=
  match m with
  | .ctlWrite c a d =>
    let k := 4096 - a % 4096
    if d.length ≤ k then (m, none) else (.ctlWrite c a (d.take k), some (.ctlWrite c (a + k) (d.drop k)))
  | .ctlRead c a n =>
    let k := 4096 - a % 4096
    if n ≤ k then (m, none) else (.ctlRead c a k, some (.ctlRead c (a + k) (n - k)))
  | _ => (m, none)

def packetLen (m : Tx) (len : Nat) : Nat :=
  match (firstPacket m).1 with
  | .ctlWrite _ _ d => d.length
  | _ => len

/-- Plaintext is permitted in security state Blank and debug state Open (R390; 15). -/
def plainOk (s : State) : Bool := decide (s.sec.sec = .blank) || decide (s.sec.dbg = .open)

/-- A virtual channel's class may be sent on a port: keyed, or plaintext permitted (R389, R390); TC3 and the data classes of a
peer port only to a ring neighbour (R402). -/
def classOpen (p vc : Nat) (s : State) : Bool :=
  if vc < 2 then true
  else (p = 0 || peerCarries p s)
    && (plainOk s || (if vc < 6 then s.ports.tc2.isSome else (portOf p s).tc3.isSome))

/-- Virtual channels that the module may send on now: all in normal states; no transfer towards the control node during a
scrub; VC0, VC2, VC3 and VC7 at low rate; none where the ports are dark (R384, R407, R408, R409). -/
def stateSends (p vc : Nat) (s : State) : Bool :=
  match s.host.ifState with
  | .boot | .ready | .handover | .safe => !(portOf p s).lowRate || decide (vc = 0 ∨ vc = 2 ∨ vc = 3 ∨ vc = 7)
  | .scrub => decide (p ≠ 0) && decide (vc = 0 ∨ vc = 1 ∨ vc = 7)
  | .bivouac => decide (vc = 0 ∨ vc = 2 ∨ vc = 3 ∨ vc = 7)
  | _ => false

/-- A candidate of the transmitter: its place in the queue, the message, its channel and context, and its packet's length. -/
structure Cand where
  idx : Nat
  msg : Tx
  vc : Nat
  ctx : Nat
  len : Nat

/-- The first waiting message of each channel and context of a port. -/
def candidates (p : Nat) (s : State) : List Cand :=
  let all := s.host.out.zipIdx.filterMap fun e => match txInfo e.1 s with
    | some (q, v, c, n) => if q = p then some (⟨e.2, e.1, v, c, packetLen e.1 n⟩ : Cand) else none
    | none => none
  all.foldl (fun l x => if l.any fun y => decide (y.vc = x.vc ∧ y.ctx = x.ctx) then l else l ++ [x]) []

/-- The invocation counter of the class stays below 2^36: the next key is in force before (R389). -/
def ctrRoom (p vc n : Nat) (s : State) : Bool :=
  if vc < 2 then true
  else match (if vc < 6 then s.ports.tc2 else (portOf p s).tc3) with
    | some k => decide (k.ctr + n < 2 ^ 36)
    | none => true

/-- It can go now: its state and class allow it, its credits are held, the replay buffer has room (R387, R396). -/
def sendable (p : Nat) (s : State) (x : Cand) : Bool :=
  let q := portOf p s
  stateSends p x.vc s && classOpen p x.vc s && decide (packetCost x.len ≤ q.pool.getD x.vc 0)
    && decide (q.replay.length + packetFlits x.len ≤ 512) && ctrRoom p x.vc (packetFlits x.len) s

/-- The order of R397: VC0, VC1, VC7, then VC3 and VC5, then VC2, VC4 and VC6, each group in turn from the one served last, and
the contexts of a channel in turn. -/
def vcRank (vc : Nat) : Nat :=
  match vc with
  | 0 => 0 | 1 => 1 | 7 => 2 | 3 => 3 | 5 => 3 | _ => 4

def sendKey (q : Port) (x : Cand) : Nat :=
  vcRank x.vc * 1024 + (x.vc + 15 - q.rrVc) % 8 * 64 + (x.ctx + 127 - q.rrCtx) % 64

def pickSend (p : Nat) (s : State) : Option Cand :=
  ((candidates p s).filter (sendable p s)).foldl (fun b x => match b with
    | some y => if sendKey (portOf p s) x < sendKey (portOf p s) y then some x else b
    | none => some x) none

/-- The invocation counter of the class advances by one for each data flit (R389). -/
def useKey (p vc n : Nat) (s : State) : State :=
  if vc < 2 then s
  else if vc < 6 then { s with ports := { s.ports with tc2 := s.ports.tc2.map fun k => { k with ctr := k.ctr + n } } }
  else modPort p (fun q => { q with tc3 := q.tc3.map fun k => { k with ctr := k.ctr + n } }) s

/-- Sends one packet on a port, if one can go (R387, R396, R397; 19 R551). -/
def sendOne (p : Nat) (s : State) : State :=
  if portUp p s then
    match pickSend p s with
    | none => s
    | some x =>
      let (m, rest) := firstPacket x.msg
      let n := packetFlits x.len
      let out := match rest with | some r => s.host.out.set x.idx r | none => s.host.out.eraseIdx x.idx
      let t := record m { s with host := { s.host with out := out } }
      let t := useKey p x.vc n t
      let t := modPort p (fun q =>
        { q with pool := q.pool.set x.vc (q.pool.getD x.vc 0 - packetCost x.len), held := q.held ++ [(x.vc, x.ctx, packetCost x.len)], txSeq := (q.txSeq + n) % 65536
                 replay := q.replay ++ (List.range n).map (fun i => (q.txSeq + i) % 65536), rrVc := x.vc, rrCtx := x.ctx }) t
      monSample (61 + p) (Config.freeNat s.freeCtr : Int) 0 (bumpFree t)
  else s

/-- The result queues of the channel controllers drain into FAB (12 R359). -/
def drainScan (s : State) : State := { s with search := { s.search with resultQ := [] } }

end Sys2Proof.Machine
end

