-- ==== Sys2Proof/Machine/StoreOps.lean ====
section
/-! DEFINITION. Operations of the STORE service (11) that the flash commands share: completion entries, the error log,
the end of a queue pair, a detach and a deletion; namespaces as ranges of the user pool. -/
namespace Sys2Proof.Machine

/-! ### NVMe statuses (R346) -/

/-- The 15-bit status field of a status code type and status code: Do Not Retry set in every error but Sanitize In
Progress. -/
def nvStatus (sct sc : Nat) : Nat :=
  if sct = 0 ∧ sc = 0 then 0 else sct * 256 + sc + (if sct = 0 ∧ sc = 0x1D then 0 else 0x4000)
def nvOk : Nat := 0
def nvBadOpcode : Nat := nvStatus 0 0x01
def nvBadField : Nat := nvStatus 0 0x02
def nvInternal : Nat := nvStatus 0 0x06
def nvSqDeleted : Nat := nvStatus 0 0x08
def nvBadNs : Nat := nvStatus 0 0x0B
def nvSequence : Nat := nvStatus 0 0x0C
def nvSanitizing : Nat := nvStatus 0 0x1D
def nvWriteProt : Nat := nvStatus 0 0x20
def nvLbaRange : Nat := nvStatus 0 0x80
def nvBadLog : Nat := nvStatus 1 0x09
def nvNotSaveable : Nat := nvStatus 1 0x0D
def nvNotChangeable : Nat := nvStatus 1 0x0E
def nvCapacity : Nat := nvStatus 1 0x15
def nvNoNsid : Nat := nvStatus 1 0x16
def nvAttached : Nat := nvStatus 1 0x18
def nvPrivate : Nat := nvStatus 1 0x19
def nvNotAttached : Nat := nvStatus 1 0x1A
def nvBadList : Nat := nvStatus 1 0x1C
def nvUnrecovered : Nat := nvStatus 2 0x81
def nvCompare : Nat := nvStatus 2 0x85
def nvDenied : Nat := nvStatus 2 0x86

/-! ### Queue pairs -/

def qpOf (q : Nat) (s : State) : Option Qp := tget s.store.qps q
def modQp (q : Nat) (f : Qp → Qp) (s : State) : State := { s with store := { s.store with qps := tmod s.store.qps q f } }
def modStore (f : Store → Store) (s : State) : State := { s with store := f s.store }
def featOf (c : Nat) (s : State) : Feat := tgetD s.store.feat c Feat.init
def modFeat (c : Nat) (f : Feat → Feat) (s : State) : State := modStore (fun t => { t with feat := tupd t.feat c Feat.init f }) s

/-- Opcode, command identifier, namespace and starting block of a submission entry. -/
def sqeOp (e : Bytes) : Nat := fld e 0 1
def sqeCid (e : Bytes) : Nat := fld e 2 2
def sqeNs (e : Bytes) : Nat := fld e 4 4
def sqeLba (e : Bytes) : Nat := fld e 40 8

/-- Commands that count as writes and as reads (R341). -/
def opWrites (e : Bytes) : Bool := decide (sqeOp e = 1 ∨ sqeOp e = 8) || (decide (sqeOp e = 9) && bit (fld e 44 4) 2)
def opReads (e : Bytes) : Bool := decide (sqeOp e = 2 ∨ sqeOp e = 5 ∨ sqeOp e = 0x82)

/-- The 16-byte completion entry (R332, R337). -/
def cqEntry (d0 d1 head qid cid st : Nat) (phase : Bool) : Bytes :=
  leBytes 4 d0 ++ leBytes 4 d1 ++ leBytes 2 head ++ leBytes 2 qid ++ leBytes 2 cid ++ leBytes 2 (b2n phase + 2 * st)

/-- An entry of the Error Information log, newest first, at most 64 (R352). -/
def logErr (c sqid cid st lba ns : Nat) (s : State) : State :=
  if st = 0 then s
  else modFeat c (fun f => { f with errCount := f.errCount + 1, errs := (⟨f.errCount + 1, sqid, cid, st, lba, ns⟩ :: f.errs).take 64 }) s

/-- Raises `STORE_CQ_NOTIFY` (R357). -/
def cqNotify (q : Nat) (s : State) : State :=
  match qpOf q s with
  | none => s
  | some p =>
    raiseEvent 0x0207 1 2 p.ctx 0 (leBytes 2 (q % 1024) ++ leBytes 2 p.cqTail) (modQp q (fun p => { p with unnotified := 0 }) s)

/-- Counts a posted entry for the notification and raises it at THR + 1 (R357). -/
def cqCount (q : Nat) (s : State) : State :=
  match qpOf q s with
  | none => s
  | some p =>
    if p.ien then
      let t := modQp q (fun p => { p with unnotified := p.unnotified + 1, firstAt := if p.unnotified = 0 then clockNow domMgmt s else p.firstAt }) s
      if (featOf p.ctx s).thr + 1 ≤ p.unnotified + 1 then cqNotify q t else t
    else s

/-- Writes a completion entry at the CQ tail, whole (R337). -/
def putCqe (p : Qp) (q : Nat) (entry : Bytes) (s : State) : State :=
  let a := p.cq.addr + 16 * p.cqTail
  let t := if p.cq.space = 0 then (match ctxWrite p.ctx a entry s with | .ok t => t | _ => s) else remoteWrite p.ctx none a entry s
  record (.cqe q a entry) t

/-- Posts the entry of the oldest command: the tail moves on, the phase inverts at the wrap (R337, R357; 19 R551). -/
def postCqe (q : Nat) (p : Qp) (m : Cmd) (r : Nat × Nat × Nat) (s : State) : State :=
  let t := putCqe p q (cqEntry r.2.1 r.2.2 m.sqHead (q % 1024) (sqeCid m.sqe) r.1 p.phase) s
  let wrap := decide (p.cqTail + 1 = p.depth)
  let t := modQp q (fun p => { p with fetched := p.fetched.tail, cqTail := if wrap then 0 else p.cqTail + 1, phase := p.phase != wrap }) t
  let lat : Int := ((clockNow domMgmt s - m.fetched : Nat) : Int)
  let t := if opReads m.sqe then monSample 15 lat 0 t else if opWrites m.sqe then monSample 16 lat 0 t else t
  cqCount q (logErr p.ctx (q % 1024) (sqeCid m.sqe) r.1 (sqeLba m.sqe) (sqeNs m.sqe) t)

/-- Posts entries in submission order while the oldest command has been executed (R342). -/
def drainCq (fuel q : Nat) (s : State) : State :=
  match fuel with
  | 0 => s
  | k + 1 =>
    match qpOf q s with
    | none => s
    | some p =>
      match p.fetched with
      | [] => s
      | m :: _ =>
        match m.result with
        | none => s
        | some r => drainCq k q (postCqe q p m r s)

/-- Commands fetched while their namespace was attached, of a namespace (R348, R349). -/
def nsBusy (n : Nat) (sel : Nat → Bool) (s : State) : Bool :=
  s.store.qps.any fun e => sel e.2.ctx && e.2.fetched.any fun m => m.nsOk && decide (sqeNs m.sqe = n)

/-- A queue pair whose deletion is asked for ends after its last entry is posted (R338). -/
def endQp (q : Nat) (s : State) : State :=
  match qpOf q s with
  | none => s
  | some p =>
    match p.deleting with
    | none => s
    | some r =>
      if p.fetched.isEmpty then
        let t := modStore (fun x => { x with qps := tdel x.qps q }) s
        match r with
        | some rid => complete rid stSuccess (leBytes 2 p.sqHead ++ zeros 6) t
        | none => t
      else s

/-- The reply of an admin command: its completion entry (R332); an error enters the log (R352). -/
def adminDone (r : Req) (st d0 : Nat) (s : State) : State :=
  let e := sub r.payload 0 64
  let t := logErr r.mbx 0 (sqeCid e) st 0 (sqeNs e) s
  let t := modCairn r (fun k => { k with body := leBytes 1 (sqeOp e) ++ zeros 1 ++ leBytes 2 st }) t
  let n := if sqeOp e = 0x84 ∧ st = 0 then 65536 else 1
  complete r.rid stSuccess (cqEntry d0 0 0 0 (sqeCid e) st true) (commitN r.rid n n none t)

/-- The deletion of a namespace: detached, its key destroyed, unmapped, its extents released (R349). -/
def nsGone (n : Nat) (s : State) : State :=
  match tget s.store.ns n with
  | none => s
  | some x =>
    let inside := fun i => x.extents.any fun r => decide (128 * r.1 ≤ i) && decide (i < 128 * (r.1 + r.2))
    let t := modFtl (fun f => { f with dirty := f.dirty.filter fun u => !(decide (u.space = 0) && inside u.index) }) s
    let t := (t.ftl.user.filter fun e => inside e.1).foldl (fun u e => unmapIdx 0 e.1 u) t
    let t := keyRecord { t with sec := { t.sec with doms := tdel t.sec.doms (domNs n) } }
    modStore (fun y => { y with ns := tdel y.ns n }) t

/-- Ends the deletions of namespaces whose fetched commands have completed; the last one of a request replies to it. -/
def endDeletes (s : State) : State :=
  s.store.ns.foldl (fun t e =>
    match e.2.deleting with
    | none => t
    | some rid =>
      if nsBusy e.1 (fun _ => true) t then t
      else
        let u := nsGone e.1 t
        if u.store.ns.any fun x => decide (x.2.deleting = some rid) then u
        else match findReq rid u with
          | some r => adminDone r nvOk 0 u
          | none => u) s

/-- Ends the detaches whose fetched commands have completed (R348). -/
def endDetaches (s : State) : State :=
  s.ledger.reqs.foldl (fun t r =>
    let n := sqeNs (sub r.payload 0 64)
    if r.svc = 2 ∧ r.op = 1 ∧ r.running = true ∧ r.done = none ∧ fld r.payload 0 1 = 0x15
        ∧ nsBusy n (fun c => match tget t.store.ns n with | some x => !x.attached.contains c | none => false) t = false then
      adminDone r nvOk 0 t
    else t) s

/-- What the completion of commands of a queue pair lets end. -/
def storeSettle (q : Nat) (s : State) : State := endDetaches (endDeletes (endQp q s))

/-- Block size of a namespace by number. -/
def blockOf (n : Nat) (s : State) : Nat := match tget s.store.ns n with | some x => if x.lbaf = 0 then 4096 else iu | none => 4096

/-- Counters of the SMART log page (10 R329): commands that completed with success. -/
def countCmd (e : Bytes) (st : Nat) (s : State) : State :=
  let n := (fld e 48 2 + 1) * blockOf (sqeNs e) s
  if st ≠ 0 then s
  else if sqeOp e = 1 then modCnt (fun c => { c with writeCmds := c.writeCmds + 1, writtenBytes := c.writtenBytes + n }) s
  else if sqeOp e = 2 then modCnt (fun c => { c with readCmds := c.readCmds + 1, readBytes := c.readBytes + n }) s
  else if sqeOp e = 5 ∨ sqeOp e = 0x82 then modCnt (fun c => { c with readCmds := c.readCmds + 1 }) s
  else s

/-- A command has been executed: its result stands until its entry is posted (R342). -/
def finishCmd (q seq st d0 d1 : Nat) (s : State) : State :=
  let hit : Option Cmd := match qpOf q s with | some p => p.fetched.find? fun m => decide (m.seq = seq) && m.result.isNone | none => none
  let s := match hit with | some m => countCmd m.sqe st s | none => s
  let t := modQp q (fun p => { p with fetched := p.fetched.map fun m => if m.seq = seq ∧ m.result = none then { m with result := some (st, d0, d1), waiting := false } else m }) s
  let n := match qpOf q t with | some p => p.fetched.length | none => 0
  storeSettle q (drainCq n q t)

/-! ### Namespaces as ranges of the user pool (10 R302) -/

def nsBlock (x : Ns) : Nat := if x.lbaf = 0 then 4096 else iu

/-- The `k`-th extent of a list of ranges. -/
def nthExtent (l : List (Nat × Nat)) (k : Nat) : Nat :=
  match l with
  | [] => 0
  | (a, n) :: r => if k < n then a + k else nthExtent r (k - n)

/-- Map index of the `u`-th indirection unit of a namespace. -/
def nsUnit (x : Ns) (u : Nat) : Nat := 128 * nthExtent x.extents (u / 128) + u % 128

/-- The pieces of a byte range, one for each unit that it touches: unit of the namespace, offset, length, offset in the
range. -/
def nsPieces (off n : Nat) : List (Nat × Nat × Nat × Nat) :=
  if n = 0 then []
  else (List.range ((off + n - 1) / iu - off / iu + 1)).map fun i =>
    let u := off / iu + i
    let a := max off (u * iu)
    let b := min (off + n) ((u + 1) * iu)
    (u, a - u * iu, b - a, a - off)

/-- Bytes of a string as a memory from an offset, zeros unlisted. -/
def memOf (off : Nat) (bs : Bytes) : Memory := bs.zipIdx.filterMap fun e => if e.1 = 0 then none else some (off + e.2, e.1)

/-- Buffer units of a write of data to a byte range of a namespace. -/
def nsUnits (n : Nat) (x : Ns) (off : Nat) (data : Bytes) : List BufUnit :=
  (nsPieces off data.length).map fun (u, a, k, p) =>
    ⟨0, .ns n, 0, nsUnit x u, a, k, memOf a ((data.drop p).take k), [], domNs n, 0, false⟩

/-- A unit whose data are lost: its slot is (10 R317, R320). -/
def unitLost (space idx : Nat) (s : State) : Bool :=
  (dirtyAt space idx s).isNone && (match mapGet space idx s with | some k => s.ftl.lost.contains k | none => false)

/-- Reads a byte range of a namespace; none where a unit of it is lost (10 R308, R317). -/
def nsRead (x : Ns) (off n : Nat) (s : State) : Option Bytes :=
  let l := nsPieces off n
  if l.any fun (u, _, _, _) => unitLost 0 (nsUnit x u) s then none
  else some (l.flatMap fun (u, a, k, _) => Memory.readN 0 (unitData 0 (nsUnit x u) s) a k)

end Sys2Proof.Machine
end

