-- ==== Sys2Proof/Machine/Flash.lean ====
section
/-! DEFINITION. The flash translation layer at work (10): acceptance, stripes and commits, reclaiming, the journal and the
map store, reads and their recovery, failures of blocks and dies, wear, the flush. -/
namespace Sys2Proof.Machine

/-! ### Wear and spare blocks (R313, R325 to R327) -/

/-- Dies of a row that have failed, and blocks out of service in a superblock. -/
def failedInRow (d : Nat) (s : State) : Nat := (s.caps.nandFailed.filter fun k => decide (k % 18 = d)).length
def blkDie (b : Nat) : Nat := b / 1272 / 4
def onFailedDie (b : Nat) (s : State) : Bool := s.caps.nandFailed.contains (blkDie b)
/-- Retired blocks of dies that still work. -/
def retiredAlive (s : State) : Nat := (s.ftl.retired.filter fun b => !(onFailedDie b s)).length
def blocksAll : Nat := 2930688
def blocksOut (s : State) : Nat := retiredAlive s + 5088 * s.caps.nandFailed.length
def sbBlocks (sb : Nat) (s : State) : Nat :=
  128 - 4 * failedInRow (sbDie sb) s
    - (s.ftl.retired.filter fun b => !(onFailedDie b s) && decide (b % 1272 = sbBlock sb ∧ blkDie b % 18 = sbDie sb)).length

/-- Mean erase count over in-service blocks, times 4 and times the blocks in service. -/
def eraseSum (s : State) : Nat := sumN (s.ftl.sbs.map fun e => e.2.erases * sbBlocks e.1 s)
/-- Percentage Used: the floor of 100 A / 1,500, saturating at 255 (R325). -/
def pctUsed (s : State) : Nat := min 255 (100 * eraseSum s / (4 * (blocksAll - blocksOut s) * 1500))
/-- Mean and highest erase count in hundredths (R330). -/
def eraseMean (s : State) : Nat := 100 * eraseSum s / (4 * (blocksAll - blocksOut s))
def eraseTop (s : State) : Nat := s.ftl.sbs.foldl (fun m e => max m e.2.erases) 0
/-- Lowest erase count of a superblock; an unlisted one has none. -/
def eraseLow (s : State) : Nat := if s.ftl.sbs.length < 22896 then 0 else ((s.ftl.sbs.map fun e => e.2.erases).min?).getD 0

/-- Spare blocks: those of a healthy device less the blocks out of service (R326; log 61). -/
def spareBlocks (s : State) : Nat := 225280 - blocksOut s
def availSpare (s : State) : Nat := min 100 (100 * spareBlocks s / 225280)

/-- An event of the flash translation layer (R328). -/
def flashEvent (code : Nat) (payload : Bytes) (s : State) : State := devEvent code 1 2 payload s

/-- `FLASH_WEAR` at the first crossing of 80, 90 and 95 (R325). -/
def wearCheck (s : State) : State :=
  let p := pctUsed s
  [80, 90, 95].zipIdx.foldl (fun t e =>
    if e.1 ≤ p ∧ t.ftl.wearRaised ≤ e.2 then flashEvent 0x0200 (leBytes 1 e.1 ++ leBytes 1 p) (modFtl (fun f => { f with wearRaised := e.2 + 1 }) t) else t) s

/-- `FLASH_SPARE_LOW` and the write-protected state (R326, R327). -/
def spareCheck (s : State) : State :=
  let n := spareBlocks s
  let t := if availSpare s < 10 ∧ s.ftl.spareLow = false then
      flashEvent 0x0201 (leBytes 1 (availSpare s) ++ zeros 3 ++ leBytes 4 n) (modFtl (fun f => { f with spareLow := true }) s) else s
  if n < 8192 ∧ t.ftl.writeProt = false then flashEvent 0x0202 (zeros 4 ++ leBytes 4 n) (modFtl (fun f => { f with writeProt := true }) t) else t

/-! ### Acceptance (R307, R312, R323, R327) -/

def isBulk (w : FWrite) : Bool := w.units.any fun u => decide (u.space = 0)
def isNsWrite (w : FWrite) : Bool := w.units.any fun u => match u.item with | .ns _ => true | _ => false

/-- A waiting write is one that the write-protected state ends (R327, R350). -/
def nsBarred (w : FWrite) (s : State) : Bool := s.ftl.writeProt && isNsWrite w

/-- Reclaim pacing lets a bulk write in: from 48 free superblocks any, from 16 what reclaiming has freed, below 16 none (R312; log
240). -/
def paceOk (w : FWrite) (s : State) : Bool :=
  let n := freeSbs s
  decide (48 ≤ n) || (decide (16 ≤ n) && decide (w.bytes ≤ s.ftl.credit))

/-- A waiting write can be taken now. -/
def fitsNow (w : FWrite) (s : State) : Bool :=
  nsBarred w s ||
    (!(isBulk w && (s.ftl.writeProt || !(paceOk w s)))
      && (s.ftl.writeThrough || decide (dirtyBytes s + w.bytes ≤ s.ftl.dirtyLimit)))

/-- The write that may be taken next from a source: its first, if it fits and no write of another source that has
waited longer fits (R307). -/
def nextWrite (src : Nat) (s : State) : Option FWrite :=
  let heads := s.ftl.waiting.filter fun w => decide ((s.ftl.waiting.find? fun v => decide (v.src = w.src)) = some w)
  match heads.find? fun w => fitsNow w s with
  | some w => if w.src = src then some w else none
  | none => none

/-- New contents over old ones in `[off, off + n)`. -/
def overlay (base : Memory) (off n : Nat) (new : Memory) : Memory :=
  new.foldl (fun m e => Memory.write 0 m e.1 e.2) (Memory.clear base off n)

/-- Takes one unit into the buffer, merged with what the buffer or the medium holds of it; a merged unit takes the place of
its last write (R307, R311; log 241). -/
def takeUnit (thru : Bool) (cmd : Option (Nat × Nat)) (u : BufUnit) (s : State) : State :=
  let base := unitData u.space u.index s
  let u := { u with data := overlay base u.off u.bytes u.data, cmds := cmd.toList, thru := thru }
  match dirtyAt u.space u.index s with
  | none => modFtl (fun f => { f with dirty := f.dirty ++ [u] }) s
  | some o =>
    let m := { u with id := o.id, off := 0, bytes := min iu ((match o.item with | .move _ => 0 | _ => o.bytes) + u.bytes), cmds := o.cmds ++ u.cmds
                      thru := u.thru && (o.thru || match o.item with | .move _ => true | _ => false) }
    modFtl (fun f => { f with dirty := f.dirty.filter (fun x => decide (x.id ≠ o.id)) ++ [m] }) s

/-- The side-list entries of a request are accepted (12 R369). -/
def sideAccepted (h e : Nat) (s : State) : State :=
  { s with search := { s.search with idx := tmod s.search.idx h fun x => { x with pend := x.pend.map fun p => if p.epoch = e then { p with acc := true } else p } } }

/-- A copy counts as accepted (08 R264; 07 R239). -/
def itemAccepted (i : FItem) (s : State) : State :=
  match i with
  | .page p k => if k = 2 then modPage p (fun q => { q with flash2 := max q.flash2 2 }) s else pageAccepted p s
  | .kv b => { s with agents := { s.agents with kv := tmod s.agents.kv b fun k => { k with flash := max k.flash 2 } } }
  | .side h e _ => sideAccepted h e s
  | _ => s

/-- A copy is durable. -/
def itemDurable (i : FItem) (s : State) : State :=
  match i with
  | .page p k => if k = 2 then modPage p (fun q => { q with flash2 := 3 }) s else pageDurable p s
  | .kv b => kvDurable b s
  | .side h e _ => sideAccepted h e s
  | _ => s

/-- The items of a write that are now wholly in the buffer. -/
def acceptItems (w : FWrite) (s : State) : State :=
  ((w.units.map (·.item)).eraseDups.filter fun i => !(itemWaiting i s)).foldl (fun t i => itemAccepted i t) s

/-- Takes a waiting write: its units enter the buffer and it completes, in write-through at its commit. -/
def takeWrite (w : FWrite) (s : State) : State :=
  let t := modFtl (fun f => { f with waiting := f.waiting.erase w }) s
  if nsBarred w s then
    match w.cmd with
    | some (q, m) => finishCmd q m nvWriteProt 0 0 t
    | none => t
  else
    let thru := s.ftl.writeThrough
    let t := w.units.foldl (fun t u => takeUnit thru (if thru then w.cmd else none) u t) t
    let t := if isBulk w then modFtl (fun f => { f with credit := f.credit - w.bytes }) t else t
    let t := modCnt (fun c => { c with accepted := c.accepted + sumN (w.units.map fun u => if u.space = 0 then u.bytes else 0) }) t
    let t := if thru then t else acceptItems w t
    let t := match w.cmd with
      | some (q, m) => if thru then t else finishCmd q m nvOk 0 0 t
      | none => t
    ackMirrors (sealProgress t)

/-- A write enters the write buffer (R307); copies that wait for an extent are queued first (R328). -/
def execWriteAccept (src : Nat) (s : State) : Res :=
  .next (if flashRuns s then
    let t := retryExtents s
    match nextWrite src t with
    | some w => takeWrite w t
    | none => t
  else s)

/-! ### The journal and the map store (R314, R315) -/

def execJournalPageProgram (s : State) : Res := .next (if flashRuns s then journalPage s else s)

/-- A dirty segment is written to the map store. -/
def writeSegment (seg : Nat) (s : State) : State := if flashRuns s && (tget s.ftl.segDirty seg).isSome then segmentOut seg s else s

def execMapSegmentWrite (seg : Nat) (s : State) : Res := .next (writeSegment seg s)

/-- C of R305, in bytes. -/
def dynSize (s : State) : Nat := 12000000000000 - 11744000000000 * s.ftl.user.length / userUnits

def execDynCacheRecompute (s : State) : Res := .next (if flashRuns s then modFtl (fun f => { f with dynC := dynSize s }) s else s)

/-! ### Stripes (R300, R306, R308) -/

/-- A superblock may be opened: free, and none free with fewer erases (R313). -/
def sbOpenable (sb : Nat) (s : State) : Bool :=
  sbFree sb s && ((sbOf sb s).erases = 0 || (decide (s.ftl.sbs.length = 22896) && s.ftl.sbs.all fun e => !(sbFree e.1 s) || decide ((sbOf sb s).erases ≤ e.2.erases)))

/-- Opens a superblock in a mode and region; the opening is journaled (R298, R314). -/
def openSb (sb : Nat) (slc pinned : Bool) (s : State) : State :=
  let t := modSb sb (fun b => { b with slc := slc, pinned := pinned, open_ := true, full := false, order := s.ftl.nextOrder, stripes := 0 }) s
  modFtl (fun f => addDelta ⟨6, b2n pinned, sb, noSlot, noSlot⟩ { f with nextOrder := f.nextOrder + 1 }) t

/-- A program consumed its stripes, `n` data pages and a parity page for each stripe; the superblock is full after its last. -/
def stripeDone (sb n : Nat) (s : State) : State :=
  let p := progStripes (sbOf sb s).slc
  let t := modSb sb (fun b => { b with stripes := b.stripes + p, full := decide (sbStripes b.slc ≤ b.stripes + p), open_ := decide (b.stripes + p < sbStripes b.slc) }) s
  modCnt (fun c => { c with nandWritten := c.nandWritten + iu * (n + p) }) t

/-- Write generation of a flash key domain (15 R450). -/
def writeGen (dom : Nat) (s : State) : Nat := match tget s.sec.doms dom with | some d => d.wgen | none => 0

/-- Programs a unit into a slot. -/
def putSlot (slot space idx dom : Nat) (item : FItem) (data : Memory) (s : State) : State :=
  modFtl (fun f => { f with media := tset f.media slot ⟨space, idx, writeGen dom s, f.wseq, dom, item, data⟩, wseq := f.wseq + 1 }) s

/-- Metadata of codeword 0 of a programmed page (R299): 33 bits of index, the space above; the CRC is that of the data as stored, under a key
that the spec leaves random (15 R450; log 2). -/
def pageMeta (slot : Nat) (s : State) : Option Bytes :=
  (tget s.ftl.media slot).map fun p =>
    leBytes 5 (p.index % 2 ^ 33 + 2 ^ 33 * p.space) ++ leBytes 1 (p.kgen % 4) ++ zeros 2 ++ leBytes 8 p.wseq ++ leBytes 4 (Config.storedCrc p.dom p.wseq p.data).toNat ++ zeros 12

/-- Commits a map change: unconditional, or conditional on the source slot (R311, R314). -/
def commitMap (space idx slot : Nat) (cond : Option Nat) (s : State) : State :=
  match cond with
  | some old =>
    if mapGet space idx s = some old then modFtl (fun f => addDelta ⟨2, space, idx, slot, old⟩ (mapSet space idx (some slot) f)) s else s
  | none => modFtl (fun f => addDelta ⟨1, space, idx, slot, (mapGet space idx s).getD noSlot⟩ (mapSet space idx (some slot) f)) s

def isMove (u : BufUnit) : Bool := match u.item with | .move _ => true | _ => false

/-- Programs and commits one unit of the buffer. -/
def commitUnit (slot : Nat) (u : BufUnit) (s : State) : State :=
  match u.item with
  | .move old =>
    let item := match tget s.ftl.media old with | some p => p.item | none => u.item
    commitMap u.space u.index slot (some old) (putSlot slot u.space u.index u.dom item u.data s)
  | i => commitMap u.space u.index slot none (putSlot slot u.space u.index u.dom i u.data s)

/-- What the commit of units ends: copies that are whole on flash, and in write-through the STORE writes that no unit
in the buffer still carries. -/
def afterCommit (us : List BufUnit) (s : State) : State :=
  let t := ((us.map (·.item)).eraseDups.filter fun i => !(itemPending i s)).foldl (fun t i => itemDurable i t) s
  let t := ((us.flatMap (·.cmds)).eraseDups.filter fun c => !(s.ftl.dirty.any fun u => u.cmds.contains c)).foldl (fun t c => finishCmd c.1 c.2 nvOk 0 0 t) t
  ackMirrors (sealProgress t)

/-- The copy that a unit of the buffer belongs to. -/
def unitItem (u : BufUnit) (s : State) : FItem :=
  match u.item with
  | .move old => (match tget s.ftl.media old with | some p => p.item | none => u.item)
  | i => i

/-- A unit accepted earlier from the same source is left in the buffer (R311). -/
def overtakes (u : BufUnit) (left all : List BufUnit) : Bool :=
  (all.takeWhile fun v => decide (v.id ≠ u.id)).any fun v => decide (v.src = u.src ∧ v.space = u.space) && !(isMove v) && left.any fun x => decide (x.id = v.id)

/-- Units with the slots that take them: none beside the other copy of its page (07 R223), none before an earlier one of its
source. -/
def stripeUnits (us : List BufUnit) (slots : List Nat) (s : State) : List (BufUnit × Nat) :=
  let l := assignSlots (fun u k => twinOn (unitItem u s) u.index k s) us slots
  let left := s.ftl.dirty.filter fun u => !(l.any fun e => decide (e.1.id = u.id))
  l.filter fun e => !(overtakes e.1 left s.ftl.dirty)

def commitAll (l : List (BufUnit × Nat)) (s : State) : State := l.foldl (fun t e => commitUnit e.2 e.1 t) s

/-- The superblock takes the units: open in their region and mode, or openable. User data go to the dynamic cache while
it holds less than C, else to QLC; moves of user data go to QLC (R306). -/
def sbTakes (sb : Nat) (pinned moves : Bool) (s : State) : Bool :=
  if (sbOf sb s).open_ then decide ((sbOf sb s).pinned = pinned) && (pinned || ((sbOf sb s).slc == (!moves && decide (dynUsed s < s.ftl.dynC))))
  else sbOpenable sb s && regionRoom pinned s

def readySb (sb : Nat) (pinned moves : Bool) (s : State) : State :=
  if (sbOf sb s).open_ then s else openSb sb (pinned || (!moves && decide (dynUsed s < s.ftl.dynC))) pinned s

/-- Units of the buffer program as a stripe, in QLC mode as a word line of four; with a failed block nothing commits, the block waits for its
retirement and the data for another superblock (R298, R308, R319). -/
def programStripe (sb : Nat) (ids : List Nat) (failBlock : Option Nat) (s : State) : State :=
  let us := s.ftl.dirty.filter fun u => ids.contains u.id
  let pinned := us.any fun u => decide (u.space = 1)
  let moves := us.any isMove
  if us.isEmpty ∨ flashRuns s = false ∨ sb ≥ 22896 ∨ us.any (fun u => decide ((u.space = 1) ≠ (pinned = true)) || isMove u != moves) = true
      ∨ sbTakes sb pinned moves s = false ∨ deltaLimit < s.ftl.deltas.length + us.length + 1 then s
  else
    let t := readySb sb pinned moves s
    let slots := progSlots sb t
    if slots.length < us.length then s
    else
      let u := stripeDone sb slots.length t
      match failBlock with
      | some b =>
        if b % 1272 = sbBlock sb ∧ blkDie b % 18 = sbDie sb then
          modFtl (fun f => { f with failing := f.failing ++ [b], gcQueue := if f.gcQueue.contains sb then f.gcQueue else f.gcQueue ++ [sb] }) (modSb sb (fun x => { x with full := true, open_ := false }) u)
        else s
      | none =>
        let l := stripeUnits us slots s
        let v := commitAll l u
        let v := modFtl (fun f => { f with dirty := f.dirty.filter fun x => !(l.any fun e => decide (e.1.id = x.id)) }) v
        afterCommit (l.map (·.1)) (if s.ftl.writeThrough then flushAllDeltas v else v)

def execStripeProgram (sb : Nat) (units : List Nat) (failBlock : Option Nat) (s : State) : Res :=
  .next (programStripe sb units failBlock s)

/-! ### Reclaiming (R309 to R313) -/

/-- The valid units of a superblock: space, index, slot. -/
def validUnits (sb : Nat) (s : State) : List (Nat × Nat × Nat) :=
  ((validIn sb 0 s).map fun e => (0, e.1, e.2)) ++ (validIn sb 1 s).map fun e => (1, e.1, e.2)

/-- Moves one unit to a slot (R310, R311). A lost unit has nothing to copy. -/
def moveUnit (slot : Nat) (e : Nat × Nat × Nat) (s : State) : State :=
  match tget s.ftl.media e.2.2 with
  | some p => commitMap e.1 e.2.1 slot (some e.2.2) (putSlot slot p.space p.index p.dom p.item p.data s)
  | none => s

/-- Copies units into a superblock as far as they fit, program by program. -/
def copyInto (fuel dst : Nat) (l : List (Nat × Nat × Nat)) (s : State) : State :=
  match fuel, l with
  | 0, _ => s
  | _, [] => s
  | k + 1, l =>
    if (sbOf dst s).open_ = false then s
    else
      let slots := progSlots dst s
      let here := assignSlots (fun (e : Nat × Nat × Nat) k => match tget s.ftl.media e.2.2 with | some p => twinOn p.item e.2.1 k s | none => false) l slots
      let t := here.foldl (fun t e => moveUnit e.2 e.1 t) s
      copyInto k dst (l.filter fun e => !(here.any fun h => decide (h.1 = e))) (stripeDone dst slots.length t)

/-- Erases a superblock: its slots hold nothing, its count advances by 1, or by 0.25 in SLC mode (R313); the erase is
journaled when it starts (R314). -/
def eraseSb (sb : Nat) (s : State) : State :=
  let b := sbOf sb s
  let t := modFtl (fun f => addDelta ⟨4, b2n b.pinned, sb, noSlot, noSlot⟩ { f with media := f.media.filter fun e => decide (slotSb e.1 ≠ sb), gcQueue := f.gcQueue.filter fun x => decide (x ≠ sb), lost := f.lost.filter fun k => decide (slotSb k ≠ sb) }) s
  let t := flushAllDeltas t
  wearCheck (modSb sb (fun x => ⟨false, false, false, false, 0, 0, x.erases + (if b.slc then 1 else 4)⟩) t)

/-- Data bytes of a superblock in its mode (R300). -/
def sbBytes (slc : Bool) : Nat := if slc then 1560281088 else 6241124352

/-- What reclaiming a superblock freed bulk writes may use, while fewer than 48 are free (R312; log 240). -/
def addCredit (n : Nat) (s : State) : State := modFtl (fun f => { f with credit := if freeSbs s < 48 then f.credit + n else 0 }) s

/-- Reclaims a source into a destination: the copies, the commits with their journal pages, then the erase, which waits
while a unit of the source remains (R310). -/
def reclaim (src dst : Nat) (s : State) : State :=
  let s := flushAllDeltas s
  let l := (validUnits src s).filter fun e => !(s.ftl.lost.contains e.2.2)
  let pinned := (sbOf src s).pinned
  let t := if l.isEmpty then s else copyInto (l.length + 12288) dst l (if (sbOf dst s).open_ then s else openSb dst pinned pinned s)
  let t := flushAllDeltas t
  if (validUnits src t).isEmpty then addCredit (if pinned then 0 else sbBytes (sbOf src s).slc - iu * l.length) (eraseSb src t) else t

/-- A superblock may take the units of a source. -/
def dstOk (src dst : Nat) (s : State) : Bool :=
  decide (src ≠ dst) && decide (dst < 22896)
    && (if (sbOf dst s).open_ then ((sbOf dst s).pinned == (sbOf src s).pinned) && ((sbOf dst s).slc == (sbOf src s).pinned) else sbFree dst s)

def closedSbs (s : State) : List (Nat × Sb) := s.ftl.sbs.filter fun e => e.2.full

/-- The oldest of a list of superblocks. -/
def oldestSb (l : List (Nat × Sb)) : Option Nat :=
  match l with
  | [] => none
  | e :: r => some (r.foldl (fun (b : Nat × Sb) x => if x.2.order < b.2.order then x else b) e).1

/-- The destination that folding opens when no QLC superblock is open: the lowest free one with the lowest count (log
62). -/
def qlcDst (s : State) : Option Nat :=
  match s.ftl.sbs.find? fun e => e.2.open_ && !e.2.slc && !e.2.pinned with
  | some e => some e.1
  | none =>
    match lowestFree 22896 (s.ftl.sbs.map (·.1)) with
    | some n => some n
    | none => (s.ftl.sbs.find? fun e => sbOpenable e.1 s).map (·.1)

/-- Folds the oldest full superblock of the dynamic cache (R309). -/
def foldCache (s : State) : State :=
  match oldestSb ((closedSbs s).filter fun e => e.2.slc && !e.2.pinned), qlcDst s with
  | some src, some dst => if flashRuns s && dstOk src dst s && !s.ftl.writeProt then reclaim src dst s else s
  | _, _ => s

def execFold (s : State) : Res := .next (foldCache s)

/-- The source of garbage collection: a queued superblock first, else the one with the fewest valid units, the oldest
among equals (R310, R318). In the write-protected state only the pinned region is reclaimed (R327). -/
def gcSource (s : State) : Option Nat :=
  let l := (closedSbs s).filter fun e => e.2.pinned || !s.ftl.writeProt
  match s.ftl.gcQueue.find? fun q => l.any fun e => decide (e.1 = q) with
  | some q => some q
  | none =>
    match (l.map fun e => validCount e.1 s).min? with
    | none => none
    | some m => oldestSb (l.filter fun e => decide (validCount e.1 s = m))

def collect (dst : Nat) (s : State) : State :=
  match gcSource s with
  | some src => if flashRuns s && dstOk src dst s && ((sbOf dst s).open_ || sbOpenable dst s) then reclaim src dst s else s
  | none => s

def execGarbageCollection (dst : Nat) (s : State) : Res := .next (collect dst s)

/-- Wear levelling: the data of the lowest-count superblock moves into the free superblock with the highest count, when
the counts lie more than 150 apart (R313). -/
def wearLevel (dst : Nat) (s : State) : State :=
  let l := (closedSbs s).filter fun e => e.2.pinned || !s.ftl.writeProt
  match (l.map fun e => e.2.erases).min? with
  | none => s
  | some m =>
    match oldestSb (l.filter fun e => decide (e.2.erases = m)) with
    | some src =>
      if flashRuns s && dstOk src dst s && sbFree dst s && decide (600 < eraseTop s - eraseLow s)
          && s.ftl.sbs.all (fun e => !(sbFree e.1 s) || decide (e.2.erases ≤ (sbOf dst s).erases)) then reclaim src dst s else s
    | none => s

def execWearLevelling (dst : Nat) (s : State) : Res := .next (wearLevel dst s)

/-! ### Reads and their recovery (R317, R318) -/

/-- Queues the rewrite of a unit to a new slot, and its superblock for garbage collection (R318). -/
def rewriteUnit (slot : Nat) (p : SlotPg) (s : State) : State :=
  let sb := slotSb slot
  let t := modFtl (fun f => { f with gcQueue := if f.gcQueue.contains sb then f.gcQueue else f.gcQueue ++ [sb] }) s
  if mapGet p.space p.index s = some slot ∧ (dirtyAt p.space p.index s).isNone = true then
    let u : BufUnit := ⟨s.ftl.nextUnit, .move slot, p.space, p.index, 0, iu, p.data, [], p.dom, 0x3000000, false⟩
    modFtl (fun f => { f with dirty := f.dirty ++ [u], nextUnit := f.nextUnit + 1 }) t
  else t

/-- The second copy of what lies in a slot can be read (07 R223). -/
def hasSecond (p : SlotPg) (s : State) : Bool :=
  match twinOf p.item with
  | some j => (match p.item with | .page pid _ => (match pageGet pid s with | some q => decide (2 ≤ q.flash ∧ 2 ≤ q.flash2) | none => false) | _ => false) && !(copyLost j s)
  | none => false

/-- A page with no DRAM copy and no flash copy that reads is lost (08 R276, R277). -/
def pageGone (i : FItem) (s : State) : State :=
  match i with
  | .page pid _ =>
    match pageGet pid s with
    | some q => if q.t1.isNone ∧ q.t2.isNone ∧ copyReads pid s = false then losePage pid s else s
    | none => s
  | _ => s

/-- Every step failed: the data of the slot are lost, and a page with no other copy with them (R317; 08 R277). -/
def loseUnit (slot : Nat) (p : SlotPg) (s : State) : State :=
  let t := modFtl (fun f => { f with lost := if f.lost.contains slot then f.lost else f.lost ++ [slot], lostSince := true }) s
  pageGone p.item (modCnt (fun c => { c with mediaErrs := c.mediaErrs + 1, lostUnits := c.lostUnits + 1 }) t)

/-- The set of read reference voltages that last succeeded for a block, one of 15 (R317); the spec does not say which (log 2). -/
def keepRetry (slot : Nat) (s : State) : State :=
  let b := blockNo (slotCh slot) (sbDie (slotSb slot)) (slotPlane slot) (sbBlock (slotSb slot))
  bumpFree (modFtl (fun f => { f with retrySet := tset f.retrySet b (Config.freeNat s.freeCtr % 15) }) s)

/-- The step that a read of a slot ends at: a failed die answers by parity rebuild at the earliest (R320). -/
def readStep (slot step : Nat) (s : State) : Nat := if dieFailed (slotCh slot) (sbDie (slotSb slot)) s && decide (step ≠ 5 ∧ step ≠ 6) then 4 else step

/-- A read of the page in a slot ends at a step: 1 hard decode, 2 read-retry with fewer than 8 steps, 7 with 8 or more, 3
soft decode, 4 parity, 5 the second copy of a weight page, 6 none of them; a
second copy that lies in the buffer does not fail (R317; 08 R276; log 3). -/
def readSlot (slot step : Nat) (s : State) : State :=
  match tget s.ftl.media slot with
  | none => s
  | some p =>
    if flashRuns s = false then s
    else match readStep slot step s with
      | 2 => keepRetry slot (modCnt (fun c => { c with retryReads := c.retryReads + 1 }) s)
      | 7 => rewriteUnit slot p (keepRetry slot (modCnt (fun c => { c with retryReads := c.retryReads + 1 }) s))
      | 3 => rewriteUnit slot p (modCnt (fun c => { c with softReads := c.softReads + 1 }) s)
      | 4 => rewriteUnit slot p (modCnt (fun c => { c with rebuilds := c.rebuilds + 1 }) s)
      | 5 => if hasSecond p s then rewriteUnit slot p s else s
      | 6 =>
        if hasSecond p s then (match twinSlot p.item p.index s with
          | some k => (match tget s.ftl.media k with | some q => loseUnit k q (loseUnit slot p s) | none => rewriteUnit slot p s)
          | none => rewriteUnit slot p s)
        else loseUnit slot p s
      | _ => s

/-- A page read is timed by the instance of its channel, its recovery included: the cycles are free (19 R551; log 248). -/
def flashSample (slot : Nat) (s : State) : State :=
  if flashRuns s && (tget s.ftl.media slot).isSome then monSample (29 + slotCh slot) (Config.freeNat s.freeCtr : Int) 0 (bumpFree s) else s

/-- Log 186. -/
def execFlashRead (unit step : Nat) (s : State) : Res := .next (readSlot unit step (flashSample unit s))

/-- The media scan queues the superblocks of blocks whose error count exceeds the refresh threshold (R318). -/
def scanMedia (blocks : List Nat) (s : State) : State :=
  let sbs := (blocks.map fun b => blkDie b % 18 * 1272 + b % 1272).eraseDups
  sbs.foldl (fun t sb => if decide (0 < (sbOf sb t).stripes) && !(t.ftl.gcQueue.contains sb) then modFtl (fun f => { f with gcQueue := f.gcQueue ++ [sb] }) t else t) s

def execMediaScan (blocks : List Nat) (s : State) : Res := .next (if flashRuns s then scanMedia blocks s else s)

/-! ### Failures of blocks and dies (R319, R320) -/

/-- Slots of a block that hold mapped units. -/
def blockValid (b : Nat) (s : State) : Bool :=
  let on := fun k => decide (blockNo (slotCh k) (slotSb k / 1272) (slotPlane k) (slotSb k % 1272) = b)
  s.ftl.user.any (fun e => on e.2) || s.ftl.pinned.any fun e => on e.2

def dieEvent (ch d what : Nat) (s : State) : State := flashEvent 0x0204 (leBytes 1 ch ++ leBytes 1 d ++ leBytes 1 what) s

/-- A second failure in a row that is being rebuilt: units on either die, of stripes written before the first failure, have lost two
pages of their stripe (R320). -/
def stripesLost (ch d : Nat) (s : State) : List Nat :=
  match s.ftl.rebuilding.find? fun e => decide (e.1 % 18 = d) with
  | none => []
  | some _ =>
    (s.ftl.media.map (·.1)).filter fun k =>
      let sb := slotSb k
      let older := (s.ftl.rebuilding.filter fun e => decide (e.1 % 18 = d ∧ (sbOf sb s).order < e.2)).map fun e => e.1 / 18
      let held := fun c => !(s.ftl.retired.contains (blockNo c d (slotPlane k) (sbBlock sb)))
      decide (sbDie sb = d) && ((decide (slotCh k = ch) && older.any held) || (older.contains (slotCh k) && held ch))

/-- A die fails: counted in the capability table, its row closed and queued for reclaim; of a row that is being rebuilt, the units of
stripes that have lost two pages are lost (R320; 01 R51). -/
def failDie (ch d : Nat) (s : State) : State :=
  if flashRuns s = false ∨ 32 ≤ ch ∨ 18 ≤ d ∨ dieFailed ch d s = true then s
  else
    let gone := stripesLost ch d s
    let t := { s with caps := { s.caps with nandFailed := s.caps.nandFailed ++ [18 * ch + d] } }
    let close := fun (e : Nat × Sb) => if sbDie e.1 = d ∧ e.2.open_ = true then (e.1, { e.2 with open_ := false, full := true }) else e
    let t := modFtl (fun f => { f with sbs := f.sbs.map close }) t
    let row := ((closedSbs t).filter fun e => decide (sbDie e.1 = d) && !(s.ftl.gcQueue.contains e.1)).map (·.1)
    let t := modFtl (fun f => { f with rebuilding := tset f.rebuilding (18 * ch + d) f.nextOrder, gcQueue := f.gcQueue ++ row, lost := f.lost ++ gone.filter (fun k => !(f.lost.contains k)), lostSince := f.lostSince || !gone.isEmpty }) t
    let t := modCnt (fun c => { c with lostUnits := c.lostUnits + gone.length }) t
    let t := dieEvent ch d 0 t
    let t := if gone.isEmpty then t else dieEvent ch d 2 t
    spareCheck (capsChanged (gone.foldl (fun t k => match tget t.ftl.media k with | some p => pageGone p.item t | none => t) t))

/-- Retirements of blocks within the last 24 h (R320). -/
def recentRetired (s : State) : List (Nat × Nat) := s.ftl.retireAt.filter fun e => decide (clockNow domAon s < e.2 + 8640000000000)

/-- A die is failed when it stops responding, or when more than 64 of its blocks were retired within 24 h (R320). -/
def execNandDieFailed (ch d : Nat) (silent : Bool) (s : State) : Res :=
  .next (if silent || decide (64 < ((recentRetired s).filter fun e => decide (e.1 = 18 * ch + d)).length) then failDie ch d s else s)

/-- Counts a retirement of a die's blocks; a die with more than 64 within 24 h is failed (R320). -/
def countRetired (die : Nat) (s : State) : State :=
  let l := recentRetired s ++ [(die, clockNow domAon s)]
  let t := modFtl (fun f => { f with retireAt := l }) s
  if 64 < (l.filter fun e => decide (e.1 = die)).length then failDie (die / 18) (die % 18) t else t

/-- Retires a block: 0 after a failed erase, 1 after a failed program once its last unit has moved, 2 by the media scan
or a die failure (R319). -/
def retireBlock (b cause : Nat) (s : State) : State :=
  if flashRuns s = false ∨ blocksAll ≤ b ∨ 2 < cause ∨ s.ftl.retired.contains b = true ∨ blockValid b s = true
      ∨ (cause = 1 ∧ s.ftl.failing.contains b = false) then s
  else
    let t := modFtl (fun f => addDelta ⟨5, 0, b, noSlot, noSlot⟩ { f with retired := f.retired ++ [b], failing := f.failing.filter fun x => decide (x ≠ b) }) s
    let t := flashEvent 0x0203 (leBytes 1 (b / 1272 / 4 / 18) ++ leBytes 1 (b / 1272 / 4 % 18) ++ leBytes 1 (b / 1272 % 4) ++ zeros 1 ++ leBytes 2 (b % 1272) ++ leBytes 1 cause) t
    countRetired (blkDie b) (spareCheck t)

def execBlockRetired (blk cause : Nat) (s : State) : Res := .next (retireBlock blk cause s)

/-- The rebuild of a die completes once no unit of its pages is left that is not lost (R320). -/
def dieRebuilt (ch d : Nat) (s : State) : State :=
  let on := fun k => decide (slotCh k = ch) && decide (sbDie (slotSb k) = d) && !(s.ftl.lost.contains k)
  if flashRuns s && (tget s.ftl.rebuilding (18 * ch + d)).isSome && !(s.ftl.user.any fun e => on e.2) && !(s.ftl.pinned.any fun e => on e.2) then
    dieEvent ch d 1 (modFtl (fun f => { f with rebuilding := tdel f.rebuilding (18 * ch + d) }) s)
  else s

def execDieRebuildDone (ch d : Nat) (s : State) : Res := .next (dieRebuilt ch d s)

/-! ### The dirty limit and the flush (R321 to R324) -/

/-- The dirty limit for a usable energy in 0.1 J, in bytes: 6 GiB × min(1, (U − 54 J) / 76 J) (R323). -/
def limitFor (u : Nat) : Nat := min 6442450944 (6442450944 * (u - 540) / 760)

/-- Sets the limit and write-through from U; a change raises `HOLDUP_DERATED` (R323, R328). -/
def setLimit (u : Nat) (s : State) : State :=
  let l := limitFor u
  let t := modFtl (fun f => { f with dirtyLimit := l, writeThrough := decide (u < 600) }) s
  if l = s.ftl.dirtyLimit then t else flashEvent 0x0206 (leBytes 2 u ++ zeros 2 ++ leBytes 4 (l / 2 ^ 20)) t

/-- Units that survive an Abseil without a completion mark: those whose `dcrc` checks, which nothing constrains (R324; log
2). -/
def survivors (l : List BufUnit) (s : State) : List BufUnit := (l.zipIdx.filter fun e => decide (Config.freeNat (s.freeCtr + 1 + e.2) % 2 = 0)).map (·.1)

/-- Dirty data of the buffer: what write-through has taken is none (R323). -/
def dirtyUnits (s : State) : List BufUnit := s.ftl.dirty.filter fun u => !(isMove u) && !u.thru

/-- Bytes of the ledgers and cairns of step 6: at most 64 MiB, else open (R321; log 2). -/
def ledgerSize (s : State) : Nat := Config.freeNat (s.freeCtr + 1 + s.ftl.dirty.length) % (67108864 + 1)

/-- The shutdown record of a flush of units with the deltas, the Abseil pages and their parity programmed (R322, R324). -/
def putRecord (cause : Nat) (complete : Bool) (us : List BufUnit) (deltas : Nat) (s : State) : State :=
  let n := us.length
  let pages := n + (n + 30) / 31
  let r : Shutdown := ⟨cause, complete, s.ftl.wseq, s.ftl.wseq + n, iu * n, 16 * deltas, ledgerSize s⟩
  modFtl (fun f => { f with shutdown := some r, wseq := f.wseq + n, cnt := { f.cnt with nandWritten := f.cnt.nandWritten + iu * pages } }) s

/-- The deltas go to the journal; a flush cut short programs as many pages of them as it comes to, and the boot maps without the rest
(R315, R322; log 2). -/
def flushJournal (complete : Bool) (s : State) : State :=
  if complete then flushAllDeltas s else loseDeltas (Config.freeNat s.freeCtr) s

/-- Steps 2 to 7 of R322: writes that wait are dropped with their commands, dirty data goes to the Abseil area, the deltas to the
journal, the shutdown record is written. In write-through uncommitted data is dropped (R323). A record that no boot has applied stays in force: nothing is dirty then (17 R515; 18 R536). -/
def flushSteps (cause : Nat) (complete : Bool) (s : State) : State :=
  if s.ftl.shutdown.isSome then modFtl (fun f => { f with dirty := [], waiting := [] }) s
  else
    let us := dirtyUnits s
    let t := flushJournal complete (putRecord cause complete us s.ftl.deltas.length s)
    let t := bumpFreeBy (s.ftl.dirty.length + 2) t
    modFtl (fun f => { f with dirty := [], waiting := [], abseilArea := if complete then us else survivors us s }) t

/-- At boot the Abseil-area data returns to the write buffer; a missing completion mark counts an unsafe shutdown (R324). -/
def restoreFlush (s : State) : State :=
  let bad := match s.ftl.shutdown with | some r => !r.complete | none => false
  let t := modFtl (fun f => { f with dirty := f.dirty ++ f.abseilArea, abseilArea := [], shutdown := none }) s
  if bad then modCnt (fun c => { c with unsafeShut := c.unsafeShut + 1 }) t else t

end Sys2Proof.Machine
end

