-- ==== Sys2Proof/Machine/SearchOps.lean ====
section
/-! DEFINITION. The scan unit and the index (12): records, predicate programs and scan results; visibility, queries, merges. Both
the services and the vendor commands of STORE (11 R356) use them. -/
namespace Sys2Proof.Machine

def modSearch (f : Search → Search) (s : State) : State := { s with search := f s.search }

/-! ### Records (R360) -/

/-- Records of delimited mode, as (start, length): from `start`, at byte `pos` of the unit. -/
def splitDelim (d : Byte) (bs : Bytes) (pos start : Nat) : List (Nat × Nat) :=
  match bs with
  | [] => if start < pos then [(start, pos - start)] else []
  | b :: r => if b = d then (start, pos - start) :: splitDelim d r (pos + 1) (pos + 1) else splitDelim d r (pos + 1) start

/-- Records of an indirection unit, as (start, length), in order. -/
def recordsOf (recLen : Nat) (delim : Byte) (unit : Bytes) : List (Nat × Nat) :=
  if recLen = 0 then splitDelim delim unit 0 0 else (List.range (unit.length / recLen)).map fun r => (r * recLen, recLen)

/-! ### Predicate programs (R361 to R363) -/

def prRecLen (p : Bytes) : Nat := fld p 4 2
def prDelim (p : Bytes) : Byte := BitVec.ofNat 8 (fld p 6 1)
def prTerms (p : Bytes) : Nat := fld p 7 1
def prNq (p : Bytes) : Nat := fld p 8 1
def prOut (p : Bytes) : Nat := fld p 9 1
def prCodeOff (p : Bytes) : Nat := fld p 10 2
def prCodeBytes (p : Bytes) : Nat := fld p 12 2
def prMaxDist (p : Bytes) : Nat := fld p 14 2
def prTerm (p : Bytes) (k : Nat) : Bytes := sub p (32 + 32 * k) 32
def prCode (p : Bytes) (q : Nat) : Bytes := sub p (32 + 32 * prTerms p + q * prCodeBytes p) (prCodeBytes p)

/-- A term is well formed. -/
def termGood (t : Bytes) : Bool :=
  let kind := fld t 0 1
  let op := fld t 1 1
  let w := fld t 2 1
  decide (1 ≤ kind ∧ kind ≤ 3) && decide (op ≤ (if kind = 1 then 5 else 0)) && decide (w = 1 ∨ w = 2 ∨ w = 4 ∨ w = 8)
    && decide (fld t 3 1 &&& 0xCC = 0) && (decide (kind ≠ 1) || decide (fld t 16 8 = 0))

def codeLenGood (n : Nat) : Bool := decide (n = 32 ∨ n = 64 ∨ n = 128 ∨ n = 256)

/-- A program is well formed: magic, fields in range, no reserved bit, its length (R366). -/
def progGood (p : Bytes) : Bool :=
  decide (32 ≤ p.length) && decide (sub p 0 4 = ascii "EZSP") && decide (prRecLen p ≤ 16384) && decide (prTerms p ≤ 8) && decide (prNq p ≤ 16)
    && decide (prOut p < 4) && (if prNq p = 0 then decide (prCodeBytes p = 0) else codeLenGood (prCodeBytes p))
    && decide (p.length = 32 + 32 * prTerms p + prNq p * prCodeBytes p) && (List.range (prTerms p)).all fun k => termGood (prTerm p k)

/-- A value of `w` bytes read as two's complement. -/
def asSigned (w v : Nat) : Int := if v < 2 ^ (8 * w - 1) then (v : Int) else (v : Int) - 2 ^ (8 * w)

/-- A term on a record (R362). -/
def termTrue (t rec : Bytes) : Bool :=
  let w := fld t 2 1
  let fl := fld t 3 1
  let off := fld t 4 2
  let m := 2 ^ (8 * w)
  if rec.length < off + w then false
  else
    let bs := sub rec off w
    let raw := if bit fl 1 then leNat bs.reverse else leNat bs
    let a := fld t 8 8 % m
    let b := fld t 16 8 % m
    let val := fun v => if bit fl 0 then asSigned w v else (v : Int)
    match fld t 0 1 with
    | 1 =>
      match fld t 1 1 with
      | 0 => decide (val raw = val a)
      | 1 => decide (val raw ≠ val a)
      | 2 => decide (val raw < val a)
      | 3 => decide (val raw ≤ val a)
      | 4 => decide (val a < val raw)
      | _ => decide (val a ≤ val raw)
    | 2 => decide (val a ≤ val raw) && decide (val raw ≤ val b)
    | _ => decide (raw &&& a = b)

/-- The OR over groups of the AND of their terms (R362). -/
def termExpr (p rec : Bytes) : Bool :=
  let ts := (List.range (prTerms p)).map (prTerm p)
  decide (prTerms p = 0) || [0, 1, 2, 3].any fun g =>
    let l := ts.filter fun t => decide (fld t 3 1 / 16 % 4 = g)
    !l.isEmpty && l.all fun t => termTrue t rec

/-- Number of 1 bits of a byte. -/
def ones (b : Byte) : Nat := (maskBits b.toNat 8).length

/-- Hamming distance of two codes of equal length (R363). -/
def hamming (a b : Bytes) : Nat :=
  match a, b with
  | x :: r, y :: t => ones (x ^^^ y) + hamming r t
  | _, _ => 0

/-- Distances of a record to the query codes; `0xFFFF` where its code field runs past its end (R363). -/
def recDists (p rec : Bytes) : List Nat :=
  (List.range (prNq p)).map fun q =>
    if rec.length < prCodeOff p + prCodeBytes p then 0xFFFF else hamming (sub rec (prCodeOff p) (prCodeBytes p)) (prCode p q)

/-- A record qualifies (R362). -/
def qualifies (p rec : Bytes) : Bool :=
  termExpr p rec && (decide (prMaxDist p = 0xFFFF) || decide (((recDists p rec).min?).getD 0xFFFF ≤ prMaxDist p))

/-- Pads with zeros to a multiple of 8 bytes. -/
def pad8 (bs : Bytes) : Bytes := bs ++ zeros ((8 - bs.length % 8) % 8)

/-- Result entry of a record that starts at byte `boff` of a logical block (R365). -/
def scanEntry (p rec : Bytes) (lba boff : Nat) : Bytes :=
  let ds := recDists p rec
  let dmin := (ds.min?).getD 0xFFFF
  let body := if bit (prOut p) 0 then rec else []
  pad8 (leBytes 8 lba ++ leBytes 2 boff ++ leBytes 2 body.length ++ leBytes 2 dmin ++ leBytes 1 ((ds.findIdx? fun d => decide (d = dmin)).getD 0)
    ++ zeros 1 ++ (if bit (prOut p) 1 then ds.flatMap (leBytes 2) else []) ++ body)

/-! ### Scans (R365) -/

/-- A unit that is mapped or waits in the write buffer: it holds records (R360, R364). -/
def unitMapped (idx : Nat) (s : State) : Bool := (dirtyAt 0 idx s).isSome || (mapGet 0 idx s).isSome

/-- Records of a unit of a namespace whose first byte lies in `[lo, hi)`: logical block, and the entry if it qualifies. -/
def scanUnit (p : Bytes) (x : Ns) (u lo hi : Nat) (s : State) : List (Nat × Option Bytes) :=
  let bytes := Memory.readN 0 (unitData 0 (nsUnit x u) s) 0 iu
  ((recordsOf (prRecLen p) (prDelim p) bytes).filter fun r => decide (lo ≤ u * iu + r.1) && decide (u * iu + r.1 < hi)).map fun r =>
    let at_ := u * iu + r.1
    let rb := sub bytes r.1 r.2
    (at_ / nsBlock x, if qualifies p rb then some (scanEntry p rb (at_ / nsBlock x) (at_ % nsBlock x)) else none)

/-- What a scan has found: entries, their bytes, the next block, records evaluated; whether and how it has ended. -/
structure ScanOut where
  count : Nat
  body : Bytes
  next : Nat
  examined : Nat
  truncated : Bool
  status : Option Nat
  deriving DecidableEq, Repr

def ScanOut.ended (o : ScanOut) : Bool := o.truncated || o.status.isSome

/-- The entries of one logical block, all of them or none (R365). -/
def scanBlock (cap slba b : Nat) (l : List (Nat × Option Bytes)) (o : ScanOut) : ScanOut :=
  if o.ended then o
  else
    let mine := l.filter fun e => decide (e.1 = b)
    let es := mine.filterMap (·.2)
    let bs := es.flatMap id
    if cap < 32 + o.body.length + bs.length then
      if b = slba then { o with next := b, status := some stNoSpace } else { o with next := b, truncated := true }
    else { o with count := o.count + es.length, body := o.body ++ bs, next := b + 1, examined := o.examined + mine.length }

/-- One unit of a scan: a lost one ends it at its first block in the range (R366). -/
def scanStep (p : Bytes) (x : Ns) (cap slba nlb : Nat) (s : State) (o : ScanOut) (u : Nat) : ScanOut :=
  let bs := nsBlock x
  if o.ended ∨ unitMapped (nsUnit x u) s = false then o
  else if unitLost 0 (nsUnit x u) s then { o with next := max slba (u * iu / bs), status := some stDataLost }
  else
    let l := scanUnit p x u (slba * bs) ((slba + nlb) * bs) s
    ((rangeFrom (u * iu / bs) (iu / bs)).filter fun b => decide (slba ≤ b) && decide (b < slba + nlb)).foldl (fun o b => scanBlock cap slba b l o) o

/-- A scan of `nlb` blocks from `slba` into a buffer of `cap` bytes (R364, R365). -/
def scanRange (p : Bytes) (x : Ns) (slba nlb cap : Nat) (s : State) : ScanOut :=
  let bs := nsBlock x
  let o : ScanOut := ⟨0, [], slba, 0, false, if cap < 32 then some stNoSpace else none⟩
  let us := rangeFrom (slba * bs / iu) (((slba + nlb) * bs + iu - 1) / iu - slba * bs / iu)
  let r := us.foldl (scanStep p x cap slba nlb s) o
  if r.ended then r else { r with next := slba + nlb }

/-- Header of the result buffer, without its reserved bytes: also the reply and the cairn body (R365, R366). -/
def scanHead (o : ScanOut) : Bytes := leBytes 4 o.count ++ leBytes 4 (b2n o.truncated) ++ leBytes 8 o.next ++ leBytes 8 o.examined

def scanBuffer (o : ScanOut) : Bytes := scanHead o ++ zeros 8 ++ o.body

def progOf (c h : Nat) (s : State) : Option Prog := (tget s.search.progs h).filter fun p => decide (p.ctx = c)

/-! ### Indexes (R367 to R375) -/

def idxGet (h : Nat) (s : State) : Option Index := tget s.search.idx h
def modIdx (h : Nat) (f : Index → Index) (s : State) : State := modSearch (fun x => { x with idx := tmod x.idx h f }) s

/-- A request's index: of its context, and no accepted `DROP` of it came before (R379). -/
def idxOf (r : Req) (h : Nat) (s : State) : Option Index :=
  let dropped := s.ledger.reqs.any fun q =>
    decide (q.rid < r.rid ∧ q.svc = 6 ∧ q.op = 2 ∧ q.mbx = r.mbx ∧ fld q.payload 0 4 = h) && q.done.isNone && q.settled.isNone
  if dropped then none else (idxGet h s).filter fun x => decide (x.ctx = r.mbx)

/-- The epoch that the next insert or delete takes (R369). -/
def nextEpoch (x : Index) : Nat := x.epoch + x.pend.length + 1

/-- A node is deleted at or before an epoch (R370, R371). -/
def nodeDead (x : Index) (key q : Nat) : Bool := x.side.any fun e => e.tomb && decide (e.key = key) && decide (e.ins ≤ q)

/-- A side-list item is visible at an epoch (R370). -/
def itemSeen (q : Nat) (e : SideEnt) : Bool :=
  !e.tomb && decide (e.ins ≤ q) && (match e.del with | some d => decide (q < d) | none => true)

/-- Keys visible at an epoch. -/
def visibleKeys (x : Index) (q : Nat) : List Nat :=
  ((x.graph.nodes.filter fun n => !(nodeDead x n.key q)).map (·.key)) ++ ((x.side.filter (itemSeen q)).map (·.key))

/-- Gives the item of a key its delete epoch: in its own entry, or in a new one for a graph node; `none` if it is not visible
(R371). -/
def killKey (key e : Nat) (x : Index) : Option Index :=
  let here := fun (y : SideEnt) => !y.tomb && decide (y.key = key) && y.del.isNone
  if x.side.any here then some { x with side := x.side.map fun y => if here y then { y with del := some e } else y }
  else if (x.graph.nodes.any fun n => decide (n.key = key)) && !(nodeDead x key e) then
    some { x with side := x.side ++ [⟨key, [], e, none, true⟩] }
  else none

/-- Inserts one item under an epoch; counts replacements. -/
def insertItem (e : Nat) (a : Index × Nat) (it : Nat × Bytes) : Index × Nat :=
  let (x, n) := match killKey it.1 e a.1 with | some y => (y, a.2 + 1) | none => (a.1, a.2)
  ({ x with side := x.side ++ [⟨it.1, it.2, e, none, false⟩] }, n)

/-- Deletes one key under an epoch; counts the deleted. -/
def deleteItem (e : Nat) (a : Index × Nat) (key : Nat) : Index × Nat :=
  match killKey key e a.1 with
  | some y => (y, a.2 + 1)
  | none => a

def sideCap : Nat := 4194304
def mergeStart : Nat := 3145728

/-- A merge begins at the index epoch, with the requests that wait for it (R376). -/
def beginMerge (h : Nat) (waiters : List Nat) (s : State) : State :=
  modIdx h (fun x => { x with merge := some ⟨x.epoch, waiters⟩ }) s

/-- Events of SEARCH (R381). -/
def searchEvent (code : Nat) (x : Index) (payload : Bytes) (s : State) : State := raiseEvent code 1 6 x.ctx 0 payload s

/-- A merge starts by the threshold (R376, R381). -/
def checkSide (h : Nat) (s : State) : State :=
  match idxGet h s with
  | none => s
  | some x =>
    if mergeStart ≤ x.side.length ∧ x.merge = none then
      searchEvent 0x0600 x (leBytes 4 h ++ leBytes 4 x.side.length) (beginMerge h [] s)
    else s

/-- Writes the side-list entries of an epoch as bulk data (R368). -/
def storeSide (h e n : Nat) (s : State) : State :=
  match idxGet h s with
  | some x => if n = 0 then s else queueBulk x.ctx (.side h e n) n s
  | none => s

/-- Side-list copies of an index up to an epoch. -/
def sideCopies (h m : Nat) (s : State) : List FItem :=
  ((s.ftl.bulkExt.map (·.2)) ++ s.ftl.extWait).eraseDups.filter fun i => match i with | .side k e _ => decide (k = h ∧ e ≤ m) | _ => false

/-- Applies a changed index as one epoch, or refuses it: side list or items beyond their limit, or the new entries beyond a quota (R369, R371,
R372; 08 R571). -/
def applyEpoch (rid h : Nat) (old x : Index) (done other st : Nat) (s : State) : State :=
  let e := nextEpoch old
  let n := sideBytes x - sideBytes old
  if sideCap < x.side.length ∨ x.maxNodes < (visibleKeys x e).length ∨ quotaFits x.ctx n n s = false then fail rid stNoSpace s
  else
    let t := modIdx h (fun _ => { x with pend := old.pend ++ [⟨rid, e, done, other, st, decide (n = 0)⟩] }) s
    checkSide h (setRunning rid (storeSide h e n t))

/-- Inserts into an index under one epoch (R371). -/
def applyInsert (rid h : Nat) (items : List (Nat × Bytes)) (st : Nat) (s : State) : State :=
  match idxGet h s with
  | none => s
  | some x =>
    let (y, n) := items.foldl (insertItem (nextEpoch x)) (x, 0)
    applyEpoch rid h x y items.length n st s

def applyDelete (rid h : Nat) (keys : List Nat) (s : State) : State :=
  match idxGet h s with
  | none => s
  | some x =>
    let (y, n) := keys.foldl (deleteItem (nextEpoch x)) (x, 0)
    applyEpoch rid h x y n (keys.length - n) stSuccess s

/-! ### Queries (R373 to R375) -/

/-- A result: distance, key, source (0 graph, 1 side list). -/
abbrev Hit := Nat × Nat × Nat

/-- Distance ascending, then key ascending (R375). -/
def hitLe (a b : Hit) : Bool := decide (a.1 < b.1) || (decide (a.1 = b.1) && decide (a.2.1 ≤ b.2.1))

/-- State of the graph traversal: visited nodes, candidates and results as (distance, node). -/
structure Trav where
  visited : List Nat
  cand : List (Nat × Nat)
  best : List (Nat × Nat)

def pairLe (a b : Nat × Nat) : Bool := decide (a.1 < b.1) || (decide (a.1 = b.1) && decide (a.2 ≤ b.2))
def worst (l : List (Nat × Nat)) : Nat := ((l.map (·.1)).max?).getD 0

/-- One neighbour of the node taken from the candidates (R373). -/
def travNode (x : Index) (q beam : Nat) (code : Bytes) (t : Trav) (n : Nat) : Trav :=
  match x.graph.nodes[n]? with
  | none => t
  | some g =>
    if t.visited.contains n then t
    else
      let d := hamming code g.code
      let u : Trav := { t with visited := t.visited ++ [n] }
      if t.best.length < beam ∨ d < worst t.best then
        let seen := !(nodeDead x g.key q)
        { u with cand := insertBy pairLe (d, n) u.cand, best := if seen then (insertBy pairLe (d, n) u.best).take beam else u.best }
      else u

/-- The traversal of R373; equal distances are taken in node order (log 90). -/
def travLoop (fuel : Nat) (x : Index) (q beam : Nat) (code : Bytes) (t : Trav) : Trav :=
  match fuel, t.cand with
  | 0, _ => t
  | _, [] => t
  | f + 1, c :: r =>
    if t.best.length = beam ∧ worst t.best < c.1 then t
    else travLoop f x q beam code ((x.graph.adj.getD c.2 []).foldl (travNode x q beam code) { t with cand := r })

def distOf (x : Index) (code : Bytes) (n : Nat) : Nat := match x.graph.nodes[n]? with | some g => hamming code g.code | none => 0
def hitOf (x : Index) (e : Nat × Nat) : Hit := (e.1, (match x.graph.nodes[e.2]? with | some g => g.key | none => 0), 0)

/-- Every visible graph node with its distance. -/
def allNodes (x : Index) (q : Nat) (code : Bytes) : List (Nat × Nat) :=
  (x.graph.nodes.zipIdx.filter fun e => !(nodeDead x e.1.key q)).map fun e => (hamming code e.1.code, e.2)

/-- Graph part of a query, with the number of nodes whose distance was computed. A graph-mode query that finds fewer than `k` goes
on to the other visible nodes, so that it returns `k` or all of them (R373, R374; log 90). -/
def graphHits (x : Index) (q k beam : Nat) (exhaustive : Bool) (code : Bytes) : List (Nat × Nat) × Nat :=
  if exhaustive then (allNodes x q code, x.graph.nodes.length)
  else
    let es := (x.graph.entry.filter fun n => decide (n < x.graph.nodes.length)).eraseDups
    let t := travLoop (x.graph.nodes.length + 1) x q beam code ⟨es, sortBy pairLe (es.map fun n => (distOf x code n, n)), []⟩
    let rest := (allNodes x q code).filter fun e => !(t.best.contains e)
    if k ≤ t.best.length then (t.best, t.visited.length)
    else (t.best ++ (sortBy pairLe rest).take (k - t.best.length), (t.visited ++ rest.map (·.2)).eraseDups.length)

/-- Visible side-list items. -/
def sideSeen (x : Index) (q : Nat) : List SideEnt := x.side.filter (itemSeen q)

/-- The results of one query, with the number of graph nodes visited (R375). -/
def runQuery (x : Index) (k beam maxDist : Nat) (exhaustive : Bool) (code : Bytes) : List Hit × Nat :=
  let (g, v) := graphHits x x.epoch k beam exhaustive code
  let all := g.map (hitOf x) ++ (sideSeen x x.epoch).map fun e => (hamming code e.code, e.key, 1)
  let l := (sortBy hitLe all).take k
  (if maxDist = 0xFFFF then l else l.filter fun h => decide (h.1 ≤ maxDist), v)

/-- The block of one query in the result buffer: header and `k` entries (R379). -/
def queryBlock (n k : Nat) (l : List Hit) : Bytes :=
  sub (leBytes 2 n ++ leBytes 2 l.length ++ zeros 12 ++ l.flatMap fun h => leBytes 8 h.2.1 ++ leBytes 2 h.1 ++ leBytes 1 h.2.2 ++ zeros 5) 0 (16 + 16 * k)

/-- Units of the user pool that hold an array of an index. -/
def arrayUnits (h part : Nat) (s : State) : List Nat :=
  ((s.ftl.bulkExt.filter fun e => decide (e.2 = .array h part)).map (·.1)).flatMap fun x => rangeFrom (128 * x) 128

/-- Units of the user pool that hold side-list entries of an index. -/
def sideUnits (h : Nat) (s : State) : List Nat :=
  ((s.ftl.bulkExt.filter fun e => match e.2 with | .side k _ _ => decide (k = h) | _ => false).map (·.1)).flatMap fun x => rangeFrom (128 * x) 128

/-- A code, adjacency or side-list page of an index is lost (R380). -/
def arrayLost (h : Nat) (s : State) : Bool :=
  (match idxGet h s with | some x => x.gone | none => false)
    || ([0, 1].any fun k => (arrayUnits h k s).any fun u => unitLost 0 u s) || (sideUnits h s).any fun u => unitLost 0 u s

/-! ### Merges, drops and resets (R376 to R378) -/

/-- `n` numbers below `top` but one: first those given, then the lowest others. -/
def pickNodes (n top : Nat) (but : Option Nat) (l : List Nat) : List Nat :=
  (((l ++ List.range (n + 1 + l.length)).filter fun j => decide (j < top) && decide (some j ≠ but)).eraseDups).take n

/-- The graph that a merge at M builds: the surviving nodes and the side-list items that M sees, in that order, with D edges a node and
16 entry nodes, those found for it first (R376; log 91). -/
def mergedGraph (x : Index) (m : Nat) (g : NewGraph) : Graph :=
  let keep := x.graph.nodes.filter fun n => !(nodeDead x n.key m)
  let add := (sideSeen x m).map fun e => (⟨e.key, e.code⟩ : GNode)
  let nodes := keep ++ add
  ⟨nodes, (List.range nodes.length).map fun i => pickNodes x.degree nodes.length (some i) (g.adj.getD i []), pickNodes 16 nodes.length none g.entry⟩

/-- Side-list entries with an epoch above M: an item that entered the graph and was deleted since keeps its delete epoch as a
graph node's (R376, R377). -/
def keptSide (x : Index) (m : Nat) : List SideEnt :=
  x.side.filterMap fun e =>
    if m < e.ins then some e
    else match e.del with
      | some d => if !e.tomb && decide (m < d) then some ⟨e.key, [], d, none, true⟩ else none
      | none => none

/-- Writes the arrays of an index as bulk data, in place of what it had (R368). -/
def storeArrays (h : Nat) (s : State) : State :=
  match idxGet h s with
  | none => s
  | some x =>
    (arrayBytes x).zipIdx.foldl (fun t e =>
      let t := dropCopy (.array h e.2) t
      if e.1 = 0 then t else queueBulk x.ctx (.array h e.2) e.1 t) s

/-- Publishes the new graph (R376, R377, R379, R381). -/
def publish (h : Nat) (g : NewGraph) (s : State) : State :=
  match idxGet h s with
  | none => s
  | some x =>
    match x.merge with
    | none => s
    | some m =>
      let graph := mergedGraph x m.epoch g
      let added := (sideSeen x m.epoch).length
      let removed := (x.graph.nodes.filter fun n => nodeDead x n.key m.epoch).length
      let side := keptSide x m.epoch
      let t := modIdx h (fun x => { x with graph := graph, side := side, mergeEpoch := m.epoch, merge := none }) s
      let t := (sideCopies h m.epoch t).foldl (fun t i => dropCopy i t) (storeArrays h t)
      let t := searchEvent 0x0601 x (leBytes 4 h ++ zeros 4 ++ leBytes 8 m.epoch ++ leBytes 4 added ++ leBytes 4 removed) t
      checkSide h (m.waiters.foldl (fun t rid =>
        complete rid stSuccess (leBytes 8 m.epoch ++ leBytes 4 added ++ leBytes 4 removed) (commit rid 1 (some (leBytes 8 m.epoch)) t)) t)

/-- Frees an index; requests that wait on it end with `NO_INDEX` (R379; log 92). -/
def freeIndex (h : Nat) (s : State) : State :=
  match idxGet h s with
  | none => s
  | some x =>
    let t := [0, 1, 2].foldl (fun t k => dropCopy (.array h k) t) s
    let t := (sideCopies h (nextEpoch x) t).foldl (fun t i => dropCopy i t) t
    let t := modSearch (fun y => { y with idx := tdel y.idx h }) t
    let t := x.pend.foldl (fun t p => fail p.rid 0x8000 t) t
    match x.merge with
    | some m => m.waiters.foldl (fun t r => fail r 0x8000 t) t
    | none => t

/-- What an index keeps over a reset or a power loss: the published graph, the side-list entries accepted, and the epoch of the last
request whose entries all were (R376, R378). -/
def indexReset (x : Index) : Index :=
  let q := ((x.pend.takeWhile fun p => p.acc).getLast?.map fun p => p.epoch).getD x.epoch
  let side := (x.side.filter fun e => decide (e.ins ≤ q)).map fun e =>
    match e.del with
    | some d => if q < d then { e with del := none } else e
    | none => e
  { x with side := side, pend := [], merge := none, epoch := q }

/-- SCAN and SEARCH after a module reset: programs go with their contexts, indexes are kept (R378). -/
def searchReset (s : State) : State := modSearch (fun x => { x with idx := tmap x.idx (fun _ i => indexReset i), resultQ := [] }) s

end Sys2Proof.Machine
end

