-- ==== Sys2Proof/Machine/StoreCmd.lean ====
section
/-! DEFINITION. Queue pairs and I/O commands of the STORE service (11 R335 to R345, R356, R357): PRP walks, fetching, and what the
commands do. -/
namespace Sys2Proof.Machine

/-! ### Data pointers (R333, R340) -/

/-- Entries of a PRP list in context memory from an address, chained at page ends; none where the list is malformed. -/
def prpList (fuel c a n : Nat) (s : State) : Option (List Nat) :=
  match fuel with
  | 0 => none
  | f + 1 =>
    if a % 8 ≠ 0 then none
    else
      let room := (4096 - a % 4096) / 8
      let es := (List.range (min n room)).map fun i => leNat (rdBytes c (a + 8 * i) 8 s)
      if n ≤ room then some es
      else (prpList f c (es.getLast?.getD 0) (n - (room - 1)) s).map fun l => es.dropLast ++ l

/-- The parts of a PRP list in context memory, page by page, as (address, length). -/
def listParts (fuel c a n : Nat) (s : State) : List (Nat × Nat) :=
  match fuel with
  | 0 => []
  | f + 1 =>
    let room := (4096 - a % 4096) / 8
    if n ≤ room then [(a, 8 * n)]
    else (a, 8 * room) :: listParts f c (leNat (rdBytes c (a + 8 * (room - 1)) 8 s)) (n - (room - 1)) s

/-- The PRP list of a transfer of `n` bytes, where it has one in context memory. -/
def prpParts (space c p1 p2 n : Nat) (s : State) : List (Nat × Nat) :=
  let more := (4095 + (n - min n (4096 - p1 % 4096))) / 4096
  if space = 0 ∧ 1 < more then listParts 513 c p2 more s else []

/-- Pages that a transfer of `n` bytes covers, as (address, length). `given` holds the entries of a list in control-node memory (log
3). -/
def prpPages (space c p1 p2 n : Nat) (given : List Nat) (s : State) : Option (List (Nat × Nat)) :=
  let first := min n (4096 - p1 % 4096)
  let more := (4095 + (n - first)) / 4096
  let tail := if more = 0 then some [] else if more = 1 then some [p2] else if space = 0 then prpList 513 c p2 more s else some (given.take more)
  match tail with
  | none => none
  | some l =>
    if p1 % 4 ≠ 0 ∨ l.length ≠ more ∨ l.any (fun a => decide (a % 4096 ≠ 0)) = true then none
    else some ((p1, first) :: l.zipIdx.map fun e => (e.1, min 4096 (n - first - 4096 * e.2)))

/-- What a transfer meets in context memory: 0 nothing, a refused access, or a lost page. -/
def pagesErr (space c : Nat) (l : List (Nat × Nat)) (refused : Bool) (s : State) : Nat :=
  if space = 0 then
    let cs := l.map fun e => checkRead c e.1 e.2 s
    if cs.contains .xlate then nvDenied else if cs.contains .lost then nvUnrecovered else nvOk
  else if refused then nvDenied else nvOk

/-- Data that the device reads through the pages, or that the control node supplied (log 3). -/
def pagesRead (space c : Nat) (l : List (Nat × Nat)) (n : Nat) (given : Bytes) (s : State) : Bytes :=
  if space = 0 then l.flatMap fun e => rdBytes c e.1 e.2 s else sub given 0 n

/-- Writes data page by page; stops at the first refused page, what was written before it stays (R340). -/
def pagesWrite (space c : Nat) (l : List (Nat × Nat)) (data : Bytes) (s : State) : Nat × State :=
  match l with
  | [] => (nvOk, s)
  | (a, n) :: r =>
    if data.isEmpty then (nvOk, s)
    else if space = 0 then
      match ctxWrite c a (data.take n) s with
      | .ok t => pagesWrite space c r (data.drop n) t
      | .xlate => (nvDenied, s)
      | .lost => (nvUnrecovered, s)
    else pagesWrite space c r (data.drop n) (remoteWrite c none a (data.take n) s)

def sqePrp1 (e : Bytes) : Nat := fld e 24 8
def sqePrp2 (e : Bytes) : Nat := fld e 32 8
/-- Command Dword k. -/
def cdw (e : Bytes) (k : Nat) : Nat := fld e (4 * k) 4

/-- FUSE, PSDT and the reserved bits of Dword 0 are 0 (R340). -/
def sqeGood (e : Bytes) : Bool := decide (fld e 1 1 = 0)

/-! ### Queue pairs (R335 to R338) -/

def stNoQueue : Nat := 0x8000
def stQueueLimit : Nat := 0x8001

def qpKey (c qid : Nat) : Nat := 1024 * c + qid
def qpCount (c : Nat) (s : State) : Nat := (s.store.qps.filter fun e => decide (e.2.ctx = c)).length

/-- The identifier that a request asks for, or the lowest free one. -/
def qidFor (c want : Nat) (s : State) : Nat :=
  if want = 0 then (((List.range 256).map (· + 1)).find? fun q => (qpOf (qpKey c q) s).isNone).getD 0 else want

/-- A page of a context may be written at once: writable or private (08 R254). -/
def plainPage (c va : Nat) (s : State) : Bool :=
  match pageAt c va s with
  | some p => writableKind p.kind
  | none => false

def qpCreate (r : Req) (s : State) : State :=
  let want := fld r.payload 0 2
  let depth := fld r.payload 2 2
  let space := fld r.payload 4 1
  let fl := fld r.payload 5 1
  let db := fld r.payload 8 8
  let sq := refAt r.payload 16
  let cq := refAt r.payload 32
  checked r.rid [
    (hasRef r || decide (256 < want) || (decide (want ≠ 0) && (qpOf (qpKey r.mbx want) s).isSome) || decide (depth < 2) || decide (4096 < depth) || decide (1 < space)
      || decide (1 < fl) || !(refReads sq) || !(refWrites cq) || decide (sq.len < 64 * depth) || decide (cq.len < 16 * depth)
      || decide (db % 8 ≠ 0) || !(plainPage r.mbx db s) || decide (leNat (rdBytes r.mbx db 8 s) ≠ 0), stInvalidField),
    (decide (256 ≤ s.store.qps.length) || decide (64 ≤ qpCount r.mbx s), stQueueLimit)]
    (fun t =>
      let q := qidFor r.mbx want t
      let p : Qp := ⟨r.mbx, depth, space, bit fl 0, db, sq, cq, 0, 0, 0, 0, true, 0, none, [], 0, 0, 0⟩
      complete r.rid stSuccess (leBytes 2 q ++ zeros 6) (modStore (fun x => { x with qps := tset x.qps (qpKey r.mbx q) p }) t)) s

def execStoreQpCreate (rid : Nat) (s : State) : Res := .next (serve 2 2 rid qpCreate s)

/-- The queue pair that a request names, not being deleted. -/
def qpNamed (r : Req) (s : State) : Option Qp := (qpOf (qpKey r.mbx (fld r.payload 0 2)) s).filter fun p => p.deleting.isNone

/-- Fetching stops; the queue pair ends, and the request replies, after the last entry (R338). -/
def deleteQp (q : Nat) (rid : Option Nat) (s : State) : State :=
  storeSettle q (modQp q (fun p => if p.deleting.isNone then { p with deleting := some rid } else p) s)

def qpDelete (r : Req) (s : State) : State :=
  checked r.rid [(hasRef r, stInvalidField), ((qpNamed r s).isNone, stNoQueue)]
    (fun t => deleteQp (qpKey r.mbx (fld r.payload 0 2)) (some r.rid) (setRunning r.rid t)) s

def execStoreQpDelete (rid : Nat) (s : State) : Res := .next (serve 2 3 rid qpDelete s)

def qpQuery (r : Req) (s : State) : State :=
  match qpOf (qpKey r.mbx (fld r.payload 0 2)) s with
  | none => checked r.rid [(hasRef r, stInvalidField), (true, stNoQueue)] id s
  | some p =>
    checked r.rid [(hasRef r, stInvalidField)]
      (complete r.rid stSuccess (leBytes 2 p.sqHead ++ leBytes 2 p.sqTail ++ leBytes 2 p.cqHead ++ leBytes 2 p.cqTail ++ leBytes 1 (b2n p.phase) ++ zeros 7)) s

def execStoreQpQuery (rid : Nat) (s : State) : Res := .next (serve 2 4 rid qpQuery s)

/-! ### Doorbells and fetching (R336, R337) -/

def modDist (depth a b : Nat) : Nat := (a + depth - b) % depth

/-- The service runs for a queue pair: in its states, its component up, its context not `FREEING` (R331). -/
def storeRuns (c : Nat) (s : State) : Bool := servicesRun s.host.ifState && compUp (svcComponent 2) s && decide (slotState c s ≠ .freeing)

def badDb (q which v : Nat) (p : Qp) (s : State) : State :=
  raiseEvent 0x0208 1 2 p.ctx 0 (leBytes 2 (q % 1024) ++ leBytes 1 which ++ zeros 1 ++ leBytes 2 v) s

/-- Remote reads of the entries of a ring in control-node memory that lie between two tails (R331, R337). -/
def askEntries (p : Qp) (old new : Nat) (s : State) : State :=
  if p.sq.space = 0 then s
  else (List.range (modDist p.depth new old)).foldl (fun t i =>
    let a := p.sq.addr + 64 * ((old + i) % p.depth)
    remoteRead p.ctx none a 64 t) s

/-- The doorbell word of a queue pair has changed: each field is taken or refused on its own (R336). -/
def qpDoorbell (q : Nat) (s : State) : State :=
  match qpOf q s with
  | none => s
  | some p =>
    let w := leNat (rdBytes p.ctx p.dbVa 8 s)
    if storeRuns p.ctx s = false ∨ plainPage p.ctx p.dbVa s = false ∨ BitVec.ofNat 64 w = p.dbSeen then s
    else
      let tl := w % 65536
      let hd := w / 65536 % 65536
      let tOk := decide (tl < p.depth) && decide (modDist p.depth p.sqTail p.sqHead ≤ modDist p.depth tl p.sqHead)
      let hOk := decide (hd < p.depth) && decide (modDist p.depth hd p.cqHead ≤ modDist p.depth p.cqTail p.cqHead)
      let t := modQp q (fun p => { p with dbSeen := BitVec.ofNat 64 w, sqTail := if tOk then tl else p.sqTail, cqHead := if hOk then hd else p.cqHead }) s
      let t := if tOk then askEntries p p.sqTail tl t else badDb q 0 tl p t
      if hOk then t else badDb q 1 hd p t

def execQpDoorbell (q : Nat) (s : State) : Res := .next (qpDoorbell q s)

/-- Opcodes of R341. -/
def ioKnown (o : Nat) : Bool := decide (o ≤ 2 ∨ o = 5 ∨ o = 8 ∨ o = 9 ∨ o = 0x82 ∨ o = 0x86)

/-- A namespace that a context's commands see (R346 to R349). -/
def nsSeen (c n : Nat) (s : State) : Bool :=
  match tget s.store.ns n with
  | some x => x.attached.contains c && x.deleting.isNone
  | none => false

/-- Fetches the entry at the SQ head while the completion ring has room (R337); an entry of the ring in control-node memory is what
its read returned (log 3). An entry with another opcode, or one that breaks R340, completes at its turn. -/
def sqFetch (q : Nat) (given : Bytes) (s : State) : State :=
  match qpOf q s with
  | none => s
  | some p =>
    let a := p.sq.addr + 64 * p.sqHead
    let busy := p.fetched.length + modDist p.depth p.cqTail p.cqHead
    let reading := decide (p.sq.space ≠ 0) && s.ports.remote.any fun x => !x.write && decide (x.ctx = p.ctx ∧ x.addr = a)
    if storeRuns p.ctx s = false ∨ (p.ctx ≠ 0 ∧ s.sec.sec ≠ .admitted) ∨ p.deleting.isSome = true ∨ p.sqHead = p.sqTail ∨ p.depth - 1 ≤ busy ∨ reading = true then s
    else
      let e := if p.sq.space = 0 then rdBytes p.ctx a 64 s else sub given 0 64
      let hd := (p.sqHead + 1) % p.depth
      let m : Cmd := ⟨p.nextCmd, e, hd, clockNow domMgmt s, nsSeen p.ctx (sqeNs e) s, false, none⟩
      let t := modQp q (fun p => { p with sqHead := hd, nextCmd := p.nextCmd + 1, fetched := p.fetched ++ [m] }) s
      if ioKnown (sqeOp e) = false then finishCmd q p.nextCmd nvBadOpcode 0 0 t
      else if sqeGood e then t else finishCmd q p.nextCmd nvBadField 0 0 t

def execSqFetch (q : Nat) (sqe : Bytes) (s : State) : Res := .next (sqFetch q sqe s)

/-! ### Executing a command (R342) -/

/-- The command that executes next: the first without a result, every earlier one done; behind writes that only wait for the buffer
another write may follow (10 R307). -/
def nextCmdOf (p : Qp) : Option Cmd :=
  match p.fetched.filter fun m => m.result.isNone && !m.waiting with
  | m :: _ => if sqeOp m.sqe = 1 ∨ (p.fetched.any fun y => y.waiting) = false then some m else none
  | [] => none

/-- Executes the next command of a queue pair if it has the opcode that the command names. -/
def ioCmd (q op : Nat) (f : Qp → Cmd → State → State) (s : State) : State :=
  match qpOf q s with
  | none => s
  | some p =>
    match nextCmdOf p with
    | none => s
    | some m => if storeRuns p.ctx s = true ∧ sqeOp m.sqe = op then f p m s else s

/-- The first condition that holds ends a command with its status (02 R569) (log 157). -/
def ioCheck (q : Nat) (m : Cmd) (l : List (Bool × Nat)) (ok : State → State) (s : State) : State :=
  match firstErr l with
  | some st => finishCmd q m.seq st 0 0 s
  | none => ok s

/-- The namespace of a command. -/
def cmdNs (m : Cmd) (s : State) : Option Ns := if m.nsOk then tget s.store.ns (sqeNs m.sqe) else none

/-- Conditions of the namespace: attached, no sanitize, and for a write not write-protected (R346, R350). -/
def nsErrs (m : Cmd) (write : Bool) (s : State) : List (Bool × Nat) :=
  [((cmdNs m s).isNone, nvBadNs), (s.store.sanitize.isSome, nvSanitizing), (write && s.ftl.writeProt, nvWriteProt)]

/-- Blocks of a Read, Write, Compare, Write Zeroes or Scan; 0's based on the wire. -/
def cmdNlb (e : Bytes) : Nat := fld e 48 2 + 1

/-- A range passes the end of the namespace. -/
def outOfRange (m : Cmd) (s : State) : Bool :=
  match cmdNs m s with
  | some x => decide (x.nsze < sqeLba m.sqe + cmdNlb m.sqe)
  | none => false

/-- Length of a transfer; what its PRP list and its pages meet (R340). -/
def cmdLen (m : Cmd) (s : State) : Nat := cmdNlb m.sqe * blockOf (sqeNs m.sqe) s
def dataErr (p : Qp) (m : Cmd) (n : Nat) (l : List (Nat × Nat)) (refused : Bool) (s : State) : Nat :=
  pagesErr p.dataSpace p.ctx (prpParts p.dataSpace p.ctx (sqePrp1 m.sqe) (sqePrp2 m.sqe) n s ++ l) refused s

/-- A transfer's namespace, byte offset, length and pages; none where it is above 2 MiB or its PRPs are malformed. -/
def transfer (p : Qp) (m : Cmd) (prps : List Nat) (s : State) : Option (List (Nat × Nat)) :=
  let n := cmdLen m s
  if 2 ^ 21 < n then none else prpPages p.dataSpace p.ctx (sqePrp1 m.sqe) (sqePrp2 m.sqe) n prps s

/-- Runs a data command: its checks in the order of R569, then its work on the pages. -/
def dataCmd (q : Nat) (p : Qp) (m : Cmd) (write refused : Bool) (prps : List Nat) (f : Ns → List (Nat × Nat) → State → State) (s : State) : State :=
  let tr := transfer p m prps s
  let err := match tr with | some l => dataErr p m (cmdLen m s) l refused s | none => nvOk
  ioCheck q m ([(tr.isNone, nvBadField), (decide (err ≠ nvOk), err)] ++ nsErrs m write s ++ [(outOfRange m s, nvLbaRange)])
    (fun t => match cmdNs m t, tr with
      | some x, some l => f x l t
      | _, _ => t) s

def waitCmd (q seq : Nat) (s : State) : State :=
  modQp q (fun p => { p with fetched := p.fetched.map fun m => if m.seq = seq then { m with waiting := true } else m }) s

/-- Queues the data of a command for the write buffer; the command completes at its acceptance (10 R307, R323). -/
def queueData (q : Nat) (m : Cmd) (us : List BufUnit) (s : State) : State := queueWrite (srcQueue q) us (some (q, m.seq)) (waitCmd q m.seq s)

def writeCmd (q : Nat) (data : Bytes) (refused : Bool) (p : Qp) (m : Cmd) (s : State) : State :=
  dataCmd q p m true refused (List.replicate 512 0) (fun x l t =>
    let n := cmdNlb m.sqe * nsBlock x
    queueData q m (nsUnits (sqeNs m.sqe) x (sqeLba m.sqe * nsBlock x) (pagesRead p.dataSpace p.ctx l n data t)) t) s

/-- Write: `data` is what the control node holds where the data space is its memory (log 3). -/
def execWrite (q : Nat) (data : Bytes) (refused : Bool) (s : State) : Res := .next (ioCmd q 1 (writeCmd q data refused) s)

def flushCmd (q : Nat) (_p : Qp) (m : Cmd) (s : State) : State := ioCheck q m (nsErrs m false s) (finishCmd q m.seq nvOk 0 0) s

def execFlush (q : Nat) (s : State) : Res := .next (ioCmd q 0 (flushCmd q) s)

/-- Log 158. -/
def readCmd (q : Nat) (prps : List Nat) (refused : Bool) (p : Qp) (m : Cmd) (s : State) : State :=
  dataCmd q p m false refused prps (fun x l t =>
    match nsRead x (sqeLba m.sqe * nsBlock x) (cmdNlb m.sqe * nsBlock x) t with
    | none => finishCmd q m.seq nvUnrecovered 0 0 t
    | some d =>
      let (st, u) := pagesWrite p.dataSpace p.ctx l d t
      finishCmd q m.seq st 0 0 u) s

/-- Read: `prps` are the entries of a PRP list in control-node memory (log 3). -/
def execRead (q : Nat) (prps : List Nat) (refused : Bool) (s : State) : Res := .next (ioCmd q 2 (readCmd q prps refused) s)

def compareCmd (q : Nat) (data : Bytes) (refused : Bool) (p : Qp) (m : Cmd) (s : State) : State :=
  dataCmd q p m false refused (List.replicate 512 0) (fun x l t =>
    let n := cmdNlb m.sqe * nsBlock x
    match nsRead x (sqeLba m.sqe * nsBlock x) n t with
    | none => finishCmd q m.seq nvUnrecovered 0 0 t
    | some d => finishCmd q m.seq (if d = pagesRead p.dataSpace p.ctx l n data t then nvOk else nvCompare) 0 0 t) s

def execCompare (q : Nat) (data : Bytes) (refused : Bool) (s : State) : Res := .next (ioCmd q 5 (compareCmd q data refused) s)

/-- Drops what the buffer holds of a unit; the STORE writes of write-through that waited for it complete (10 R323). -/
def dropDirty (idx : Nat) (s : State) : State :=
  match dirtyAt 0 idx s with
  | none => s
  | some u =>
    let t := modFtl (fun f => { f with dirty := f.dirty.filter fun y => decide (y.id ≠ u.id) }) s
    (u.cmds.filter fun c => !(t.ftl.dirty.any fun y => y.cmds.contains c)).foldl (fun t c => finishCmd c.1 c.2 nvOk 0 0 t) t

/-- Deallocates byte ranges of a namespace: whole units are unmapped, the parts of others written with zeros (R341). The command
completes with its last zeros, or at once. -/
def deallocate (q : Nat) (m : Cmd) (x : Ns) (ranges : List (Nat × Nat)) (s : State) : State :=
  let ps := ranges.flatMap fun r => (nsPieces r.1 r.2).map fun (u, a, k, _) => (u, a, k)
  let whole := (ps.filter fun e => decide (e.2.2 = iu)).map (·.1)
  let parts := ps.filter fun e => decide (e.2.2 ≠ iu)
  let t := whole.foldl (fun t u => unmapIdx 0 (nsUnit x u) (dropDirty (nsUnit x u) t)) s
  if parts.isEmpty then finishCmd q m.seq nvOk 0 0 t
  else queueData q m (parts.map fun e => ⟨0, .ns (sqeNs m.sqe), 0, nsUnit x e.1, e.2.1, e.2.2, [], [], domNs (sqeNs m.sqe), 0, false⟩) t

def zeroesCmd (q : Nat) (_p : Qp) (m : Cmd) (s : State) : State :=
  ioCheck q m ([(decide (65536 < cmdNlb m.sqe), nvBadField)] ++ nsErrs m true s ++ [(outOfRange m s, nvLbaRange)])
    (fun t => match cmdNs m t with
      | some x => deallocate q m x [(sqeLba m.sqe * nsBlock x, cmdNlb m.sqe * nsBlock x)] t
      | none => t) s

def execWriteZeroes (q : Nat) (s : State) : Res := .next (ioCmd q 8 (zeroesCmd q) s)

def dsmCmd (q : Nat) (data : Bytes) (refused : Bool) (p : Qp) (m : Cmd) (s : State) : State :=
  let n := 16 * (cdw m.sqe 10 % 256 + 1)
  let ad := bit (cdw m.sqe 11) 2
  let pg := prpPages p.dataSpace p.ctx (sqePrp1 m.sqe) (sqePrp2 m.sqe) n [] s
  let err := match pg with | some l => dataErr p m n l refused s | none => nvOk
  let raw := match pg with | some l => pagesRead p.dataSpace p.ctx l n data s | none => []
  let rs := (List.range (n / 16)).map fun i => (fld raw (16 * i + 8) 8, fld raw (16 * i + 4) 4)
  let top := match cmdNs m s with | some x => x.nsze | none => 0
  ioCheck q m ([(ad && pg.isNone, nvBadField), (ad && decide (err ≠ nvOk), err)] ++ nsErrs m ad s ++ [(ad && rs.any fun r => decide (top < r.1 + r.2), nvLbaRange)])
    (fun t => match cmdNs m t with
      | some x => if ad then deallocate q m x (rs.map fun r => (r.1 * nsBlock x, r.2 * nsBlock x)) t else finishCmd q m.seq nvOk 0 0 t
      | none => t) s

def execDatasetManagement (q : Nat) (data : Bytes) (refused : Bool) (s : State) : Res := .next (ioCmd q 9 (dsmCmd q data refused) s)

/-! ### Vendor commands (R356) -/

/-- NVMe status of a service status. -/
def nvOfService (st : Nat) : Nat :=
  if st = stSuccess then nvOk else if st = stInvalidField then nvBadField else if st = stAccessDenied then nvDenied
  else if st = stDataLost then nvUnrecovered else nvInternal

/-- Ends a vendor command with the outcome of its service: its status in Dword 1. -/
def vendorEnd (q : Nat) (m : Cmd) (d0 st : Nat) (s : State) : State := finishCmd q m.seq (nvOfService st) d0 st s

/-- Writes the result of a vendor command, then ends it. -/
def vendorWrite (q : Nat) (p : Qp) (m : Cmd) (l : List (Nat × Nat)) (data : Bytes) (d0 st : Nat) (s : State) : State :=
  let (e, t) := pagesWrite p.dataSpace p.ctx l data s
  if e = nvOk then vendorEnd q m d0 st t else finishCmd q m.seq e 0 0 t

def vendorScan (q : Nat) (prps : List Nat) (refused : Bool) (p : Qp) (m : Cmd) (s : State) : State :=
  let cap := cdw m.sqe 14
  let pg := if 2 ^ 21 < cap then none else prpPages p.dataSpace p.ctx (sqePrp1 m.sqe) (sqePrp2 m.sqe) cap prps s
  let err := match pg with | some l => dataErr p m cap l refused s | none => nvOk
  ioCheck q m ([(pg.isNone, nvBadField), (decide (err ≠ nvOk), err)] ++ nsErrs m false s ++ [(outOfRange m s, nvLbaRange)])
    (fun t => match cmdNs m t, pg, progOf p.ctx (cdw m.sqe 13) t with
      | some x, some l, some pr =>
        let o := scanRange pr.code x (sqeLba m.sqe) (cmdNlb m.sqe) cap t
        if o.status = some stNoSpace then vendorEnd q m 0 stNoSpace t
        else vendorWrite q p m l (scanBuffer o) o.count (o.status.getD stSuccess) t
      | _, _, _ => vendorEnd q m 0 0x8000 t) s

def execVendorScan (q : Nat) (prps : List Nat) (refused : Bool) (s : State) : Res := .next (ioCmd q 0x82 (vendorScan q prps refused) s)

/-- Index of a vendor Search: of the context, and not being dropped (R379). -/
def vendorIndex (c h : Nat) (s : State) : Option Index :=
  if s.ledger.reqs.any fun r => decide (r.svc = 6 ∧ r.op = 2 ∧ r.mbx = c ∧ fld r.payload 0 4 = h) && r.done.isNone && r.settled.isNone then none
  else (idxGet h s).filter fun x => decide (x.ctx = c)

def vendorSearch (q : Nat) (code : Bytes) (prps : List Nat) (refused : Bool) (p : Qp) (m : Cmd) (s : State) : State :=
  let cap := cdw m.sqe 14
  let k := cdw m.sqe 12 % 65536
  let w := cdw m.sqe 12 / 65536
  let mptr := fld m.sqe 16 8
  let pg := if 2 ^ 21 < cap then none else prpPages p.dataSpace p.ctx (sqePrp1 m.sqe) (sqePrp2 m.sqe) cap prps s
  let err := match pg with | some l => dataErr p m cap ((mptr, w) :: l) refused s | none => nvOk
  ioCheck q m [(decide (sqeNs m.sqe ≠ 0) || decide (cdw m.sqe 13 ≠ 0) || decide (k = 0) || decide (1024 < k) || !(codeLenGood w) || pg.isNone, nvBadField),
      (decide (err ≠ nvOk), err), (s.store.sanitize.isSome, nvSanitizing)]
    (fun t => match vendorIndex p.ctx (sqeLba m.sqe) t, pg with
      | some x, some l =>
        if x.codeBits ≠ 8 * w ∨ cap < 16 + 16 * k then vendorEnd q m 0 stInvalidField t
        else if arrayLost (sqeLba m.sqe) t then vendorEnd q m 0 stDataLost t
        else
          let c := if p.dataSpace = 0 then rdBytes p.ctx mptr w t else sub code 0 w
          let hits := (runQuery x k (max 128 k) 0xFFFF false c).1
          vendorWrite q p m l (queryBlock 0 k hits) hits.length stSuccess t
      | _, _ => vendorEnd q m 0 0x8000 t) s

def execVendorSearch (q : Nat) (code : Bytes) (prps : List Nat) (refused : Bool) (s : State) : Res :=
  .next (ioCmd q 0x86 (vendorSearch q code prps refused) s)

/-- The time limit of a notification falls (R357). -/
def cqTimeLimit (q : Nat) (s : State) : State :=
  match qpOf q s with
  | none => s
  | some p => if p.ien = true ∧ 0 < p.unnotified then cqNotify q (reachMgmt (p.firstAt + (featOf p.ctx s).time * 100000) s) else s

def execStoreCqNotify (q : Nat) (s : State) : Res := .next (cqTimeLimit q s)

/-- `CTX_FREE` ends the queue pairs of a context: commands that have not begun to transfer data complete at once as aborted, the
others complete normally (R339). -/
def abortQp (q : Nat) (s : State) : State :=
  match qpOf q s with
  | none => s
  | some p =>
    let idle := fun (m : Cmd) => m.result.isNone && (!m.waiting || s.ftl.waiting.any fun w => decide (w.cmd = some (q, m.seq)))
    let ids := (p.fetched.filter idle).map (·.seq)
    let t := modFtl (fun f => { f with waiting := f.waiting.filter fun w => !(ids.any fun i => decide (w.cmd = some (q, i))) }) s
    let t := modQp q (fun p => { p with deleting := if p.deleting.isNone then some none else p.deleting }) t
    storeSettle q (ids.foldl (fun t i => finishCmd q i nvSqDeleted 0 0 t) t)

end Sys2Proof.Machine
end

