-- ==== Sys2Proof/Machine/StoreAdmin.lean ====
section
/-! DEFINITION. Admin commands of the STORE service (11 R332 to R334, R346 to R355) and the log pages of 10 (R329, R330). -/
namespace Sys2Proof.Machine

/-! ### Taking an admin command up (R332 to R334) -/

/-- Admin commands of one mailbox take effect in acceptance order; a sanitize that runs holds none up (R332, R355). -/
def adminTurn (r : Req) (s : State) : Bool :=
  !(s.ledger.reqs.any fun q => decide (q.rid < r.rid ∧ q.svc = 2 ∧ q.op = 1 ∧ q.mbx = r.mbx) && q.done.isNone && q.settled.isNone
    && !(q.running && decide (fld q.payload 0 1 = 0x84)))

def adminKnown (o : Nat) : Bool := decide (o = 2 ∨ o = 6 ∨ o = 9 ∨ o = 10 ∨ o = 0x0D ∨ o = 0x15 ∨ o = 0x18 ∨ o = 0x84)
def adminZeroOnly (o : Nat) : Bool := decide (o = 0x0D ∨ o = 0x15 ∨ o = 0x84)

/-- Ends a command with the first condition that holds, else does its work (02 R569). -/
def adminCheck (r : Req) (l : List (Bool × Nat)) (ok : State → State) (s : State) : State :=
  match firstErr l with
  | some st => adminDone r st 0 s
  | none => ok s

/-- An entry in its submission layout. -/
def adminSqe (r : Req) : Bytes := sub r.payload 0 64

/-- The condition that every admin command checks: R340's limits, then the contexts of R334. -/
def adminBase (r : Req) : List (Bool × Nat) :=
  [(!(adminKnown (sqeOp (adminSqe r))), nvBadOpcode), (!(sqeGood (adminSqe r)), nvBadField)]

def adminDenied (r : Req) : Bool := adminZeroOnly (sqeOp (adminSqe r)) && decide (r.mbx ≠ 0)

/-- Writes a page to control-node memory through the PRPs of an admin command, then ends it (R333). -/
def adminData (r : Req) (data : Bytes) (prps : List Nat) (s : State) : State :=
  let e := adminSqe r
  match prpPages 1 r.mbx (sqePrp1 e) (sqePrp2 e) data.length prps s with
  | none => adminDone r nvBadField 0 s
  | some l => adminDone r nvOk 0 (pagesWrite 1 r.mbx l data s).2

/-- The PRPs of a transfer to or from control-node memory are malformed. -/
def prpBad (r : Req) (n : Nat) (prps : List Nat) (s : State) : Bool :=
  (prpPages 1 r.mbx (sqePrp1 (adminSqe r)) (sqePrp2 (adminSqe r)) n prps s).isNone

/-! ### Identify (R351) -/

/-- Fields of a page at their offsets, over zeros. -/
def pageOf (n : Nat) (fs : List (Nat × Bytes)) : Bytes :=
  fs.foldl (fun p e => p.take e.1 ++ e.2 ++ p.drop (e.1 + e.2.length)) (zeros n)

/-- A hexadecimal digit in ASCII. -/
def hexDigit (n : Nat) : Byte := BitVec.ofNat 8 (if n < 10 then 48 + n else 55 + n)
/-- The Belay version as 8 ASCII characters: its hexadecimal digits (log 95). -/
def versionText (v : Nat) : Bytes := (List.range 8).map fun i => hexDigit (v / 16 ^ (7 - i) % 16)

def identifyController (c : Nat) (s : State) : Bytes :=
  pageOf 4096 [(0, leBytes 2 0x1A7D), (2, leBytes 2 0x1A7D), (4, padSp s.sec.serial 20), (24, padSp (ascii "Ezdun Q940 EZQ940-F") 40),
    (64, versionText s.fw.belayVer), (77, leBytes 1 9), (78, leBytes 2 c), (80, leBytes 4 0x20000), (256, leBytes 2 8),
    (280, leBytes 16 122880000000000), (296, leBytes 16 (freeExtents s * pageBytes)), (320, leBytes 2 1), (328, leBytes 4 3), (512, leBytes 1 0x66),
    (513, leBytes 1 0x44), (514, leBytes 2 4096), (516, leBytes 4 128), (520, leBytes 2 13), (525, leBytes 1 0)]

/-- Logical blocks in mapped indirection units. -/
def nsUse (x : Ns) (s : State) : Nat :=
  let n := (s.ftl.user.filter fun e => x.extents.any fun r => decide (128 * r.1 ≤ e.1) && decide (e.1 < 128 * (r.1 + r.2))).length
  min x.nsze (n * (iu / nsBlock x))

def identifyNs (x : Ns) (s : State) : Bytes :=
  pageOf 4096 [(0, leBytes 8 x.nsze), (8, leBytes 8 x.nsze), (16, leBytes 8 (nsUse x s)), (25, leBytes 1 1), (26, leBytes 1 x.lbaf),
    (30, leBytes 1 (b2n x.nmic)), (33, leBytes 1 9), (64, leBytes 2 (if x.lbaf = 0 then 3 else 0)), (66, leBytes 2 (if x.lbaf = 0 then 3 else 0)),
    (104, leBytes 16 x.nguid), (128, leBytes 4 (12 * 65536)), (132, leBytes 4 (14 * 65536))]

/-- Identifiers of namespaces above one given. -/
def nsList (sel : Ns → Bool) (above : Nat) (s : State) : Bytes :=
  sub (((s.store.ns.filter fun e => sel e.2 && decide (above < e.1)).take 1024).flatMap fun e => leBytes 4 e.1) 0 4096

/-- A controller list of the contexts from one given. -/
def ctlList (l : List Nat) (first : Nat) : Bytes :=
  let m := l.filter fun c => decide (first ≤ c)
  sub (leBytes 2 m.length ++ m.flatMap (leBytes 2)) 0 4096

def allocatedCtxs (s : State) : List Nat := (List.range 64).filter fun c => slotAllocated c s

def attachedNs (r : Req) (n : Nat) (s : State) : Option Ns := if nsSeen r.mbx n s then tget s.store.ns n else none

def identifyBody (prps : List Nat) (refused : Bool) (r : Req) (s : State) : State :=
  let e := adminSqe r
  let cns := cdw e 10 % 256
  let n := sqeNs e
  let own := attachedNs r n s
  let any_ := (tget s.store.ns n).filter fun x => x.deleting.isNone
  let needNs := (decide (cns = 0 ∨ cns = 3) && own.isNone) || (decide (cns = 0x11 ∨ cns = 0x12) && any_.isNone)
  let page : Bytes := match cns with
    | 0 => (own.map fun x => identifyNs x s).getD []
    | 1 => identifyController r.mbx s
    | 2 => nsList (fun x => x.attached.contains r.mbx && x.deleting.isNone) n s
    | 3 => (own.map fun x => sub (leBytes 1 2 ++ leBytes 1 16 ++ zeros 2 ++ leBytes 16 x.nguid) 0 4096).getD []
    | 0x10 => nsList (fun _ => true) n s
    | 0x11 => (any_.map fun x => identifyNs x s).getD []
    | 0x12 => (any_.map fun x => ctlList x.attached (cdw e 10 / 65536)).getD []
    | _ => ctlList (allocatedCtxs s) (cdw e 10 / 65536)
  adminCheck r (adminBase r ++ [(!(decide (cns ≤ 3) || decide (0x10 ≤ cns ∧ cns ≤ 0x13)) || prpBad r 4096 prps s, nvBadField),
      ((decide (0x10 ≤ cns) && decide (r.mbx ≠ 0)) || refused, nvDenied), (needNs, nvBadNs)])
    (adminData r page prps) s

/-! ### Log pages (R352; 10 R329, R330) -/

def errorLog (c : Nat) (s : State) : Bytes :=
  (featOf c s).errs.flatMap fun e => pageOf 64 [(0, leBytes 8 e.count), (8, leBytes 2 e.sqid), (10, leBytes 2 e.cid), (12, leBytes 2 (2 * e.status)), (16, leBytes 8 e.lba),
    (24, leBytes 4 e.nsid)]

/-- Units of 512,000 bytes, rounded up. -/
def dataUnits (n : Nat) : Nat := (511999 + n) / 512000

/-- Highest NAND-area sensor in 1/16 °C: monitor instance 83 (19 R551). -/
def nandTemp (s : State) : Int := tgetD s.pwr.sensors 83 0

def smartPage (s : State) : Bytes :=
  let c := s.ftl.cnt
  let warn := b2n (decide (availSpare s < 10)) + 2 * b2n (!s.pwr.throttled.isEmpty) + 4 * b2n (!s.ftl.rebuilding.isEmpty || s.ftl.lostSince)
    + 8 * b2n s.ftl.writeProt + 16 * b2n s.ftl.writeThrough
  pageOf 512 [(0, leBytes 1 warn), (1, leBytes 2 ((nandTemp s) / 16 + 273).toNat), (3, leBytes 1 (availSpare s)), (4, leBytes 1 10), (5, leBytes 1 (pctUsed s)),
    (32, leBytes 16 (dataUnits c.readBytes)), (48, leBytes 16 (dataUnits c.writtenBytes)), (64, leBytes 16 c.readCmds), (80, leBytes 16 c.writeCmds),
    (112, leBytes 16 c.powerCycles), (128, leBytes 16 (clockNow domAon s / 360000000000)), (144, leBytes 16 c.unsafeShut), (160, leBytes 16 c.mediaErrs)]

def mediaPage (s : State) : Bytes :=
  let c := s.ftl.cnt
  pageOf 512 [(0, leBytes 16 c.nandWritten), (16, leBytes 16 c.accepted), (32, leBytes 8 s.ftl.user.length), (40, leBytes 8 s.ftl.dynC), (48, leBytes 8 (dynUsed s)),
    (56, leBytes 8 (ckptUsed s)), (64, leBytes 4 (spareBlocks s)), (68, leBytes 4 s.ftl.retired.length), (72, leBytes 4 (eraseMean s)), (76, leBytes 4 (25 * eraseTop s)),
    (80, leBytes 2 (freeSbs s)), (82, leBytes 1 s.caps.nandFailed.length), (83, leBytes 1 (b2n (!s.ftl.rebuilding.isEmpty))), (84, leBytes 4 s.pwr.bankU),
    (88, leBytes 4 (s.ftl.dirtyLimit / 2 ^ 20)), (92, leBytes 4 c.abseils), (96, leBytes 4 c.abseilMs), (100, leBytes 4 c.retryReads), (104, leBytes 4 c.softReads),
    (108, leBytes 4 c.rebuilds), (112, leBytes 4 c.lostUnits)]

/-- Effects of the commands of R334 and R341: supported; blocks changed by writes; namespaces by Management and Attachment;
the inventory by Sanitize. -/
def effectsPage : Bytes :=
  pageOf 4096 ([2, 6, 9, 10, 0x18].map (fun o => (4 * o, leBytes 4 1)) ++ [(4 * 0x0D, leBytes 4 5), (4 * 0x15, leBytes 4 5), (4 * 0x84, leBytes 4 9)]
    ++ [0, 2, 5, 0x82, 0x86].map (fun o => (1024 + 4 * o, leBytes 4 1)) ++ [1, 8, 9].map fun o => (1024 + 4 * o, leBytes 4 3))

/-- Sanitize Status: progress of one that runs is a free value below 65,536 (log 2); no time is reported (log 96). -/
def sanitizePage (s : State) : Bytes :=
  let prog := if s.store.sanitize.isSome then Config.freeNat s.freeCtr % 65536 else 0xFFFF
  let st := if s.store.sanitize.isSome then 2 else if s.store.sanLast.isSome then 1 else 0
  pageOf 512 [(0, leBytes 2 prog), (2, leBytes 2 st), (4, leBytes 4 ((s.store.sanitize.orElse fun _ => s.store.sanLast).getD 0)), (8, List.replicate 24 255)]

def logKnown (l : Nat) : Bool := decide (l = 1 ∨ l = 2 ∨ l = 5 ∨ l = 0x81 ∨ l = 0xC0)

def logBody (prps : List Nat) (refused : Bool) (r : Req) (s : State) : State :=
  let e := adminSqe r
  let lid := cdw e 10 % 256
  let n := 4 * (cdw e 10 / 65536 + 65536 * (cdw e 11 % 65536) + 1)
  let off := fld e 48 8
  let page : Bytes := match lid with
    | 1 => errorLog r.mbx s
    | 2 => smartPage s
    | 5 => effectsPage
    | 0x81 => sanitizePage s
    | _ => mediaPage s
  adminCheck r (adminBase r ++ [(!(logKnown lid), nvBadLog), (decide (2 ^ 21 < n) || prpBad r n prps s, nvBadField),
      ((decide (lid = 2 ∨ lid = 0x81 ∨ lid = 0xC0) && decide (r.mbx ≠ 0)) || refused, nvDenied)])
    (fun t => adminData r (sub page off n) prps (if lid = 0x81 then bumpFree t else t)) s

/-! ### Features (R353, R354) -/

def featKnown (f : Nat) : Bool := decide (f = 7 ∨ f = 8 ∨ f = 15)

def setFeatBody (r : Req) (s : State) : State :=
  let e := adminSqe r
  let fid := cdw e 10 % 256
  let v := cdw e 11
  adminCheck r (adminBase r ++ [(!(featKnown fid), nvBadField), (bit (cdw e 10) 31, nvNotSaveable), (decide (fid = 7), nvNotChangeable)])
    (fun t =>
      adminDone r nvOk 0 (modFeat r.mbx (fun f =>
        if fid = 8 then { f with thr := v % 256, time := v / 256 % 256 } else { f with kato := (v + 99) / 100 * 100 }) t)) s

/-- Value of a feature: the current one, or for the other selections of NVMe the default and the capabilities (log 96). -/
def featValue (fid sel : Nat) (f : Feat) : Nat :=
  if sel = 3 then (if fid = 7 then 0 else 4)
  else if fid = 7 then 0x003F003F
  else if sel ≠ 0 then 0
  else if fid = 8 then f.thr + 256 * f.time else f.kato

def getFeatBody (r : Req) (s : State) : State :=
  let e := adminSqe r
  let fid := cdw e 10 % 256
  let sel := cdw e 10 / 256 % 8
  adminCheck r (adminBase r ++ [(!(featKnown fid) || decide (3 < sel), nvBadField)]) (adminDone r nvOk (featValue fid sel (featOf r.mbx s))) s

/-! ### Namespaces (R347 to R350) -/

/-- The host buffer of a creation: NSZE, NCAP, FLBAS and NMIC; every other byte 0. -/
def createBad (d : Bytes) : Bool :=
  decide (fld d 0 8 ≠ fld d 8 8) || decide (1 < fld d 26 1) || decide (1 < fld d 30 1)
    || (sub d 0 4096).zipIdx.any fun e => decide (e.1 ≠ 0) && !(decide (e.2 < 16 ∨ e.2 = 26 ∨ e.2 = 30))

def createNs (d : Bytes) (r : Req) (s : State) : State :=
  let lbaf := fld d 26 1
  let size := fld d 0 8 * (if lbaf = 0 then 4096 else iu)
  let id := ((List.range 128).map (· + 1)).find? fun n => (tget s.store.ns n).isNone
  let exts := extentsFor size s
  adminCheck r [(s.store.sanitize.isSome, nvSanitizing), (s.ftl.writeProt, nvWriteProt), (exts.isNone, nvCapacity), (id.isNone, nvNoNsid)]
    (fun t => match id, exts with
      | some n, some l =>
        let x : Ns := ⟨fld d 0 8, lbaf, bit (fld d 30 1) 0, l, t.store.nextNguid, [], none⟩
        let t := modStore (fun y => { y with ns := tset y.ns n x, nextNguid := y.nextNguid + 1 }) t
        adminDone r nvOk n (keyRecord { t with sec := { t.sec with doms := tset t.sec.doms (domNs n) KeyDom.fresh } })
      | _, _ => t) s

/-- Deletion of one namespace or of all: it ends when the commands fetched before have completed (R349). -/
def deleteNs (r : Req) (s : State) : State :=
  let n := sqeNs (adminSqe r)
  let ids := ((s.store.ns.filter fun e => e.2.deleting.isNone && (decide (n = 0xFFFFFFFF) || decide (e.1 = n))).map (·.1))
  adminCheck r [(ids.isEmpty && decide (n ≠ 0xFFFFFFFF), nvBadNs), (s.store.sanitize.isSome, nvSanitizing)]
    (fun t =>
      if ids.isEmpty then adminDone r nvOk 0 t
      else
        let t := modStore (fun y => { y with ns := tmap y.ns fun k x => if ids.contains k then { x with deleting := some r.rid } else x }) t
        endDeletes (setRunning r.rid t)) s

def mgmtBody (data : Bytes) (refused : Bool) (r : Req) (s : State) : State :=
  let sel := cdw (adminSqe r) 10 % 16
  adminCheck r (adminBase r ++ [(decide (1 < sel) || (decide (sel = 0) && (createBad data || prpBad r 4096 [] s)), nvBadField),
      (adminDenied r || (decide (sel = 0) && refused), nvDenied)])
    (if sel = 0 then createNs data r else deleteNs r) s

/-- Contexts named in a controller list. -/
def listCtxs (d : Bytes) : List Nat := (List.range (fld d 0 2)).map fun i => fld d (2 + 2 * i) 2

def attachBody (data : Bytes) (refused : Bool) (r : Req) (s : State) : State :=
  let e := adminSqe r
  let sel := cdw e 10 % 16
  let n := sqeNs e
  let x := (tget s.store.ns n).filter fun x => x.deleting.isNone
  let l := listCtxs data
  let old := (x.map (·.attached)).getD []
  let new := (old ++ l).eraseDups
  adminCheck r (adminBase r ++ [(decide (1 < sel) || prpBad r 4096 [] s, nvBadField), (adminDenied r || refused, nvDenied), (x.isNone, nvBadNs),
      (decide (sel = 0) && l.any old.contains, nvAttached), (decide (sel = 0) && decide (1 < new.length) && !((x.map (·.nmic)).getD true), nvPrivate),
      (decide (sel = 1) && l.any (fun c => !(old.contains c)), nvNotAttached),
      (decide (2047 < l.length) || l.any (fun c => decide (63 < c) || !(slotAllocated c s)), nvBadList)])
    (fun t =>
      if sel = 0 then adminDone r nvOk 0 (modStore (fun y => { y with ns := tmod y.ns n fun x => { x with attached := sortBy (fun a b => decide (a ≤ b)) new } }) t)
      else endDetaches (setRunning r.rid (modStore (fun y => { y with ns := tmod y.ns n fun x => { x with attached := x.attached.filter fun c => !(l.contains c) } }) t))) s

/-! ### Sanitize (R355) -/

def tenantAllocated (s : State) : Bool := s.ctxs.slots.any fun e => decide (e.1 ≠ 0) && decide (e.2.state ≠ .free)

def sanitizeBody (r : Req) (s : State) : State :=
  let d := cdw (adminSqe r) 10
  let act := d % 8
  adminCheck r (adminBase r ++ [(!(decide (act = 2 ∨ act = 4)) || bit d 3, nvBadField), (adminDenied r, nvDenied), (tenantAllocated s, nvSequence),
      (s.store.sanitize.isSome, nvSanitizing)])
    (fun t => setRunning r.rid (modStore (fun y => { y with sanitize := some act }) t)) s

/-- A page of an object whose flash copy is gone: it stands while a DRAM copy holds it. -/
def pageUnflash (p : Page) : Page :=
  if p.kind = .sealed ∧ p.flash ≠ 0 then (if p.t1.isNone ∧ p.t2.isNone then { p with flash := 0, flash2 := 0, kind := .lost } else { p with flash := 0, flash2 := 0, dropT1 := false, dropT2 := false }) else p

/-- Every flash data key is destroyed: every unit reads as unmapped, every bulk copy and the checkpoint store are gone; keys are fresh
(R355; 15 R453). Unprogrammed units of the write buffer go with it, and what waits for room; their commands end. -/
def wipeFlash (s : State) : State :=
  let cmds := ((s.ftl.dirty.flatMap (·.cmds)) ++ s.ftl.waiting.filterMap (·.cmd)).eraseDups
  let t := (s.ftl.user.map (·.1)).foldl (fun t i => unmapIdx 0 i t) s
  let t := (t.ftl.pinned.map (·.1)).foldl (fun t i => unmapIdx 1 i t) t
  let t := modFtl (fun f => { f with dirty := [], bulkExt := [], extWait := [], lost := [], waiting := [] }) t
  let t := { t with mem := { t.mem with pages := tmap t.mem.pages fun _ p => pageUnflash p } }
  let t := { t with agents := { t.agents with kv := tmap t.agents.kv (fun _ k => { k with flash := 0 }), mirrorStore := [], mirrorBlks := [], snapRun := [], snapWait := []
                                              sess := tmap t.agents.sess fun _ x => { x with snaps := [], inProg := none } } }
  let t := keyRecord { t with sec := { t.sec with doms := tmap t.sec.doms fun _ _ => KeyDom.fresh } }
  let t := { t with search := { t.search with idx := tmap t.search.idx fun _ x => if x.graph.nodes.isEmpty && x.side.isEmpty then x else { x with gone := true } } }
  cmds.foldl (fun t c => finishCmd c.1 c.2 nvSanitizing 0 0 t) t

/-- Every superblock that has been programmed is erased (R355). -/
def eraseAll (s : State) : State := ((s.ftl.sbs.filter fun e => decide (e.2.stripes ≠ 0)).map (·.1)).foldl (fun t sb => eraseSb sb t) s

/-- The sanitize in progress ends: its event, and the reply of its request if one still waits (R355, R357; log 97). -/
def sanitizeDone (s : State) : State :=
  match s.store.sanitize with
  | none => s
  | some act =>
    if servicesRun s.host.ifState = false then s
    else
      let t := wipeFlash s
      let t := if act = 2 then eraseAll t else t
      let t := modStore (fun y => { y with sanitize := none, sanLast := some act }) t
      let t := raiseEvent 0x020A 1 2 0 0 (leBytes 1 act) t
      match t.ledger.reqs.find? fun r => decide (r.svc = 2 ∧ r.op = 1 ∧ fld r.payload 0 1 = 0x84) && r.running && r.done.isNone with
      | some r => if r.settled.isSome then commitN r.rid 65536 65536 none t else adminDone r nvOk 0 t
      | none => t

def execStoreSanitizeDone (s : State) : Res := .next (sanitizeDone s)

/-! ### The commands -/

/-- Takes an admin request up as one of the given opcodes, at its turn. -/
def serveAdmin (rid : Nat) (sel : Bytes → Bool) (f : Req → State → State) (s : State) : State :=
  serve 2 1 rid (fun r t =>
    if sel (adminSqe r) && adminTurn r t then (if hasRef r then fail rid stInvalidField t else f r t) else t) s

/-- Any admin command by its opcode (R332, R334). -/
def adminAny (data : Bytes) (prps : List Nat) (refused : Bool) (r : Req) (s : State) : State :=
  match sqeOp (adminSqe r) with
  | 2 => logBody prps refused r s
  | 6 => identifyBody prps refused r s
  | 9 => setFeatBody r s
  | 10 => getFeatBody r s
  | 0x0D => mgmtBody data refused r s
  | 0x15 => attachBody data refused r s
  | 0x84 => sanitizeBody r s
  | _ => adminCheck r (adminBase r) (adminDone r nvOk 0) s

/-- `STORE.ADMIN`; `data` and `prps` are what control-node memory holds for it (log 3). -/
def execStoreAdmin (rid : Nat) (data : Bytes) (prps : List Nat) (refused : Bool) (s : State) : Res :=
  .next (serveAdmin rid (fun _ => true) (adminAny data prps refused) s)

def execGetLogPage (rid : Nat) (prps : List Nat) (refused : Bool) (s : State) : Res :=
  .next (serveAdmin rid (fun e => decide (sqeOp e = 2)) (logBody prps refused) s)
def execNvmeIdentify (rid : Nat) (prps : List Nat) (refused : Bool) (s : State) : Res :=
  .next (serveAdmin rid (fun e => decide (sqeOp e = 6)) (identifyBody prps refused) s)
def execSetFeatures (rid : Nat) (s : State) : Res := .next (serveAdmin rid (fun e => decide (sqeOp e = 9)) setFeatBody s)
def execGetFeatures (rid : Nat) (s : State) : Res := .next (serveAdmin rid (fun e => decide (sqeOp e = 10)) getFeatBody s)
def execNamespaceCreate (rid : Nat) (data : Bytes) (refused : Bool) (s : State) : Res :=
  .next (serveAdmin rid (fun e => decide (sqeOp e = 0x0D ∧ cdw e 10 % 16 = 0)) (mgmtBody data refused) s)
def execNamespaceDelete (rid : Nat) (s : State) : Res :=
  .next (serveAdmin rid (fun e => decide (sqeOp e = 0x0D ∧ cdw e 10 % 16 = 1)) (mgmtBody [] false) s)
def execNamespaceAttach (rid : Nat) (data : Bytes) (refused : Bool) (s : State) : Res :=
  .next (serveAdmin rid (fun e => decide (sqeOp e = 0x15 ∧ cdw e 10 % 16 = 0)) (attachBody data refused) s)
def execNamespaceDetach (rid : Nat) (data : Bytes) (refused : Bool) (s : State) : Res :=
  .next (serveAdmin rid (fun e => decide (sqeOp e = 0x15 ∧ cdw e 10 % 16 = 1)) (attachBody data refused) s)
/-- Keep Alive: its acceptance has restarted the timer (R354). -/
def execKeepAlive (rid : Nat) (s : State) : Res :=
  .next (serveAdmin rid (fun e => decide (sqeOp e = 0x18)) (fun r => adminCheck r (adminBase r) (adminDone r nvOk 0)) s)
def execCryptoErase (rid : Nat) (s : State) : Res := .next (serveAdmin rid (fun e => decide (sqeOp e = 0x84 ∧ cdw e 10 % 8 = 4)) sanitizeBody s)
def execBlockErase (rid : Nat) (s : State) : Res := .next (serveAdmin rid (fun e => decide (sqeOp e = 0x84 ∧ cdw e 10 % 8 = 2)) sanitizeBody s)

/-- Queue pairs of a context. -/
def qpsOf (c : Nat) (s : State) : List Nat := (s.store.qps.filter fun e => decide (e.2.ctx = c)).map (·.1)

/-- The keep-alive timer of a context expires (R354). -/
def keepAliveExpired (c : Nat) (s : State) : State :=
  let f := featOf c s
  if f.kato = 0 ∨ storeRuns c s = false then s
  else
    let t := reachMgmt (f.katoFrom + f.kato * 1000000) s
    let t := (qpsOf c t).foldl (fun t q => deleteQp q none t) t
    modFeat c (fun g => { g with kato := 0 }) (raiseEvent 0x0209 1 2 c 0 (leBytes 4 f.kato) t)

def execStoreKeepAliveExpired (c : Nat) (s : State) : Res := .next (keepAliveExpired c s)

end Sys2Proof.Machine
end

