-- ==== Sys2Proof/Machine/Tasklets.lean ====
section
/-! DEFINITION. Prep cores and tasklets (05): harts, spawning and placing tasklets, join records, the Ezdun
instructions, and the dispatcher. -/
namespace Sys2Proof.Machine

/-! ### Harts and registers -/

def hartOf (h : Nat) (s : State) : Hart := tgetD s.task.harts h Hart.init
def setHart (h : Nat) (v : Hart) (s : State) : State := { s with task := { s.task with harts := tset s.task.harts h v } }
def modHart (h : Nat) (f : Hart → Hart) (s : State) : State := setHart h (f (hartOf h s)) s

/-- The harts of some cores are cleared; what belongs to the thread itself stays: its PMP entries and its counters (01 R43; 05 R158). -/
def dropHarts (p : Nat → Bool) (s : State) : State :=
  { s with task := { s.task with harts := tmap s.task.harts fun h v => if p (h / 8) then { Hart.init with pmp := v.pmp, cycle := v.cycle, instret := v.instret } else v } }

/-- A saved hart record is put on a thread, which keeps its own PMP entries and counters. -/
def putHart (h : Nat) (v : Hart) (s : State) : State :=
  modHart h (fun o => { v with pmp := o.pmp, cycle := o.cycle, instret := o.instret }) s

/-- Register x<n>; x0 reads 0 and discards writes. -/
def xreg (v : Hart) (n : Nat) : U64 := if n = 0 then 0 else aget 0 v.x n
def setX (n : Nat) (w : U64) (v : Hart) : Hart := if n = 0 ∨ 32 ≤ n then v else { v with x := aset 0 v.x n w }
/-- An instruction of 4 bytes retires. -/
def nextPc (v : Hart) : Hart := { v with pc := v.pc + 4, instret := v.instret + 1 }

def coreOfHart (h : Nat) : Nat := h / 8
def dieOfHart (h : Nat) : Nat := h / 512
/-- The CORE clock domain of a die. -/
def domCore (d : Nat) : Nat := 4 + d

/-- Logical number of a hart (01 R49; R160). -/
def logicalHart (h : Nat) (s : State) : Nat := 8 * ((logicalOf s.caps.coreMap (coreOfHart h)).getD 0) + h % 8

def resident (c : Nat) (s : State) : Bool := decide (slotState c s = .resident)

/-- The tasklet that a hart executes: its context is resident on the hart's core, and the hart neither waits nor is
halted (R171, R199; 19 R568). -/
def runningOn (h : Nat) (s : State) : Option Tasklet :=
  let v := hartOf h s
  match v.task with
  | none => none
  | some p =>
    match tget s.task.pool p with
    | none => none
    | some t =>
      let home := match slotOf t.ctx s with | some k => k.homeC.contains (coreOfHart h) | none => false
      if resident t.ctx s && home && v.tjoin.isNone && v.sem.isNone && !v.halted && clockPowered (domCore (dieOfHart h)) s then some t else none

/-- Executes an instruction of a hart: nothing happens if the hart executes nothing (log 5). -/
def onHart (h : Nat) (f : Tasklet → State → State) (s : State) : State :=
  match runningOn h s with
  | some t => f t s
  | none => s

/-! ### Caches and the store buffer (R161 to R164, R173 to R175, R189, R190) -/

/-- Key of a line of a core's L1 data cache. -/
def l1Key (core c va : Nat) : Nat := (core * 64 + c) * 2 ^ 58 + va / 64
def l1Core (key : Nat) : Nat := key / 2 ^ 64

/-- Every line of the L1 data caches of some cores is invalidated (R162). -/
def l1Clear (cores : List Nat) (s : State) : State :=
  { s with task := { s.task with l1 := s.task.l1.filter fun e => !(cores.contains (l1Core e.1)) } }

/-- A byte as a core sees it: in a line of its L1 as the line was filled, else as memory holds it (R161, R164). -/
def l1Byte (core c : Nat) (s : State) (va : Nat) : Byte :=
  match tget s.task.l1 (l1Key core c va) with
  | some b => b.getD (va % 64) 0
  | none => rdByte c s va

/-- Fills a line of a core's L1: 256 sets of 4 ways, where a full set gives up one of its lines (R158; log 212). -/
def l1Fill (core c va : Nat) (s : State) : State :=
  let key := l1Key core c va
  let set := (s.task.l1.filter fun e => decide (l1Core e.1 = core ∧ e.1 % 256 = key % 256)).map (·.1)
  let l := if set.length < 4 then s.task.l1 else tdel s.task.l1 (set.getD (Config.freeNat s.freeCtr % 4) 0)
  bumpFree { s with task := { s.task with l1 := tset l key (rdBytes c (va / 64 * 64) 64 s) } }

/-- The number of the memory line that a virtual address lies in, by its page. -/
def lineOf (c va : Nat) (s : State) : Option Nat := (pidAt c va s).map fun p => 32768 * p + va % pageBytes / 64

/-- First of the 16 ways of a line's set: 8 slices of 12,288 sets a die, the slice by a hash of line address bits 29:6 (R190). -/
def dcSet (die line : Nat) : Nat := ((8 * die + Config.dcSlice (line % 2 ^ 24) % 8) * 12288 + Config.dcSet line % 12288) * 16

/-- A line comes into a die cache: a hit in any way, else an allocation in a way of the context's mask, whose line it replaces
(R190; log 213). -/
def dcFill (die c va : Nat) (s : State) : State :=
  match lineOf c va s, slotOf c s with
  | some l, some k =>
    let set := dcSet die l
    let ways := (maskBits k.wayMask.toNat 16).filter fun w => !(s.ecc.waysOut.contains (336 + die, set + w - 8 * die * 12288 * 16))
    if (List.range 16).any fun w => decide (tget s.task.dc (set + w) = some l) then s
    else if ways = [] then s
    else bumpFree { s with task := { s.task with dc := tset s.task.dc (set + ways.getD (Config.freeNat s.freeCtr % ways.length) 0) l } }
  | _, _ => s

/-- The stream prefetchers of the slices follow a demand access by up to 16 lines of a stride within its 4 KiB page, unless `DC_HWPF`
is 0 (R189; log 213). -/
def hwPrefetch (die c va : Nat) (s : State) : State :=
  let n := Config.freeNat s.freeCtr % 17
  let stride : Int := (Config.freeNat (s.freeCtr + 1) % 127 : Nat) - 63
  match slotOf c s with
  | some k =>
    if k.hwpf then
      (rangeFrom 1 n).foldl (fun t (i : Nat) =>
        let a : Int := (va / 64 : Nat) + stride * (i : Int)
        if a / 64 = (va / 4096 : Nat) then dcFill die c (64 * a.toNat) t else t) (bumpFreeBy 2 s)
    else s
  | none => s

/-- A software prefetch of a line into the L1 (target 0) or the die cache (1); it is dropped where nothing is mapped, or where no fill
buffer is free (R175). Answers whether it was dropped. -/
def prefetch (core target c va : Nat) (s : State) : Bool × State :=
  if (lineOf c va s).isNone || decide (Config.freeBits 1 s.freeCtr = 1) then (true, bumpFree s)
  else
    let t := dcFill (core / 64) c va (bumpFree s)
    (false, if target = 0 then l1Fill core c va t else t)

/-- A prefetch slot stops: its dropped lines are a sample of the die's prefetch monitor (R173, R175). -/
def stopPf (key : Nat) (s : State) : State :=
  match tget s.task.pf key with
  | none => s
  | some q => monSample (70 + key / 64 / 64) (q.dropped : Int) 0 { s with task := { s.task with pf := tdel s.task.pf key } }

/-- A slot prefetches the line that many lines ahead of its current one, where the stream still has one. -/
def pfAhead (key : Nat) (q : PfSlot) (c d : Nat) (s : State) : State :=
  if q.lines ≤ d then s
  else
    let a : Int := (q.addr.toNat : Int) + q.stride * (d : Int)
    let r := prefetch (key / 64) q.target c (a % (2 ^ 64 : Nat)).toNat s
    if r.1 then { r.2 with task := { r.2.task with pf := tmod r.2.task.pf key fun x => { x with dropped := x.dropped + 1 } } } else r.2

/-- The slots of a hart whose current line a demand access touches advance by a line, keeping their distance, and stop after the last
(R173). -/
def pfTouch (h c va : Nat) (s : State) : State :=
  (s.task.pf.filter fun e => decide (e.2.hart = h ∧ e.2.addr.toNat / 64 = va / 64)).foldl (fun t e =>
    if e.2.lines ≤ 1 then stopPf e.1 t
    else
      let q := { e.2 with addr := e.2.addr + BitVec.ofInt 64 e.2.stride, lines := e.2.lines - 1 }
      pfAhead e.1 q c q.distance { t with task := { t.task with pf := tset t.task.pf e.1 q } }) s

/-- First bytes of the lines that a range touches. -/
def linesOf (va n : Nat) : List Nat := if n = 0 then [] else (List.range ((va + n - 1) / 64 - va / 64 + 1)).map fun i => 64 * (va / 64 + i)

/-- A demand load of a line by a hart: the streams advance, and a miss fills the L1 through the die cache. -/
def touchLine (h c va : Nat) (s : State) : State :=
  let core := h / 8
  let t := pfTouch h c va s
  if (tget t.task.l1 (l1Key core c va)).isSome then t else l1Fill core c va (hwPrefetch (core / 64) c va (dcFill (core / 64) c va t))

/-- A plain load by a hart: the bytes as its core sees them (R161, R164). -/
def hartLoad (h c va n : Nat) (s : State) : Except Check (Bytes × State) :=
  match checkRead c va n s with
  | .fine =>
    let t := (linesOf va n).foldl (fun t a => touchLine h c a t) (fillRange c va n s)
    .ok ((List.range n).map fun i => l1Byte (h / 8) c t (va + i), t)
  | e => .error e

/-- A store also changes the line that the own core's L1 holds; it allocates none (R158). -/
def l1Store (core c va : Nat) (bs : Bytes) (s : State) : State :=
  match bs with
  | [] => s
  | b :: r => l1Store core c (va + 1) r { s with task := { s.task with l1 := tmod s.task.l1 (l1Key core c va) fun l => l.set (va % 64) b } }

/-- The store buffer of a hart drains to the die cache, in program order (R161, R162). No row of the table is a plain store, so the model
itself fills no buffer. -/
def drainStores (h : Nat) (s : State) : State :=
  let t := (hartOf h s).sbuf.foldl (fun t e => match ctxWrite e.1 e.2.1 e.2.2 t with
    | .ok u => l1Store (coreOfHart h) e.1 e.2.1 e.2.2 u
    | _ => t) s
  modHart h (fun v => { v with sbuf := [] }) t

/-- A `FENCE` by its predecessor set: R invalidates the L1 of the core, W drains the store buffer (R162). -/
def fencePred (h : Nat) (r w : Bool) (s : State) : State :=
  let t := if r then l1Clear [coreOfHart h] s else s
  if w then drainStores h t else t

/-! ### Faults of tasklets (R179) -/

/-- Raises a tasklet fault: the count, and the event unless it is suppressed. -/
def taskFault (c die cause mcause hart : Nat) (entry epc tval : Nat) (quiet : Bool) (s : State) : State :=
  let t := modSlot c (fun k => { k with tdFaults := if k.tdFaults = 0xFFFFFFFF then k.tdFaults else k.tdFaults + 1 }) s
  if quiet then t
  else raiseEvent 0x12 2 die c 0 (leBytes 1 cause ++ leBytes 1 mcause ++ leBytes 2 hart ++ zeros 4 ++ leBytes 8 entry ++ leBytes 8 epc ++ leBytes 8 tval) t

/-! ### Descriptors and placement (R176, R207, R208) -/

/-- A descriptor obeys R176; `place` names an active logical die. -/
def descOk (b : Bytes) (s : State) : Bool :=
  decide (fld b 0 8 % 2 = 0) && decide (fld b 48 8 % 16 = 0)
    && (decide (fld b 56 1 ≤ 1) || (decide (0x10 ≤ fld b 56 1) && decide (fld b 56 1 < 0x10 + min 4 s.caps.dieMap.length)))
    && decide (fld b 57 1 ≤ 1) && decide (fld b 58 6 = 0)

/-- Die of the memory that holds an address: the quadrant of its T1 stack, else of its T2 package (01 R22, R23). -/
def nearestDie (c va : Nat) (s : State) : Option Nat :=
  match pageAt c va s with
  | none => none
  | some p =>
    match p.t1, p.t2 with
    | some f, _ => some (f / t1PerStack / 2)
    | none, some u => some (t2Pack u / 4)
    | none, none => none

/-- Active dies in ring order from a die (01 R23). -/
def ringFrom (d : Nat) (s : State) : List Nat := ((List.range 4).map fun i => (d + i) % 4).filter s.caps.dieMap.contains

/-- Home cores of a context on a die, in physical order. -/
def homeOn (c d : Nat) (s : State) : List Nat :=
  match slotOf c s with
  | some k => k.homeC.filter fun u => decide (u / 64 = d)
  | none => []

/-- The record of a hart of a context, where it lies: in the hart, or in the save area. -/
def ctxHart (c h : Nat) (s : State) : Hart :=
  match slotOf c s with
  | some k =>
    match k.saved with
    | some v => if resident c s then hartOf h s else tgetD v.harts h Hart.init
    | none => if resident c s then hartOf h s else Hart.init
  | none => Hart.init

/-- A free hart of a context on a core. -/
def freeHartOn (c core : Nat) (s : State) : Bool :=
  (List.range 8).any fun t => (ctxHart c (8 * core + t) s).task.isNone && !(ctxHart c (8 * core + t) s).halted

/-- The die that placement chooses among candidates (R207). -/
def chooseDie (c : Nat) (cand : List Nat) (s : State) : Nat :=
  match cand.find? fun d => (homeOn c d s).any fun u => freeHartOn c u s with
  | some d => d
  | none =>
    match cand.find? fun d => !(homeOn c d s).isEmpty with
    | some d => d
    | none => cand.headD 0

/-- Die for a spawn with a `place` and an `arg0`; `die` is the spawner's, `byHart` whether a hart spawned it (R207). -/
def placeDie (c place arg0 die : Nat) (byHart : Bool) (s : State) : Nat :=
  if 0x10 ≤ place then s.caps.dieMap.getD (place - 0x10) 0
  else if place = 1 ∧ byHart = true then die
  else chooseDie c (ringFrom ((nearestDie c arg0 s).getD die) s) s

/-- Who spawns: a hart; a tasklet of a hart by its completion, whose continuation goes to the deque of that hart's core but is not spawned
by a hart (R207, R208); or a die's dispatcher or engine. -/
structure Spawner where
  hart : Option Nat
  die : Nat
  cont : Bool
  deriving DecidableEq, Repr

/-- Puts a tasklet with its pool slot on the queue that placement chooses (R181, R207, R208). -/
def enqueue (p : Nat) (t : Tasklet) (by_ : Spawner) (s : State) : State :=
  let steal := match slotOf t.ctx s with | some k => k.act.steal | none => false
  let d := placeDie t.ctx t.place (t.args.getD 0 0).toNat by_.die (by_.hart.isSome && !by_.cont) s
  if steal then
    let core :=
      if 0x10 ≤ t.place then (homeOn t.ctx d s).headD (64 * d)
      else match by_.hart with
        | some h => coreOfHart h
        | none => (homeOn t.ctx (placeDie t.ctx 0 (t.args.getD 0 0).toNat by_.die false s) s).headD (64 * d)
    let t1 := if 0x10 ≤ t.place then { t with onlyDie := some d } else t
    let key := 256 * t.ctx + core
    { s with task := { s.task with pool := tset s.task.pool p t1, deque := tset s.task.deque key (tgetD s.task.deque key [] ++ [p]) } }
  else
    let key := 4 * t.ctx + d
    { s with task := { s.task with pool := tset s.task.pool p t, ready := tset s.task.ready key (tgetD s.task.ready key [] ++ [p]) } }

/-- The tasklet of a descriptor (R176). -/
def taskOf (c : Nat) (b : Bytes) (arg4 : Option Nat) : Tasklet :=
  ⟨c, BitVec.ofNat 64 (fld b 0 8), ((List.range 4).map fun i => BitVec.ofNat 64 (fld b (8 + 8 * i) 8)) ++ [BitVec.ofNat 64 (arg4.getD (fld b 40 8))],
    fld b 48 8, fld b 56 1, bit (fld b 57 1) 0, none⟩

/-- Tasklets of a context in flight (R180). -/
def inFlight (c : Nat) (s : State) : Nat := (s.task.pool.filter fun e => decide (e.2.ctx = c)).length

/-- The pool and the quota have room (R180). -/
def spawnRoom (c : Nat) (s : State) : Bool :=
  decide (s.task.pool.length < 2 ^ 22) && (match slotOf c s with | some k => decide (inFlight c s < k.act.tdQuota) | none => false)

/-- Accepts a spawn into a new pool slot (R180, R181). -/
def spawnNew (c : Nat) (b : Bytes) (arg4 : Option Nat) (by_ : Spawner) (s : State) : State :=
  let p := s.task.nextSlot
  enqueue p (taskOf c b arg4) by_ { s with task := { s.task with nextSlot := p + 1 } }

/-! ### Join records (R177, R178) -/

def dropSlot (p : Option Nat) (s : State) : State :=
  match p with
  | some k => { s with task := { s.task with pool := tdel s.task.pool k } }
  | none => s

/-- Harts that wait in `TJOIN` on a record see its new count; at 0 they go on with 0 and the fence (R171) (log 169). -/
def wakeJoin (c addr n : Nat) (s : State) : State :=
  let f := fun (_ : Nat) (v : Hart) =>
    match v.tjoin, v.task.bind (tget s.task.pool) with
    | some (a, rd, _), some t =>
      if a = addr ∧ t.ctx = c then
        if n = 0 then nextPc (setX rd 0 { v with tjoin := none })
        else { v with tjoin := some (a, rd, n) }
      else v
    | _, _ => v
  let woken := (s.task.harts.filter fun e => decide (n = 0) && (match e.2.tjoin, e.2.task.bind (tget s.task.pool) with
    | some (a, _, _), some t => decide (a = addr ∧ t.ctx = c)
    | _, _ => false)).map (·.1)
  let t := woken.foldl (fun t h => fencePred h true true t) s
  { t with task := { t.task with harts := tmap t.task.harts f } }

/-- What completes: the pool slot of a tasklet (none for a tier command), its fault information. -/
structure Done where
  slot : Option Nat
  faulted : Bool
  entry : Nat
  hart : Nat
  quiet : Bool
  by_ : Spawner
  deriving DecidableEq, Repr

/-- The count of a join record becomes 0 with a continuation: it takes the completing tasklet's slot; that of a tier
command gets a new one (R178; logs 224, 225). -/
def spawnCont (c addr cont : Nat) (d : Done) (s : State) : State :=
  match ctxRead c cont 64 s with
  | .ok (b, t) =>
    if descOk b t then
      match d.slot with
      | some p => enqueue p (taskOf c b none) d.by_ t
      | none => spawnNew c b none d.by_ t
    else taskFault c d.by_.die 3 0 d.hart d.entry 0 addr d.quiet (dropSlot d.slot t)
  | .error _ => taskFault c d.by_.die 3 0 d.hart d.entry 0 addr d.quiet (dropSlot d.slot s)

/-- Completion on a join record, one atomic action (R178). A record that cannot be read or written is left alone (log 168). -/
def joinDone (c addr : Nat) (d : Done) (s : State) : State :=
  if addr = 0 then dropSlot d.slot s
  else
    match ctxRead c addr 16 s with
    | .error _ => dropSlot d.slot s
    | .ok (b, t) =>
      let n := fld b 0 8 % 2 ^ 63
      if n = 0 then taskFault c d.by_.die 2 0 d.hart d.entry 0 addr d.quiet (dropSlot d.slot t)
      else
        let v := (n - 1) + (if d.faulted ∨ fld b 0 8 ≥ 2 ^ 63 then 2 ^ 63 else 0)
        match ctxWrite c addr (leBytes 8 v) t with
        | .ok u =>
          let u := wakeJoin c addr (n - 1) u
          if n = 1 ∧ fld b 8 8 ≠ 0 then spawnCont c addr (fld b 8 8) d u else dropSlot d.slot u
        | _ => dropSlot d.slot s

/-! ### Ending a tasklet (R172, R179) -/

/-- Prefetch slots that a hart's tasklet started. -/
def pfOfHart (h : Nat) (s : State) : List Nat := (s.task.pf.filter fun e => decide (e.2.hart = h)).map (·.1)

/-- The hardware thread is free again. -/
def freeHart (h : Nat) (s : State) : State :=
  modHart h (fun v => { v with task := none, tjoin := none, sem := none, priv := .m }) ((pfOfHart h s).foldl (fun t k => stopPf k t) s)

/-- Ends the tasklet of a hart: its join record, then its thread (R172, R178, R179). -/
def endTask (h : Nat) (t : Tasklet) (faulted : Bool) (s : State) : State :=
  let d : Done := ⟨(hartOf h s).task, faulted, t.entry.toNat, logicalHart h s, t.noFaultEvt, ⟨some h, dieOfHart h, true⟩⟩
  joinDone t.ctx t.join d (freeHart h (drainStores h s))

/-- A trap that the core monitor does not resolve (R179). -/
def trapTask (h mcause tval : Nat) (t : Tasklet) (s : State) : State :=
  endTask h t true (taskFault t.ctx (dieOfHart h) 1 mcause (logicalHart h s) t.entry.toNat (hartOf h s).pc.toNat tval t.noFaultEvt s)

/-- A page fault that tiering resolves: a page to fill, or a copy-on-write promotion (R159; 08 R260, R266). -/
def resolveTrap (c mcause tval : Nat) (s : State) : Option State :=
  match pageAt c tval s with
  | none => none
  | some p =>
    if isLost p then none
    else if mcause = 15 then openWrite c [tval] s
    else if mcause = 13 ∨ (mcause = 12 ∧ (match objAt c tval s with | some (_, o) => aExec o.aflags | none => false) = true) then some (fillRange c tval 1 s)
    else none

/-- The code of a trap that is not resolved: a page fault on a lost page, and a store to a sealed page, end as access faults (08 R259, R278). -/
def trapCause (c mcause tval : Nat) (s : State) : Nat :=
  match pageAt c tval s with
  | some p =>
    if isLost p then (if mcause = 13 then 5 else if mcause = 15 then 7 else if mcause = 12 then 1 else mcause)
    else if mcause = 15 ∧ p.kind = .sealed then 7 else mcause
  | none => mcause

/-! ### Instructions (R168 to R174) -/

/-- `TSPAWN` (R170). -/
def tspawnBody (h rd rs1 : Nat) (k : Tasklet) (s : State) : State :=
  let a := (xreg (hartOf h s) rs1).toNat
  if a % 64 ≠ 0 then trapTask h 4 a k s
  else
    match hartLoad h k.ctx a 64 (fencePred h true true s) with
    | .error .lost => trapTask h 5 a k (fencePred h true true s)
    | .error _ => trapTask h 13 a k (fencePred h true true s)
    | .ok (b, t) =>
      let done := fun (r : Nat) (u : State) => modHart h (fun v => nextPc (setX rd (BitVec.ofNat 64 r) v)) u
      if descOk b t then
        if spawnRoom k.ctx t then done 0 (spawnNew k.ctx b none ⟨some h, dieOfHart h, false⟩ t) else done 1 t
      else done 2 t

def execTspawn (h rd rs1 : Nat) (s : State) : Res := .next (onHart h (tspawnBody h rd rs1) s)

/-- `TJOIN` reads the count at the die cache, as an atomic does (R163, R171, R178) (log 215). -/
def tjoinBody (h rd rs1 : Nat) (k : Tasklet) (s : State) : State :=
  let a := (xreg (hartOf h s) rs1).toNat
  if a % 16 ≠ 0 then trapTask h 4 a k s
  else
    match ctxRead k.ctx a 8 s with
    | .error .lost => trapTask h 5 a k s
    | .error _ => trapTask h 13 a k s
    | .ok (b, t) =>
      let n := fld b 0 8 % 2 ^ 63
      if n = 0 then modHart h (fun v => nextPc (setX rd 0 v)) (fencePred h true true t)
      else modHart h (fun v => { v with tjoin := some (a, rd, n) }) t

def execTjoin (h rd rs1 : Nat) (s : State) : Res := .next (onHart h (tjoinBody h rd rs1) s)

/-- A wait in `TJOIN` ends with the count last observed (R171). -/
def endTjoin (h : Nat) (s : State) : State :=
  modHart h (fun v => match v.tjoin with
    | some (_, rd, n) => nextPc (setX rd (BitVec.ofNat 64 n) { v with tjoin := none })
    | none => v) s

def execTjoinTimeout (h : Nat) (s : State) : Res := .next (if (hartOf h s).tjoin.isSome then endTjoin h s else s)

def execTend (h : Nat) (s : State) : Res :=
  .next (onHart h (fun k t => endTask h k false (modHart h (fun v => { v with instret := v.instret + 1 }) (fencePred h true true t))) s)

/-- A trap of a hart, which the core monitor of its die handles; while that is held stopped the hart stays at the trap (R159; 17 R524,
R525). -/
def execTaskletFault (h mcause : Nat) (tval : U64) (s : State) : Res :=
  .next (onHart h (fun k t =>
    if compUp (0x10 + dieOfHart h) t = false then t else
    match resolveTrap k.ctx mcause tval.toNat t with
    | some u => u
    | none => trapTask h (trapCause k.ctx mcause tval.toNat t) tval.toNat k t) s)

/-! ### Starting a tasklet (R181, R182, R208) -/

/-- The oldest tasklet of a victim's deque that a thief of a die may take (log 167). -/
def stealable (die : Nat) (q : List Nat) (s : State) : Option Nat :=
  q.find? fun p => match tget s.task.pool p with
    | some t => (match t.onlyDie with | some d => decide (d = die) | none => true)
    | none => false

/-- Up to four victims are tried, each chosen by a step of the core's generator (R208). -/
def trySteal (c core n : Nat) (s : State) : Option (Nat × Nat) × State :=
  match n with
  | 0 => (none, s)
  | m + 1 =>
    match slotOf c s with
    | none => (none, s)
    | some k =>
      let others := k.homeC.filter fun u => decide (u ≠ core)
      if others.isEmpty then (none, s)
      else
        let seed : U64 := 0x9E3779B97F4A7C15
        let g0 := tgetD k.gens core seed
        let g := srStep g0
        let s1 := modSlot c (fun q => { q with gens := tset q.gens core g }) s
        let v := others.getD ((g >>> 32).toNat % others.length) 0
        match stealable (core / 64) (tgetD s.task.deque (256 * c + v) []) s with
        | some p => (some (256 * c + v, p), s1)
        | none => trySteal c core m s1

/-- The tasklet that a free hart takes, and the state with it taken off its queue. -/
def takeTask (c h : Nat) (k : Slot) (s : State) : Option Nat × State :=
  let core := coreOfHart h
  let offDeque := fun (key p : Nat) (t : State) => { t with task := { t.task with deque := tset t.task.deque key ((tgetD t.task.deque key []).erase p) } }
  if k.act.steal then
    match (tgetD s.task.deque (256 * c + core) []).getLast? with
    | some p => (some p, offDeque (256 * c + core) p s)
    | none =>
      match trySteal c core 4 s with
      | (some (key, p), t) => (some p, offDeque key p t)
      | (none, t) => (none, t)
  else
    let key := 4 * c + dieOfHart h
    match tgetD s.task.ready key [] with
    | [] => (none, s)
    | p :: r => (some p, { s with task := { s.task with ready := tset s.task.ready key r } })

/-- State of a hart at the entry of a tasklet (R182); float and vector registers are kept. -/
def entryHart (p logical : Nat) (t : Tasklet) (k : Slot) (v : Hart) : Hart :=
  let sp := k.stackBase.toNat + 2 ^ k.stackLog2 * (logical + 1)
  let x : List (Nat × U64) := [(2, BitVec.ofNat 64 sp), (3, k.gp), (4, BitVec.ofNat 64 logical), (10, t.args.getD 0 0), (11, t.args.getD 1 0),
    (12, t.args.getD 2 0), (13, t.args.getD 3 0), (14, t.args.getD 4 0), (15, BitVec.ofNat 64 t.join)]
  { v with pc := t.entry, x := x.foldl (fun r e => aset 0 r e.1 e.2) [], vtype := vill, vl := 0, vstart := 0, fcsr := 0, task := some p, tjoin := none,
           sem := none, priv := .u, satp := some t.ctx }

/-- A hart that waits for a free one of its context on a die takes this one and goes on (18 R531). -/
def unpark (c h : Nat) (v : Hart) (s : State) : State :=
  let l := s.task.parked.eraseP fun e => decide (e.1 = c ∧ e.2.1 = dieOfHart h)
  putHart h v { s with task := { s.task with parked := l } }

def startTask (c h : Nat) (s : State) : State :=
  match slotOf c s with
  | none => s
  | some k =>
    if resident c s && k.homeC.contains (coreOfHart h) && (hartOf h s).task.isNone && !(hartOf h s).halted && clockPowered (domCore (dieOfHart h)) s then
      match s.task.parked.find? fun e => decide (e.1 = c ∧ e.2.1 = dieOfHart h) with
      | some e => unpark c h e.2.2 s
      | none =>
        match takeTask c h k s with
        | (none, t) => t
        | (some p, t) =>
          match tget t.task.pool p with
          | some q => modHart h (entryHart p (logicalHart h s) q k) (fencePred h true true t)
          | none => t
    else s

def execTaskletStart (c h : Nat) (s : State) : Res := .next (startTask c h s)

/-! ### Prefetch hints (R173 to R175) -/

/-- `PFSTREAM`: the slot starts and prefetches up to its distance; a reserved target or 0 lines only stops it (R173) (log 216). -/
def pfstreamBody (h rs1 rs2 c : Nat) (s : State) : State :=
  let v := hartOf h s
  let w := (xreg v rs2).toNat
  let key := 64 * coreOfHart h + bits w 48 6
  let t := modHart h nextPc (stopPf key s)
  if bits w 54 2 ≤ 1 ∧ bits w 32 16 ≠ 0 then
    let slot : PfSlot := ⟨xreg v rs1, signed 32 (bits w 0 32), bits w 32 16, bits w 54 2, if bits w 56 8 = 0 then 8 else bits w 56 8, h, 0⟩
    (List.range (slot.distance + 1)).foldl (fun t d => pfAhead key slot c d t) { t with task := { t.task with pf := tset t.task.pf key slot } }
  else t

def execPfstream (h rs1 rs2 : Nat) (s : State) : Res := .next (onHart h (fun k t => pfstreamBody h rs1 rs2 k.ctx t) s)

def execPfstop (h rs1 : Nat) (s : State) : Res :=
  .next (onHart h (fun _ t => modHart h nextPc (stopPf (64 * coreOfHart h + bits (xreg (hartOf h t) rs1).toNat 0 6) t)) s)

/-- `PFIND` reads its list as a demand access, and prefetches the lines of each address into the die cache; it never faults (R174, R175)
(log 217). -/
def pfindBody (h rs1 rs2 : Nat) (k : Tasklet) (s : State) : State :=
  let w := (xreg (hartOf h s) rs2).toNat
  let n := min (bits w 0 7) 64
  let m := if bits w 8 4 = 0 then 16 else bits w 8 4
  let t := match hartLoad h k.ctx (xreg (hartOf h s) rs1).toNat (8 * n) s with
    | .ok (l, t) => (List.range n).foldl (fun t i => (List.range m).foldl (fun t j => (prefetch (coreOfHart h) 1 k.ctx (fld l (8 * i) 8 + 64 * j) t).2) t) t
    | .error _ => s
  modHart h nextPc t

def execPfind (h rs1 rs2 : Nat) (s : State) : Res := .next (onHart h (pfindBody h rs1 rs2) s)

/-! ### Vector XOR-popcount (R168, R169) -/

/-- Elements per vector register group as a count of registers, in eighths: LMUL·8; none for a reserved `vlmul`. -/
def lmul8 (vt : Nat) : Option Nat :=
  match vt % 8 with
  | 0 => some 8 | 1 => some 16 | 2 => some 32 | 3 => some 64 | 5 => some 1 | 6 => some 2 | 7 => some 4 | _ => none

def sewOf (vt : Nat) : Nat := 2 ^ (3 + bits vt 3 3)

/-- A vector instruction is illegal: `vill`, a reserved setting, a misaligned register group, or a masked one whose
destination holds the mask. `regs` are the vector operands. -/
def vIllegal (v : Hart) (vm : Bool) (vd : Nat) (regs : List Nat) : Bool :=
  let vt := v.vtype.toNat
  match lmul8 vt with
  | none => true
  | some l => bit vt 63 || decide (64 < sewOf vt) || decide (sewOf vt * 8 > l * 64 ∧ l < 8) || regs.any (fun r => decide (r % max (l / 8) 1 ≠ 0)) || (!vm && decide (vd = 0))

def vreg (v : Hart) (n : Nat) : Nat := (aget (0 : BitVec 512) v.v n).toNat

/-- Element `i` of the group that starts at register `r`. -/
def vElem (v : Hart) (sew r i : Nat) : Nat := bits (vreg v (r + i * sew / 512)) (i * sew % 512) sew

def setElem (sew r i x : Nat) (v : Hart) : Hart :=
  let n := r + i * sew / 512
  let old := vreg v n
  let p := 2 ^ (i * sew % 512)
  { v with v := aset 0 v.v n (BitVec.ofNat 512 (old - bits old (i * sew % 512) sew * p + x % 2 ^ sew * p)) }

def popcount (n v : Nat) : Nat := (maskBits v n).length

/-- What an element that is not written becomes under an agnostic policy: kept, or all ones; nothing says which
(R169; Vector 1.0; log 49). -/
def agnostic (on : Bool) (ctr sew r i : Nat) (v : Hart) : Hart :=
  if on && decide (Config.freeBits 1 (ctr + i) = 1) then setElem sew r i (2 ^ sew - 1) v else v

/-- The body: `acc` adds to the old element; `src1` gives the second operand of an element. -/
def vxpopc (acc : Bool) (src1 : Hart → Nat → Nat → Nat) (vd vs2 : Nat) (vm : Bool) (ctr : Nat) (v : Hart) : Hart :=
  let vt := v.vtype.toNat
  let sew := sewOf vt
  let vl := v.vl.toNat
  let st := v.vstart.toNat
  let total := max (512 * (lmul8 vt).getD 8 / 8) 512 / sew
  let step := fun (u : Hart) (i : Nat) =>
    if i < st then u
    else if vl ≤ i then agnostic (bit vt 6) ctr sew vd i u
    else if vm || bit (vreg v 0) i then
      setElem sew vd i ((if acc then vElem v sew vd i else 0) + popcount sew (vElem v sew vs2 i ^^^ src1 v sew i)) u
    else agnostic (bit vt 7) ctr sew vd i u
  let u := if vl ≤ st then v else (List.range total).foldl step v
  { u with vstart := 0 }

/-- A form with a reserved setting is an illegal instruction; its trap gives tval 0 (R169; log 223). -/
def vxBody (acc : Bool) (src1 : Hart → Nat → Nat → Nat) (h vd vs2 : Nat) (regs : List Nat) (vm : Bool) (k : Tasklet) (s : State) : State :=
  if vIllegal (hartOf h s) vm vd regs then trapTask h 2 0 k s
  else bumpFreeBy 512 (modHart h (fun v => nextPc (vxpopc acc src1 vd vs2 vm s.freeCtr v)) s)

/-- The second operand: an element of a vector group, or the scalar truncated to SEW bits. -/
def srcV (r : Nat) (v : Hart) (sew i : Nat) : Nat := vElem v sew r i
def srcX (r : Nat) (v : Hart) (sew _i : Nat) : Nat := (xreg v r).toNat % 2 ^ sew

def execVxpopcVv (h vd vs2 s1 : Nat) (vm : Bool) (s : State) : Res := .next (onHart h (vxBody false (srcV s1) h vd vs2 [vd, vs2, s1] vm) s)
def execVxpopcVx (h vd vs2 s1 : Nat) (vm : Bool) (s : State) : Res := .next (onHart h (vxBody false (srcX s1) h vd vs2 [vd, vs2] vm) s)
def execVxpopcaccVv (h vd vs2 s1 : Nat) (vm : Bool) (s : State) : Res := .next (onHart h (vxBody true (srcV s1) h vd vs2 [vd, vs2, s1] vm) s)
def execVxpopcaccVx (h vd vs2 s1 : Nat) (vm : Bool) (s : State) : Res := .next (onHart h (vxBody true (srcX s1) h vd vs2 [vd, vs2] vm) s)

/-- `FENCE`: predecessor R invalidates the core's L1 data cache, predecessor W drains the store buffer (R162); `pred` as
the instruction encodes it: bit 1 R, bit 0 W. -/
def execCoreFence (h pred _succ : Nat) (s : State) : Res :=
  .next (onHart h (fun _ t => modHart h nextPc (fencePred h (bit pred 1) (bit pred 0) t)) s)

/-- `TD_FAULTS` is read and cleared (R184). -/
def execTdFaultsRead (c : Nat) (s : State) : Res :=
  .next (match slotOf c s with
    | some k => modSlot c (fun q => { q with tdFaults := 0 }) (setRead k.tdFaults.toNat s)
    | none => s)

/-! ### Engine signals (R187) -/

/-- `SIG_DESC[e]` of a context; it reads 0 for an engine that is not assigned to it (R184). -/
def sigDescOf (k : Slot) (e : Nat) (s : State) : Nat :=
  match s.caps.engMap[e]? with
  | some p => if k.homeE.contains p then (aget (0 : U64) k.sigDesc e).toNat else 0
  | none => 0

/-- Takes the record at the head of a die's completion queue: discarded, spawned, or refused for space (log 171). -/
def dispatchSignal (d : Nat) (s : State) : State :=
  match tgetD s.eng.cq d [] with
  | [] => s
  | (leng, val, c) :: r =>
    let popped := { s with eng := { s.eng with cq := tset s.eng.cq d r, retry := s.eng.retry.filter fun x => decide (x ≠ d) } }
    let desc := match slotOf c s with | some k => sigDescOf k leng s | none => 0
    if desc = 0 then popped
    else
      match ctxRead c desc 64 popped with
      | .error _ => popped
      | .ok (b, t) =>
        if !(descOk b t) then popped
        else if spawnRoom c t then spawnNew c b (some (leng * 65536 + val)) ⟨none, d, false⟩ t
        else { s with eng := { s.eng with retry := if s.eng.retry.contains d then s.eng.retry else s.eng.retry ++ [d] } }

def execSignalDispatch (d : Nat) (s : State) : Res := .next (if s.eng.retry.contains d then s else dispatchSignal d s)
/-! ### The resume handler of a Stream-mode context (06 R211) -/

/-- A resume record or descriptor that cannot be used: `BAD_RESUME` with its address, whatever `NOFAULTEVT` holds. No hart runs
the handler; the event gives 0 (log 106). -/
def badResume (c entry addr : Nat) (s : State) : State :=
  let die := match slotOf c s with | some k => k.homeC.headD 0 / 64 | none => 0
  taskFault c die 4 0 0 entry 0 addr false (modSlot c (fun k => { k with resumeWait := false }) s)

/-- Spawns the descriptor at `resume_desc` with `arg0` = `resume_rec`; refused for space, it is retried. -/
def spawnResume (c : Nat) (s : State) : State :=
  match slotOf c s with
  | none => s
  | some k =>
    match ctxRead c k.act.resumeDesc 64 s with
    | .error _ => badResume c 0 k.act.resumeDesc s
    | .ok (b, t) =>
      if descOk b t then
        if spawnRoom c t then
          spawnNew c (sub b 0 8 ++ leBytes 8 k.act.resumeRec ++ sub b 16 48) none ⟨none, k.homeC.headD 0 / 64, false⟩ (modSlot c (fun k => { k with resumeWait := false }) t)
        else modSlot c (fun k => { k with resumeWait := true }) t
      else badResume c (fld b 0 8) k.act.resumeDesc t

/-- A die's dispatcher retries what was refused for space: the signal at the head of its queue, and resume handlers of contexts
whose first home core lies on it (R187; 06 R211). -/
def retrySpawns (d : Nat) (s : State) : State :=
  let t := s.ctxs.slots.foldl (fun t e => if e.2.resumeWait && decide (e.2.state = .resident) && decide (e.2.homeC.headD 0 / 64 = d) then spawnResume e.1 t else t) s
  if t.eng.retry.contains d then dispatchSignal d t else t

def execSignalRetry (d : Nat) (s : State) : Res := .next (retrySpawns d s)

end Sys2Proof.Machine
end

