-- ==== Sys2Proof/Machine/Dma.lean ====
section
/-! DEFINITION. Engine DMA channels (05 R185, R186) and the tier queue (05 R188; 08 R272, R273). -/
namespace Sys2Proof.Machine

/-- Descriptors of a ring: 2^`LOG2N`. -/
def ringCap (r : Ring) : Nat := 2 ^ (r.cfg.toNat % 16)
def ringOn (r : Ring) : Bool := r.cfg.toNat.testBit 31

/-- The check of R122 with the ring's size. -/
def tailOk (r : Ring) (n : U16) : Bool := decide ((n - r.head).toNat ≤ ringCap r) && decide ((r.tail - r.head).toNat ≤ (n - r.head).toNat)

/-- Address of the descriptor at the head, 32 B each. -/
def ringAt (r : Ring) : Nat := r.base.toNat + 32 * (r.head.toNat % ringCap r)

/-! ### DMA -/

def modDma (e : Nat) (f : Ring → Ring) (s : State) : State := modEng e (fun g => { g with dma := f g.dma }) s

/-- A fault of the channel: it stops with its head kept, `EN` cleared, and `DMA_FAULT` raised (R186). -/
def dmaFault (e b : Nat) (s : State) : State :=
  let t := modDma e (fun r => { r with fault := r.fault ||| BitVec.ofNat 32 (2 ^ b), cfg := r.cfg &&& 0x7FFFFFFF }) s
  let g := engOf e t
  raiseEvent 0x13 2 (engDie e) (g.owner.getD 0xFF) 0 (leBytes 1 (e % 20) ++ leBytes 1 g.dma.fault.toNat ++ leBytes 2 g.dma.head.toNat) t

def execDmaTailWrite (e : Nat) (v : U32) (s : State) : Res :=
  .next (if engOn e s then
      let n : U16 := BitVec.ofNat 16 v.toNat
      if tailOk (engOf e s).dma n then modDma e (fun r => { r with tail := n }) s else dmaFault e 2 s
    else s)

/-- Fields of a descriptor are in range (R185); reserved fields are ignored (00 R17). -/
def dmaDescOk (b : Bytes) : Bool :=
  decide (1 ≤ fld b 12 4) && decide (fld b 12 4 ≤ 2 ^ 21) && decide (fld b 12 4 % 4 = 0) && decide (1 ≤ fld b 16 4) && decide (fld b 16 4 ≤ 65536)
    && decide (fld b 24 1 ≤ 1)

/-- Reads the rows of a transfer from context memory, contiguous. -/
def dmaGather (c mem len pitch n : Nat) (s : State) : Option (Bytes × State) :=
  match n with
  | 0 => some ([], s)
  | k + 1 =>
    match ctxRead c mem len s with
    | .error _ => none
    | .ok (b, t) => (dmaGather c (mem + pitch) len pitch k t).map fun r => (b ++ r.1, r.2)

/-- Writes contiguous bytes as rows to context memory. -/
def dmaScatter (c mem len pitch n : Nat) (bs : Bytes) (s : State) : Option State :=
  match n with
  | 0 => some s
  | k + 1 =>
    match ctxWrite c mem (bs.take len) s with
    | .ok t => dmaScatter c (mem + pitch) len pitch k (bs.drop len) t
    | _ => none

/-- The end of a descriptor: the head advances, then the counter (R123, R186). -/
def dmaDone (e sync : Nat) (s : State) : State :=
  let t := modDma e (fun r => { r with head := r.head + 1 }) s
  if bit sync 7 then modSav e (fun v => setSync (bits sync 0 3) (syncCnt v (bits sync 0 3) + 1) v) t else t

/-- One descriptor: all of it, or a fault with nothing moved (R186; log 32). -/
def dmaRun (e c : Nat) (s : State) : State :=
  match ctxRead c (ringAt (engOf e s).dma) 32 s with
  | .error _ => dmaFault e 0 s
  | .ok (b, t) =>
    let mem := fld b 0 8
    let loc := fld b 8 4
    let len := fld b 12 4
    let rows := fld b 16 4
    if !(dmaDescOk b) then dmaFault e 2 t
    else if 0x200000 < loc + len * rows then dmaFault e 1 t
    else if fld b 24 1 = 0 then
      match dmaGather c mem len (fld b 20 4) rows t with
      | some (bs, u) => dmaDone e (fld b 25 1) (modSav e (fun v => { v with mem := Memory.writeN 0 v.mem loc bs }) u)
      | none => dmaFault e 0 t
    else
      match dmaScatter c mem len (fld b 20 4) rows (Memory.readN 0 (engOf e t).sav.mem loc (len * rows)) t with
      | some u => dmaDone e (fld b 25 1) u
      | none => dmaFault e 0 t

def execDmaDescriptor (e : Nat) (s : State) : Res :=
  .next (let g := engOf e s
    match g.owner with
    | some c => if engOn e s && ringOn g.dma && decide (g.dma.head ≠ g.dma.tail) then dmaRun e c s else s
    | none => s)

/-! ### The tier queue -/

def modTq (c : Nat) (f : Ring → Ring) (s : State) : State := modSlot c (fun k => { k with tq := f k.tq }) s

/-- `TQ_TAIL`: checked as `DMA_TAIL`; the page has no fault register, a refused update changes nothing (R188). -/
def execTqTailWrite (c : Nat) (v : U32) (s : State) : Res :=
  .next (match slotOf c s with
    | some k => if tailOk k.tq (BitVec.ofNat 16 v.toNat) then modTq c (fun r => { r with tail := BitVec.ofNat 16 v.toNat }) s else s
    | none => s)

/-- Die that stands for the tier engine where a die must be named: the first in logical order (log 52). -/
def tierDie (s : State) : Nat := s.caps.dieMap.headD 0

/-- A command completes: the head has moved on, and its join record is decremented (R178, R188) (log 170). -/
def tierDone (c : Nat) (b : Bytes) (ok : Bool) (s : State) : State :=
  joinDone c (16 * fld b 28 4) ⟨none, !ok, 0, 0, false, ⟨none, tierDie s, false⟩⟩ s

/-- The outcome of a command's work. -/
abbrev TierWork := Bytes → State → Bool × State

/-- Runs the command at the head of a context's ring if it has this opcode; a reserved opcode fails (R188) (log 172). -/
def tierRun (op c : Nat) (work : TierWork) (s : State) : State :=
  match slotOf c s with
  | none => s
  | some k =>
    if ringOn k.tq && decide (k.tq.head ≠ k.tq.tail) && !(k.hold || k.secHold) then
      match ctxRead c (ringAt k.tq) 32 s with
      | .error _ => s
      | .ok (b, t) =>
        let t := modTq c (fun r => { r with head := r.head + 1 }) t
        if fld b 0 1 = 0 ∨ 4 < fld b 0 1 ∨ fld b 24 4 = 0 then tierDone c b false t
        else if fld b 0 1 = op then
          let (ok, u) := work b t
          tierDone c b ok u
        else s
    else s

/-- Writes the outcome of an access. -/
def tierWrite (c va : Nat) (bs : Bytes) (s : State) : Bool × State :=
  match ctxWrite c va bs s with
  | .ok t => (true, t)
  | _ => (false, s)

def copyWork (c : Nat) : TierWork := fun b s =>
  match ctxRead c (fld b 8 8) (fld b 24 4) s with
  | .ok (bs, t) => tierWrite c (fld b 16 8) bs t
  | .error _ => (false, s)

def zeroWork (c : Nat) : TierWork := fun b s => tierWrite c (fld b 16 8) (zeros (fld b 24 4)) s

/-- Chunk after chunk of 64 KiB, the last one as long as it is; the chunks before a failing one have been written (R273). -/
def compressFrom (fuel c src dst len : Nat) (s : State) : Bool × State :=
  match fuel with
  | 0 => (true, s)
  | n + 1 =>
    if len = 0 then (true, s)
    else
      let k := min len 65536
      match ctxRead c src k s with
      | .error _ => (false, s)
      | .ok (raw, t) =>
        let out := if len ≤ 65536 then compressChunk raw else padTo8 (compressChunk raw)
        match ctxWrite c dst out t with
        | .ok u => compressFrom n c (src + k) (dst + out.length) (len - k) u
        | _ => (false, t)

def compressWork (c : Nat) : TierWork := fun b s => compressFrom (fld b 24 4 / 65536 + 1) c (fld b 8 8) (fld b 16 8) (fld b 24 4) s

/-- Chunk after chunk from the source, `off` of its `len` bytes done; the chunks before a failing one have been written (R273). -/
def decompressFrom (fuel c src dst len off : Nat) (s : State) : Bool × State :=
  match fuel with
  | 0 => (true, s)
  | n + 1 =>
    if len ≤ off then (true, s)
    else if len < off + 24 then (false, s)
    else
      match ctxRead c (src + off) 24 s with
      | .error _ => (false, s)
      | .ok (h, t) =>
        if len < off + 24 + fld h 12 4 then (false, t)
        else
          match ctxRead c (src + off) (24 + fld h 12 4) t with
          | .error _ => (false, t)
          | .ok (chunk, t) =>
            match decompressChunk chunk with
            | none => (false, t)
            | some (raw, used) =>
              match ctxWrite c dst raw t with
              | .ok u => decompressFrom n c src (dst + raw.length) len ((off + used + 7) / 8 * 8) u
              | _ => (false, t)

def decompressWork (c : Nat) : TierWork := fun b s => decompressFrom (fld b 24 4 / 24 + 1) c (fld b 8 8) (fld b 16 8) (fld b 24 4) 0 s

def execTierCopy (c : Nat) (s : State) : Res := .next (tierRun 1 c (copyWork c) s)
def execTierDecompress (c : Nat) (s : State) : Res := .next (tierRun 2 c (decompressWork c) s)
def execTierCompress (c : Nat) (s : State) : Res := .next (tierRun 3 c (compressWork c) s)
def execTierZero (c : Nat) (s : State) : Res := .next (tierRun 4 c (zeroWork c) s)

end Sys2Proof.Machine
end

