-- ==== Sys2Proof/Machine/AgentOps.lean ====
section
/-! DEFINITION. Operations of models and sessions (07): layouts, tokens and blocks, snapshots and mirrors, generations, the decode batch. -/
namespace Sys2Proof.Machine

def stModelBusy : Nat := 0x8000
def stBadImage : Nat := 0x8001
def stNoModel : Nat := 0x8002
def stSessionFull : Nat := 0x8000
def stBadState : Nat := 0x8001
def stNoSession : Nat := 0x8002
def stMirrorUnavailable : Nat := 0x8003
def stClosed : Nat := 0x8004
def stPendingFull : Nat := 0x8005

def modelOf (m : Nat) (s : State) : Option Model := tget s.agents.models m
def modModel (m : Nat) (f : Model → Model) (s : State) : State := modAgents (fun a => { a with models := tmod a.models m f }) s
def sessOf (id : Nat) (s : State) : Option Sess := tget s.agents.sess id
def modSess (id : Nat) (f : Sess → Sess) (s : State) : State := modAgents (fun a => { a with sess := tmod a.sess id f }) s

/-- A session, a model that a context may name (R225, R233): a model that is being loaded has no handle yet. -/
def sessFor (c id : Nat) (s : State) : Option Sess :=
  match sessOf id s with
  | some x => if x.ctx = c then some x else none
  | none => none
def modelFor (c m : Nat) (s : State) : Option Model :=
  match modelOf m s with
  | some x => if x.ctx = c ∧ (s.agents.loads.any fun l => decide (l.model = m)) = false then some x else none
  | none => none

def modBody (id : Nat) (f : SessBody → SessBody) (s : State) : State := modSess id (fun x => { x with body := f x.body }) s

/-- Tokens with pending input (R234); tokens of the open block. -/
def totalTok (b : SessBody) : Nat := b.tokens + b.pending.length
def SessBody.openTok (b : SessBody) : Nat := b.openToks.length

/-! ### Layouts across the dies (R226, R228) -/

/-- Home engines of a context on a die. -/
def homeEngOn (c d : Nat) (s : State) : List Nat := match slotOf c s with | some k => k.homeE.filter fun e => decide (e / 20 = d) | none => []

/-- Dies that hold home engines of a context, in ring order (01 R23). -/
def engDies (c : Nat) (s : State) : List Nat := [0, 1, 2, 3].filter fun d => !(homeEngOn c d s).isEmpty
def homeDies (c : Nat) (s : State) : Nat := (engDies c s).length

/-- `n` split in order into parts proportional to weights: where each part begins and how much it has (log 232). -/
def splitBy (n tot acc : Nat) (ws : List Nat) : List (Nat × Nat) :=
  match ws with
  | [] => []
  | w :: r => (n * acc / tot, n * (acc + w) / tot - n * acc / tot) :: splitBy n tot (acc + w) r

/-- The weights of the dies: their home engines. -/
def dieWeights (c : Nat) (s : State) : List Nat := (engDies c s).map fun d => (homeEngOn c d s).length

/-- `n` items split across the dies in contiguous ranges proportional to their home engines: die, first item, items (R226, R228). -/
def splitDies (c n : Nat) (s : State) : List (Nat × Nat × Nat) := (engDies c s).zip (splitBy n (sumN (dieWeights c s)) 0 (dieWeights c s))

/-- The columns of a layer's matrix that each home engine computes in prefill: engine, first column, columns (R226). -/
def columnSplit (c n : Nat) (s : State) : List (Nat × Nat × Nat) :=
  let es := (engDies c s).flatMap fun d => homeEngOn c d s
  es.zip (splitBy n es.length 0 (es.map fun _ => 1))

/-- The decode stages of a model: one per die, its layers, and per KV head the home engine of the die that holds it (R228; log 232). -/
def stagesOf (x : Model) (s : State) : List Stage :=
  (splitDies x.ctx x.layers s).map fun (d, first, n) =>
    let es := homeEngOn x.ctx d s
    ⟨d, first, n, (List.range x.kvHeads).map fun h => es.getD (h % es.length) 0⟩

/-- The batch in micro-batches of at most 256 sequences (R228). -/
def microBatches (fuel : Nat) (l : List Nat) : List (List Nat) :=
  match fuel with
  | 0 => []
  | n + 1 => if l.isEmpty then [] else l.take 256 :: microBatches n (l.drop 256)

/-! ### Blocks of the pool (R229, R231, R239) -/

/-- Sealed blocks of the window: the latest ⌊window/256⌋ − 1. -/
def winLen (x : Sess) : Nat := x.window / 256 - 1
def winSealed (x : Sess) (n : Nat) : Nat := min n (winLen x)

/-- Sealed blocks outside the window, oldest first. -/
def outside (x : Sess) : List Nat := x.body.sealed.take (x.body.sealed.length - winLen x)

def kvAccepted (b : Nat) (s : State) : Bool := match tget s.agents.kv b with | some k => decide (k.flash ≠ 1) | none => true

/-- Sealed blocks outside the window that the write buffer has not accepted: they stay in the pool. -/
def stuckOut (x : Sess) (s : State) : Nat := ((outside x).filter fun b => !(kvAccepted b s)).length

/-- Sealed blocks not yet accepted (R239). -/
def unaccepted (x : Sess) (s : State) : Nat := (x.body.sealed.filter fun b => !(kvAccepted b s)).length

/-- Blocks that a resident session holds: its open block, its window, what is not released yet. -/
def blockNeed (x : Sess) (s : State) : Nat := 1 + winSealed x x.body.sealed.length + stuckOut x s

/-- A joiner's need: its window after prefill, its open block, a staging block for each die (R231). -/
def joinNeed (x : Sess) (s : State) : Nat :=
  1 + winSealed x (x.body.sealed.length + (x.body.openTok + x.body.pending.length) / 256) + stuckOut x s + homeDies x.ctx s

/-- Free blocks of a model's pool (R229). -/
def poolFree (m : Nat) (s : State) : Nat :=
  match modelOf m s with
  | none => 0
  | some x => x.poolBlocks - x.cache.length - sumN (s.agents.sess.map fun e => if e.2.model = m then e.2.blocks else 0)

/-! ### Sealed KV blocks (R236, R239) -/

/-- Bytes of one position's KV. -/
def kvBytes (m : Nat) (s : State) : Nat := match modelOf m s with | some x => x.kvBlockBytes / 256 | none => 0

/-- Appends tokens to the open block with the KV of their positions, which the model computes (04 R156; log 3). -/
def addOpen (m : Nat) (toks : List U32) (b : SessBody) (s : State) : SessBody :=
  { b with tokens := b.tokens + toks.length, openToks := b.openToks ++ toks
           openKv := b.openKv ++ (List.range toks.length).map fun i => (Config.freeBits (8 * kvBytes m s) (s.freeCtr + i)).toNat }

/-- Seals the full open block: a new KV block with its summary code, queued for flash as bulk data (R239, R240). -/
def sealOpen (id : Nat) (s : State) : State :=
  match sessOf id s with
  | none => s
  | some x =>
    let n := match modelOf x.model s with | some m => m.kvBlockBytes | none => 0
    let (b, t) := newKv x.ctx x.model n (x.body.openKv.take 256) (Config.freeBits 1024 s.freeCtr).toNat s
    modBody id (fun y => { y with sealed := y.sealed ++ [b], openToks := y.openToks.drop 256, openKv := y.openKv.drop 256 }) (bumpFree t)

/-- Seals the open block when it is full; in the write-protected state it is not sealed (10 R327). -/
def sealFull (id : Nat) (s : State) : State :=
  match sessOf id s with
  | some x => if 256 ≤ x.body.openTok ∧ s.ftl.writeProt = false then sealOpen id s else s
  | none => s

/-! ### Snapshots (R242 to R245, R249) -/

/-- Bytes of a snapshot: the filled positions of the open block and 4,096 bytes of metadata (R243 and its example). -/
def snapBytes (x : Sess) (b : SessBody) (s : State) : Nat := b.openTok * kvBytes x.model s + 4096

/-- What a snapshot's digest covers, in the table's order (R243; log 233). -/
def snapSerial (id seq : Nat) (x : Sess) (b : SessBody) (s : State) : Bytes :=
  leBytes 8 id ++ leBytes 4 x.model ++ leBytes 1 (b2n x.lc) ++ leBytes 4 x.window ++ leBytes 2 x.retrBlocks ++ leBytes 1 x.mirror ++ leBytes 1 x.mirrorPos ++ leBytes 2 x.snapPeriod
    ++ leBytes 8 b.tokens ++ b.openToks.flatMap (fun t => leBytes 4 t.toNat) ++ b.openKv.flatMap (fun v => leBytes (kvBytes x.model s) v)
    ++ b.pending.flatMap (fun t => leBytes 4 t.toNat) ++ leBytes 2 b.sampler ++ b.sparams ++ leBytes 8 b.prog ++ leBytes 8 b.rng.toNat
    ++ leBytes 8 b.steps ++ leBytes 4 b.chunks ++ leBytes 4 b.chunksTotal ++ leBytes 4 b.generated ++ leBytes 4 b.gens
    ++ b.sealed.flatMap (fun k => match tget s.agents.kv k with | some v => leBytes 8 k ++ v.digest ++ leBytes 128 v.code | none => leBytes 8 k) ++ leBytes 4 seq

/-- Reply of PAUSE, SNAPSHOT and RESUME (R235). -/
def snapReply (seq bytes tot : Nat) : Bytes := leBytes 4 seq ++ zeros 4 ++ leBytes 8 bytes ++ leBytes 8 tot

/-- Cairn body of PAUSE, SNAPSHOT and RESUME (18 R548). -/
def snapCairn (id seq tot : Nat) : Bytes := leBytes 8 id ++ leBytes 4 seq ++ zeros 4 ++ leBytes 8 tot

/-- The commit point of a request that waited for a snapshot's commit, or for the creation of an `EPHEMERAL` session (R251). -/
def snapPoint (id seq tot rid : Nat) (s : State) : State :=
  match findReq rid s with
  | some r =>
    match r.op with
    | 1 | 7 => commit rid 1 (some (leBytes 8 id)) s
    | 2 => commit rid (fld r.payload 8 4) (some (leBytes 8 id ++ leBytes 8 tot)) s
    | _ => commit rid 1 (some (snapCairn id seq tot)) s
  | none => s

/-- Replies to a request that waited for a snapshot's commit (R234 to R236, R248): `pend` are the pending tokens. -/
def snapAnswer (id seq bytes tot pend st rid : Nat) (s : State) : State :=
  match findReq rid s with
  | some r =>
    match r.op with
    | 1 => complete rid st (leBytes 8 id ++ zeros 8) s
    | 7 => complete rid st (leBytes 8 id) s
    | 2 => complete rid st (leBytes 8 tot ++ leBytes 4 pend ++ zeros 4) s
    | _ => complete rid st (snapReply seq bytes tot) s
  | none => s

/-- Both at once. -/
def replySnap (id seq bytes : Nat) (b : SessBody) (rid : Nat) (s : State) : State :=
  snapAnswer id seq bytes (totalTok b) b.pending.length stSuccess rid (snapPoint id seq (totalTok b) rid s)

/-- The mirror peer is reachable: a position of the ring that is not lost (R249; 13 R403). -/
def peerReach (pos : Nat) (s : State) : Bool := decide (pos < s.ports.serials.length) && !(s.ports.lostPeers.contains pos)

/-- The peer is unreachable: `MIRROR_LOST` with the last snapshot mirrored (R249) (log 180). -/
def mirrorLost (id : Nat) (s : State) : State :=
  match sessOf id s with
  | none => s
  | some x =>
    if x.mirrorState = 3 then s
    else raiseEvent 0x402 1 4 x.ctx 0 (leBytes 8 id ++ leBytes 4 x.mirrored) (modSess id (fun y => { y with mirrorState := 3 }) s)

/-- The snapshot goes to the peer, after the durable blocks not yet sent; in synchronous mode the replies wait for it, their commit
points do not (R249, R251). -/
def mirrorSnap (id : Nat) (x : Sess) (n : Snap) (s : State) : State :=
  if x.mirror = 0 then n.waiters.foldl (fun t r => replySnap id n.seq n.bytes n.body r t) s
  else
    let t := emit (.mirror x.mirrorPos id n.seq) (modSess id (fun y => { y with mirrorState := if y.mirrorState = 3 then 3 else 2 }) (sendKv id s))
    let t := if peerReach x.mirrorPos s then t else mirrorLost id t
    if x.mirror = 2 then
      let t := n.waiters.foldl (fun t r => snapPoint id n.seq (totalTok n.body) r t) t
      modSess id (fun y => { y with mirrorWait := some (n.seq, (match y.mirrorWait with | some w => w.2 | none => []) ++ n.waiters) }) t
    else n.waiters.foldl (fun t r => replySnap id n.seq n.bytes n.body r t) t

/-- Takes a session out of its model's batch and of the joiners. -/
def leaveBatch (id : Nat) (s : State) : State :=
  match sessOf id s with
  | some x => modModel x.model (fun m => { m with members := m.members.filter (fun i => decide (i ≠ id)), joiners := m.joiners.filter fun i => decide (i ≠ id) }) s
  | none => s

/-- A session's snapshot and its restore are in progress no more. -/
def leaveRuns (id : Nat) (s : State) : State :=
  let out := fun (l : List Nat) => l.filter fun i => decide (i ≠ id)
  modAgents (fun a => { a with snapRun := out a.snapRun, snapWait := out a.snapWait, resRun := out a.resRun, resWait := out a.resWait }) s

/-- Frees a session with its snapshots and blocks (R237). -/
def dropSess (id : Nat) (s : State) : State :=
  match sessOf id s with
  | none => s
  | some x =>
    let t := leaveRuns id (leaveBatch id s)
    let t := x.snaps.foldl (fun t n => dropCopy (.snap id n.seq) t) t
    let t := match x.inProg with | some n => dropCopy (.snap id n.seq) t | none => t
    sweepKv (modAgents (fun a => { a with sess := tdel a.sess id }) t)

/-- An `APPEND` whose snapshot does not commit is not applied: its tokens, the last ones pending, go (R248). -/
def undoAppend (id n : Nat) (s : State) : State :=
  let cut := fun (l : List U32) => l.take (l.length - n)
  modSess id (fun y => { y with body := { y.body with pending := cut y.body.pending }, logged := cut y.logged }) s

/-- A snapshot that finds no room ends its requests with `NO_SPACE` (10 R306): a new session goes, an append is not applied. -/
def failSnap (id : Nat) (s : State) : State :=
  match sessOf id s with
  | none => s
  | some x =>
    match x.inProg with
    | none => s
    | some n =>
      let t := leaveRuns id (modSess id (fun y => { y with inProg := none }) s)
      n.waiters.foldl (fun t r => match findReq r t with
        | some q => fail r stNoSpace (if q.op = 1 ∨ q.op = 7 then dropSess id t else if q.op = 2 then undoAppend id (fld q.payload 8 4) t else t)
        | none => t) t

/-- The writing of a snapshot starts, if the checkpoint store has room for it. -/
def startSnap (id : Nat) (s : State) : State :=
  match sessOf id s with
  | none => s
  | some x =>
    match x.inProg with
    | none => s
    | some n =>
      if ckptCap < ckptUsed s + n.bytes then failSnap id s
      else queuePinned x.ctx (.snap id n.seq) n.bytes (modAgents (fun a => { a with snapRun := a.snapRun ++ [id] }) s)

/-- Snapshots start while fewer than 16 are in progress, oldest first (R245). -/
def pumpSnaps (fuel : Nat) (s : State) : State :=
  match fuel with
  | 0 => s
  | n + 1 =>
    match s.agents.snapWait with
    | id :: r =>
      if s.agents.snapRun.length < 16 then pumpSnaps n (startSnap id (modAgents (fun a => { a with snapWait := r }) s)) else s
    | [] => s

/-- Takes a snapshot of a body at a boundary: written to the pinned region when its turn comes; requests wait for its commit. One not yet
committed is replaced, and its waiters wait for the new one (log 84). -/
def takeSnap (id : Nat) (b : SessBody) (mark : Nat) (waiters : List Nat) (pause : Bool) (s : State) : State :=
  match sessOf id s with
  | none => s
  | some x =>
    let (old, oldPause) := match x.inProg with | some o => (o.waiters, o.pause) | none => ([], false)
    let s := match x.inProg with | some o => leaveRuns id (dropCopy (.snap id o.seq) s) | none => s
    let sn : Snap := ⟨x.nextSnap, snapBytes x b s, b, shake256 (snapSerial id x.nextSnap x b s) 32, old ++ waiters, pause || oldPause, mark⟩
    let t := modSess id (fun y => { y with inProg := some sn, nextSnap := y.nextSnap + 1, snapAt := clockNow domMgmt s }) s
    let t := modAgents (fun a => { a with snapWait := a.snapWait ++ [id] }) t
    pumpSnaps t.agents.snapWait.length t

def beginSnap (id : Nat) (waiters : List Nat) (pause : Bool) (s : State) : State :=
  match sessOf id s with
  | some x => takeSnap id x.body x.logged.length waiters pause s
  | none => s

/-- The commit record of the snapshot in progress is durable: its writing has started, and it is accepted into the buffer, in write-through
committed (R244; 10 R323). -/
def snapDurable (id : Nat) (n : Snap) (s : State) : Bool := s.agents.snapRun.contains id && itemDone (.snap id n.seq) s

/-- The sealed blocks of a session get T2 copies where the quota and T2 have room; others stay in flash (R239; log 231). -/
def kvToT2 (l : List Nat) (s : State) : State :=
  l.foldl (fun t b => match tget t.agents.kv b with
    | some k =>
      if k.t2 = false ∧ 2 ≤ k.flash ∧ k.bytes ≤ t2Free t then
        let u := t2Room (t2Copies t) k.ctx k.bytes t
        if t2Use k.ctx u + k.bytes ≤ t2Quota k.ctx u then setKvT2 b true u else u
      else t
    | none => t) s

/-- A snapshot commits: the latest two are kept; a pause releases the open block and what R239 allows; the next one may start (R244, R245). -/
def commitSnap (id : Nat) (s : State) : State :=
  match sessOf id s with
  | none => s
  | some x =>
    match x.inProg with
    | none => s
    | some n =>
      if snapDurable id n s then
        let keep := ({ n with waiters := [] } :: x.snaps).take 2
        let t := (x.snaps.drop 1).foldl (fun t o => dropCopy (.snap id o.seq) t) s
        let t := modSess id (fun y => { y with snaps := keep, inProg := none, logged := y.logged.drop n.mark }) (leaveRuns id t)
        let t := if n.pause then kvToT2 x.body.sealed (modSess id (fun y => { y with state := .paused, blocks := unaccepted x s, phase := .none }) t) else t
        let t := sweepKv (mirrorSnap id x n t)
        pumpSnaps t.agents.snapWait.length t
      else s

/-! ### Sessions (R233 to R238) -/

/-- The random-number state of a new session (R238; 04 R150). -/
def seedRng (seed : U64) (id : Nat) : U64 :=
  let k : U64 := 0x9E3779B97F4A7C15
  let g := seed ^^^ BitVec.ofNat 64 (id * k.toNat)
  if g = 0 then k else g

/-- Random values drawn: one step of the generator of 04 R149 for each (R238). -/
def drawRng (n : Nat) (g : U64) : U64 :=
  match n with
  | 0 => g
  | k + 1 => drawRng k (srStep g)

def SessBody.fresh (rng : U64) : SessBody :=
  { tokens := 0, openToks := [], openKv := [], pending := [], sampler := 0, sparams := zeros 32, prog := 0, rng := rng, steps := 0, chunks := 0, chunksTotal := 0
    generated := 0, gens := 0, sealed := [] }

/-- Reply of a generation (R235). -/
def genReply (x : Sess) (g : Gen) (reason : Nat) : Bytes :=
  leBytes 4 x.body.generated ++ leBytes 1 reason ++ zeros 3 ++ leBytes 8 (totalTok x.body) ++ leBytes 4 g.retrMissed ++ zeros 4

/-- Cairn body of a generation (18 R548). -/
def genCairn (id : Nat) (x : Sess) (g : Gen) (reason : Nat) : Bytes :=
  leBytes 8 id ++ leBytes 4 x.body.chunks ++ leBytes 4 x.body.chunksTotal ++ leBytes 8 (totalTok x.body)
    ++ leBytes 4 (match x.snaps with | n :: _ => n.seq | [] => 0) ++ leBytes 4 x.logged.length ++ leBytes 1 reason ++ zeros 3 ++ leBytes 4 g.retrMissed

/-- Ends a generation: the reply, unless its request is settled already; an `EPHEMERAL` session closes with it (R234, R235). -/
def endGen (id st reason : Nat) (s : State) : State :=
  match sessOf id s with
  | none => s
  | some x =>
    match x.gen with
    | none => s
    | some g =>
      let t := leaveBatch id (modSess id (fun y => { y with gen := none, state := .open, phase := .none, chunkLeft := 0, shards := [], selected := [], omitted := [] }) s)
      let t := match findReq g.rid t with
        | some r => if r.settled.isSome then commit g.rid 0 (some (genCairn id x g reason)) t
                    else complete g.rid st (genReply x g reason) (modCairn r (fun k => { k with body := genCairn id x g reason }) t)
        | none => t
      if x.ephemeral then dropSess id t else t

/-- Pauses a session for memory (R231). -/
def pauseForMemory (id : Nat) (s : State) : State :=
  match sessOf id s with
  | none => s
  | some x =>
    let t := if x.gen.isSome then endGen id stPausedForMemory 3 s else s
    if x.ephemeral then dropSess id t else beginSnap id [] true (modSess id (fun y => { y with pauseReason := 2 }) t)

/-- A session that is not yet in the pool: a joiner of its model (R230). -/
def newJoiner (id : Nat) (x : Sess) (s : State) : State :=
  modModel x.model (fun m => { m with joiners := m.joiners ++ [id] }) (modAgents (fun a => { a with sess := tset a.sess id x }) s)

def newSessId (c : Nat) (s : State) : Nat := 2 ^ 58 * c + s.agents.nextSerial % 2 ^ 58

/-- The device holds 2^24 sessions (R234). -/
def sessFull (s : State) : Bool := decide (2 ^ 24 ≤ s.agents.sess.length)

/-- A fork's child; of a paused parent it is made from its latest snapshot, with the input pending since (R236). -/
def forkSess (rid parent : Nat) (s : State) : State :=
  match findReq rid s, sessOf parent s with
  | some r, some x =>
    if sessFull s then fail rid stNoSpace s
    else
      let id := newSessId x.ctx s
      let seed : U64 := BitVec.ofNat 64 (fld r.payload 8 8)
      let lc := decide (fld r.payload 16 1 = 1)
      let body := fun (b : SessBody) => if seed = 0 then b else { b with rng := seedRng seed id }
      let t := modAgents (fun a => { a with nextSerial := a.nextSerial + 1 }) (setRunning rid s)
      let y : Sess := { x with lc := lc, state := .open, phase := .joinCreate, chunkLeft := 0, shards := [], selected := [], omitted := [], pauseReason := 0
                               body := body x.body, gen := none, joinRid := some rid, restore := none, atBoundary := [], blocks := 0, snaps := [], inProg := none
                               nextSnap := 1, logged := [], mirrorState := if x.mirror = 0 then 0 else 2, mirrored := 0, mirrorWait := none, sentBlks := [] }
      if x.state = .paused then
        match x.snaps with
        | n :: _ =>
          let b := body n.body
          let z := { y with state := .paused, phase := .none, joinRid := none, body := { b with pending := x.body.pending }, logged := x.logged, pauseReason := 1 }
          takeSnap id b 0 [rid] true (modAgents (fun a => { a with sess := tset a.sess id z }) t)
        | [] => fail rid stDataLost s
      else newJoiner id y t
  | _, _ => s

/-- Closes a session (R237). -/
def closeSess (rid id : Nat) (s : State) : State :=
  let t := match sessOf id s with | some x => if x.mirror = 0 then s else emit (.mirrorDrop x.mirrorPos id) s | none => s
  complete rid stSuccess [] (dropSess id (endGen id stClosed 5 t))

/-! ### Retrieval (R240, R241) -/

/-- Hamming distance of two codes of 1,024 bits. -/
def codeDist (a b : Nat) : Nat := ((List.range 1024).filter fun i => a.testBit i != b.testBit i).length

/-- The sealed blocks outside the window that a member selects for a query code: at the smallest distances, the more recent among equals. -/
def selectBlocks (x : Sess) (q : Nat) (s : State) : List Nat :=
  let dist := fun (b : Nat) => match tget s.agents.kv b with | some k => codeDist q k.code | none => 1025
  ((sortBy (fun a b => decide (a.1 ≤ b.1)) ((outside x).reverse.map fun b => (dist b, b))).map (·.2)).take x.retrBlocks

/-- The query code of each member's next step, and what it selects (R240, R241; the codes fall under 04 R156, log 3). -/
def newQuery (id : Nat) (s : State) : State :=
  match sessOf id s with
  | some x =>
    if x.phase = .member ∧ 0 < x.retrBlocks then
      let q := (Config.freeBits 1024 s.freeCtr).toNat
      bumpFree (modSess id (fun y => { y with query := q, selected := selectBlocks x q s, omitted := [] }) s)
    else modSess id (fun y => { y with selected := [], omitted := [] }) s
  | none => s

/-- A selected block that the cache holds is in T1. -/
def cached (x : Sess) (b : Nat) (s : State) : Bool := match modelOf x.model s with | some m => m.cache.contains b | none => false

/-- A selected block that has to be read for this step. -/
def retrieving (x : Sess) (b : Nat) (s : State) : Bool := decide (x.phase = .member) && x.selected.contains b && !(x.omitted.contains b) && !(cached x b s)

/-- The step's retrieved blocks stay as clean cache blocks while pool blocks are free (R240). -/
def keepCached (m : Nat) (l : List Nat) (s : State) : State :=
  l.foldl (fun t b => match modelOf m t with
    | some x => if x.cache.contains b = false ∧ 0 < poolFree m t then modModel m (fun y => { y with cache := y.cache ++ [b] }) t else t
    | none => t) s

/-- Blocks that the members retrieved for the step that ends, in order. -/
def retrieved (m : Nat) (s : State) : List Nat :=
  match modelOf m s with
  | some x => (x.members.flatMap fun id => match sessOf id s with | some y => y.selected.filter fun b => retrieving y b s | none => []).eraseDups
  | none => []

/-- A selected block was not in T1 in time: omitted from the step and counted (R241). -/
def omitBlock (id b : Nat) (s : State) : State :=
  modSess id (fun x => { x with omitted := x.omitted ++ [b], gen := x.gen.map fun g => { g with retrMissed := g.retrMissed + 1 } }) s

/-! ### The step and its boundary (R230, R239, R241, R242) -/

/-- A member takes part in a step: in the decode steps, its blocks held, at most two sealed blocks not accepted (R230, R239). -/
def canStep (x : Sess) (s : State) : Bool :=
  decide (x.phase = .member) && decide (blockNeed x s ≤ x.blocks) && !(decide (x.body.openTok = 255) && decide (2 ≤ unaccepted x s))

/-- A generation of a session whose selected block was lost (R241). -/
def lostBlock (l : List (Nat × Nat)) (id : Nat) (s : State) : Bool :=
  match sessOf id s with
  | some x => l.any fun e => decide (e.1 = id) && retrieving x e.2 s
  | none => false

/-- Delivers a sampled token: the output buffer first takes the token, then the count; the commit point passes (R235, R251). The sampler
program draws some number of random values and leaves its state (R238; log 3). -/
def deliver (e : Nat × U32 × Bool) (s : State) : State :=
  match sessOf e.1 s with
  | none => s
  | some x =>
    match x.gen with
    | none => s
    | some g =>
      if canStep x s then
        let ref : Ref := ⟨g.outAddr, g.outLen, g.outSpace, 2⟩
        let wr := match findReq g.rid s with
          | some r => (match refWrite r ref (8 + 4 * x.body.generated) (leBytes 4 e.2.1.toNat) s with
            | .ok t => refWrite r ref 0 (leBytes 8 (x.body.generated + 1)) t
            | a => a)
          | none => .ok s
        match wr with
        | .ok t =>
          let b := addOpen x.model [e.2.1] x.body t
          let b := { b with rng := drawRng (Config.freeNat (t.freeCtr + 1)) b.rng, prog := Config.freeNat (t.freeCtr + 2), steps := b.steps + 1, generated := b.generated + 1 }
          let y := { x with body := b, logged := if x.ephemeral then [] else x.logged ++ [e.2.1] }
          let t := bumpFreeBy 3 (modSess e.1 (fun _ => y) t)
          sealFull e.1 (commit g.rid 1 (some (genCairn e.1 y g 0xFF)) t)
        | .xlate => endGen e.1 stAccessDenied 7 s
        | .lost => endGen e.1 stDataLost 7 s
      else s

/-- The prefill chunk in progress goes on: tokens enter the open block, which is sealed when full; a block that would be the third not
accepted waits for the first (R226, R239). -/
def fillChunk (fuel id : Nat) (s : State) : State :=
  match fuel with
  | 0 => s
  | n + 1 =>
    match sessOf id s with
    | none => s
    | some x =>
      if x.chunkLeft = 0 ∨ 256 ≤ x.body.openTok then s
      else
        let k := min x.chunkLeft (256 - x.body.openTok)
        if x.body.openTok + k = 256 ∧ 2 ≤ unaccepted x s then s
        else
          let b := addOpen x.model (x.body.pending.take k) x.body s
          let t := bumpFreeBy k (modSess id (fun y => { y with body := { b with pending := b.pending.drop k }, chunkLeft := y.chunkLeft - k }) s)
          fillChunk n id (sealFull id t)

/-- A prefill chunk in progress goes on; at its end the commit point passes, and after the last chunk the session is resharded (R226, R227,
R251) (log 178). -/
def advanceChunk (id : Nat) (s : State) : State :=
  match sessOf id s with
  | none => s
  | some x =>
    if x.phase = .prefill ∧ 0 < x.chunkLeft then
      let t := fillChunk 34 id s
      match sessOf id t with
      | some y =>
        if y.chunkLeft = 0 then
          match y.gen with
          | some g =>
            let z := { y with body := { y.body with chunks := y.body.chunks + 1 }, phase := if y.body.pending.isEmpty then .reshard else .prefill }
            commit g.rid 0 (some (genCairn id z g 0xFF)) (modSess id (fun _ => z) t)
          | none => t
        else t
      | none => t
    else s

/-- A chunk of at most 8,192 tokens starts at a boundary when none is in progress (R226). -/
def startChunk (id : Nat) (s : State) : State :=
  match sessOf id s with
  | some x => if x.phase = .prefill ∧ x.chunkLeft = 0 then modSess id (fun y => { y with chunkLeft := min 8192 y.body.pending.length }) s else s
  | none => s

/-- A chunk that cannot be sealed in the write-protected state is cut where it stands. -/
def cutChunk (id : Nat) (s : State) : State :=
  match sessOf id s with
  | some x => if 256 ≤ x.body.openTok then modSess id (fun y => { y with chunkLeft := 0 }) s else s
  | none => s

def prefillChunk (id : Nat) (s : State) : State := cutChunk id (advanceChunk id (startChunk id s))

def hasOp (rids : List Nat) (op : Nat) (s : State) : Bool := rids.any fun r => match findReq r s with | some q => decide (q.op = op) && q.settled.isNone | none => false

/-- The reason for which a generation ends at this boundary, in the order of R230; its status (log 179). -/
def retireWhy (step : StepReport) (id : Nat) (x : Sess) (s : State) : Option (Nat × Nat) :=
  match x.gen with
  | none => none
  | some g =>
    let tok := step.toks.find? fun e => decide (e.1 = id)
    if lostBlock step.lost id s then some (stDataLost, 7)
    else if 256 ≤ x.body.openTok then some (stWriteProtected, Config.freeNat s.freeCtr % 256)
    else if 0 < x.chunkLeft then none
    else if (match tok with | some e => e.2.2 || decide (e.2.1.toNat = g.stopTok) | none => false) && decide (0 < x.body.generated) then some (stSuccess, 0)
    else if g.maxNew ≤ x.body.generated then some (stSuccess, 1)
    else if 2 ^ 26 ≤ totalTok x.body then some (stSessionFull, 4)
    else if hasOp x.atBoundary 8 s then some (stClosed, 5)
    else if !(live g.rid s) then some (stCancelled, 6)
    else if hasOp x.atBoundary 4 s || hasOp x.atBoundary 6 s then some (stSuccess, 2)
    else none

/-- Requests that were waiting for the boundary take effect (R233). -/
def boundaryReqs (id : Nat) (rids : List Nat) (s : State) : State :=
  rids.foldl (fun t r =>
    match findReq r t with
    | some q =>
      if q.settled.isSome then commit r 0 none (if q.op = 2 then undoAppend id (fld q.payload 8 4) t else t)
      else match q.op with
        | 2 => beginSnap id [r] false t
        | 4 => beginSnap id [r] true (modSess id (fun y => { y with pauseReason := 1 }) t)
        | 6 => beginSnap id [r] false t
        | 7 => forkSess r id t
        | 8 => closeSess r id t
        | _ => t
    | none => t) (modSess id (fun y => { y with atBoundary := [] }) s)

/-- Step 1 of R230 for one session of the model, then its waiting requests, those of one that is prefilling at the end of its chunk (R242). -/
def retireOne (step : StepReport) (id : Nat) (s : State) : State :=
  match sessOf id s with
  | none => s
  | some x =>
    let t := match retireWhy step id x s with
      | some (st, why) => endGen id st why (if 256 ≤ x.body.openTok then bumpFree s else s)
      | none => s
    if 0 < x.chunkLeft then t else boundaryReqs id x.atBoundary t

/-- Sessions of a model in some order of the table. -/
def sessOfModel (m : Nat) (s : State) : List (Nat × Sess) := s.agents.sess.filter fun e => decide (e.2.model = m)

/-- The sessions retired at this boundary (R232). -/
def retiring (step : StepReport) (m : Nat) (s : State) : List Nat := ((sessOfModel m s).filter fun e => (retireWhy step e.1 e.2 s).isSome).map (·.1)

/-- Periodic snapshots: at the first boundary at least the period after the last one, and where the ledger would hold more than
65,536 tokens (R242; 18 R546). -/
def periodicSnap (id : Nat) (s : State) : State :=
  match sessOf id s with
  | none => s
  | some x =>
    let due := decide (x.snapPeriod ≠ 0xFFFF) && decide (x.snapAt + 1000000000 * x.snapPeriod ≤ clockNow domMgmt s)
    if x.gen.isSome && !x.ephemeral && x.inProg.isNone && decide (x.chunkLeft = 0) && (due || decide (65536 ≤ x.logged.length)) then beginSnap id [] false s else s

/-- Blocks released since the last boundary are free from this one; those outside the window go to T2 (R229, R239). -/
def releaseBlocks (m : Nat) (s : State) : State :=
  let t := modAgents (fun a => { a with sess := a.sess.map fun e =>
    if e.2.model = m ∧ (e.2.phase = .none ∨ e.2.phase = .member) then
      (e.1, { e.2 with blocks := if e.2.state = .paused then min e.2.blocks (unaccepted e.2 s) else min e.2.blocks (blockNeed e.2 s) })
    else e }) s
  kvToT2 (((sessOfModel m s).filter fun e => decide (0 < e.2.blocks)).flatMap fun e => outside e.2) t

/-- Members that need a new block, LC first, each class oldest first (R230). -/
def extendOrder (m : Nat) (s : State) : List Nat :=
  let l := (sessOfModel m s).filter fun e => decide (e.2.phase = .member) && decide (e.2.blocks < blockNeed e.2 s)
  let byAge := fun (q : List (Nat × Sess)) => (sortBy (fun a b => decide (a.2.since ≤ b.2.since)) q).map (·.1)
  byAge (l.filter fun e => e.2.lc) ++ byAge (l.filter fun e => !e.2.lc)

/-- Blocks on their way out of the pool: held by sessions whose pause is being written. -/
def pendingRelease (m : Nat) (s : State) : Nat :=
  sumN ((sessOfModel m s).map fun e => match e.2.inProg with | some n => if n.pause then e.2.blocks else 0 | none => 0)

def pausing (x : Sess) : Bool := match x.inProg with | some n => n.pause | none => false

/-- Resident sessions of a class that could be paused, newest first: none that was retired at this boundary (R230, R232). -/
def pausable (m : Nat) (lc : Bool) (out : List Nat) (s : State) : List Nat :=
  let l := (sessOfModel m s).filter fun e =>
    decide (0 < e.2.blocks) && (e.2.lc == lc) && !(pausing e.2) && decide (e.2.state ≠ .paused) && decide (e.2.phase ≠ .joinCreate) && decide (e.2.chunkLeft = 0) && !(out.contains e.1)
  (sortBy (fun a b => decide (b.2.since ≤ a.2.since)) l).map (·.1)

/-- Pauses resident BE sessions, newest first, until `need` blocks are pending release; when none is left, the newest LC session
(R230). -/
def makeRoom (fuel m need : Nat) (out : List Nat) (s : State) : State :=
  match fuel with
  | 0 => s
  | k + 1 =>
    if need ≤ pendingRelease m s then s
    else match pausable m false out s with
      | id :: _ => makeRoom k m need out (pauseForMemory id s)
      | [] => match pausable m true out s with
        | id :: _ => pauseForMemory id s
        | [] => s

/-- Gives members their new blocks, in the order of R230; `short` counts the LC blocks already waited for. -/
def extendAll (m : Nat) (out l : List Nat) (short : Nat) (s : State) : State :=
  match l with
  | [] => s
  | id :: r =>
    match sessOf id s with
    | none => extendAll m out r short s
    | some x =>
      if x.phase ≠ .member then extendAll m out r short s
      else
        let d := blockNeed x s - x.blocks
        if d ≤ poolFree m s then extendAll m out r short (modSess id (fun y => { y with blocks := blockNeed x s }) s)
        else if x.lc then extendAll m out r (short + d) (makeRoom ((sessOfModel m s).length + 1) m (short + d) out s)
        else extendAll m out r short (pauseForMemory id s)

/-- Step 2 of R230: clean cache blocks are dropped, the oldest first, until the extensions fit. -/
def dropCache (m : Nat) (s : State) : State :=
  let need := sumN ((sessOfModel m s).map fun e => if e.2.phase = .member then blockNeed e.2 s - e.2.blocks else 0)
  modModel m (fun x => { x with cache := x.cache.drop (need - poolFree m s) }) s

/-- A snapshot's units are lost: its digest fails (R244). -/
def snapBroken (id seq : Nat) (s : State) : Bool :=
  s.ftl.pinned.any fun e => s.ftl.lost.contains e.2 && (match tget s.ftl.media e.2 with | some p => decide (p.item = .snap id seq) | none => false)

/-- A sealed block that can be read: in the pool until it is accepted, in T2, or in flash. -/
def kvReads (b : Nat) (s : State) : Bool :=
  match tget s.agents.kv b with
  | some k => k.t2 || decide (k.flash = 1) || (decide (2 ≤ k.flash) && !(copyLost (.kv b) s))
  | none => false

/-- A block of the window that a snapshot needs is lost. -/
def windowLost (x : Sess) (b : SessBody) (s : State) : Bool := (b.sealed.drop (b.sealed.length - winLen x)).any fun k => !(kvReads k s)

/-- The joiner's request still waits. -/
def joinLive (x : Sess) (s : State) : Bool :=
  match x.gen, x.joinRid with
  | some g, _ => live g.rid s
  | none, some r => live r s
  | none, none => true

/-- Becomes resident now: the newest of its model. -/
def becomeResident (id blocks : Nat) (s : State) : State :=
  modAgents (fun a => { a with clock := a.clock + 1 }) (modSess id (fun y => { y with blocks := blocks, since := s.agents.clock + 1 }) s)

/-- Restores start while fewer than 16 are in progress, in order of admission (R246). -/
def pumpResumes (fuel : Nat) (s : State) : State :=
  match fuel with
  | 0 => s
  | n + 1 =>
    match s.agents.resWait with
    | id :: r => if s.agents.resRun.length < 16 then pumpResumes n (modAgents (fun a => { a with resWait := r, resRun := a.resRun ++ [id] }) s) else s
    | [] => s

/-- The need of a resume: its window and its open block (R231). -/
def resumeNeed (x : Sess) (b : SessBody) : Nat := 1 + winSealed x b.sealed.length

/-- A joiner is admitted (R230, R231, R234, R236, R246). -/
def admitOne (m id : Nat) (x : Sess) (s : State) : State :=
  let t := modModel m (fun y => { y with joiners := y.joiners.filter fun i => decide (i ≠ id) }) s
  match x.phase, x.joinRid, x.restore with
  | .joinCreate, some rid, _ =>
    let t := becomeResident id (blockNeed x s) (modSess id (fun y => { y with state := .open, phase := .none, joinRid := none }) t)
    if x.ephemeral then replySnap id 0 0 x.body rid t else beginSnap id [rid] false t
  | .joinResume, _, some n =>
    let t := becomeResident id (max x.blocks (resumeNeed x n.body)) (modSess id (fun y => { y with phase := .restoring }) t)
    let t := modAgents (fun a => { a with resWait := a.resWait ++ [id] }) t
    pumpResumes t.agents.resWait.length t
  | .joinGen, _, _ =>
    let t := modModel m (fun y => { y with members := y.members ++ [id] }) t
    if x.body.pending.isEmpty then modSess id (fun y => { y with phase := .member }) t
    else modSess id (fun y => { y with phase := .prefill, blocks := max y.blocks (joinNeed x s), shards := (splitDies x.ctx x.body.pending.length s).map fun e => (e.1, e.2.2) }) t
  | _, _, _ => t

/-- A session whose restore ends without being opened is paused again, its blocks free from the next boundary. -/
def dropRestore (id : Nat) (s : State) : State :=
  let t := leaveRuns id (modSess id (fun y => { y with phase := .none, joinRid := none, restore := none }) s)
  pumpResumes t.agents.resWait.length t

/-- The restore of a session completes: every item of its snapshot back, its window in the pool, the session `OPEN`; a snapshot that fails
its digest ends it with `DATA_LOST` (R244, R246). Input appended while it was paused stays pending (R248). -/
def restoreDone (id : Nat) (s : State) : State :=
  match sessOf id s with
  | none => s
  | some x =>
    match x.restore with
    | some n =>
      let answer := fun (f : Nat → State → State) (u : State) => match x.joinRid with | some r => f r u | none => u
      if !(joinLive x s) then answer (fun r => commit r 0 none) (dropRestore id s)
      else if snapBroken id n.seq s || windowLost x n.body s then answer (fun r => fail r stDataLost) (dropRestore id s)
      else
        let latest := match x.snaps with | a :: _ => decide (a.seq = n.seq) | [] => false
        let b := if latest then { n.body with pending := x.body.pending } else n.body
        let t := modSess id (fun y => { y with state := .open, phase := .none, joinRid := none, restore := none, pauseReason := 0, body := b, logged := if latest then y.logged else [] }) s
        let t := sweepKv (answer (fun r u => complete r stSuccess (snapReply n.seq 0 (totalTok b)) (commit r 1 (some (snapCairn id n.seq (totalTok b))) u)) (leaveRuns id t))
        pumpResumes t.agents.resWait.length t
    | none => dropRestore id s

/-- A joiner whose request has ended leaves. -/
def dropJoiner (m id : Nat) (x : Sess) (s : State) : State :=
  let t := modModel m (fun y => { y with joiners := y.joiners.filter fun i => decide (i ≠ id) }) s
  match x.phase with
  | .joinCreate => dropSess id (match x.joinRid with | some r => commit r 0 none t | none => t)
  | .joinResume => (match x.joinRid with | some r => commit r 0 none | none => fun t => t) (modSess id (fun y => { y with phase := .none, joinRid := none, restore := none }) t)
  | _ => endGen id stCancelled 6 t

/-- The blocks that a joiner lacks: its need less those it holds (R231). -/
def lacks (x : Sess) (s : State) : Nat :=
  match x.phase, x.restore with
  | .joinResume, some n => resumeNeed x n.body - x.blocks
  | _, _ => joinNeed x s - x.blocks

/-- Admits the joiners of a class in arrival order; the first that does not fit defers the rest (R230). Answers whether one was
deferred. -/
def admitClass (m : Nat) (l : List Nat) (s : State) : State × Bool :=
  match l with
  | [] => (s, false)
  | id :: r =>
    match sessOf id s, modelOf m s with
    | some x, some y =>
      if !(joinLive x s) then admitClass m r (dropJoiner m id x s)
      else if decide (lacks x s ≤ poolFree m s) && (decide (x.phase ≠ .joinGen) || decide (y.members.length < y.maxBatch)) then admitClass m r (admitOne m id x s)
      else (s, true)
    | _, _ => admitClass m r s

/-- Step 4 of R230: LC joiners, then BE joiners, unless an LC joiner is deferred. -/
def admitAll (m : Nat) (s : State) : State :=
  match modelOf m s with
  | none => s
  | some y =>
    let lc := fun (id : Nat) => match sessOf id s with | some x => x.lc | none => false
    let (t, deferred) := admitClass m (y.joiners.filter lc) s
    if deferred then t else (admitClass m (y.joiners.filter fun i => !(lc i)) t).1

/-- After a change of the home dies the stages are re-formed before the next step; the KV of the model's sessions is resharded with them
(R228). -/
def reform (m : Nat) (s : State) : State :=
  match modelOf m s with
  | some x => if x.stages = stagesOf x s then s else modModel m (fun y => { y with stages := stagesOf x s }) s
  | none => s

/-- Every member that takes part in the step has its token sampled, in every micro-batch, or its generation ended by a lost block (R228,
R241). -/
def stepDone (m : Nat) (step : StepReport) (s : State) : Bool :=
  match modelOf m s with
  | some y => (microBatches y.members.length y.members).all fun b => b.all fun id => match sessOf id s with
    | some x => !(canStep x s) || (step.toks.any fun e => decide (e.1 = id)) || lostBlock step.lost id s
    | none => true
  | none => false

/-- A step boundary of a model with the step that ends at it (R229, R230). -/
def boundary (m : Nat) (step : StepReport) (s : State) : State :=
  match modelOf m s with
  | none => s
  | some y =>
    if slotState y.ctx s ≠ .resident ∨ y.encoder = true ∨ stepDone m step s = false then s
    else
      let mine := fun (id : Nat) => match sessOf id s with | some x => decide (x.model = m) && y.members.contains id | none => false
      let step := { step with toks := step.toks.filter fun e => mine e.1, lost := step.lost.filter fun e => mine e.1 }
      let got := retrieved m s
      let t := (step.toks.filter fun e => !(lostBlock step.lost e.1 s)).foldl (fun t e => deliver e t) s
      let t := y.members.foldl (fun t id => prefillChunk id t) t
      let out := retiring step m t
      let t := (sessOfModel m t).foldl (fun t e => retireOne step e.1 t) t
      let t := y.members.foldl (fun t id => periodicSnap id t) t
      let t := modModel m (fun x => match x.nextCfg with | some (b, w) => { x with maxBatch := b, retrWaitUs := w, nextCfg := none } | none => x) t
      let t := modAgents (fun a => { a with sess := a.sess.map fun e => if e.2.model = m ∧ e.2.phase = .ready then (e.1, { e.2 with phase := .member }) else e }) t
      let t := dropCache m (releaseBlocks m (reform m t))
      let t := extendAll m out (extendOrder m t) 0 t
      let t := keepCached m got (admitAll m t)
      let t := (match modelOf m t with | some x => x.members | none => []).foldl (fun t id => newQuery id t) t
      modModel m (fun x => { x with freeBlocks := poolFree m t, stepUs := if y.members.isEmpty then x.stepUs else step.stepUs }) t

/-- While the batch has no members, a boundary is made at once for a request that needs one (R229). -/
def quietBoundary (m : Nat) (s : State) : State :=
  match modelOf m s with
  | some x => if x.members.isEmpty then boundary m ⟨[], [], 0⟩ s else s
  | none => s

end Sys2Proof.Machine
end

