-- ==== Sys2Proof/Machine/Links.lean ====
section
/-! DEFINITION. The Qorgal ports (13): received flits, recovery, keys, training and its failures, credits, routes and
heartbeats, completions of remote accesses. -/
namespace Sys2Proof.Machine

def modPorts (f : Ports → Ports) (s : State) : State := { s with ports := f s.ports }

/-! ### Routes (R404, R406, R407) -/

/-- Ports whose neighbour offers a way out: up, to a ring neighbour heard within its time, not in Bivouac (R404, R408). -/
def wayOut (s : State) : List (Nat × Nat × Nat) :=
  [1, 2, 3, 4].filterMap fun p =>
    match (portOf p s).beat with
    | some (h, e, st) => if portUp p s && peerCarries p s && decide (h ≤ 15) && decide (st ≠ 4) then some (p, h, e) else none
    | none => none

/-- Hops, exit and upstream that the neighbours now give; `0xFF` for none (R404) (log 183). -/
def routeOf (s : State) : Nat × Nat × Option Nat :=
  if portUp 0 s then (0, s.ports.pos, none)
  else
    match wayOut s with
    | [] => (0xFF, 0xFF, none)
    | x :: r =>
      let b := r.foldl (fun b y => if y.2.1 < b.2.1 then y else b) x
      if 15 ≤ b.2.1 then (0xFF, 0xFF, none) else (b.2.1 + 1, b.2.2, some b.1)

/-- Recomputes the route; a change raises `ROUTE_CHANGED` (R404, R412). -/
def reroute (s : State) : State :=
  let (h, e, u) := routeOf s
  if h = s.ports.hops ∧ e = s.ports.exit ∧ u = s.ports.upstream then s
  else
    let t := modPorts (fun p => { p with hops := h, exit := e, upstream := u }) s
    devEvent 0x23 5 (u.getD 0) (leBytes 1 (u.getD 0xFF) ++ leBytes 1 h ++ leBytes 1 e ++ leBytes 1 s.ports.pos) t

/-- Outstanding transfers go again on the upstream port when port H is lost (R406). -/
def reissue (s : State) : State :=
  if portUp 0 s = false ∧ s.ports.upstream.isSome = true then (s.ports.remote.filter fun q => decide (q.stage = .out)).foldl (fun t q => record (.reissue q.ptag) t) s else s

/-! ### Training (R398 to R401) -/

/-- Widest width of the port's list at which its lanes lock (R401). -/
def widthOf (p locked : Nat) : Nat := ((if p = 0 then [2, 1] else [4, 2, 1]).find? fun w => decide (w ≤ locked)).getD 0

/-- Byte order of two serials. -/
def serialLess (a b : Bytes) : Bool :=
  match a, b with
  | [], _ => false
  | _, [] => false
  | x :: r, y :: t => if x = y then serialLess r t else decide (x.toNat < y.toNat)

/-- Role of this side: 1 root, 2 leaf (R400). -/
def roleOf (p : Nat) (t : TrainReport) (s : State) : Nat :=
  if p = 0 then 2
  else if s.ports.hops < t.hops then 1
  else if t.hops < s.ports.hops then 2
  else if serialLess s.sec.serial t.serial then 1 else 2

/-- The partner advertises what the port needs: at least 65 credits on each data channel that it receives (R396; log 71). -/
def creditsOk (p : Nat) (t : TrainReport) : Bool :=
  (if p = 0 then [3, 4] else [2, 3, 4, 5, 6, 7]).all fun v => decide (65 ≤ t.credits.getD v 0)

/-- Training succeeds: lane 0 locks, roles agree, parameters suffice (R398, R400, R396). -/
def trainGood (p : Nat) (t : TrainReport) : Bool := t.lock && decide (1 ≤ t.locked) && !(decide (p = 0) && t.partnerLeaf) && creditsOk p t

/-- Credits that the module advertises (R396). -/
def ownCredits (p : Nat) : List Nat := if p = 0 then [16, 64, 2048, 0, 0, 4096] else [16, 64, 1024, 1024, 1024, 2048, 8192, 256]

/-- The port reaches `ACTIVE` with what was exchanged. -/
def portActive (p : Nat) (t : TrainReport) (s : State) : State :=
  record (.params p (widthOf p t.locked) (ownCredits p) s.ports.hops s.ports.exit) <| linkKhz p false (modPort p (fun q =>
    { q with train := 6, role := roleOf p t s, lanes := widthOf p t.locked, lowRate := false
             partner := if p = 0 then List.replicate 16 32 else t.serial, advertised := t.credits.take 8, pool := t.credits.take 8, held := []
             fecFixed := 0, fecLost := 0, replays := 0, integrity := 0, nakOut := false, lost := 0
             beat := if p = 0 then none else some (t.hops, t.exit, 1) }) s)

/-- Port events name role, width and partner (R412). -/
def linkUpEvent (p : Nat) (s : State) : State :=
  let q := portOf p s
  devEvent 0x20 5 p (leBytes 1 q.role ++ leBytes 1 q.lanes ++ leBytes 1 (b2n q.lowRate) ++ zeros 5 ++ padSp q.partner 16) s

/-- The port stops carrying traffic in a state of R398, and raises `LINK_DOWN` with its cause. -/
def portStops (p train cause : Nat) (s : State) : State :=
  let t := modPort p (fun q => { q with train := train, role := 0, lanes := 0, lowRate := false, replay := [], beat := none }) s
  reissue (reroute (devEvent 0x21 5 p (leBytes 1 cause) t))

/-- The ports have light: not in Off, Abseil and Tripped (R384, R407, R483). -/
def portsLit (s : State) : Bool :=
  match s.host.ifState with
  | .abseil | .tripped | .reset => false
  | _ => decide (s.pwr.pwr ≠ .off)

/-- Training from `DETECT`, or from low rate at its end (R399, R408). -/
def trainPort (p : Nat) (t : TrainReport) (s : State) : State :=
  let q := portOf p s
  if p < 5 ∧ portsLit s = true ∧ (q.train = 1 ∨ q.train = 8) then
    if trainGood p t then reroute (linkUpEvent p (portActive p t s)) else portStops p 9 2 s
  else s

def execTraining (p : Nat) (t : TrainReport) (s : State) : Res := .next (trainPort p t s)

/-- A retrain starts: `RETRAIN_CNT` counts it; the replay buffer is held (R388, R399). -/
def startRetrain (p : Nat) (s : State) : State :=
  modPort p (fun q => { q with train := 7, retrainCnt := satInc 0xFFFF q.retrainCnt, lost := 0 }) s

/-- A retrain that reaches `ACTIVE` in its 100 ms: every flit not acknowledged is sent again, and no `LINK_UP` is raised
(R388, R399). A retrain out of time is left to `LINK_DOWN`. -/
def retrainPort (p : Nat) (t : TrainReport) (s : State) : State :=
  let q := portOf p s
  if p < 5 ∧ portsLit s = true ∧ (q.train = 7 ∨ (q.train = 6 ∧ 3 ≤ q.lost)) then
    let s := if q.train = 7 then s else startRetrain p s
    if t.inTime then
      if trainGood p t then
        let u := portActive p t s
        let u := match q.replay with | n :: _ => record (.resend p n) u | [] => u
        reroute u
      else portStops p 9 2 s
    else s
  else s

def execRetrain (p : Nat) (t : TrainReport) (s : State) : Res := .next (retrainPort p t s)

/-- Light is lost on lane 0 of an up port (R399, R412's example). -/
def execLightLost (p : Nat) (s : State) : Res := .next (if p < 5 ∧ portUp p s = true then startRetrain p s else s)

/-- A retrain has not reached `ACTIVE` within 100 ms (R399, R406). -/
def execLinkDown (p : Nat) (s : State) : Res := .next (if p < 5 ∧ (portOf p s).train = 7 then portStops p 10 0 s else s)

/-- A `FAILED` or `DOWN` port tries again (R398). -/
def execTrainRetry (p : Nat) (s : State) : Res :=
  .next (if p < 5 ∧ portsLit s = true ∧ ((portOf p s).train = 9 ∨ (portOf p s).train = 10) then modPort p (fun q => { q with train := 1 }) s else s)

/-- `ADMIN.PORT_CTRL` disable and enable (R411). -/
def disablePort (p : Nat) (s : State) : State :=
  let t := modPort p (fun q => { q with train := 0, role := 0, lanes := 0, lowRate := false, replay := [], beat := none }) s
  reissue (reroute (if portUp p s then devEvent 0x21 5 p (leBytes 1 1) t else t))

/-! ### Keys (R389) -/

/-- The key of a class at a port. -/
def tcKey (p : Nat) (tc3 : Bool) (s : State) : Option TcKey := if tc3 then (portOf p s).tc3 else s.ports.tc2
def setTcKey (p : Nat) (tc3 : Bool) (k : Option TcKey) (s : State) : State :=
  if tc3 then modPort p (fun q => { q with tc3 := k }) s else modPorts (fun x => { x with tc2 := k }) s

/-- Key of the counters last accepted from the origin of a class at a port: the control node for TC2, the partner for TC3. -/
def seenKey (p : Nat) (tc3 : Bool) (phase : Bool) : Nat := 16 * (if tc3 then 0x100 + p else 0xFE) + 2 * (if tc3 then 3 else 2) + b2n phase

/-- The next key is in force for sending, its counters start anew; both phases are held until the first flit of the new one (R389). -/
def nextPhase (p : Nat) (tc3 : Bool) (s : State) : State :=
  match tcKey p tc3 s with
  | some k => setTcKey p tc3 (some ⟨!k.phase, 1, true⟩) (modPorts (fun x => { x with ctrSeen := tdel x.ctrSeen (seenKey p tc3 (!k.phase)) }) s)
  | none => s

def execKeyUpdatePhase (p : Nat) (tc3 : Bool) (s : State) : Res := .next (if p < 5 then nextPhase p tc3 s else s)

/-! ### Flits (R385 to R390, R405) -/

/-- Distance from a sequence number to a later one, modulo 2^16 (R387). -/
def seqDist (a b : Nat) : Nat := (b + 65536 - a % 65536) % 65536

/-- Drops what a cumulative acknowledgement covers. -/
def ackUpTo (p ack : Nat) (s : State) : State :=
  modPort p (fun q =>
    match q.replay with
    | [] => q
    | a :: _ => if seqDist a ack < q.replay.length then { q with replay := q.replay.drop (seqDist a ack + 1) } else q) s

/-- Takes returned credits off those in use on a channel, oldest first. -/
def freeHeld (vc n : Nat) (l : List (Nat × Nat × Nat)) : List (Nat × Nat × Nat) :=
  match l with
  | [] => []
  | e :: r => if e.1 ≠ vc then e :: freeHeld vc n r else if e.2.2 ≤ n then freeHeld vc (n - e.2.2) r else (e.1, e.2.1, e.2.2 - n) :: r

/-- Credits returned on a channel; a pool never exceeds what the partner advertised (R396). -/
def giveCredits (p vc n : Nat) (s : State) : State :=
  modPort p (fun q => { q with pool := q.pool.set vc (min (q.advertised.getD vc 0) (q.pool.getD vc 0 + n)), held := freeHeld vc n q.held }) s

/-- The credit return field of a flit (R386). -/
def creditField (p : Nat) (v : U32) (s : State) : State := if bit v.toNat 3 then giveCredits p (v.toNat % 8) (v.toNat / 65536) s else s

/-- A lost flit: one `NAK` names the number expected; the third loss of a number in a row retrains the port, and raises
`LINK_INTEGRITY` where a tag or CRC failed (R387, R388, R390). -/
def flitLost (p : Nat) (f : Flit) (bad : Bool) (s : State) : State :=
  let q := portOf p s
  let mine := decide (f.seq.toNat = q.rxSeq)
  let n := if mine then q.lost + 1 else q.lost
  let t := modPort p (fun q => { q with lost := n, integrity := if bad then (q.integrity + 1) % 2 ^ 32 else q.integrity }) s
  if 3 ≤ n then
    let t := if bad then devEvent 0x22 5 p (leBytes 1 f.tc ++ zeros 7 ++ leBytes 8 f.ctr.toNat) t else t
    startRetrain p t
  else if q.nakOut && !mine then t
  else record (.nak p q.rxSeq) (modPort p (fun q => { q with nakOut := true }) t)

/-- A `NAK`: what comes before the number is acknowledged, and the flits from it on are sent again (R387). -/
def takeNak (p seq : Nat) (s : State) : State :=
  let q := portOf p s
  if q.replay.contains seq then
    let t := modPort p (fun q => { q with replay := q.replay.drop (q.replay.idxOf seq), replays := (q.replays + 1) % 2 ^ 32 }) s
    record (.resend p seq) t
  else s

def execNak (p seq : Nat) (s : State) : Res := .next (if p < 5 ∧ portUp p s = true then takeNak p seq s else s)

def ctrKey (p : Nat) (f : Flit) : Nat := seenKey p (decide (f.tc = 3)) f.keyPhase

/-- The destination's checks of a data flit of TC2 or TC3: encrypted under a phase it holds, its counter above the last
accepted; plaintext only where it is permitted (R389, R390). -/
def flitOpens (p : Nat) (f : Flit) (s : State) : Bool :=
  if f.tc < 2 then true
  else if f.encrypted then
    match tcKey p (decide (f.tc = 3)) s with
    | none => false
    | some k => (f.keyPhase == k.phase || k.both) && decide (tgetD s.ports.ctrSeen (ctrKey p f) 0 < f.ctr.toNat)
  else plainOk s

/-- A flit taken: its counter is remembered, and the first flit of a new phase retires the old key (R389). -/
def takeFlit (p : Nat) (f : Flit) (s : State) : State :=
  if f.tc < 2 ∨ f.encrypted = false then s
  else
    let t := modPorts (fun x => { x with ctrSeen := tset x.ctrSeen (ctrKey p f) f.ctr.toNat }) s
    match tcKey p (decide (f.tc = 3)) s with
    | some k => if f.keyPhase = k.phase then setTcKey p (decide (f.tc = 3)) (some { k with both := false }) t else t
    | none => t

/-- The neighbour that takes a flit for a ring position: up, hops one above this module's, the same exit (R405). -/
def forwardTo (q : Nat) (s : State) : Option Nat :=
  let n := s.ports.serials.length
  let up := (q + n - s.ports.pos) % n
  let first := if 2 * up ≤ n then (s.ports.pos + 1) % n else (s.ports.pos + n - 1) % n
  let second := if 2 * up ≤ n then (s.ports.pos + n - 1) % n else (s.ports.pos + 1) % n
  let fits := fun a p => portUp p s && decide (neighbourPos p s = some a)
    && (match (portOf p s).beat with | some (h, e, _) => decide (h = s.ports.hops + 1 ∧ e = s.ports.exit) | none => false)
  match [1, 2, 3, 4].find? (fits first) with
  | some p => some p
  | none => [1, 2, 3, 4].find? (fits second)

/-- A flit passed on is a data flit of its outgoing port: numbered, kept for replay (R387, R405). With the replay buffer full it waits. -/
def forwardOut (p : Nat) (m : Tx) (s : State) : State :=
  if 512 ≤ (portOf p s).replay.length then modPorts (fun x => { x with heldFwd := x.heldFwd ++ [m] }) s
  else record m (modPort p (fun q => { q with replay := q.replay ++ [q.txSeq], txSeq := (q.txSeq + 1) % 65536 }) s)

/-- Flits that waited are passed on in order. -/
def releaseFwd (s : State) : State :=
  s.ports.heldFwd.foldl (fun t m => match m with | .forward p _ _ => forwardOut p m t | _ => t) (modPorts (fun p => { p with heldFwd := [] }) s)

/-- Routes a TC2 flit that is not for this module (R405): out towards the control node or a neighbour, else discarded and counted. During
a scrub it waits (R409); at low rate nothing is forwarded (R408). -/
def routeFlit (f : Flit) (s : State) : State :=
  let out := if f.route = 0xFE then pathPort s else if f.route < s.ports.serials.length then forwardTo f.route s else none
  match out with
  | some p =>
    let m := Tx.forward p f.route f.ctr.toNat
    if s.host.ifState = .scrub then modPorts (fun x => { x with heldFwd := x.heldFwd ++ [m] }) s
    else if s.host.ifState = .bivouac then s
    else forwardOut p m s
  | none => modPorts (fun x => { x with routeDrops := (x.routeDrops + 1) % 2 ^ 32 }) s

/-- The mirrored snapshot that a class 3 flit completes is taken where the module serves (07 R249; log 181). -/
def takeRope (f : Flit) (s : State) : State :=
  match f.mirror, s.host.ifState with
  | some m, .ready | some m, .handover | some m, .scrub => if f.tc = 3 then takeMirror m s else s
  | _, _ => s

/-- A data flit in order: acknowledged at the latest after 32, then opened and taken, or passed on (R387, R389, R405). -/
def flitInOrder (p : Nat) (f : Flit) (s : State) : State :=
  let q := portOf p s
  let due := decide (32 ≤ q.unacked + 1)
  let t := modPort p (fun q => { q with rxSeq := (q.rxSeq + 1) % 65536, nakOut := false, lost := 0, unacked := if due then 0 else q.unacked + 1 }) s
  let t := if due then record (.ack p q.rxSeq) t else t
  if f.tc = 2 ∧ f.route ≠ 0xFF ∧ f.route ≠ s.ports.pos then routeFlit f t
  else if flitOpens p f s then takeRope f (takeFlit p f t) else t

/-- A received flit (R385 to R390). -/
def flitIn (p : Nat) (f : Flit) (s : State) : State :=
  if p ≥ 5 ∨ portUp p s = false then s
  else if 15 < f.symErr then flitLost p f false (modPort p (fun q => { q with fecLost := (q.fecLost + 1) % 2 ^ 32 }) s)
  else
    let t := modPort p (fun q => { q with fecFixed := q.fecFixed + f.symErr }) s
    if f.hcrcOk = false then flitLost p f false t
    else
      let t := creditField p f.crB (creditField p f.crA t)
      match f.ftype with
      | 3 => takeNak p f.ack.toNat t
      | 1 =>
        let t := ackUpTo p f.ack.toNat t
        if f.tagOk = false then flitLost p f true t
        else if f.seq.toNat = (portOf p t).rxSeq then flitInOrder p f t
        else if (portOf p t).nakOut then t
        else record (.nak p (portOf p t).rxSeq) (modPort p (fun q => { q with nakOut := true }) t)
      | 0 => ackUpTo p f.ack.toNat t
      | 2 => ackUpTo p f.ack.toNat t
      | _ => t

def execFlitReceive (p : Nat) (f : Flit) (s : State) : Res := .next (flitIn p f s)

/-- 1 µs has passed since data flits were received: they are acknowledged (R387). -/
def execAckTimer (p : Nat) (s : State) : Res :=
  .next (if p < 5 ∧ portUp p s = true ∧ 0 < (portOf p s).unacked then
    record (.ack p (((portOf p s).rxSeq + 65535) % 65536)) (modPort p (fun q => { q with unacked := 0 }) s) else s)

def execCreditReturn (p vc n : Nat) (s : State) : Res := .next (if p < 5 ∧ vc < 8 ∧ portUp p s = true then giveCredits p vc n s else s)

/-! ### Completions of remote accesses (R73, R392, R395) -/

/-- A refused access ends its request with `ACCESS_DENIED`, also one that waits only for this completion (02 R73). -/
def refusedFor (rid : Option Nat) (s : State) : State :=
  match rid with
  | none => s
  | some r =>
    match findReq r s with
    | none => s
    | some q => if q.done.isSome then modReq r (fun q => { q with done := some (stAccessDenied, []) }) s else fail r stAccessDenied s

def remoteOf (ptag : Nat) (s : State) : Option Remote := s.ports.remote.find? fun q => decide (q.ptag = ptag ∧ q.stage = .out)

/-- A transfer ends, and one of its context that waits takes its place (06 R213). -/
def dropRemote (ptag : Nat) (s : State) : State :=
  let t := modPorts (fun x => { x with remote := x.remote.filter fun q => decide (q.ptag ≠ ptag) }) s
  match remoteOf ptag s with
  | some q => pumpRemote 1 q.ctx t
  | none => t

/-- Packets of a transfer: it is split at 4,096-byte boundaries of its address (R392). -/
def packetsOf (addr len : Nat) : Nat := max 1 ((addr + len + 4095) / 4096 - addr / 4096)

/-- Progress of a transfer: acknowledgements of a write, bytes of a read. -/
def gotMore (ptag n : Nat) (s : State) : State :=
  modPorts (fun x => { x with remote := x.remote.map fun y => if y.ptag = ptag then { y with got := y.got + n } else y }) s

/-- A `WRITE_ACK`: every packet of the write receives one (R392). -/
def ackRemote (pk : Packet) (s : State) : State :=
  match remoteOf pk.ptag s with
  | some q =>
    if q.write = false then s
    else if pk.pstatus ≠ 0 then refusedFor q.rid (dropRemote pk.ptag s)
    else if packetsOf q.addr q.len ≤ q.got + 1 then dropRemote pk.ptag s
    else gotMore pk.ptag 1 s
  | none => s

/-- `READ_DATA`: the transfer ends with its last byte, or with `LAST` where it is one packet. -/
def dataRemote (pk : Packet) (n : Nat) (s : State) : State :=
  match remoteOf pk.ptag s with
  | some q =>
    if q.write then s
    else if pk.pstatus ≠ 0 then refusedFor q.rid (dropRemote pk.ptag s)
    else if q.len ≤ q.got + n ∨ (pk.last = true ∧ packetsOf q.addr q.len = 1) then dropRemote pk.ptag s
    else gotMore pk.ptag n s
  | none => s

/-- No completion within 200 ms: treated as refused (R395). -/
def timeoutRemote (ptag : Nat) (s : State) : State :=
  match remoteOf ptag s with
  | some q => refusedFor q.rid (dropRemote ptag s)
  | none => s

def execRemoteAccessTimeout (ptag : Nat) (s : State) : Res := .next (timeoutRemote ptag s)

/-! ### Heartbeats (R404, R407) -/

/-- States in which the module sends heartbeats. -/
def beats (s : State) : Bool :=
  match s.host.ifState with
  | .abseil | .tripped | .reset => false
  | _ => decide (s.pwr.pwr ≠ .off)

def beatBytes (s : State) : Bytes :=
  leBytes 1 s.ports.pos ++ leBytes 1 s.ports.hops ++ leBytes 1 s.ports.exit ++ leBytes 1 s.host.ifState.code ++ zeros 4

def sendBeats (s : State) : State :=
  if beats s then ([1, 2, 3, 4].filter fun p => portUp p s && peerCarries p s).foldl (fun t p => emit (.ropeBeat p (beatBytes s)) t) s else s

def execRopeHeartbeatSend (s : State) : Res := .next (sendBeats s)

/-- A heartbeat from a ring neighbour: it is heard again; a partner in Bivouac takes its link to low rate (R404, R407, R408). -/
def takeBeat (p pos hops exit st : Nat) (s : State) : State :=
  if 1 ≤ p ∧ p ≤ 4 ∧ portUp p s = true ∧ neighbourPos p s = some pos then
    let t := modPort p (fun q => { q with beat := some (hops, exit, st) }) s
    let t := if st = 4 ∧ (portOf p s).train = 6 then goLowRate p t else t
    let t := modPorts (fun x => { x with lostPeers := x.lostPeers.filter fun q => decide (q ≠ pos) }) t
    reroute (capsChanged t)
  else s

def execRopeHeartbeatReceive (p pos hops exit st : Nat) (s : State) : Res := .next (takeBeat p pos hops exit st s)

/-- A neighbour unheard for 50 ms on all its ports is lost (R407; 01 R50, R51). -/
def losePeer (pos : Nat) (s : State) : State :=
  let n := s.ports.serials.length
  if 2 ≤ n ∧ (pos = (s.ports.pos + 1) % n ∨ pos = (s.ports.pos + n - 1) % n) ∧ s.ports.lostPeers.contains pos = false then
    let ps := [1, 2, 3, 4].filter fun p => decide (neighbourPos p s = some pos)
    let t := ps.foldl (fun t p => modPort p (fun q => { q with beat := none }) t) s
    let t := modPorts (fun x => { x with lostPeers := x.lostPeers ++ [pos] }) t
    let t := devEvent 0x24 5 (ps.headD 1) (leBytes 1 pos) t
    reroute (capsChanged t)
  else s

end Sys2Proof.Machine
end

