-- ==== Sys2Proof/Machine/Models.lean ====
section
/-! DEFINITION. The MODEL and AGENT services (07), the step boundary, snapshots and mirrors. -/
namespace Sys2Proof.Machine

/-! ### Weight images (R222; 03 R91, R109) -/

/-- Bytes of a packed block, and of a column of a packed tensor: its blocks along K (04 R136; log 182). -/
def packedBlock (x : WTensor) : Nat := 4 * fmtBits x.fmt + b2n x.scaled
def packedCol (x : WTensor) : Nat := (x.rows + 31) / 32 * packedBlock x

/-- Weight W[k][n] of a packed tensor, 0 outside it (log 182). -/
def packedAt (bs : Bytes) (x : WTensor) (k n : Nat) : Nat :=
  if k < x.rows ∧ n < x.cols then
    bits (fld bs (n * packedCol x + k / 32 * packedBlock x) (4 * fmtBits x.fmt)) (fmtBits x.fmt * (k % 32)) (fmtBits x.fmt)
  else 0

/-- The scale of K block `b` of lane `n`: 1 outside the tensor (log 182). -/
def packedScale (bs : Bytes) (x : WTensor) (b n : Nat) : Nat :=
  if 32 * b < x.rows ∧ n < x.cols then fld bs (n * packedCol x + b * packedBlock x + 4 * fmtBits x.fmt) 1 else 0x7F

/-- Reduction indices and lanes of a tile. -/
def imgK (x : WTensor) : Nat := if fmtClass x.fmt = 4 then 512 else 256
def imgN (x : WTensor) : Nat := if fmtClass x.fmt = 16 then 256 else 512

/-- The weight register of cell (i, j) of the tile at (k0, n0) (03 R91). -/
def weightReg (bs : Bytes) (x : WTensor) (k0 n0 i j : Nat) : Nat :=
  let w := fun (k n : Nat) => packedAt bs x (k0 + k) (n0 + n)
  if fmtClass x.fmt = 4 then w (2 * i) (2 * j) + 16 * w (2 * i) (2 * j + 1) + 256 * w (2 * i + 1) (2 * j) + 4096 * w (2 * i + 1) (2 * j + 1)
  else if fmtClass x.fmt = 8 then w i (2 * j) + 256 * w i (2 * j + 1)
  else w i j

/-- The scales of a cell column: per lane one for each K block of the tile (03 R109). -/
def scaleGroup (bs : Bytes) (x : WTensor) (k0 n0 j : Nat) : Bytes :=
  [0, 1].flatMap fun l => (List.range (imgK x / 32)).flatMap fun b => leBytes 1 (packedScale bs x (k0 / 32 + b) (n0 + 2 * j + l))

/-- The weight image of a tile: 256 column records of 256 registers, then the scale plane of a block-scaled one (03 R109). -/
def weightImage (bs : Bytes) (x : WTensor) (k0 n0 : Nat) : Bytes :=
  ((List.range 256).flatMap fun j => (List.range 256).flatMap fun i => leBytes 2 (weightReg bs x k0 n0 i j))
    ++ (if x.scaled then (List.range 256).flatMap fun j => scaleGroup bs x k0 n0 j else [])

/-- Sealed contents of a weight tensor: the images of its tiles, K fastest, where it is packed, else as it came (R222; log 182). -/
def tensorBytes (comp : Bytes) (x : WTensor) : Bytes :=
  let bs := sub comp x.off x.len
  if x.packed then
    (List.range ((x.cols + imgN x - 1) / imgN x)).flatMap fun n => (List.range ((x.rows + imgK x - 1) / imgK x)).flatMap fun k =>
      weightImage bs x (imgK x * k) (imgN x * n)
  else bs

/-- Bytes as a memory from 0, zeros unlisted; as the contents of pages. -/
def memOfBytes (bs : Bytes) : Memory := bs.zipIdx.filterMap fun e => if e.1 = 0 then none else some (e.2, e.1)
def bytePages (bs : Bytes) : List Memory := (List.range (pagesFor bs.length)).map fun i => memOfBytes (sub bs (pageBytes * i) (min pageBytes (bs.length - pageBytes * i)))

/-! ### MODEL (R221 to R225) -/

/-- References of `LOAD`: one for each component. -/
def loadRefs (r : Req) : List Ref := [refAt r.payload 0, refAt r.payload 16, refAt r.payload 32, refAt r.payload 48]

/-- What reading the components meets first. -/
def loadDenied (img : ModelImage) (r : Req) (s : State) : Option Nat :=
  ((loadRefs r).zipIdx.filterMap fun e => refDenied r e.1 e.1.len (img.comps.getD e.2 []) s).head?

/-- The components as they are read. -/
def readComps (img : ModelImage) (r : Req) (s : State) : List Bytes × State :=
  (loadRefs r).zipIdx.foldl (fun a e => match refRead r e.1 e.1.len (img.comps.getD e.2 []) a.2 with
    | .ok (bs, t) => (a.1 ++ [bs], t)
    | .error _ => (a.1 ++ [[]], a.2)) ([], s)

/-- A component's header (R222): its magic, its kind, the running interface's version, its body's length. -/
def headOk (k : Nat) (bs : Bytes) (s : State) : Bool :=
  decide (32 ≤ bs.length ∧ sub bs 0 4 = [0x45, 0x5A, 0x43, 0x4D] ∧ fld bs 4 1 = k + 1 ∧ fld bs 6 2 = s.fw.ifver ∧ fld bs 8 8 = bs.length - 32)

/-- A weight tensor lies in the body of its component; one that is packed is of formats 1 to 7 and has its blocks (R222). -/
def tensorOk (comp : Bytes) (x : WTensor) : Bool :=
  decide (32 ≤ x.off ∧ x.off + x.len ≤ comp.length ∧ 1 ≤ x.len) && (!x.packed || decide (1 ≤ x.fmt ∧ x.fmt ≤ 7 ∧ x.len = x.cols * packedCol x))

/-- The checks of the components: headers, and the structure of the bodies, which is the compiler kit's (R222; log 3). -/
def imageOk (img : ModelImage) (comps : List Bytes) (s : State) : Bool :=
  (comps.zipIdx.all fun e => headOk e.2 e.1 s && img.bodies.getD e.2 false) && img.tensors.all fun x => tensorOk (comps.getD 0 []) x

def modelCount (c : Nat) (s : State) : Nat := (s.agents.models.filter fun e => decide (e.2.ctx = c)).length

/-- The cairn of a `LOAD` (18 R548). -/
def loadCairn (h checked bytes : Nat) : Bytes := leBytes 4 h ++ leBytes 1 checked ++ zeros 3 ++ leBytes 8 bytes

def setLoad (rid : Nat) (f : Load → Load) (s : State) : State :=
  modAgents (fun a => { a with loads := a.loads.map fun l => if l.rid = rid then f l else l }) s

/-- Releases a model with its weights, its pool and its staging (R225). -/
def unloadModel (m : Nat) (s : State) : State :=
  match modelOf m s with
  | none => s
  | some x => modAgents (fun a => { a with models := tdel a.models m }) (x.weights.foldl (fun t h => freeObj h t) s)

/-- A `LOAD` that does not succeed frees everything that it allocated (R224). -/
def abandonLoad (l : Load) (s : State) : State :=
  unloadModel l.model (l.cur.foldl (fun t p => releasePage p t) (modAgents (fun a => { a with loads := a.loads.filter fun x => decide (x.rid ≠ l.rid) }) s))

/-- A weight page: sealed, with its flash copy, and with `MIRROR_W` a second one on another channel (R223; 08 R264). -/
def loadPage (l : Load) (x : Model) (data : Memory) (s : State) : State :=
  let (p, t) := newPage x.ctx .sealed data s
  let t := modPage p (fun q => { q with stored := storedOf 16 data, packed := packedOf 16 data }) t
  let t := copyPage p false t
  setLoad l.rid (fun y => { y with cur := y.cur ++ [p] }) (if x.mirrorW then copyTwin p t else t)

/-- A converted tensor whose pages are stored: a sealed object, a commit point (R223, R251); none where no address range is free. -/
def loadTensor (l : Load) (x : Model) (s : State) : Option State :=
  match chooseVa x.ctx (pageBytes * l.cur.length) s with
  | some va =>
    let (h, t) := newObj x.ctx va (16 + 8 * b2n l.pin) l.cur [] s
    let bytes := x.weightBytes + sumN (l.cur.map fun p => match pageGet p t with | some q => q.packed | none => 0)
    let t := modModel l.model (fun y => { y with weights := y.weights ++ [h], weightBytes := bytes }) t
    some (commit l.rid 1 (some (loadCairn l.model 0x1E bytes)) (setLoad l.rid (fun y => { y with rest := y.rest.drop 1, cur := [] }) t))
  | none => none

/-- The pages of a load that may leave T1 for the next one (R223; 08 R265). -/
def loadVictim (l : Load) (x : Model) (s : State) : Option Nat :=
  let objs := x.weights.flatMap fun h => match tget s.mem.objs h with | some o => o.pages | none => []
  (objs ++ l.cur).find? fun p => match pageGet p s with | some q => q.t1.isSome && !q.dropT1 && !q.dropT2 | none => false

/-- Makes T1 room for the next page of a load: one stored before goes to T2, else to flash. -/
def loadRoom (l : Load) (x : Model) (s : State) : State :=
  match loadVictim l x s with
  | some p =>
    let t := demotePage p s
    match pageGet p t with
    | some q => if q.t2.isNone then leaveDram p t else t
    | none => t
  | none => s

/-- A load goes on page by page: into T1 while the context has room there, as room comes when pages of it have left; without any, it ends
with `NO_SPACE` (R223, R224). -/
def runLoad (fuel rid : Nat) (s : State) : State :=
  match fuel with
  | 0 => s
  | n + 1 =>
    match s.agents.loads.find? fun l => decide (l.rid = rid) with
    | none => s
    | some l =>
      match modelOf l.model s, l.rest with
      | none, _ => abandonLoad l s
      | some x, [] =>
        complete rid stSuccess (leBytes 4 l.model ++ zeros 4 ++ leBytes 8 x.weightBytes) (modAgents (fun a => { a with loads := a.loads.filter fun y => decide (y.rid ≠ rid) }) s)
      | some x, pages :: _ =>
        if !(live rid s) then commit rid 0 none (abandonLoad l s)
        else match pages.drop l.cur.length with
          | [] => (match loadTensor l x s with
            | some t => runLoad n rid t
            | none => fail rid stNoSpace (abandonLoad l s))
          | data :: _ =>
            if t1Fits x.ctx pageBytes s then runLoad n rid (loadPage l x data s)
            else if (loadVictim l x s).isSome then runLoad n rid (loadRoom l x s)
            else if 0 < ctxLeaving x.ctx s then s
            else fail rid stNoSpace (abandonLoad l s)

/-- Every load in progress goes on as far as it can. -/
def loadProgress (s : State) : State :=
  s.agents.loads.foldl (fun t l => runLoad (2 * sumN (l.rest.map fun p => p.length + 1) + sumN (s.mem.pages.map fun _ => 1) + 2) l.rid t) s

def loadBody (img : ModelImage) (r : Req) (s : State) : State :=
  let refs := loadRefs r
  let mib := fld r.payload 64 4
  let mb := fld r.payload 68 2
  let fl := fld r.payload 70 2
  let mw := fld r.payload 72 4
  let wait := fld r.payload 76 4
  let (comps, read) := readComps img r s
  let pool := mib * 2 ^ 20 / max img.kvBlockBytes 1
  let staging := mb * 16 * img.kvBlockBytes
  let parts := img.tensors.map fun x => bytePages (tensorBytes (comps.getD 0 []) x)
  let pages := sumN (parts.map List.length)
  let need := mib * 2 ^ 20 + staging + (if bit fl 1 then pageBytes * pages else 0)
  let packed := sumN (parts.map fun l => sumN (l.map (packedOf 16)))
  checked r.rid [
    (hasRef r || refs.any (fun x => !(refReads x)) || decide (mb = 0 ∨ 4096 < mb) || decide (4 ≤ fl) || decide (mw < 4096 ∨ 262144 < mw ∨ mw % 256 ≠ 0) || decide (100000 < wait), stInvalidField),
    ((loadDenied img r s).isSome, (loadDenied img r s).getD 0),
    (!(imageOk img comps s), stBadImage),
    (decide (pool < 4), stInvalidField),
    (decide (16 ≤ modelCount r.mbx s) || !(t1Fits r.mbx need s) || !(quotaFits r.mbx 0 (packed * (1 + b2n (bit fl 0))) s), stNoSpace)]
    (fun _ =>
      let h := read.agents.nextModel
      let t := (List.range 4).foldl (fun t k => commit r.rid 0 (some (loadCairn h (2 * (2 ^ (k + 1) - 1)) 0)) t) read
      let m : Model := {
        ctx := r.mbx, layers := img.layers, kvHeads := img.kvHeads, headDim := img.headDim, kvFmt := img.kvFmt, kvBlockBytes := img.kvBlockBytes
        encoder := img.encoder, weights := [], weightBytes := 0, mirrorW := bit fl 0, maxWindow := mw, poolMib := mib, poolBlocks := pool, freeBlocks := pool
        cache := [], staging := staging, maxBatch := mb, retrWaitUs := if wait = 0 then 2000 else wait, nextCfg := none, members := [], joiners := []
        stages := [], stepUs := 0, digest := leNat (shake256 comps.flatten 32) }
      let t := modAgents (fun a => { a with
        nextModel := h + 1, models := tset a.models h { m with stages := stagesOf m t }, loads := a.loads ++ [⟨r.rid, h, bit fl 1, parts, []⟩] }) t
      loadProgress (setRunning r.rid t)) s

/-- `LOAD`; `img` is what the components hold (log 3). -/
def execModelLoad (rid : Nat) (img : ModelImage) (s : State) : Res := .next (serve 3 1 rid (loadBody img) s)

/-- Sessions of a model, in any state (R225). -/
def modelBusy (m : Nat) (s : State) : Bool := s.agents.sess.any fun e => decide (e.2.model = m)

def unloadBody (r : Req) (s : State) : State :=
  let m := fld r.payload 0 4
  checked r.rid [(hasRef r, stInvalidField), ((modelFor r.mbx m s).isNone, stNoModel), (modelBusy m s, stModelBusy)]
    (fun t => complete r.rid stSuccess [] (unloadModel m t)) s

def execModelUnload (rid : Nat) (s : State) : Res := .next (serve 3 2 rid unloadBody s)

/-- Reply of `QUERY` (R225). -/
def modelReply (m : Nat) (x : Model) (s : State) : Bytes :=
  leBytes 4 m ++ leBytes 2 x.layers ++ leBytes 2 x.kvHeads ++ leBytes 2 x.headDim ++ leBytes 1 x.kvFmt ++ leBytes 1 x.stages.length ++ leBytes 4 x.kvBlockBytes
    ++ leBytes 4 x.poolBlocks ++ leBytes 4 x.freeBlocks ++ leBytes 2 x.maxBatch ++ leBytes 2 x.members.length ++ leBytes 2 x.joiners.length ++ zeros 2
    ++ leBytes 4 x.stepUs ++ leBytes 4 ((sessOfModel m s).filter fun e => decide (0 < e.2.blocks)).length

def modelQueryBody (r : Req) (s : State) : State :=
  let m := fld r.payload 0 4
  match modelFor r.mbx m s with
  | some x => checked r.rid [(hasRef r, stInvalidField)] (fun t => complete r.rid stSuccess (modelReply m x t) t) s
  | none => checked r.rid [(hasRef r, stInvalidField), (true, stNoModel)] id s

def execModelQuery (rid : Nat) (s : State) : Res := .next (serve 3 3 rid modelQueryBody s)

def batchCfgBody (r : Req) (s : State) : State :=
  let m := fld r.payload 0 4
  let mb := fld r.payload 4 2
  let w := fld r.payload 8 4
  checked r.rid [(hasRef r || decide (mb = 0 ∨ 4096 < mb) || decide (100000 < w), stInvalidField), ((modelFor r.mbx m s).isNone, stNoModel)]
    (fun t => complete r.rid stSuccess [] (modModel m (fun x => { x with nextCfg := some (mb, if w = 0 then 2000 else w) }) t)) s

def execModelBatchCfg (rid : Nat) (s : State) : Res := .next (serve 3 4 rid batchCfgBody s)

/-! ### The batch -/

/-- A step boundary; `step` is what the step that ends computed (R230; log 3). -/
def execStepBoundary (m : Nat) (step : StepReport) (s : State) : Res := .next (boundary m step s)

/-- A reshard completes: the session joins the decode steps at the next boundary, its staging goes back (R227). -/
def reshardDone (id : Nat) (s : State) : State :=
  match sessOf id s with
  | some x => if x.phase = .reshard then modSess id (fun y => { y with phase := .ready, shards := [], blocks := min y.blocks (blockNeed x s) }) s else s
  | none => s

def execReshard (sess : Nat) (s : State) : Res := .next (reshardDone sess s)

/-- A selected block was not in T1 in time: omitted from the step and counted (R241). -/
def retrievalExpired (id blk : Nat) (s : State) : State :=
  match sessOf id s with
  | some x => if retrieving x blk s then omitBlock id blk s else s
  | none => s

def execRetrievalWaitExpiry (sess block : Nat) (s : State) : Res := .next (retrievalExpired sess block s)

/-! ### AGENT (R233 to R246) -/

/-- Requests that name one session take effect in acceptance order: one that follows a request waiting for a boundary, for admission or for
a snapshot waits with it, where that changes what it meets (R233, R237). -/
def sessTurn (r : Req) (s : State) : Bool :=
  let id := fld r.payload 0 8
  !(s.ledger.reqs.any fun q => decide (q.rid < r.rid ∧ q.svc = 4 ∧ q.op ≠ 1 ∧ q.mbx = r.mbx ∧ fld q.payload 0 8 = id) && q.done.isNone && !q.running && q.settled.isNone)
    && (match sessFor r.mbx id s with
      | some x =>
        let waited := match x.inProg with | some n => !n.waiters.isEmpty | none => false
        let before := fun (ops : List Nat) => ops.any fun o => hasOp x.atBoundary o s
        x.joinRid.isNone && (match r.op with
          | 9 => x.atBoundary.isEmpty && !(waited && pausing x)
          | 2 | 3 | 5 => x.atBoundary.isEmpty && !waited && !(pausing x)
          | 8 => !(before [2, 4, 6, 8]) && !waited && !(pausing x)
          | _ => !(before [2, 4, 8]) && !waited && !(pausing x))
      | none => true)

/-- A request on a session: found, and its turn. -/
def onSess (r : Req) (errs : List (Bool × Nat)) (late : Sess → List (Bool × Nat)) (f : Nat → Sess → State → State) (s : State) : State :=
  let id := fld r.payload 0 8
  if sessTurn r s then
    match sessFor r.mbx id s with
    | none => checked r.rid ((hasRef r, stInvalidField) :: errs ++ [(true, stNoSession)]) (fun t => t) s
    | some x => checked r.rid ((hasRef r, stInvalidField) :: errs ++ late x) (f id x) s
  else s

/-- The context serves latency-critical sessions (06 R195). -/
def ctxLc (c : Nat) (s : State) : Bool := match slotOf c s with | some k => k.act.lc | none => false

/-- The model has a pool: one kept with none, or gone, admits no session (02 R59). -/
def poolless (m : Nat) (s : State) : Bool := match modelOf m s with | some x => decide (x.poolBlocks = 0) | none => true

/-- The session that a `CREATE` makes (R234, R238, R249). -/
def newSess (r : Req) (id : Nat) (s : State) : Sess :=
  let w := fld r.payload 16 4
  let per := fld r.payload 22 2
  let eph := bit (fld r.payload 5 1) 0
  let mir := if eph then 0 else fld r.payload 6 1
  let seed : U64 := if fld r.payload 8 8 = 0 then Config.freeBits 64 s.freeCtr else BitVec.ofNat 64 (fld r.payload 8 8)
  { ctx := r.mbx, model := fld r.payload 0 4, lc := decide (fld r.payload 4 1 = 1), ephemeral := eph, mirror := mir, mirrorPos := fld r.payload 7 1
    window := if w = 0 then 32768 else w, retrBlocks := fld r.payload 20 2, snapPeriod := if eph then 0xFFFF else if per = 0 then 30 else per
    state := .open, phase := .joinCreate, chunkLeft := 0, shards := [], query := 0, selected := [], omitted := [], pauseReason := 0
    mirrorState := if mir = 0 then 0 else 2, body := SessBody.fresh (seedRng seed id), gen := none, joinRid := some r.rid, restore := none, atBoundary := []
    blocks := 0, since := 0, snaps := [], inProg := none, nextSnap := 1, logged := [], snapAt := 0, mirrored := 0, mirrorWait := none, sentBlks := [] }

def createBody (r : Req) (s : State) : State :=
  let m := fld r.payload 0 4
  let w := fld r.payload 16 4
  let win := if w = 0 then 32768 else w
  let bad := match modelFor r.mbx m s with
    | some x => x.encoder || decide (win < 4096 ∨ x.maxWindow < win ∨ win % 256 ≠ 0)
    | none => true
  checked r.rid [
    (hasRef r || decide (1 < fld r.payload 4 1) || (decide (fld r.payload 4 1 = 1) && !(ctxLc r.mbx s)) || decide (1 < fld r.payload 5 1) || decide (2 < fld r.payload 6 1)
      || decide (512 < fld r.payload 20 2) || bad, stInvalidField),
    (sessFull s || poolless m s, stNoSpace)]
    (fun t =>
      let id := newSessId r.mbx t
      let x := newSess r id t
      let t := bumpFree (modAgents (fun a => { a with nextSerial := a.nextSerial + 1 }) t)
      quietBoundary m (setRunning r.rid (newJoiner id x t))) s

def execAgentCreate (rid : Nat) (s : State) : Res := .next (serve 4 1 rid createBody s)

/-- The tokens of an `APPEND`: by reference, or inline from offset 32 (R234). -/
def appendToks (toks : List U32) (r : Req) (s : State) : Except Check (List U32 × State) :=
  let n := fld r.payload 8 4
  let ref := refAt r.payload 16
  if ref.len = 0 then .ok ((List.range n).map (fun i => BitVec.ofNat 32 (fld r.payload (32 + 4 * i) 4)), s)
  else match refRead r ref (4 * n) (toks.flatMap fun v => leBytes 4 v.toNat) s with
    | .ok (bs, t) => .ok ((List.range n).map (fun i => BitVec.ofNat 32 (fld bs (4 * i) 4)), t)
    | .error e => .error e

/-- A request that takes effect at the next boundary of its model's batch, made at once where the batch has no members (R229, R233, R242). -/
def atBoundary (r : Req) (id : Nat) (x : Sess) (s : State) : State :=
  quietBoundary x.model (setRunning r.rid (modSess id (fun y => { y with atBoundary := y.atBoundary ++ [r.rid] }) s))

/-- Appends the tokens; where the ledger would hold more than 65,536 the session is snapshotted first (R234, R248). -/
def appendBody (toks : List U32) (r : Req) (id : Nat) (x : Sess) (s : State) : State :=
  match appendToks toks r s with
  | .error e => fail r.rid (checkStatus e) s
  | .ok (l, t) =>
    let logged := if x.ephemeral then [] else x.logged ++ l
    let b := { x.body with pending := x.body.pending ++ l }
    let t := modSess id (fun y => { y with body := b, logged := logged }) t
    if logged.length ≤ 65536 then replySnap id 0 0 b r.rid t
    else if x.state = .paused then takeSnap id b logged.length [r.rid] true (setRunning r.rid t)
    else atBoundary r id x t

/-- `APPEND`; `toks` are the tokens where they lie in control-node memory (log 3). -/
def execAgentAppend (rid : Nat) (toks : List U32) (s : State) : Res :=
  .next (serve 4 2 rid (fun r t =>
    let n := fld r.payload 8 4
    let ref := refAt r.payload 16
    onSess r [(decide (n = 0 ∨ 2 ^ 20 < n) || (if ref.len = 0 then decide (112 < n) else !(refReads ref) || decide (ref.len < 4 * n)), stInvalidField)]
      (fun x => [(decide (x.state = .running), stBadState), (decide (2 ^ 26 < totalTok x.body + n), stSessionFull), (decide (2 ^ 20 < x.body.pending.length + n), stPendingFull)])
      (fun id x u => appendBody toks r id x u) t) s)

/-- `GENERATE`: the session becomes a joiner of its model's batch (R230, R235). -/
def generateBody (r : Req) (id : Nat) (x : Sess) (s : State) : State :=
  let out := refAt r.payload 56
  let g : Gen := ⟨r.rid, fld r.payload 8 4, fld r.payload 12 4, out.space, out.addr, out.len, 0⟩
  let b := { x.body with
    sampler := fld r.payload 16 2, sparams := sub r.payload 24 32, chunks := 0, chunksTotal := (8191 + x.body.pending.length) / 8192, generated := 0, gens := x.body.gens + 1 }
  let y := { x with gen := some g, body := b, state := .running, phase := .joinGen }
  let t := modModel x.model (fun m => { m with joiners := m.joiners ++ [id] }) (modSess id (fun _ => y) s)
  quietBoundary x.model (setRunning r.rid (modCairn r (fun k => { k with body := genCairn id y g 0xFF }) t))

def execAgentGenerate (rid : Nat) (s : State) : Res :=
  .next (serve 4 3 rid (fun r t =>
    let n := fld r.payload 8 4
    let out := refAt r.payload 56
    onSess r [(decide (n = 0 ∨ 2 ^ 20 < n) || !(refWrites out) || decide (out.len < 8 + 4 * n), stInvalidField)]
      (fun x => [(decide (x.state ≠ .open), stBadState)]) (fun id x u => generateBody r id x u) t) s)

/-- `PAUSE`: of a paused session it replies at once (R235, R244). -/
def pauseBody (r : Req) (id : Nat) (x : Sess) (s : State) : State :=
  if x.state = .paused then
    let (q, n) := match x.snaps with | a :: _ => (a.seq, a.bytes) | [] => (0, 0)
    replySnap id q n x.body r.rid s
  else atBoundary r id x s

def execAgentPause (rid : Nat) (s : State) : Res :=
  .next (serve 4 4 rid (fun r t => onSess r [] (fun x => [(x.ephemeral, stBadState)]) (fun id x u => pauseBody r id x u) t) s)

/-- The snapshot that a `RESUME` names (R235). -/
def snapNamed (q : Nat) (x : Sess) : Option Snap := x.snaps.find? fun n => decide (q = 0 ∨ n.seq = q)

/-- `RESUME`: a joiner of the pool, from the snapshot named (R244, R246). -/
def resumeBody (r : Req) (id : Nat) (x : Sess) (s : State) : State :=
  match snapNamed (fld r.payload 8 4) x with
  | none => fail r.rid stInvalidField s
  | some n =>
    let t := modSess id (fun y => { y with phase := .joinResume, joinRid := some r.rid, restore := some n }) s
    quietBoundary x.model (setRunning r.rid (modModel x.model (fun m => { m with joiners := m.joiners ++ [id] }) t))

/-- Log 184. -/
def execAgentResume (rid : Nat) (s : State) : Res :=
  .next (serve 4 5 rid (fun r t => onSess r [] (fun x => [
    (decide (fld r.payload 8 4 ≠ 0) && (snapNamed (fld r.payload 8 4) x).isNone, stInvalidField),
    (decide (x.state ≠ .paused), stBadState), (poolless x.model t, stNoSpace)]) (fun id x u => resumeBody r id x u) t) s)

def execAgentSnapshot (rid : Nat) (s : State) : Res :=
  .next (serve 4 6 rid (fun r t => onSess r [] (fun x => [(x.ephemeral || decide (x.state = .paused), stBadState)]) (fun id x u => atBoundary r id x u) t) s)

def forkBody (r : Req) (id : Nat) (x : Sess) (s : State) : State :=
  match x.state with
  | .running => atBoundary r id x s
  | .paused => forkSess r.rid id s
  | _ => quietBoundary x.model (forkSess r.rid id s)

def execAgentFork (rid : Nat) (s : State) : Res :=
  .next (serve 4 7 rid (fun r t =>
    onSess r [(decide (1 < fld r.payload 16 1) || (decide (fld r.payload 16 1 = 1) && !(ctxLc r.mbx t)), stInvalidField)]
      (fun x => [(x.ephemeral, stBadState), (sessFull t, stNoSpace)]) (fun id x u => forkBody r id x u) t) s)

def closeBody (r : Req) (id : Nat) (x : Sess) (s : State) : State := if x.state = .running then atBoundary r id x s else closeSess r.rid id s

def execAgentClose (rid : Nat) (s : State) : Res :=
  .next (serve 4 8 rid (fun r t => onSess r [] (fun _ => []) (fun id x u => closeBody r id x u) t) s)

/-- Reply of `QUERY` (R235). -/
def sessReply (id : Nat) (x : Sess) : Bytes :=
  leBytes 8 id ++ leBytes 1 x.state.code ++ leBytes 1 (b2n x.lc) ++ leBytes 1 x.pauseReason ++ leBytes 1 x.mirrorState ++ leBytes 4 x.model
    ++ leBytes 8 (totalTok x.body) ++ leBytes 4 x.body.sealed.length ++ leBytes 4 x.body.pending.length
    ++ leBytes 4 (match x.snaps with | n :: _ => n.seq | [] => 0) ++ leBytes 4 (match x.snaps with | _ :: n :: _ => n.seq | _ => 0)

def execAgentQuery (rid : Nat) (s : State) : Res :=
  .next (serve 4 9 rid (fun r t => onSess r [] (fun _ => []) (fun id x u => complete rid stSuccess (sessReply id x) u) t) s)

/-! ### Snapshots and mirrors (R244, R249) -/

def execSnapshotCommit (sess : Nat) (s : State) : Res := .next (commitSnap sess s)

/-- Replies the requests that waited for the peer. -/
def mirrorReplies (id st : Nat) (s : State) : State :=
  match sessOf id s with
  | none => s
  | some x =>
    match x.mirrorWait with
    | none => s
    | some (q, l) =>
      let (n, b) := match x.snaps.find? fun a => decide (a.seq = q) with | some a => (a.bytes, a.body) | none => (0, x.body)
      l.foldl (fun t r => snapAnswer id q n (totalTok b) b.pending.length st r t) (modSess id (fun y => { y with mirrorWait := none }) s)

/-- The peer has committed a snapshot and every block that it references, all of them sent (R249). -/
def mirrorCommitted (id seq : Nat) (s : State) : State :=
  match sessOf id s with
  | none => s
  | some x =>
    if x.mirror = 0 ∨ (x.snaps.any fun n => decide (n.seq = seq) && n.body.sealed.all fun b => x.sentBlks.contains b) = false then s
    else
      let latest := match x.snaps with | n :: _ => n.seq | [] => 0
      let t := modSess id (fun y => { y with mirrored := seq, mirrorState := if seq = latest then 1 else 2 }) s
      match x.mirrorWait with
      | some (q, _) => if q ≤ seq then mirrorReplies id stSuccess t else t
      | none => raiseEvent 0x401 1 4 x.ctx 0 (leBytes 8 id ++ leBytes 4 seq) t

def execMirrorDone (sess seq : Nat) (s : State) : Res := .next (mirrorCommitted sess seq s)

/-- The peer has not confirmed within 20 ms: `MIRROR_UNAVAILABLE`, then as in asynchronous mode (R249). -/
def mirrorLate (id : Nat) (s : State) : State :=
  match sessOf id s with
  | none => s
  | some x =>
    match x.mirrorWait with
    | none => s
    | some _ =>
      let t := mirrorReplies id stMirrorUnavailable s
      if peerReach x.mirrorPos t then modSess id (fun y => { y with mirrorState := 2 }) t else mirrorLost id t

def execMirrorUnavailable (sess : Nat) (s : State) : Res := .next (mirrorLate sess s)

/-- Sessions mirrored at a position lose their peer (R249). -/
def mirrorsLost (pos : Nat) (s : State) : State :=
  s.agents.sess.foldl (fun t e => if e.2.mirror ≠ 0 ∧ e.2.mirrorPos = pos then mirrorLost e.1 t else t) s

/-- A neighbour unheard for 50 ms is lost, with the mirrors it held (13 R407; R249). -/
def execPeerLost (pos : Nat) (s : State) : Res :=
  .next (if s.ports.lostPeers.contains pos then s
    else let t := losePeer pos s; if t.ports.lostPeers.contains pos then mirrorsLost pos t else t)

end Sys2Proof.Machine
end

