-- ==== Sys2Proof/Machine/TuneOps.lean ====
section
/-! DEFINITION. Operations of TUNE (14): wire blocks and their sums, buckets and their directories, the ring schedule, applying and
breaking, the placement of a step's factors. -/
namespace Sys2Proof.Machine

/-! ### Wire blocks (R422 to R424) -/

/-- FP32 value as an exact value, 0 for a special one. -/
def fvPair (x : U32) : Int × Int := (fvTerm (f32 x)).getD (0, 0)
def fvSpecial (x : U32) : Bool := match f32 x with | .fin _ _ _ => false | _ => true
def fvIsZero (x : U32) : Bool := match f32 x with | .fin _ m _ => decide (m = 0) | _ => false

/-- `x · 2^(127 − e)` to nearest, ties to even, saturated to ±(2^31 − 1) (R423). -/
def rneScale (x : U32) (e : Nat) : Int :=
  let p := fvPair x
  let n := roundUnits none p.1.natAbs (p.2 + 127 - e) 0
  satInt (if p.1 < 0 then -(n : Int) else (n : Int))

/-- `a · 2^−t` to nearest, ties to even. -/
def rneShift (a : Int) (t : Nat) : Int := if a < 0 then -(shrEven a.natAbs t : Int) else (shrEven a.natAbs t : Int)

/-- The floor of log2 of the largest magnitude. -/
def topLog (xs : List U32) : Option Int :=
  (xs.filterMap fun x => match f32 x with | .fin _ m e => if m = 0 then none else some ((Nat.log2 m : Int) + e) | _ => none).max?

/-- A block of the member's own values, as its origin quantises it (R423). -/
def quantBlock (h : Nat) (xs : List U32) : WireBlock :=
  if xs.any fvSpecial then ⟨xs.map fun _ => 0, 0x7F, false, true, false⟩
  else match topLog xs with
    | none => ⟨xs.map fun _ => 0, 0, false, false, false⟩
    | some l =>
      let e := (min (max (l + 127 - (14 - h)) 0) 254).toNat
      ⟨xs.map fun x => rneScale x e, e, false, false, false⟩

/-- The sum at exponent `e_r + t`. -/
def sumAt (b : WireBlock) (xs : List U32) (t : Nat) : List Int :=
  (b.v.zip xs).map fun p => satInt (rneShift p.1 t + rneScale p.2 (b.e + t))

def fits16 (w : List Int) : Bool := w.all fun x => decide (x.natAbs ≤ 32767)
def clamp16 (x : Int) : Int := max (-32767) (min 32767 x)

/-- The least growth at which the sum fits; at exponent 254 the elements are clamped (R423). Answers the elements, the growth
and whether it clamped. -/
def growSum (fuel t : Nat) (b : WireBlock) (xs : List U32) : List Int × Nat × Bool :=
  let w := sumAt b xs t
  if fits16 w then (w, t, false)
  else match fuel with
    | 0 => (w.map clamp16, t, true)
    | k + 1 => growSum k (t + 1) b xs

/-- A member adds its own values to a received block: the block that goes on, and whether its exponent rose (R423). -/
def addBlock (h : Nat) (b : WireBlock) (xs : List U32) : WireBlock × Bool :=
  if b.nonFinite || xs.any fvSpecial then (⟨b.v.map fun _ => 0, max b.e 0x7F, b.expGrew, true, b.saturated⟩, false)
  else if b.v.all fun x => decide (x = 0) then
    let q := quantBlock h xs
    ({ q with expGrew := b.expGrew, nonFinite := b.nonFinite, saturated := b.saturated }, false)
  else
    let (w, t, c) := growSum (254 - b.e) 0 b xs
    (⟨w, b.e + t, b.expGrew || decide (0 < t), false, b.saturated || c⟩, decide (0 < t))

/-- An element decoded into FP32 exactly, with the flush of R133 (R422). -/
def decodeWire (b : WireBlock) : List U32 := b.v.map fun v => roundF32 (decide (v < 0)) v.natAbs ((b.e : Int) - 127)

/-- FP32 divided by a small count, rounded once to nearest even (R413; log 80). -/
def fpDivN (x : U32) (k : Nat) : U32 :=
  match f32 x with
  | .nan => fpNan
  | .inf s => fpInf s
  | .fin s m e =>
    let n := m * 2 ^ 40
    roundF32 s (2 * (n / k) + b2n (decide (n % k ≠ 0))) (e - 41)

/-- `n` FP32 values that the spec leaves to the order of evaluation (R413; 04 R156; log 43). -/
def drawF32 (n : Nat) (s : State) : List U32 × State := ((List.range n).map fun i => Config.freeF32 s.freeCtr i, bumpFree s)

/-- FP32 value of an element of a gradient or weight format. -/
def toF32 (c : Nat) (v : Nat) : U32 :=
  match decodeFloat c v with
  | .nan => fpNan
  | .inf s => fpInf s
  | .fin s m e => roundF32 s m e

def elemBytes (c : Nat) : Nat := if c = 10 then 4 else 2
def splitElems (n w : Nat) (bs : Bytes) : List Nat := (List.range n).map fun i => fld bs (i * w) w

/-! ### Records -/

def groupOf (g : Nat) (s : State) : Option Group := tget s.tune.groups g
def modGroup (g : Nat) (f : Group → Group) (s : State) : State := { s with tune := { s.tune with groups := tmod s.tune.groups g f } }
def bucketOf (g seq : Nat) (s : State) : Option Bucket := (groupOf g s).bind fun x => x.slots.find? fun b => decide (b.seq = seq)
def modBucket (g seq : Nat) (f : Bucket → Bucket) (s : State) : State :=
  modGroup g (fun x => { x with slots := x.slots.map fun b => if b.seq = seq then f b else b }) s
def modRec (g seq : Nat) (f : BucketRec → BucketRec) (s : State) : State :=
  modGroup g (fun x => { x with recs := x.recs.map fun r => if r.seq = seq then f r else r }) s
def isStep (g n : Nat) (x : TStep) : Bool := decide (x.group = g ∧ x.stepSeq = n)
def stepOf (g n : Nat) (s : State) : Option TStep := s.tune.steps.find? (isStep g n)
def modStep (g n : Nat) (f : TStep → TStep) (s : State) : State :=
  { s with tune := { s.tune with steps := s.tune.steps.map fun x => if isStep g n x then f x else x } }
def adapterOf (a : Nat) (s : State) : Option Adapter := tget s.tune.adapters a
def modTensor (a i : Nat) (f : Tensor → Tensor) (s : State) : State :=
  { s with tune := { s.tune with adapters := tmod s.tune.adapters a fun x => { x with tensors := x.tensors.zipIdx.map fun e => if e.2 = i then f e.1 else e.1 } } }

/-- Ring positions of a mask, rising; ⌈log2 k⌉ (R416). -/
def members (mask : Nat) : List Nat := maskBits mask 16
def headroom (k : Nat) : Nat := if k ≤ 1 then 0 else Nat.log2 (k - 1) + 1

def tuneEvent (code ctx : Nat) (payload : Bytes) (s : State) : State := raiseEvent code 1 9 ctx 0 payload s

/-- Control packet kinds (R427). -/
def kHello : Nat := 1
def kGrant : Nat := 2
def kAbort : Nat := 3

/-- Sends a control packet of this module in a direction (R417, R427). -/
def sendCtl (g kind dir seq mask cause : Nat) (s : State) : State := emit (.tune g ⟨kind, dir, seq, mask, s.ports.pos, cause⟩) s

/-! ### Steps: treatment, completion, cairn (R415, R432, R435) -/

def treated (x : StepTensor) : Bool := match x.stage with | .applied | .skipped | .broke => true | _ => false

/-- The cairn body of a step (R435; 18 R548). -/
def stepBody (x : TStep) : Bytes :=
  let m1 := bitsMask ((x.tensors.filter fun t => decide (t.stage = .applied)).map (·.idx))
  let m2 := bitsMask ((x.tensors.filter fun t => decide (t.stage = .skipped ∨ t.stage = .broke)).map (·.idx))
  leBytes 4 x.stepSeq ++ leBytes 4 ((x.buckets.min?).getD 0) ++ leBytes 4 x.buckets.length ++ zeros 4 ++ leBytes 128 m1 ++ leBytes 128 m2

/-- The reply of a step (R432). -/
def stepReply (x : TStep) : Bytes :=
  leBytes 4 x.stepSeq ++ leBytes 2 x.applied ++ leBytes 2 x.skipped ++ leBytes 4 ((x.buckets.min?).getD 0) ++ leBytes 4 x.buckets.length
    ++ leBytes 4 x.growth ++ leBytes 4 x.grew ++ zeros 8

/-- A commit point of a step (R435). -/
def stepCommit (g n units : Nat) (s : State) : State :=
  match stepOf g n s with
  | some x => if x.replied then s else commit x.rid units (some (stepBody x)) s
  | none => s

/-- Replies when every tensor is treated; the step leaves the list when its factors are placed too (R432). -/
def stepFinish (g n : Nat) (s : State) : State :=
  match stepOf g n s with
  | none => s
  | some x =>
    let t := if !x.replied && x.tensors.all treated then modStep g n (fun y => { y with replied := true }) (complete x.rid x.status (stepReply x) s) else s
    match stepOf g n t with
    | some y => if y.replied ∧ y.phase = 3 ∧ y.tensors.all treated = true then { t with tune := { t.tune with steps := t.tune.steps.filter fun z => !(isStep g n z) } } else t
    | none => t

/-- A tensor of a step changes its stage, which is a commit point. -/
def stageTensor (g n i : Nat) (st : TStage) (s : State) : State :=
  let t := modStep g n (fun x =>
    { x with tensors := x.tensors.map (fun y => if y.idx = i then { y with stage := st } else y)
             applied := x.applied + b2n (decide (st = .applied)), skipped := x.skipped + b2n (decide (st = .skipped)) }) s
  stepCommit g n 1 t

/-- A tensor is not applied because a bucket broke: W and Q0 unchanged, E becomes M (R415). -/
def breakTensor (g n i : Nat) (s : State) : State :=
  match stepOf g n s with
  | none => s
  | some x =>
    match x.tensors.find? fun y => decide (y.idx = i) with
    | some y =>
      if treated y then s
      else stageTensor g n i .broke (if y.mval.isEmpty then s else modTensor x.adapter i (fun z => { z with e := y.mval }) s)
    | none => s

/-- A tensor is applied: W and E take values that fall under R156, Q0 becomes Qr / k (R413, R415). A page of W that is lost gives
the step `DATA_LOST` (R432). -/
def applyTensor (g n i k : Nat) (qr : List U32) (s : State) : State :=
  match stepOf g n s with
  | none => s
  | some x =>
    match (adapterOf x.adapter s).bind fun a => (a.tensors[i]?).map fun t => (a, t) with
    | none => s
    | some (a, z) =>
      let (w, t) := drawF32 (z.m * z.n) s
      let (e, t) := drawF32 (z.m * z.n) t
      let sz := if z.fp32 then 4 else 2
      match ctxWrite a.ctx z.wAddr (w.flatMap fun v => leBytes sz v.toNat) t with
      | .ok u => stageTensor g n i .applied (modTensor x.adapter i (fun y => { y with e := e, q0 := qr.map fun v => fpDivN v k }) u)
      | _ => breakTensor g n i (modStep g n (fun y => { y with status := if y.status = 0 then stDataLost else y.status }) s)

/-- A factor of a tensor has been reduced (R415). -/
def gotFactor (g n i k : Nat) (isQ : Bool) (vals : List U32) (nonFinite : Bool) (s : State) : State :=
  match stepOf g n s with
  | none => s
  | some x =>
    match x.tensors.find? fun y => decide (y.idx = i) with
    | none => s
    | some y =>
      if treated y then s
      else if isQ then
        if nonFinite || y.nonFinite then stageTensor g n i .skipped s else applyTensor g n i k vals s
      else modStep g n (fun x => { x with tensors := x.tensors.map fun y => if y.idx = i then { y with stage := .gotP, pr := vals, nonFinite := nonFinite } else y }) s

/-! ### The ring schedule (R421, R426) -/

/-- First block of chunk `j`. -/
def chunkFirst (b k j : Nat) : Nat := j * b / k

/-- The member's own values of a block. -/
def ownBlock (b : Bucket) (i : Nat) : List U32 := (b.own.drop (64 * i)).take 64

/-- Sends blocks as packets of 31; an empty chunk is one packet (R427). -/
def sendBlocks (fuel g : Nat) (allGather : Bool) (step seq first origin digest : Nat) (l : List WireBlock) (s : State) : State :=
  let t := emit (.tuneData g ⟨allGather, step, seq, first, origin, digest, l.take 31⟩) s
  match fuel with
  | 0 => t
  | k + 1 => if l.length ≤ 31 then t else sendBlocks k g allGather step seq (first + 31) origin digest (l.drop 31) t

/-- The member's own chunk goes out at step 0, once the bucket is closed and the next member has granted it (R421, R426). -/
def sendOwn (g seq : Nat) (s : State) : State :=
  match groupOf g s, bucketOf g seq s with
  | some x, some b =>
    if b.closed && b.granted && !b.sent then
      let a := chunkFirst b.blocks x.k x.index
      let z := chunkFirst b.blocks x.k (x.index + 1)
      let l := (rangeFrom a (z - a)).map fun i => quantBlock x.h (ownBlock b i)
      sendBlocks l.length g false 0 seq a x.index b.digest l (modBucket g seq (fun b => { b with sent := true }) s)
    else s
  | _, _ => s

/-- Puts final blocks; those with `EXP_GREW` count in `grew` (R424). -/
def putFinal (g seq first : Nat) (l : List WireBlock) (s : State) : State :=
  modBucket g seq (fun b =>
    { b with final := l.zipIdx.foldl (fun m e => tset m (first + e.2) e.1) b.final
             grew := b.grew + (l.zipIdx.filter fun e => e.1.expGrew && (tget b.final (first + e.2)).isNone).length }) s

/-- The bucket's owner runs: the hop arithmetic is done on the owner's home cores (R427). -/
def ownerRuns (x : Group) (s : State) : Bool := decide (slotState x.owner s = .resident)

/-- A data packet at a closed bucket: sums go on, or are final; final blocks go on around the ring (R423, R424, R426). -/
def ringPacket (g : Nat) (x : Group) (b : Bucket) (pk : TunePacket) (s : State) : State :=
  if pk.allGather then
    let t := putFinal g b.seq pk.first pk.blocks s
    if pk.step + 2 < x.k then emit (.tuneData g { pk with step := pk.step + 1, digest := b.digest }) t else t
  else
    let sums := pk.blocks.zipIdx.map fun e => addBlock x.h e.1 (ownBlock b (pk.first + e.2))
    let t := modBucket g b.seq (fun b => { b with growth := b.growth + (sums.filter (·.2)).length }) s
    let l := sums.map (·.1)
    if pk.step + 2 < x.k then emit (.tuneData g ⟨false, pk.step + 1, b.seq, pk.first, pk.origin, b.digest, l⟩) t
    else emit (.tuneData g ⟨true, 0, b.seq, pk.first, pk.origin, b.digest, l⟩) (putFinal g b.seq pk.first l t)

/-! ### Breaking (R425, R428, R429) -/

/-- A bucket breaks: its state, its `ABORT`s, its tensors, the status of its steps, the event. -/
def breakOne (g seq cause : Nat) (s : State) : State :=
  match groupOf g s, bucketOf g seq s with
  | some x, some b =>
    let st := if cause = 2 then 4 else 3
    let t := modRec g seq (fun r => { r with state := st, growth := b.growth, grew := b.grew, entries := b.dir.length, blocks := b.blocks }) s
    let t := modGroup g (fun y => { y with slots := y.slots.filter (fun c => decide (c.seq ≠ seq)), broken := y.broken + 1 }) t
    let t := sendCtl g kAbort 1 seq 0 cause (sendCtl g kAbort 0 seq 0 cause t)
    let t := tuneEvent 0x900 x.owner (leBytes 2 g ++ zeros 2 ++ leBytes 4 seq ++ leBytes 1 cause) t
    let ns := (b.dir.map (·.step)).eraseDups
    let code := if cause = 2 then 0x8002 else 0x8003
    let t := ns.foldl (fun t n => stepCommit g n 0 (modStep g n (fun y =>
      { y with status := if y.status = 0 ∧ cause ≠ 3 then code else y.status, growth := y.growth + b.growth, grew := y.grew + b.grew, brk := some (y.brk.getD cause) }) t)) t
    let t := b.dir.foldl (fun t d => breakTensor g d.step d.tensor t) t
    ns.foldl (fun t n => stepFinish g n t) t
  | _, _ => s

/-- The cause with which a bucket breaks because a step of it is affected or has ended (R428). -/
def affected (g : Nat) (b : Bucket) (s : State) : Option Nat :=
  b.dir.findSome? fun d => match stepOf g d.step s with
    | some y => if y.brk.isSome then y.brk else if y.status ≠ 0 ∨ y.replied = true then some 3 else none
    | none => some 3

/-- Breaks a bucket that is not applied, and every later closed bucket of the group with a factor of an affected step; an open one breaks at its
close (R428). -/
def breakBucket (g seq cause : Nat) (s : State) : State :=
  let t := breakOne g seq cause s
  match groupOf g t with
  | none => t
  | some x => (x.slots.filter fun b => b.closed && decide (seq < b.seq)).foldl (fun t b => match affected g b t with | some c => breakOne g b.seq c t | none => t) t

/-- A bucket whose final blocks are all here is applied: every factor of it has been reduced (R415, R424). -/
def applyBucket (g seq : Nat) (s : State) : State :=
  match groupOf g s, bucketOf g seq s with
  | some x, some b =>
    if b.closed ∧ b.final.length = b.blocks then
      let t := modRec g seq (fun r => { r with state := 2, growth := b.growth, grew := b.grew }) s
      let t := modGroup g (fun y => { y with slots := y.slots.filter fun c => decide (c.seq ≠ seq) }) t
      let ns := (b.dir.map (·.step)).eraseDups
      let t := ns.foldl (fun t n => stepCommit g n 0 (modStep g n (fun y => { y with growth := y.growth + b.growth, grew := y.grew + b.grew }) t)) t
      let t := b.dir.foldl (fun t d =>
        let blks := (rangeFrom d.first d.nblk).filterMap fun i => tget b.final i
        let len := match stepOf g d.step t with
          | some z => (match (adapterOf z.adapter t).bind fun a => (a.tensors[d.tensor]?).map fun y => (if d.phaseQ then y.n else y.m) * a.rank with | some n => n | none => 0)
          | none => 0
        gotFactor g d.step d.tensor x.k d.phaseQ ((blks.flatMap decodeWire).take len) (blks.any (·.nonFinite)) t) t
      ns.foldl (fun t n => stepFinish g n t) t
    else s
  | _, _ => s

/-- Digest of a layout (R419). -/
def dirDigest (b : Bucket) : Nat :=
  leNat (shake256 (b.dir.flatMap (fun d => leBytes 4 d.atag ++ leBytes 2 d.tensor ++ leBytes 1 (b2n d.phaseQ) ++ zeros 1 ++ leBytes 4 d.first ++ leBytes 4 d.nblk) ++ leBytes 4 b.blocks) 8)

/-- Takes the packets that came before the member's own close, and those that waited for the owner (R426, R427). -/
def drainEarly (fuel g seq : Nat) (s : State) : State :=
  match fuel with
  | 0 => s
  | k + 1 =>
    match groupOf g s, bucketOf g seq s with
    | some x, some b =>
      match b.early with
      | [] => s
      | pk :: r =>
        if b.closed && ownerRuns x s && (pk.allGather || b.granted) then
          let t := modBucket g seq (fun b => { b with early := r, peerDigest := if pk.allGather then b.peerDigest else some pk.digest }) s
          if !pk.allGather && decide (pk.digest ≠ b.digest) then breakBucket g seq 2 t
          else drainEarly k g seq (applyBucket g seq (ringPacket g x { b with early := r } pk t))
        else s
    | _, _ => s

/-- A bucket of a step that is already affected breaks at its close, and so does one whose `ABORT` came early (R428). -/
def closeBreaks (g : Nat) (b : Bucket) (s : State) : Option Nat :=
  match groupOf g s with
  | none => none
  | some x =>
    if x.aborts.contains b.seq then some 1
    else affected g b s

/-- The open bucket closes and begins reduction (R420). -/
def closeOpen (g : Nat) (s : State) : State :=
  match groupOf g s with
  | none => s
  | some x =>
    match x.slots.find? fun b => !b.closed with
    | none => s
    | some b =>
      let d := dirDigest b
      let t := modBucket g b.seq (fun b => { b with closed := true, digest := d }) s
      let t := modRec g b.seq (fun r => { r with state := 1, entries := b.dir.length, blocks := b.blocks }) t
      match closeBreaks g b t with
      | some cause => breakBucket g b.seq cause t
      | none => drainEarly (b.early.length + 1) g b.seq (sendOwn g b.seq t)

/-- Opens the next slot: `SLOT_GRANT` goes to the previous member; what came early for it is taken over (R421). -/
def openBucket (g : Nat) (s : State) : State :=
  match groupOf g s with
  | none => s
  | some x =>
    let q := x.nextSeq
    let b : Bucket := ⟨q, false, [], 0, 0, 0, 0, x.grants.contains q, false, [], [], none, x.ahead.filter fun p => decide (p.seq = q)⟩
    let t := modGroup g (fun y => { y with slots := y.slots ++ [b], nextSeq := q + 1, grants := y.grants.filter (fun n => decide (n ≠ q)),
                                           ahead := y.ahead.filter (fun p => decide (p.seq ≠ q)), recs := (y.recs ++ [(⟨q, 0, 0, 0, 0, 0⟩ : BucketRec)]).drop (y.recs.length - 7) }) s
    sendCtl g kGrant 1 q 0 0 t

/-- Blocks of a factor of a tensor. -/
def factorBlocks (n : Nat) : Nat := (n + 63) / 64

/-- Puts a factor into the open bucket, or into the next one; none while all four slots are in use (R420, R421). -/
def placeFactor (g n i atag : Nat) (isQ : Bool) (vals : List U32) (s : State) : Option State :=
  match groupOf g s with
  | none => none
  | some x =>
    let nb := factorBlocks vals.length
    let pad := vals ++ List.replicate (64 * nb - vals.length) 0
    let put := fun (seq : Nat) (t : State) =>
      let t := modBucket g seq (fun b => { b with dir := b.dir ++ [⟨n, atag, i, isQ, b.blocks, nb⟩], blocks := b.blocks + nb, own := b.own ++ pad }) t
      modStep g n (fun y => { y with buckets := if y.buckets.contains seq then y.buckets else y.buckets ++ [seq] }) t
    match x.slots.find? fun b => !b.closed with
    | some b =>
      if b.blocks + nb ≤ 64512 ∧ b.dir.length < 124 then some (put b.seq s)
      else
        let t := closeOpen g s
        match groupOf g t with
        | some y => if y.slots.length < 4 then some (put y.nextSeq (openBucket g t)) else none
        | none => none
    | none => if x.slots.length < 4 then some (put x.nextSeq (openBucket g s)) else none

/-- M = G + E of a tensor, in FP32 (R413). -/
def gradSum (ctx : Nat) (z : Tensor) (y : StepTensor) (s : State) : List U32 :=
  let n := z.m * z.n
  let g := (splitElems n (elemBytes y.fmt) (rdBytes ctx y.gAddr (n * elemBytes y.fmt) s)).map (toF32 y.fmt)
  (g.zip z.e).map fun p => fpAdd p.1 p.2

/-- Places the next factor of a step, or ends its phase; none where it must wait (R420). -/
def placeNext (x : TStep) (s : State) : Option State :=
  match adapterOf x.adapter s, groupOf x.group s with
  | some a, some grp =>
    let adv := fun (t : State) => modStep x.group x.stepSeq (fun y => { y with next := y.next + 1 }) t
    match x.phase with
    | 0 =>
      match x.tensors[x.next]? with
      | none => some (modStep x.group x.stepSeq (fun y => { y with phase := 1, next := 0 }) (closeOpen x.group s))
      | some y =>
        match a.tensors[y.idx]? with
        | none => none
        | some z =>
          let m := gradSum a.ctx z y s
          let t := modStep x.group x.stepSeq (fun w => { w with tensors := w.tensors.map fun v => if v.idx = y.idx then { v with mval := m } else v }) s
          let (p, t) := drawF32 (z.m * a.rank) t
          if grp.k = 1 then some (adv (gotFactor x.group x.stepSeq y.idx 1 false p (p.any fvSpecial) t))
          else (placeFactor x.group x.stepSeq y.idx a.atag false p t).map adv
    | 1 => if x.tensors.all (fun y => decide (y.stage = .gotP) || treated y) then some (modStep x.group x.stepSeq (fun y => { y with phase := 2 }) s) else none
    | 2 =>
      match x.tensors[x.next]? with
      | none => some (stepFinish x.group x.stepSeq (modStep x.group x.stepSeq (fun y => { y with phase := 3 }) (closeOpen x.group s)))
      | some y =>
        match a.tensors[y.idx]? with
        | none => none
        | some z =>
          let (q, t) := drawF32 (z.n * a.rank) s
          if grp.k = 1 then some (adv (gotFactor x.group x.stepSeq y.idx 1 true q (q.any fvSpecial) t))
          else (placeFactor x.group x.stepSeq y.idx a.atag true q t).map adv
    | _ => none
  | _, _ => none

/-- The step of a group whose factors are placed next: the first in acceptance order with factors to place; one of an adapter
whose earlier step still runs waits for it (R413, R420; log 81). -/
def placingStep (g : Nat) (s : State) : Option TStep :=
  match (s.tune.steps.filter fun x => decide (x.group = g)).find? fun x => decide (x.phase < 3) with
  | none => none
  | some x => if s.tune.steps.any fun y => decide (y.group = g ∧ y.stepSeq < x.stepSeq ∧ y.adapter = x.adapter) && !(y.tensors.all treated) then none else some x

/-- Carries a group's placement on as far as it goes: while ready, and while its owner runs. -/
def placeAll (fuel g : Nat) (s : State) : State :=
  match fuel with
  | 0 => s
  | k + 1 =>
    match groupOf g s, placingStep g s with
    | some x, some y =>
      if x.ready && ownerRuns x s then
        match placeNext y s with
        | some t => placeAll k g t
        | none => s
      else s
    | _, _ => s

/-- Steps whose request has ended by `CANCELLED` or `TIMEOUT`: their buckets break with cause 3, their tensors are treated (R428). -/
def endDead (g : Nat) (s : State) : State :=
  s.tune.steps.foldl (fun t x =>
    if x.group = g ∧ x.replied = false ∧ live x.rid t = false then
      let t := modStep g x.stepSeq (fun y => { y with status := if y.status = 0 then stCancelled else y.status, replied := true }) t
      let seqs : List Nat := match groupOf g t with | some y => (y.slots.filter fun (b : Bucket) => b.closed && b.dir.any fun d => decide (d.step = x.stepSeq)).map (·.seq) | none => []
      let t := seqs.foldl (fun t q => breakBucket g q 3 t) t
      let t := x.tensors.foldl (fun t y => breakTensor g x.stepSeq y.idx t) t
      stepFinish g x.stepSeq (commit x.rid 0 none t)
    else t) s

/-- Carries a group on: what waited for a close, a grant or the owner, then the placement. -/
def pumpGroup (g : Nat) (s : State) : State :=
  let t := endDead g s
  let seqs : List Nat := match groupOf g t with | some x => x.slots.map (·.seq) | none => []
  let t := seqs.foldl (fun t q => match bucketOf g q t with | some b => drainEarly (b.early.length + 1) g q (sendOwn g q t) | none => t) t
  placeAll (4 * (sumN (t.tune.steps.map fun x => x.tensors.length + 2)) + 4) g t

/-- Carries every group on: used where a context becomes resident or a request ends. -/
def pumpAll (s : State) : State := s.tune.groups.foldl (fun t e => pumpGroup e.1 t) s

/-- The group is ready (R418). -/
def groupReady (g : Nat) (s : State) : State :=
  match groupOf g s with
  | none => s
  | some x =>
    if x.ready then s
    else pumpGroup g (tuneEvent 0x901 x.owner (leBytes 2 g ++ leBytes 1 x.k) (modGroup g (fun y => { y with ready := true }) s))

/-- A group says `HELLO`, or is ready at once with one member, where its mask fits the ring (R418; 13 R403). -/
def sayHello (g : Nat) (s : State) : State :=
  match groupOf g s with
  | none => s
  | some x =>
    let fits := bit x.mask s.ports.pos && decide (x.mask < 2 ^ s.ports.serials.length)
    if x.k = 1 then (if fits || s.ports.serials.isEmpty then groupReady g s else s) else sendCtl g kHello 0 0 x.mask 0 s

/-- What a change of the ring does to the groups (13 R403): every bucket not applied breaks with cause 4, every group becomes not ready and
sends `HELLO` again. -/
def ringChanged (s : State) : State :=
  s.tune.groups.foldl (fun t e =>
    let t := e.2.slots.foldl (fun t b => breakBucket e.1 b.seq 4 t) t
    let t := modGroup e.1 (fun x => { x with ready := false, hello := none, index := ((members x.mask).idxOf? t.ports.pos).getD x.index }) t
    sayHello e.1 t) s

/-- The bucket header of a slot, as it lies in T1 (R419). -/
def bucketHeader (g : Nat) (b : Bucket) (state : Nat) : Bytes :=
  let dir := b.dir.flatMap fun d => leBytes 4 d.atag ++ leBytes 2 d.tensor ++ leBytes 1 (b2n d.phaseQ) ++ zeros 1 ++ leBytes 4 d.first ++ leBytes 4 d.nblk
  sub (leBytes 4 b.seq ++ leBytes 2 g ++ leBytes 2 b.dir.length ++ leBytes 4 b.blocks ++ zeros 4 ++ leBytes 8 b.digest ++ leBytes 4 b.growth ++ leBytes 4 b.grew
    ++ leBytes 1 state ++ zeros 31 ++ dir) 0 2048

/-- Frees the adapters and groups of a context (R430). -/
def freeTune (c : Nat) (s : State) : State :=
  { s with tune := { s.tune with
      adapters := s.tune.adapters.filter (fun e => decide (e.2.ctx ≠ c))
      groups := s.tune.groups.filter (fun e => decide (e.2.owner ≠ c))
      hellos := s.tune.hellos
      steps := s.tune.steps.filter (fun x => match adapterOf x.adapter s with | some a => decide (a.ctx ≠ c) | none => false) } }

end Sys2Proof.Machine
end

