-- ==== Sys2Proof/Machine/Interrupt.lean ====
section
/-! DEFINITION. Interruptions that end requests without a reply (02 R57; 18 R544, R545): what each leaves of its request, and the
mailbox reset. -/
namespace Sys2Proof.Machine

/-- Causes of a cairn (18 R548). -/
def causeWarm : Nat := 1
def causeMailbox : Nat := 2
def causePower : Nat := 3
def causeSafe : Nat := 4

/-- The ledger entry goes: the cairn of an outstanding request is interrupted, that of a settled one is stopped (18 R544, R548). -/
def endEntry (cause : Nat) (r : Req) (s : State) : State :=
  dropReq r.rid (modCairn r (fun k =>
    if r.settled.isSome then { k with stopped := true, cause := cause } else { k with cstate := 2, cause := cause }) s)

/-! ### What is left of a session's request (18 R545; 07 R248) -/

/-- The snapshot in progress is discarded (R244). -/
def dropProg (id : Nat) (s : State) : State :=
  match sessOf id s with
  | none => s
  | some x =>
    let t := match x.inProg with | some o => dropCopy (.snap id o.seq) s | none => s
    leaveRuns id (modSess id (fun y => { y with inProg := none }) t)

/-- A session back at its latest committed snapshot, paused: the tokens appended and delivered since are pending input (R248). One
that is `EPHEMERAL` or has no snapshot is `CLOSED`. -/
def rewindSess (blocks : Sess → Nat) (id : Nat) (s : State) : State :=
  match sessOf id s with
  | none => s
  | some x =>
    match x.snaps with
    | [] => dropSess id s
    | n :: _ =>
      if x.ephemeral then dropSess id s
      else
        let t := dropProg id (leaveBatch id s)
        sweepKv (modSess id (fun y => { y with
          state := .paused, phase := .none, chunkLeft := 0, shards := [], selected := [], omitted := [], pauseReason := 1
          body := { n.body with pending := n.body.pending ++ y.logged }, gen := none, joinRid := none, restore := none, atBoundary := [], blocks := blocks y
          mirrorWait := none }) t)

/-- An AGENT request of a session ends without a reply (R545). -/
def interruptAgent (r : Req) (id : Nat) (x : Sess) (s : State) : State :=
  let waits := match x.inProg with | some n => n.waiters.contains r.rid | none => false
  if (match x.gen with | some g => decide (g.rid = r.rid) | none => false) then rewindSess (fun y => unaccepted y s) id s
  else if x.joinRid = some r.rid then
    if r.op = 5 then dropRestore id (leaveBatch id s) else dropSess id s
  else if waits = true ∧ (r.op = 1 ∨ r.op = 7) then dropSess id s
  else if waits = true ∧ r.op = 2 then undoAppend id (fld r.payload 8 4) (dropProg id s)
  else
    let s := if r.op = 2 ∧ x.atBoundary.contains r.rid = true then undoAppend id (fld r.payload 8 4) s else s
    modSess id (fun y => { y with
      atBoundary := y.atBoundary.filter (fun q => decide (q ≠ r.rid)), inProg := y.inProg.map fun n => { n with waiters := n.waiters.filter fun q => decide (q ≠ r.rid) },
      mirrorWait := y.mirrorWait.map fun w => (w.1, w.2.filter fun q => decide (q ≠ r.rid)) }) s

/-! ### Requests of the other services -/

/-- A step ends: tensors applied stand, the others are unchanged; its closed buckets break as at the end of a request (R545; 14
R428). -/
def interruptStep (r : Req) (s : State) : State :=
  s.tune.steps.foldl (fun t x =>
    if x.rid = r.rid then
      let seqs : List Nat := match groupOf x.group t with | some y => (y.slots.filter fun (b : Bucket) => b.closed && b.dir.any fun d => decide (d.step = x.stepSeq)).map (·.seq) | none => []
      let t := { t with tune := { t.tune with steps := t.tune.steps.filter fun y => decide (y.rid ≠ r.rid) } }
      seqs.foldl (fun t q => breakBucket x.group q 3 t) t
    else t) s

/-- A merge that only this request waits for is discarded (12 R376). -/
def interruptMerge (r : Req) (s : State) : State :=
  modSearch (fun y => { y with idx := tmap y.idx fun _ i =>
    match i.merge with
    | some m => if m.waiters = [r.rid] then { i with merge := none } else { i with merge := some { m with waiters := m.waiters.filter fun q => decide (q ≠ r.rid) } }
    | none => i }) s

/-- Ends a request without a reply, and what its service does for it (18 R544, R545) (log 153). -/
def interruptReq (cause : Nat) (r : Req) (s : State) : State :=
  let t := endEntry cause r s
  if r.done.isSome then t
  else match r.svc with
    | 3 => (t.agents.loads.filter fun l => decide (l.rid = r.rid)).foldl (fun u l => abandonLoad l u) t
    | 4 => t.agents.sess.foldl (fun u e => interruptAgent r e.1 e.2 u) t
    | 6 => if r.op = 6 then interruptMerge r t else t
    | 9 => if r.op = 5 then interruptStep r t else t
    | 12 => { t with fw := { t.fw with staging := t.fw.staging.filter fun x => decide (x.rid ≠ r.rid), pending := t.fw.pending.filter fun a => decide (a.rid ≠ some r.rid) } }
    | _ => t

/-- Ends every request of a mailbox, and the work of settled ones (02 R57). -/
def interruptMbx (cause n : Nat) (s : State) : State :=
  (s.ledger.reqs.filter fun r => decide (r.mbx = n)).foldl (fun t r => interruptReq cause r t) s

/-! ### The mailbox reset (02 R57, R58) -/

/-- States in which a mailbox or event ring reset is not ignored (R58). -/
def resetServed (s : State) : Bool := match s.host.ifState with | .boot | .ready | .scrub | .handover => true | _ => false

/-- `RST_CTRL.TYPE` 2: in states that serve it, for a mailbox of the 64, unless a reset is in progress. -/
def mailboxReset (n : Nat) (s : State) : State :=
  if n < 64 ∧ resetServed s = true ∧ s.host.rstBusy = none then
    let t := interruptMbx causeMailbox n s
    let t := modMbx n (fun _ => { Mbx.init with resetting := true }) t
    pumpAll { t with host := { t.host with rstBusy := some 2, rstMbx := n } }
  else s

def execMailboxReset (n : Nat) (s : State) : Res := .next (cwAccess true 0x100 4 (0xC1EA0002 + 256 * n) (mailboxReset n) s)

/-- The reset completes: `RESETTING` ends, `RST_STAT` shows it, `RESET_DONE` is raised. -/
def mailboxResetDone (n : Nat) (s : State) : State :=
  if (mbxOf n s).resetting then
    let t := modMbx n (fun m => { m with resetting := false }) s
    let t := if s.host.rstBusy = some 2 then { t with host := { t.host with rstBusy := none, rstLast := 2 } } else t
    devEvent 4 0 0 (leBytes 1 2) t
  else s

def execMailboxResetDone (n : Nat) (s : State) : Res := .next (mailboxResetDone n s)

/-- `RST_CTRL.TYPE` 3: the ring is disabled, its indices 0, the events held for it discarded (02 R57). -/
def eventRingReset (s : State) : State :=
  if resetServed s = true ∧ s.host.rstBusy = none then
    devEvent 4 0 0 (leBytes 1 3)
      { s with host := { s.host with ringSize := BitVec.ofNat 32 (ringLog s), prod := 0, cons := 0, held := [], rstLast := 3 } }
  else s

def execEventRingReset (s : State) : Res := .next (cwAccess true 0x100 4 0xC1EA0003 eventRingReset s)

end Sys2Proof.Machine
end

