-- ==== Sys2Proof/Machine/Switch.lean ====
section
/-! DEFINITION. Switching contexts (06): work, homes in force, the switch-out and the switch-in, results of semaphores, the
passing of a mutex. -/
namespace Sys2Proof.Machine

def modCtxs (f : Contexts → Contexts) (s : State) : State := { s with ctxs := f s.ctxs }

/-- `CTX_STATE_CHANGED` for a change of a context's state (R194). -/
def ctxEvent (c : Nat) (old new : CtxState) (cause us : Nat) (s : State) : State :=
  raiseEvent 0x14 0 0 c 0 (leBytes 1 old.code ++ leBytes 1 new.code ++ leBytes 1 cause ++ zeros 1 ++ leBytes 4 us) s

/-! ### Work (R193) -/

def engHasWork (v : EngSt) (r : Ring) : Bool := (v.run && decide (v.head ≠ v.tail)) || (ringOn r && decide (r.head ≠ r.tail))

/-- A context has work; of one that is out, its save area tells what its units hold (log 107), and so do its harts of a retired core that
wait for another (18 R531). -/
def hasWork (c : Nat) (s : State) : Bool :=
  match slotOf c s with
  | none => false
  | some k =>
    let units :=
      if k.state = .resident then
        (k.homeC.any fun u => (List.range 8).any fun i => (hartOf (8 * u + i) s).task.isSome) || (k.homeE.any fun e => engHasWork (engOf e s).sav (engOf e s).dma)
      else match k.saved with
        | some v => (v.harts.any fun e => e.2.task.isSome) || (v.engines.any fun e => engHasWork e.2.1 e.2.2)
        | none => false
    slotAllocated c s && (units || (s.task.parked.any fun e => decide (e.1 = c)) || (s.task.ready.any fun e => decide (e.1 / 4 = c) && !e.2.isEmpty) || (s.task.deque.any fun e => decide (e.1 / 256 = c) && !e.2.isEmpty)
      || (ringOn k.tq && decide (k.tq.head ≠ k.tq.tail)) || s.ledger.reqs.any fun r => decide (r.mbx = c) && outstanding r)

/-- Homes that a context enters on: those of a configuration that waits for its switch-in (R196). -/
def entryHomes (k : Slot) : List Nat × List Nat := k.nextHomes.getD (k.homeE, k.homeC)

def meets (a b : List Nat) : Bool := a.any fun u => b.contains u
def homesMeet (a b : List Nat × List Nat) : Bool := meets a.1 b.1 || meets a.2 b.2

/-- Held out: by `CTX_SUSPEND`, or because the module is not Admitted (R198; 15 R440). -/
def isHeld (k : Slot) : Bool := k.hold || k.secHold

/-- Class that a context runs in: its own, under donation its waiter's (R218). -/
def runsLc (c : Nat) (s : State) : Bool :=
  match s.ctxs.donations.find? fun d => decide (d.holder = c) with
  | some d => d.lc
  | none => match slotOf c s with | some k => k.act.lc | none => false

/-- Class of a context that waits: the one that its switch-in puts in force. -/
def entersLc (c : Nat) (s : State) : Bool := match slotOf c s with | some k => k.cfg.lc | none => false

/-- A context waits for its homes: out, with work, not held, with home cores (R192, R202, R204) (log 187). -/
def waitsForHomes (c : Nat) (s : State) : Bool :=
  match slotOf c s with
  | some k => decide (k.state = .alloc ∨ k.state = .suspended) && !(isHeld k) && !(entryHomes k).2.isEmpty && hasWork c s
  | none => false

/-- Resident contexts that hold a unit of some homes. -/
def holdersOf (h : List Nat × List Nat) (s : State) : List Nat :=
  s.ctxs.slots.filterMap fun e => if e.2.state = .resident ∧ homesMeet h (e.2.homeE, e.2.homeC) = true then some e.1 else none

/-- A waiter of a class waits for a home of a resident context. -/
def wantedBy (lc : Bool) (k : Slot) (s : State) : Bool :=
  s.ctxs.order.any fun w => waitsForHomes w s && decide (entersLc w s = lc) && (match slotOf w s with | some q => homesMeet (entryHomes q) (k.homeE, k.homeC) | none => false)

/-! ### The reservations in the die caches (R203) -/

/-- Ways of each resident LC context: the lowest of 4 to 15 that none before it in slot order takes on a die that both use (log
22). -/
def waysOf (l : List (Nat × Slot)) (taken : List (Nat × List Nat × List Nat)) : List (Nat × List Nat × List Nat) :=
  match l with
  | [] => taken
  | (c, k) :: r =>
    if k.act.lc = true ∧ k.state = .resident ∧ 0 < k.act.waysRes then
      let dies := k.homeC.map (· / 64)
      let bad := (taken.filter fun t => meets t.2.1 dies).flatMap fun t => t.2.2
      waysOf r (taken ++ [(c, dies, ((rangeFrom 4 12).filter fun w => !bad.contains w).take k.act.waysRes)])
    else waysOf r taken

/-- Sets the way masks: a reservation is its ways and ways 0 to 3; no other context keeps those ways. -/
def setWays (s : State) : State :=
  let res := waysOf s.ctxs.slots []
  modCtxs (fun x => { x with slots := tmap x.slots fun c k =>
    let mask := match res.find? fun t => decide (t.1 = c) with
      | some t => bitsMask ([0, 1, 2, 3] ++ t.2.2)
      | none => bitsMask ((List.range 16).filter fun w => !(res.any fun t => t.2.2.contains w))
    { k with wayMask := BitVec.ofNat 16 mask } }) s

/-! ### Results of semaphore commands (R212, R216) -/

def semWord (code : Nat) (abandoned : Bool) (count : Nat) : U64 := BitVec.ofNat 64 (code + 16 * b2n abandoned + 65536 * count)

/-- Writes a result into the hart's copy of `SEM_RESULT` (log 199). -/
def setSemResult (c h : Nat) (w : U64) (s : State) : State :=
  modCtxs (fun x => { x with semResult := tset x.semResult (2048 * c + logicalHart h s) w }) s

/-- Ends a wait of a hart with its result: at once, or when its context is next resident (R216). -/
def answerSem (c h : Nat) (w : U64) (s : State) : State :=
  if resident c s then modHart h (fun v => { v with sem := none }) (setSemResult c h w s)
  else modCtxs (fun x => { x with semPend := x.semPend ++ [(c, h, w)] }) s

/-- Delivers what fell while a context was out. -/
def deliverSems (c : Nat) (s : State) : State :=
  let mine := s.ctxs.semPend.filter fun e => decide (e.1 = c)
  mine.foldl (fun t e => answerSem c e.2.1 e.2.2 t) (modCtxs (fun x => { x with semPend := x.semPend.filter fun e => decide (e.1 ≠ c) }) s)

def semOf (n : Nat) (s : State) : Option Sem := tget s.ctxs.sems n
def modSem (n : Nat) (f : Sem → Sem) (s : State) : State := modCtxs (fun x => { x with sems := tmod x.sems n f }) s

/-- The waiter that is granted next: LC before BE, first in, first out within a class. -/
def firstWaiter (m : Sem) (s : State) : Option Waiter :=
  match m.waiters.find? fun w => runsLc w.ctx s with
  | some w => some w
  | none => m.waiters.head?

/-- Grants a semaphore to its first waiter; none waits: `idle` says what the semaphore becomes. -/
def passSem (n : Nat) (abandoned : Bool) (idle : Sem → Sem) (s : State) : State :=
  match semOf n s with
  | none => s
  | some m =>
    match firstWaiter m s with
    | none => modSem n idle s
    | some w =>
      let holder := if m.mutex then some (w.ctx, logicalHart w.hart s) else none
      let t := modSem n (fun q => { q with holder := holder, waiters := q.waiters.erase w }) s
      answerSem w.ctx w.hart (semWord 1 abandoned m.count) t

/-- Removes a hart of a context from every wait. -/
def dropWaits (sel : Waiter → Bool) (s : State) : State :=
  modCtxs (fun x => { x with sems := tmap x.sems fun _ m => { m with waiters := m.waiters.filter fun w => !(sel w) } }) s

/-! ### The switch-out (R209, R210) -/

/-- Engine registers that a save keeps in Stream mode. -/
def streamKept (v : EngSt) : EngSt := { EngSt.blank with head := v.head, tail := v.tail, sync := v.sync, sr := v.sr, run := v.run }

/-- Stops the prefetch slots of some cores. -/
def stopPfs (cores : List Nat) (s : State) : State :=
  ((s.task.pf.filter fun e => cores.contains (e.1 / 64)).map (·.1)).foldl (fun t k => stopPf k t) s

/-- Clears the units of a context that leaves them: step 7 of R210. -/
def clearUnits (k : Slot) (s : State) : State :=
  let t := k.homeE.foldl (fun t e => setEng e ⟨EngSt.blank, if (engOf e t).st = .off then .off else .stopped, 0, 0, none, Ring.init⟩ t) s
  l1Clear k.homeC (dropHarts k.homeC.contains t)

/-- Requests `CTX_SUSPEND` of a context that wait for it to be out (R198). -/
def settleSuspends (c : Nat) (s : State) : State :=
  (s.ledger.reqs.filter fun r => decide (r.svc = 1 ∧ r.op = 0x14 ∧ fld r.payload 0 1 = c) && r.running).foldl (fun t r => complete r.rid stSuccess [] t) s

/-- Switches a resident context out in its configured mode: harts that wait in `TJOIN` get their result, the state is written to
the save area or in Stream mode in part, the units are cleared (log 207). -/
def switchOut (c cause : Nat) (s : State) : State :=
  match slotOf c s with
  | none => s
  | some k =>
    if k.state ≠ .resident then s
    else
      let harts := k.homeC.flatMap fun u => rangeFrom (8 * u) 8
      let t := harts.foldl (fun t h => drainStores h (if (hartOf h t).tjoin.isSome then endTjoin h t else t)) s
      let t := cutLinks c (stopPfs k.homeC t)
      let save := k.cfg.save
      let engRec := fun (e : Nat) =>
        let g := engOf e t
        let v := if g.st = .clearing then EngSt.blank else g.sav
        (e, if save then (v, g.dma) else (streamKept v, { g.dma with cfg := g.dma.cfg &&& 0x7FFFFFFF }))
      let rcd : Saved := ⟨save, k.homeE.foldl (fun l e => tset l e (engRec e).2) [], t.task.harts.filter fun e => k.homeC.contains (e.1 / 8)⟩
      let t := clearUnits k t
      let t := modSlot c (fun q => { q with
        state := .suspended, saved := some rcd, act := { q.act with save := save }, switchOuts := (q.switchOuts + 1) % 2 ^ 32, yield := false, donated := false }) t
      let t := modCtxs (fun x => { x with donations := x.donations.filter fun d => decide (d.holder ≠ c) }) t
      let t := modCtxs (fun x => { x with order := x.order.erase c ++ (if hasWork c t then [c] else []) }) t
      settleSuspends c (setWays (ctxEvent c .resident .suspended cause 0 t))

/-! ### The switch-in (R196, R209 to R211) -/

/-- A tasklet whose hart record is discarded ends (R196; 05 R179). -/
def discardTask (c h : Nat) (v : Hart) (s : State) : State :=
  let t := dropWaits (fun w => decide (w.ctx = c ∧ w.hart = h)) s
  let t := modCtxs (fun x => { x with semPend := x.semPend.filter fun e => !(decide (e.1 = c ∧ e.2.1 = h)) }) t
  match v.task with
  | none => t
  | some p =>
    match tget t.task.pool p with
    | none => t
    | some k =>
      let t := taskFault c (dieOfHart h) 1 19 (logicalHart h s) k.entry.toNat v.pc.toNat 0 k.noFaultEvt t
      joinDone c k.join ⟨some p, true, k.entry.toNat, logicalHart h s, k.noFaultEvt, ⟨none, dieOfHart h, false⟩⟩ t

/-- `SR_STATE` of an engine that a context is first given (04 R150). -/
def engSeed (seed : U64) (e : Nat) (s : State) : U64 :=
  let k : U64 := 0x9E3779B97F4A7C15
  let g := seed ^^^ BitVec.ofNat 64 ((logicalOf s.caps.engMap e).getD 0 * k.toNat)
  if g = 0 then k else g

/-- Seed of a core's generator (R208). -/
def coreSeed (seed : U64) (u : Nat) (s : State) : U64 :=
  let k : U64 := 0x9E3779B97F4A7C15
  let g := seed ^^^ BitVec.ofNat 64 ((logicalOf s.caps.coreMap u).getD 0 * k.toNat)
  if g = 0 then k else g

/-- A home engine as the incoming context gets it: restored, in Stream mode in part, or new (R196, R211). -/
def engIn (c : Nat) (k : Slot) (e : Nat) (s : State) : Eng :=
  match k.saved.bind fun v => (tget v.engines e).map fun x => (v.save, x) with
  | some (true, (v, r)) => ⟨v, if v.run then (if v.head = v.tail then .idle else .run) else .stopped, 0, 0, some c, r⟩
  | some (false, (v, r)) => ⟨{ v with tail := v.head, run := false }, .stopped, 0, 0, some c, r⟩
  | none => ⟨{ EngSt.blank with sr := engSeed k.cfg.srSeed e s }, .stopped, 0, 0, some c, Ring.init⟩

/-- The resume record (R211): the entry count and `switch_outs`, then an entry for each home engine. -/
def resumeRecord (k : Slot) (homes : List Nat) (s : State) : Bytes :=
  let entry := fun (e : Nat) =>
    let (v, r) := ((k.saved.bind fun q => tget q.engines e).getD (EngSt.blank, Ring.init))
    leBytes 2 ((logicalOf s.caps.engMap e).getD 0) ++ leBytes 2 v.head.toNat ++ leBytes 2 v.tail.toNat ++ leBytes 2 r.head.toNat ++ leBytes 2 r.tail.toNat
      ++ leBytes 1 (b2n v.run) ++ zeros 5
  leBytes 2 homes.length ++ zeros 2 ++ leBytes 4 k.switchOuts ++ zeros 8 ++ homes.flatMap entry

/-- Writes the resume record and spawns the handler, at every Stream-mode switch-in (R211; log 108). -/
def streamResume (c : Nat) (rcd : Bytes) (s : State) : State :=
  match slotOf c s with
  | none => s
  | some k =>
    match ctxWrite c k.act.resumeRec rcd s with
    | .ok t => spawnResume c t
    | _ => badResume c 0 k.act.resumeRec s

/-- Makes a context resident on its homes, in the mode in which it was last switched out; `us` is the time the switch took. A
configuration that waited takes effect, and records of units that are no longer homes are discarded. -/
def switchIn (c cause us : Nat) (s : State) : State :=
  match slotOf c s with
  | none => s
  | some k =>
    let (hE, hC) := entryHomes k
    let save := match k.saved with | some v => v.save | none => k.cfg.save
    let gone : Tbl Hart := match k.saved with | some v => v.harts.filter fun e => !(hC.contains (e.1 / 8)) | none => []
    let t := gone.foldl (fun t e => discardTask c e.1 e.2 t) s
    let moved := decide (k.nextHomes.isSome ∧ (hE, hC) ≠ (k.homeE, k.homeC))
    let t := hE.foldl (fun u e => setEng e (engIn c k e s) u) t
    let kept : Tbl Hart := match k.saved with | some v => v.harts.filter fun e => hC.contains (e.1 / 8) | none => []
    let t := kept.foldl (fun u e => putHart e.1 e.2 u) (dropHarts hC.contains t)
    let gens := hC.foldl (fun l u => if (tget l u).isSome then l else tset l u (coreSeed k.cfg.srSeed u s)) k.gens
    let t := modSlot c (fun q => { q with
      state := .resident, act := { q.cfg with save := save }, homeE := hE, homeC := hC, nextHomes := none, saved := none, yield := false, lastUs := us, gens := gens,
      homeGen := if moved then q.homeGen + 1 else q.homeGen }) t
    let t := modCtxs (fun x => { x with order := x.order.erase c }) t
    let t := if moved then raiseEvent 0x15 0 0 c 0 (leBytes 2 hE.length ++ leBytes 2 hC.length ++ leBytes 1 0) t else t
    let t := resumeLinks c (deliverSems c (ctxEvent c k.state .resident cause us (setWays t)))
    pumpAll (if save then t else streamResume c (resumeRecord k hE s) t)

end Sys2Proof.Machine
end

