-- ==== Sys2Proof/Machine/Contexts.lean ====
section
/-! DEFINITION. Context management, the scheduler and the hardware semaphores (06): ADMIN opcodes 0x10 to 0x18, the switch, donated
runs. -/
namespace Sys2Proof.Machine

/-! ### Configurations (R195, R196, R200) -/

/-- The configuration that a request carries; the seed is read by `CTX_ALLOC` only. -/
def cfgOf (p : Bytes) (seed : U64) : CtxCfg :=
  ⟨decide (fld p 1 1 = 1), decide (fld p 2 1 = 1), decide (fld p 3 1 = 1), fld p 4 2, fld p 6 2, fld p 8 1, fld p 9 1, fld p 12 4, fld p 16 4,
    if fld p 20 4 = 0 then 2000 else fld p 20 4, seed, fld p 32 8, fld p 40 8⟩

/-- A field is out of range, or fields that do not fit each other (R195, R196) (log 151). -/
def cfgBad (p : Bytes) (s : State) : Bool :=
  let be := decide (fld p 1 1 = 0)
  decide (1 < fld p 1 1) || decide (1 < fld p 2 1) || decide (1 < fld p 3 1) || decide ((actEng s).length < fld p 4 2) || decide ((actCore s).length < fld p 6 2)
    || decide (64 < fld p 8 1) || decide (12 < fld p 9 1) || (be && decide (fld p 8 1 ≠ 0 ∨ fld p 9 1 ≠ 0 ∨ fld p 12 4 ≠ 0))
    || decide (fld p 16 4 = 0) || decide (2 ^ 22 < fld p 16 4) || decide (100000 < fld p 20 4)
    || (decide (fld p 2 1 = 0) && decide (0 < fld p 4 2)
      && decide (fld p 32 8 = 0 ∨ fld p 40 8 = 0 ∨ fld p 32 8 % 64 ≠ 0 ∨ fld p 40 8 % 16 ≠ 0))
    || (decide (fld p 6 2 = 0) && decide (0 < fld p 4 2))

/-- The other LC contexts. -/
def lcOthers (c : Nat) (s : State) : List (Nat × Slot) := s.ctxs.slots.filter fun e => decide (e.1 ≠ c) && e.2.cfg.lc

/-- The reservations of all LC contexts with a new configuration exceed a limit (R200; 08 R255) (log 152). -/
def reserveFails (c : Nat) (k : CtxCfg) (s : State) : Bool :=
  let l := lcOthers c s
  let h := assignHomes c k s
  let onDie := fun (d : Nat) => (if h.2.any fun u => decide (u / 64 = d) then k.waysRes else 0)
    + sumN (l.map fun e => if (entryHomes e.2).2.any fun u => decide (u / 64 = d) then e.2.cfg.waysRes else 0)
  k.lc && (decide ((actEng s).length < k.engHome + sumN (l.map fun e => e.2.cfg.engHome))
    || decide ((actCore s).length < k.coreHome + sumN (l.map fun e => e.2.cfg.coreHome))
    || decide (56 < k.bwRes + sumN (l.map fun e => e.2.cfg.bwRes)) || (s.caps.dieMap.any fun d => decide (12 < onDie d))
    || decide (240 < k.t1Res + sumN (l.map fun e => e.2.cfg.t1Res)))

/-- Bytes of the save area of a configuration (R214). -/
def cfgSaveBytes (k : CtxCfg) : Nat := 1024 * (16 + 32 * k.coreHome + (if k.save then 2336 else 4) * k.engHome)

/-- The save area of a configuration has no room in T1, beside the one that the context holds. -/
def saveFails (c : Nat) (k : CtxCfg) (s : State) : Bool :=
  let old := match slotOf c s with | some q => saveBytes q | none => 0
  decide (t1FreeFor c s + old < cfgSaveBytes k)

/-- Reply of `CTX_ALLOC` and `CTX_CONFIG`: the slot and its home masks by logical index (R195). -/
def homesReply (c : Nat) (h : List Nat × List Nat) (s : State) : Bytes :=
  leBytes 1 c ++ zeros 7 ++ leBytes 16 (bitsMask (h.1.filterMap (logicalOf s.caps.engMap))) ++ leBytes 32 (bitsMask (h.2.filterMap (logicalOf s.caps.coreMap)))

/-- The lowest `FREE` slot from 1 upward. -/
def lowestFreeSlot (s : State) : Option Nat := (rangeFrom 1 63).find? fun c => decide (slotState c s = .free)

def delRange {α : Type} (t : Tbl α) (lo n : Nat) : Tbl α := t.filter fun e => decide (e.1 < lo) || decide (lo + n ≤ e.1)

/-- The tables of a context's stream table and semaphore page at their reset values. -/
def resetPages (c : Nat) (s : State) : State :=
  { s with eng := { s.eng with sq := delRange s.eng.sq (256 * c) 256 }, ctxs := { s.ctxs with semResult := delRange s.ctxs.semResult (2048 * c) 2048 } }

/-- Takes a slot: its configuration, homes, pages, rounding seed, migration policy, memory key and flash key domain (R192, R201; 15
R443; 08 R270, R274). -/
def allocSlot (c : Nat) (p : Bytes) (s : State) : State :=
  let seed : U64 := if fld p 24 8 = 0 then Config.freeBits 64 s.freeCtr else BitVec.ofNat 64 (fld p 24 8)
  let k := cfgOf p seed
  let h := assignHomes c k s
  let t := if fld p 24 8 = 0 then bumpFree s else s
  let t := modCtxs (fun x => { x with slots := tset x.slots c { Slot.new k with homeE := h.1, homeC := h.2 } }) (resetPages c t)
  let t := { t with mem := { t.mem with usage := tdel t.mem.usage c, migCfg := tdel t.mem.migCfg c, keySlots := if t.mem.keySlots.contains c then t.mem.keySlots else t.mem.keySlots ++ [c] } }
  let t := { t with sec := { t.sec with doms := tset t.sec.doms (domCtx c) KeyDom.fresh }, store := { t.store with feat := tdel t.store.feat c } }
  keyRecord (ctxEvent c .free .alloc 0 0 t)

def ctxAllocBody (r : Req) (s : State) : State :=
  let n := fld r.payload 0 1
  let c := if n = 0 then lowestFreeSlot s else some n
  let d := c.getD 0
  checked r.rid [
      (hasRef r || decide (63 < n) || (decide (n ≠ 0) && decide (slotState n s ≠ .free)) || cfgBad r.payload s, stInvalidField),
      (decide (s.sec.sec ≠ .admitted), stAccessDenied),
      (c.isNone || reserveFails d (cfgOf r.payload 0) s || saveFails d (cfgOf r.payload 0) s, stNoSpace)]
    (fun t =>
      let u := allocSlot d r.payload t
      complete r.rid stSuccess (homesReply d (match slotOf d u with | some k => (k.homeE, k.homeC) | none => ([], [])) u) u) s

def execCtxAlloc (rid : Nat) (s : State) : Res := .next (serve 1 0x10 rid ctxAllocBody s)

/-- What a configuration change does at once, and what waits: class, reservations and homes for the next switch-in, the switch mode
for the next switch-out (R196). -/
def configSlot (c : Nat) (n : CtxCfg) (k : Slot) (s : State) : State :=
  let same := decide (n.lc = k.cfg.lc ∧ n.engHome = k.cfg.engHome ∧ n.coreHome = k.cfg.coreHome)
  let homes := if same then k.nextHomes else some (assignHomes c n s)
  modSlot c (fun q => { q with
    cfg := n, nextHomes := homes,
    act := { q.act with steal := n.steal, tdQuota := n.tdQuota, donateUs := n.donateUs, resumeDesc := n.resumeDesc, resumeRec := n.resumeRec } }) s

def ctxConfigBody (r : Req) (s : State) : State :=
  let c := fld r.payload 0 1
  match slotOf c s with
  | none => fail r.rid stInvalidField s
  | some k =>
    let n := cfgOf r.payload k.cfg.srSeed
    checked r.rid [
        (hasRef r || !(slotAllocated c s) || cfgBad r.payload s || (decide (n.steal ≠ k.cfg.steal) && decide (inFlight c s ≠ 0)), stInvalidField),
        (reserveFails c n s || saveFails c n s, stNoSpace)]
      (fun t =>
        let u := configSlot c n k t
        complete r.rid stSuccess (homesReply c (match slotOf c u with | some q => entryHomes q | none => ([], [])) u) u) s

def execCtxConfig (rid : Nat) (s : State) : Res := .next (serve 1 0x11 rid ctxConfigBody s)

/-! ### Freeing (R197, R215, R217) -/

/-- Ends every wait on a semaphore with `FREED`, and the semaphore. -/
def freeSem (n : Nat) (s : State) : State :=
  match semOf n s with
  | none => s
  | some m =>
    let t := m.waiters.foldl (fun t w => answerSem w.ctx w.hart (semWord 7 false m.count) t) s
    modCtxs (fun x => { x with
      sems := tdel x.sems n, donations := x.donations.filter fun d => decide (d.sem ≠ n),
      slots := tmap x.slots fun c k => if x.donations.any fun d => decide (d.sem = n ∧ d.holder = c) then { k with donated := false } else k }) t

/-- A mutex whose holder's context is freed passes to its first waiter with `ABANDONED`, or becomes free (R217). -/
def abandonSem (n : Nat) (s : State) : State :=
  passSem n true (fun q => { q with holder := none, count := 1 }) (modSem n (fun q => { q with exhausted := false }) s)

/-- The semaphores of a context that is freed: its waits end, its mutexes pass, those it owns are freed. -/
def freeCtxSems (c : Nat) (s : State) : State :=
  let t := dropWaits (fun w => decide (w.ctx = c)) s
  let held := (t.ctxs.sems.filter fun e => match e.2.holder with | some h => decide (h.1 = c) | none => false).map (·.1)
  let t := held.foldl (fun t n => abandonSem n t) t
  let owned := (t.ctxs.sems.filter fun e => decide (e.2.owner = c)).map (·.1)
  let t := owned.foldl (fun t n => freeSem n t) t
  modCtxs (fun x => { x with semPend := x.semPend.filter (fun e => decide (e.1 ≠ c)), donations := x.donations.filter fun d => decide (d.holder ≠ c) }) t

/-- What the services hold for a context that is freed: queue pairs, objects, models, sessions, programs, indexes, adapters; it is
detached from its namespaces (R197; 11 R339, R348; 07 R225; 12 R361; 14 R430). -/
def freeCtxWork (c : Nat) (s : State) : State :=
  let t := ((s.store.qps.filter fun e => decide (e.1 / 1024 = c)).map (·.1)).foldl (fun t q => abortQp q t) s
  let t := modStore (fun y => { y with ns := tmap y.ns (fun _ x => { x with attached := x.attached.filter fun d => decide (d ≠ c) }), feat := tdel y.feat c }) t
  let t := ((t.agents.sess.filter fun e => decide (e.2.ctx = c)).map (·.1)).foldl (fun t i => dropSess i t) t
  let t := (t.agents.loads.filter fun l => match modelOf l.model t with | some m => decide (m.ctx = c) | none => false).foldl (fun t l => abandonLoad l t) t
  let t := ((t.agents.models.filter fun e => decide (e.2.ctx = c)).map (·.1)).foldl (fun t m => unloadModel m t) t
  let t := ((t.search.idx.filter fun e => decide (e.2.ctx = c)).map (·.1)).foldl (fun t h => freeIndex h t) t
  let t := modSearch (fun y => { y with progs := y.progs.filter fun e => decide (e.2.ctx ≠ c) }) t
  let t := freeTune c t
  ((t.mem.objs.filter fun e => decide (e.2.ctx = c)).map (·.1)).foldl (fun t h => freeObj h t) t

/-- The tasklets of a context with their queues and slots, and what its engines had on the way (R197; 05 R180). -/
def freeCtxTasks (c : Nat) (s : State) : State :=
  { s with
    task := { s.task with pool := s.task.pool.filter (fun e => decide (e.2.ctx ≠ c)), ready := s.task.ready.filter (fun e => decide (e.1 / 4 ≠ c)), deque := s.task.deque.filter (fun e => decide (e.1 / 256 ≠ c)),
                            parked := s.task.parked.filter fun e => decide (e.1 ≠ c) }
    eng := { s.eng with cq := tmap s.eng.cq (fun _ l => l.filter fun x => decide (x.2.2 ≠ c)), recs := s.eng.recs.filter fun x => decide (x.ctx ≠ c) } }

/-- Stops the units of a resident context and discards their state. -/
def discardUnits (c : Nat) (s : State) : State :=
  match slotOf c s with
  | some k => if k.state = .resident then setWays (clearUnits k (stopPfs k.homeC (modSlot c (fun q => { q with state := .suspended }) s))) else s
  | none => s

/-- Frees a context up to its scrub: `FREEING`, stopped, its requests ended without a reply, its cairns removed, everything it
holds released (R197, R339, R547) (log 206). -/
def freeCtx (cause c : Nat) (s : State) : State :=
  match slotOf c s with
  | none => s
  | some k =>
    if slotAllocated c s then
      let t := discardUnits c s
      let t := interruptMbx causeMailbox c (modMbx c (fun m => { m with outstanding := 0 }) t)
      let t := { t with ports := { t.ports with remote := t.ports.remote.filter fun q => !(decide (q.ctx = c) && decide (q.stage ≠ RemStage.out)) } }
      let t := { t with ledger := { t.ledger with cairns := t.ledger.cairns.filter fun q => decide (q.ctx ≠ c) } }
      let t := settleSuspends c (freeCtxSems c (freeCtxTasks c (freeCtxWork c t)))
      let t := modSlot c (fun q => { q with
        state := .freeing, homeE := [], homeC := [], nextHomes := none, saved := none, donated := false, yield := false, resumeWait := false,
        cfg := { q.cfg with lc := false }, act := { q.act with lc := false, engHome := 0, coreHome := 0, t1Res := 0 } }) t
      let t := modCtxs (fun x => { x with order := x.order.erase c }) t
      pumpAll (ctxEvent c k.state .freeing cause 0 { t with sec := { t.sec with scrubNext := t.sec.scrubNext ++ [c], scrubDue := true } })
    else s

/-- `CTX_FREE`: the reply is written when the slot is `FREE`, at the end of the scrub. -/
def ctxFreeBody (r : Req) (s : State) : State :=
  let c := fld r.payload 0 1
  checked r.rid [(hasRef r || decide (c = 0) || !(slotAllocated c s), stInvalidField)] (fun t => freeCtx 0 c (setRunning r.rid t)) s

def execCtxFree (rid : Nat) (s : State) : Res := .next (serve 1 0x12 rid ctxFreeBody s)

/-! ### Query, hold, scheduler parameters (R198, R570) -/

def ctxQueryReply (c : Nat) (s : State) : Bytes :=
  match slotOf c s with
  | none => leBytes 1 c ++ zeros 39
  | some k =>
    leBytes 1 c ++ leBytes 1 k.state.code ++ leBytes 1 (b2n k.hold + 2 * b2n k.donated + 4 * b2n (hasWork c s)) ++ leBytes 1 (b2n k.cfg.lc)
      ++ leBytes 2 k.homeE.length ++ leBytes 2 k.homeC.length ++ leBytes 4 k.switchOuts ++ leBytes 4 k.lastUs ++ leBytes 4 k.donations
      ++ leBytes 4 k.starved ++ leBytes 8 (if k.state = .freeing then 0 else saveBytes k) ++ leBytes 4 (inFlight c s) ++ zeros 4

def ctxQueryBody (r : Req) (s : State) : State :=
  let c := fld r.payload 0 1
  checked r.rid [(hasRef r || decide (63 < c), stInvalidField)] (fun t => complete r.rid stSuccess (ctxQueryReply c t) t) s

def execCtxQuery (rid : Nat) (s : State) : Res := .next (serve 1 0x13 rid ctxQueryBody s)

/-- `CTX_SUSPEND` holds the context out; of a resident one the reply waits for its switch-out. -/
def ctxSuspendBody (r : Req) (s : State) : State :=
  let c := fld r.payload 0 1
  checked r.rid [(hasRef r || decide (c = 0) || !(slotAllocated c s), stInvalidField)]
    (fun t =>
      let u := modSlot c (fun k => { k with hold := true }) t
      if resident c u then setRunning r.rid u else complete r.rid stSuccess [] u) s

def execCtxSuspend (rid : Nat) (s : State) : Res := .next (serve 1 0x14 rid ctxSuspendBody s)

def ctxResumeBody (r : Req) (s : State) : State :=
  let c := fld r.payload 0 1
  checked r.rid [(hasRef r || decide (c = 0) || !(slotAllocated c s), stInvalidField)]
    (fun t => complete r.rid stSuccess [] (modSlot c (fun k => { k with hold := false }) t)) s

def execCtxResume (rid : Nat) (s : State) : Res := .next (serve 1 0x15 rid ctxResumeBody s)

/-- `SCHED_SET` (R570). -/
def schedSetBody (r : Req) (s : State) : State :=
  let n := fld r.payload 0 4
  let v := if n = 0 then 5000 else n
  checked r.rid [(hasRef r || (decide (n ≠ 0) && decide (n < 100 ∨ 1000000 < n)) || decide (fld r.payload 4 4 ≠ 0), stInvalidField)]
    (fun t => complete r.rid stSuccess (leBytes 4 v ++ zeros 4) (modCtxs (fun x => { x with beSliceUs := v }) t)) s

def execSchedSet (rid : Nat) (s : State) : Res := .next (serve 1 0x18 rid schedSetBody s)

/-! ### Semaphores (R215, R216) -/

def semAllocBody (r : Req) (s : State) : State :=
  let p := r.payload
  let n := lowestFree 16384 (s.ctxs.sems.map (·.1))
  let own := fld p 4 1
  checked r.rid [
      (hasRef r || decide (1 < fld p 0 1) || (decide (fld p 0 1 = 1) && decide (fld p 2 2 ≠ 1)) || decide (63 < own) || !(slotAllocated own s), stInvalidField),
      (n.isNone, stNoSpace)]
    (fun t =>
      let m : Sem := ⟨decide (fld p 0 1 = 1), fld p 2 2, own, BitVec.ofNat 64 (fld p 8 8), none, [], false⟩
      complete r.rid stSuccess (leBytes 2 (n.getD 0)) (modCtxs (fun x => { x with sems := tset x.sems (n.getD 0) m }) t)) s

def execSemAlloc (rid : Nat) (s : State) : Res := .next (serve 1 0x16 rid semAllocBody s)

def semFreeBody (r : Req) (s : State) : State :=
  let n := fld r.payload 0 2
  checked r.rid [(hasRef r || (semOf n s).isNone, stInvalidField)] (fun t => complete r.rid stSuccess [] (freeSem n t)) s

def execSemFree (rid : Nat) (s : State) : Res := .next (serve 1 0x17 rid semFreeBody s)

/-- The access mask allows a context; the owner always (R215). -/
def semAllows (m : Sem) (c : Nat) : Bool := decide (m.owner = c) || m.mask.toNat.testBit c

/-- A command of a hart on a semaphore that its context may use; any other is `DENIED` and changes nothing (R216) (log 149). -/
def onSem (h n : Nat) (f : Nat → Sem → State → State) (s : State) : State :=
  onHart h (fun k t =>
    match semOf n t with
    | none => setSemResult k.ctx h (semWord 6 false 0) t
    | some m => if semAllows m k.ctx then f k.ctx m t else setSemResult k.ctx h (semWord 6 false m.count) t) s

/-- Takes the semaphore at once: the count goes down, the holder of a mutex is recorded. -/
def takeSem (c h n : Nat) (m : Sem) (s : State) : State :=
  setSemResult c h (semWord 1 false (m.count - 1))
    (modSem n (fun q => { q with count := q.count - 1, holder := if q.mutex then some (c, logicalHart h s) else none }) s)

def canTake (m : Sem) : Bool := decide (0 < m.count) && m.waiters.isEmpty

/-- `ACQUIRE`: at once, or the hart waits, until the deadline if it names one, in units of 1,024 FAB cycles. A hart that runs a service
may wait for a request of its context (R219; log 148). -/
def acquireSem (h n timeout : Nat) (rid : Option Nat) (c : Nat) (m : Sem) (s : State) : State :=
  if canTake m then takeSem c h n m s
  else
    let w : Waiter := ⟨c, h, if timeout = 0 then 0 else clockNow domFab s + 1024 * timeout, false, rid.filter fun r => match findReq r s with | some q => decide (q.mbx = c) && q.settled.isNone | none => false⟩
    modHart h (fun v => { v with sem := some n }) (modSem n (fun q => { q with waiters := q.waiters ++ [w] }) s)

def execAcquire (h sem : Nat) (wait : SemWait) (s : State) : Res := .next (onSem h sem (acquireSem h sem wait.timeout wait.rid) s)

def trySem (h n : Nat) (c : Nat) (m : Sem) (s : State) : State :=
  if canTake m then takeSem c h n m s else setSemResult c h (semWord 3 false m.count) s

def execTryAcquire (h sem : Nat) (s : State) : Res := .next (onSem h sem (trySem h sem) s)

/-- `RELEASE`: a counting semaphore goes up, saturating, or passes to its first waiter; a mutex passes to its first waiter, only
from its holding context, and ends a donated run made for it (R216, R219). -/
def releaseSem (h n : Nat) (c : Nat) (m : Sem) (s : State) : State :=
  if m.mutex then
    if (match m.holder with | some q => decide (q.1 = c) | none => false) then
      let t := passSem n false (fun q => { q with holder := none, count := 1 }) (modSem n (fun q => { q with exhausted := false }) s)
      let t := if t.ctxs.donations.any fun d => decide (d.holder = c ∧ d.sem = n) then
          modSlot c (fun k => { k with donated := false }) (modCtxs (fun x => { x with donations := x.donations.filter fun d => !(decide (d.holder = c ∧ d.sem = n)) }) t)
        else t
      setSemResult c h (semWord 2 false (match semOf n t with | some q => q.count | none => 0)) t
    else setSemResult c h (semWord 6 false m.count) s
  else if m.count = 65535 then setSemResult c h (semWord 8 false m.count) s
  else
    let t := passSem n false (fun q => { q with count := q.count + 1 }) s
    setSemResult c h (semWord 2 false (match semOf n t with | some q => q.count | none => 0)) t

def execRelease (h sem : Nat) (s : State) : Res := .next (onSem h sem (releaseSem h sem) s)

/-- The wait of a hart on a semaphore whose deadline comes first (log 150). -/
def timedWaiter (h : Nat) (m : Sem) : Option Waiter :=
  (m.waiters.filter fun w => decide (w.hart = h ∧ w.deadline ≠ 0)).foldl (fun b w =>
    match b with
    | some x => if w.deadline < x.deadline then some w else b
    | none => some w) none

/-- A wait ends by its own deadline: `TIMEOUT`, or `STARVED` after its holder's budget ran out (R216, R219). -/
def semTimeoutAt (h n : Nat) (s : State) : State :=
  match semOf n s with
  | none => s
  | some m =>
    match timedWaiter h m with
    | none => s
    | some w =>
      let t := clockTo domFab w.deadline (modSem n (fun q => { q with waiters := q.waiters.erase w }) s)
      answerSem w.ctx h (semWord (if w.starved then 5 else 4) false m.count) t

def execSemTimeout (h sem : Nat) (s : State) : Res := .next (semTimeoutAt h sem s)

/-! ### The scheduler (R193, R204, R210) -/

/-- The scheduler observes that a context has work: it waits from then on, an LC context gives way no more; Idle is left (R193, R204; 16
R473). -/
def observeWork (c : Nat) (s : State) : State :=
  if hasWork c s then
    let t := if s.pwr.pwr = .idle then announced (fun u => { u with pwr := { u.pwr with pwr := if u.pwr.cap = 0 then .active else .capped } }) s else s
    let t := if runsLc c s then modSlot c (fun k => { k with yield := false }) t else t
    if resident c s || s.ctxs.order.contains c then t else modCtxs (fun x => { x with order := x.order ++ [c] }) t
  else s

def execWorkObserved (c : Nat) (s : State) : Res := .next (observeWork c s)

/-- The scheduler runs: not while the module sleeps, resets or is off. -/
def schedRuns (s : State) : Bool := match s.host.ifState with | .ready | .scrub | .handover => true | _ => false

/-- A holder of a waiter's homes may be switched out for it (R204). -/
def mayLeave (lcIn : Bool) (o : Nat) (s : State) : Bool :=
  match slotOf o s with
  | none => false
  | some k => isHeld k || (if runsLc o s then k.yield && !(hasWork o s) else lcIn || k.yield || !(hasWork o s))

/-- A waiter that comes before another and needs one of its homes: LC before BE, then the longer wait (R204). -/
def waitsBefore (w c : Nat) (s : State) : Bool :=
  let pos := fun (n : Nat) => (s.ctxs.order.idxOf? n).getD s.ctxs.order.length
  waitsForHomes w s && decide (w ≠ c) && ((entersLc w s && !(entersLc c s)) || (decide (entersLc w s = entersLc c s) && decide (pos w < pos c)))
    && (match slotOf w s, slotOf c s with | some a, some b => homesMeet (entryHomes a) (entryHomes b) | _, _ => false)

/-- The switch that the scheduler may decide: a waiting context enters whole, and all holders of its homes leave together; or held
contexts leave (R198, R199, R204). -/
def switchAllowed (out : List Nat) (inn : Option Nat) (s : State) : Bool :=
  schedRuns s &&
  match inn with
  | none => !out.isEmpty && out.all fun o => match slotOf o s with | some k => decide (k.state = .resident) && isHeld k | none => false
  | some c =>
    match slotOf c s with
    | none => false
    | some k =>
      let need := holdersOf (entryHomes k) s
      s.ctxs.order.contains c && waitsForHomes c s && !(s.ctxs.order.any fun w => waitsBefore w c s)
        && need.all (fun o => out.contains o && mayLeave (entersLc c s) o s) && out.all need.contains

/-- Cause of a switch-out: a management request or the security state for a held context, lending by an idle LC context, else
pre-emption (R194). -/
def outCause (o : Nat) (s : State) : Nat :=
  match slotOf o s with
  | some k => if k.secHold then 6 else if k.hold then 0 else if runsLc o s then 3 else 2
  | none => 2

def doSwitch (out : List Nat) (inn : Option Nat) (us : Nat) (s : State) : State :=
  if switchAllowed out inn s then
    let t := out.foldl (fun t o => switchOut o (outCause o t) t) s
    match inn with
    | some c => switchIn c 1 us t
    | none => t
  else s

def execSwitch (out : List Nat) (inn : Option Nat) (us : Nat) (s : State) : Res := .next (doSwitch out inn us s)

/-- The BE slice of a resident context with work has run while a BE context waits for a home of it (R204). -/
def execBeSliceExpiry (c : Nat) (s : State) : Res :=
  .next (match slotOf c s with
    | some k => if decide (k.state = .resident) && !(runsLc c s) && hasWork c s && wantedBy false k s then modSlot c (fun q => { q with yield := true }) s else s
    | none => s)

/-- An LC context without work for 100 µs, while a BE context waits for a home of it (R204). -/
def execLcIdleExpiry (c : Nat) (s : State) : Res :=
  .next (match slotOf c s with
    | some k => if decide (k.state = .resident) && runsLc c s && !k.donated && !(hasWork c s) && wantedBy false k s then modSlot c (fun q => { q with yield := true }) s else s
    | none => s)

/-! ### Donation (R218, R219) -/

/-- The mutex with its holder on which a context waits while the holder is out. -/
def blockedOn (c : Nat) (s : State) : Option (Nat × Nat) :=
  s.ctxs.sems.findSome? fun e => match e.2.holder with
    | some (d, _) => if e.2.mutex = true ∧ (e.2.waiters.any fun w => decide (w.ctx = c)) = true ∧ resident d s = false ∧ d ≠ c then some (e.1, d) else none
    | none => none

/-- Follows a chain of waits from a holder: the last holder with its mutex; none where the chain passes 4 contexts or returns (log 148). -/
def donee (fuel : Nat) (chain : List Nat) (d n : Nat) (s : State) : Option (Nat × Nat) :=
  match fuel with
  | 0 => none
  | k + 1 =>
    if chain.contains d ∨ 4 ≤ chain.length then none
    else match blockedOn d s with
      | none => some (d, n)
      | some (m, e) => donee k (chain ++ [d]) e m s

/-- Tells a context that its wait is starved: the event, and its waits end as `STARVED` (R219). -/
def tellStarved (n d c : Nat) (s : State) : State :=
  raiseEvent 0x16 0 0 c 0x0202 (leBytes 2 n ++ leBytes 1 d)
    (modSem n (fun q => { q with waiters := q.waiters.map fun w => if w.ctx = c then { w with starved := true } else w }) s)

/-- The donated run of a holder: it enters with its waiter's class, and those that hold its homes leave (R218). The time that the
switch takes is a free value (R209 bounds it). -/
def donateTo (w d n : Nat) (s : State) : State :=
  match slotOf d s with
  | none => s
  | some k =>
    let t := (holdersOf (entryHomes k) s).foldl (fun t o => switchOut o 4 t) s
    let t := modCtxs (fun x => { x with donations := x.donations ++ [⟨d, n, w, runsLc w s⟩] }) t
    let t := modSlot d (fun q => { q with donations := (q.donations + 1) % 2 ^ 32, donated := true }) (bumpFree t)
    switchIn d 4 (Config.freeNat s.freeCtr % 2 ^ 32) t

/-- A hart of a resident context blocks on a mutex whose holder is out: the donated run, or the waiter is told at once (R218). -/
def donatedRun (h n : Nat) (s : State) : State :=
  match semOf n s with
  | none => s
  | some m =>
    match m.waiters.find? fun w => decide (w.hart = h) && resident w.ctx s, m.holder with
    | some w, some (d, _) =>
      if m.mutex = true ∧ d ≠ w.ctx ∧ resident d s = false ∧ m.exhausted = false ∧ schedRuns s = true then
        match donee 4 [w.ctx] d n s with
        | none => tellStarved n d w.ctx s
        | some (e, q) =>
          match slotOf e s, semOf q s with
          | some k, some x =>
            let bad := isHeld k || x.exhausted || (entryHomes k).2.isEmpty
              || (holdersOf (entryHomes k) s).any fun o => decide (o ≠ w.ctx) && runsLc o s
            if bad then tellStarved n d w.ctx s else donateTo w.ctx e q s
          | _, _ => s
      else s
    | _, _ => s

def execDonatedRun (h sem : Nat) (s : State) : Res := .next (donatedRun h sem s)

/-- The service requests that wait on a mutex end with `SEM_HOLDER_STARVED`, their waits with them (R219). -/
def starveReqs (n : Nat) (m : Sem) (s : State) : State :=
  m.waiters.foldl (fun t w => match w.rid with
    | some r => fail r stStarved (answerSem w.ctx w.hart (semWord 5 false m.count) (modSem n (fun q => { q with waiters := q.waiters.filter fun x => decide (x.rid ≠ some r) }) t))
    | none => t) s

/-- The budget of a donated run is exhausted: the holder goes out, its waiters are told and stay queued, and it gets no further
donation for that mutex until it releases it (R219). -/
def holderStarved (n : Nat) (s : State) : State :=
  match s.ctxs.donations.find? fun d => decide (d.sem = n), semOf n s with
  | some d, some m =>
    let t := modSlot d.holder (fun k => { k with starved := (k.starved + 1) % 2 ^ 32 }) (switchOut d.holder 4 s)
    let t := modSem n (fun q => { q with exhausted := true }) t
    starveReqs n m (((m.waiters.map (·.ctx)).eraseDups).foldl (fun t c => tellStarved n d.holder c t) t)
  | _, _ => s

def execSemHolderStarved (sem : Nat) (s : State) : Res := .next (holderStarved sem s)

end Sys2Proof.Machine
end

