-- ==== Sys2Proof/Machine/PowerOps.lean ====
section
/-! DEFINITION. Operations of the power chapter that other services use (16; 15 R460): what the sensors report, coarsening, the
SMBus values, alerts, emergencies, frequencies. -/
namespace Sys2Proof.Machine

def modPwr (f : Power → Power) (s : State) : State := { s with pwr := f s.pwr }

/-! ### Measurements and what is reported of them -/

/-- The feeds, the power and the bank are measured: the values come from outside the block, and nothing constrains them (log
112). -/
def measure (s : State) : State :=
  let v := fun i => (Config.freeBits 32 (s.freeCtr + i)).toNat
  bumpFreeBy 6 (modPwr (fun p => { p with
    feedA := { p.feedA with mv := v 0, ma := v 1 }, feedB := { p.feedB with mv := v 2, ma := v 3 }, powerMw := v 4, bankMv := v 5 }) s)

/-- The value that a sensor reports: an override, else its last sample (19 R566). -/
def reported (i : Nat) (s : State) : Int := ((tget s.mon.override i).map (·.1)).getD (tgetD s.pwr.sensors i 0)

/-- Highest junction temperature reported: the dies and the hub. -/
def junctionMax (s : State) : Int := [79, 80, 81, 82].foldl (fun m i => max m (reported i s)) (reported 78 s)

/-- Values are rounded down to multiples of a step while a tenant context is Admitted (15 R460). -/
def coarseNat (k v : Nat) (s : State) : Nat := if tenantAdmitted s then v / k * k else v
def coarseInt (k v : Int) (s : State) : Int := if tenantAdmitted s then v / k * k else v

/-- The 16-bit signed field of a temperature in 1/16 °C. -/
def tempBytes (v : Int) : Bytes := leBytes 2 (v % 65536).toNat

/-- `POWER.QUERY.throttle` (R486). -/
def throttleBits (s : State) : Nat := bitsMask s.pwr.throttled

/-- The values that the SMBus registers show (R492, R493), in their units. -/
def telemetryNow (s : State) : Telemetry :=
  let p := s.pwr
  { feedAV := coarseNat 10 p.feedA.mv s, feedBV := coarseNat 10 p.feedB.mv s, feedAI := coarseNat 100 (p.feedA.ma / 10) s
    feedBI := coarseNat 100 (p.feedB.ma / 10) s, power := coarseNat 100 (p.powerMw / 250) s, cap := p.cap
    tJmax := coarseInt 16 (junctionMax s) s, tInlet := coarseInt 16 (reported 85 s) s, tOutlet := coarseInt 16 (reported 86 s) s
    tNand := coarseInt 16 (reported 83 s) s, tBank := coarseInt 16 (reported 84 s) s, bankV := coarseNat 10 p.bankMv s, bankU := p.bankU
    throttle := throttleBits s }

/-- What the SMBus shows: frozen during a scrub (15 R459). -/
def telemetry (s : State) : Telemetry := s.pwr.frozen.getD (telemetryNow s)

/-! ### Alerts (R490, R492) -/

/-- What asserts `MOD_ALERT_N`: a cause under its mask, where bits 3 and 4 cannot be masked; `SAFE`; a trip. -/
def alertWanted (s : State) : Bool :=
  decide (s.pwr.alertStat.toNat &&& (s.pwr.alertMask.toNat ||| 0x18) ≠ 0) || decide (s.host.ifState = .safe ∨ s.host.ifState = .tripped)

/-- Brings the pin to what its causes ask for: held during a scrub, unless a crampon limit acts; an assertion sets `EVT_CAUSE.ALERT`
where MGMT is powered. -/
def syncAlert (limit : Bool) (s : State) : State :=
  if s.host.ifState = .scrub ∧ limit = false then s
  else
    let w := alertWanted s
    let t := modPwr (fun p => { p with alert := w }) s
    if w && !s.pwr.alert && clockPowered domMgmt s then setCause 4 t else t

/-- Sets a bit of `SB_ALERT_STAT`. -/
def alertBit (b : Nat) (limit : Bool) (s : State) : State :=
  syncAlert limit (modPwr (fun p => { p with alertStat := p.alertStat ||| BitVec.ofNat 16 (2 ^ b) }) s)

/-- `TRIP` and `SAFE` are set again each AON cycle while their condition holds (R492). -/
def standingAlerts (s : State) : State :=
  let t := if s.host.ifState = .tripped then alertBit 3 true s else s
  if t.host.ifState = .safe then alertBit 4 true t else t

/-! ### Emergencies (R485) -/

/-- An event of the POWER service (R487). -/
def powerEvent (code : Nat) (payload : Bytes) (s : State) : State := devEvent code 1 0x0B payload s

/-- A condition of an emergency holds. -/
def emergencyNow (s : State) : Bool :=
  !s.pwr.feedA.good || !s.pwr.feedB.good || !s.pwr.throttled.isEmpty || s.pwr.coolant || decide (s.pwr.bankU < 600)

/-! ### Frequencies (01 R30, R31; R478, R479) -/

/-- Lowest and highest step of a domain that changes frequency, in kHz (R478). -/
def stepRange (d : Nat) : Option (Nat × Nat) :=
  if d < 4 then some (400000, 1700000) else if d < 8 then some (600000, 2400000) else if d = 8 then some (1000000, 2000000) else none

/-- A frequency is a step of a domain. -/
def isFreqStep (d khz : Nat) : Bool :=
  match stepRange d with
  | some (lo, hi) => decide (lo ≤ khz ∧ khz ≤ hi ∧ khz % 100000 = 0)
  | none => false

/-- Firmware's setting of a domain. -/
def firmKhz (d : Nat) (s : State) : Nat := tgetD s.pwr.setKhz d (nominalKhz d)

/-- Every domain runs at the lower of its firmware setting and its crampon limit; its clock restarts there, and the rate table
follows within 1 ms by an update of its own (01 R31, R47; R479). -/
def applyKhz (d : Nat) (s : State) : State :=
  let k := min (firmKhz d s) (tgetD s.pwr.limKhz d (nominalKhz d))
  { s with clocks := tmod s.clocks d fun c => { c with actual := k } }

/-- Domains of a throttled unit: a die's ARITH and CORE, the hub's FAB (R482) (log 194). -/
def unitDomains (u : Nat) : List Nat := if u < 4 then [u, 4 + u] else [8]

/-- Active, or Capped where a cap is in force (R473). -/
def workingState (s : State) : PwrState := if s.pwr.cap = 0 then .active else .capped

end Sys2Proof.Machine
end

