-- ==== Sys2Proof/Machine/Security.lean ====
section
/-! DEFINITION. Security (15): SPDM, admission, quarantine, flash data keys, debug unlock, tamper, the start of a scrub. -/
namespace Sys2Proof.Machine

def modSec (f : Sec → Sec) (s : State) : State := { s with sec := f s.sec }
def secEvent (code ctx : Nat) (payload : Bytes) (s : State) : State := raiseEvent code 1 0x0A ctx 0 payload s

/-- Slots of tenants that are not `FREE`. -/
def tenantSlots (s : State) : List Nat := (s.ctxs.slots.map (·.1)).filter fun c => decide (c ≠ 0)

/-! ### Quarantine (R439, R449, R453) -/

/-- Every namespace and context data key and every context memory key is destroyed: what they protected is gone (R453) (log 154). -/
def destroyDataKeys (s : State) : State :=
  let t := (s.mem.pages.map (·.1)).foldl (fun t p => losePage p t) (wipeFlash s)
  let t := modSec (fun x => { x with doms := tmap x.doms fun _ _ => { KeyDom.fresh with loaded := false, destroyed := true } }) t
  keyRecord { t with mem := { t.mem with keySlots := [64] } }

/-- Keys leave the channel controllers and stay wrapped (R449, R453). -/
def withdrawKeys (s : State) : State := modSec (fun x => { x with doms := tmap x.doms fun _ d => { d with loaded := false } }) s

/-- What a mask of causes does to the keys: `TAMPER` and `DEBUG` destroy them, `ATTEST` withdraws them (R453). -/
def keysFor (mask : Nat) (s : State) : State := if bit mask 1 || bit mask 2 then destroyDataKeys s else withdrawKeys s

/-- The entry into Quarantined frees every tenant slot, for one scrub (R439). -/
def enterQuarantine (s : State) : State :=
  let t := announced (modSec (fun x => { x with sec := .quarantined, quarantineNext := false, scrubDue := true })) s
  keysFor t.sec.causes ((tenantSlots s).foldl (fun t c => freeCtx 6 c t) t)

/-- A cause arises: recorded in the firmware array. The module enters Quarantined, after a scrub in progress (R439, R459). -/
def quarantine (cause : Nat) (s : State) : State :=
  if s.sec.sec = .blank then s
  else
    let t := writeRecordFree 2 (modSec (fun x => { x with causes := x.causes ||| 2 ^ cause }) s)
    if s.sec.sec = .quarantined then keysFor (2 ^ cause) t
    else if s.host.ifState = .scrub then modSec (fun x => { x with quarantineNext := true }) t
    else enterQuarantine t

/-- The module leaves Admitted for Provisioned: tenant slots are held (R440, R448). -/
def leaveAdmitted (s : State) : State :=
  if s.sec.sec = .admitted then
    announced (fun t => modCtxs (fun x => { x with slots := tmap x.slots fun c k => if c = 0 then k else { k with secHold := true } })
      (modSec (fun x => { x with sec := .provisioned }) t)) s
  else s

/-! ### SPDM (R444 to R449; codes and layouts of DSP0274, log 113) -/

def spdmOf (p : Nat) (s : State) : Spdm := tgetD s.sec.spdm p Spdm.init
def modSpdm (p : Nat) (f : Spdm → Spdm) (s : State) : State := modSec (fun x => { x with spdm := tupd x.spdm p Spdm.init f }) s

/-- SPDM messages of a port are answered: the SEC component runs, the port carries VC1; port H is restricted during a scrub (R446,
R459). -/
def spdmServes (p : Nat) (s : State) : Bool :=
  decide (p < 5) && portUp p s && compUp 7 s
    && (match s.host.ifState with | .ready | .handover => true | .scrub => decide (p ≠ 0) | _ => false)

/-- Answers a request of a port where they are answered at all. -/
def onSpdm (p : Nat) (f : State → State) (s : State) : State := if spdmServes p s then f s else s

def spdmReply (p code : Nat) (payload : Bytes) (s : State) : State := emit (.spdm p code payload) s
/-- `ERROR` with its code: 3 Busy, 4 unexpected request, 5 unspecified, 6 verification failed. -/
def spdmError (p e : Nat) (s : State) : State := spdmReply p 0x7F (leBytes 1 e) s
/-- A response of which the spec gives no contents. -/
def spdmFree (p code n : Nat) (s : State) : State := bumpFreeBy n (spdmReply p code (freeBytes n s) s)

/-- Identity leaves of the key, leaves left, bytes of a signature. -/
def leavesAll : Nat := 1048576
def leavesLeft (s : State) : Nat := leavesAll - s.sec.nextLeaf
def sigBytes : Nat := 2820

/-- AON cycles of the signatures of the last 24 h (R444). -/
def recentSigs (s : State) : List Nat := s.sec.sigDay.filter fun t => decide (clockNow domAon s < t + 8640000000000)

/-- Why no signature is made: no identity key or no leaf left, or a limit reached (R436, R444). -/
def signBar (s : State) : Option Nat :=
  if s.sec.sec = .blank ∨ leavesLeft s = 0 then some 5
  else if 64 ≤ s.sec.sigPower ∨ 512 ≤ (recentSigs s).length then some 3 else none

/-- Uses a leaf: its record first; `SEC_LEAVES_LOW` once below each bound (R444). -/
def useLeaf (s : State) : State :=
  let t := writeRecord 1 (BitVec.ofNat 64 (s.sec.nextLeaf + 1)) s
  let t := modSec (fun x => { x with nextLeaf := x.nextLeaf + 1, sigPower := x.sigPower + 1, sigDay := recentSigs s ++ [clockNow domAon s] }) t
  let n := leavesLeft t
  let low := fun (t : State) => secEvent 0x0A01 0xFF (leBytes 4 n) t
  if n < 16384 ∧ t.sec.low2 = false then low (modSec (fun x => { x with low1 := true, low2 := true }) t)
  else if n < 131072 ∧ t.sec.low1 = false then low (modSec (fun x => { x with low1 := true }) t) else t

/-- Makes a signature for a request, or answers the error that bars it. -/
def spdmSigned (p : Nat) (f : State → State) (s : State) : State :=
  match signBar s with
  | some e => spdmError p e s
  | none => f (useLeaf s)

/-- `GET_VERSION` starts an exchange anew: version 1.3 only. -/
def getVersion (p : Nat) (s : State) : State := spdmReply p 0x04 (leBytes 2 0x1300) (modSpdm p (fun x => { x with version := true, caps := false, algs := false, opening := none }) s)
def execGetVersion (p : Nat) (s : State) : Res := .next (onSpdm p (getVersion p) s)

/-- A request that needs an earlier one. -/
def afterStep (p : Nat) (ok : Bool) (f : State → State) (s : State) : State := if ok then f s else spdmError p 4 s

/-- `GET_CAPABILITIES`: the largest message. -/
def getCapabilities (p : Nat) (s : State) : State :=
  afterStep p (spdmOf p s).version (fun t => spdmReply p 0x61 (leBytes 4 65536) (modSpdm p (fun x => { x with caps := true }) t)) s
def execGetCapabilities (p : Nat) (s : State) : Res := .next (onSpdm p (getCapabilities p) s)

/-- `NEGOTIATE_ALGORITHMS`: the one suite of R445; the response's contents are DSP0274's. -/
def negotiateAlgorithms (p : Nat) (s : State) : State :=
  afterStep p (spdmOf p s).caps (fun t => spdmFree p 0x63 52 (modSpdm p (fun x => { x with algs := true }) t)) s
def execNegotiateAlgorithms (p : Nat) (s : State) : Res := .next (onSpdm p (negotiateAlgorithms p) s)

/-- The digest of the chain in slot 0. A Blank module has no certificate (R436). -/
def getDigests (p : Nat) (s : State) : State :=
  afterStep p (spdmOf p s).algs (fun t => if t.sec.sec = .blank then spdmError p 5 t else spdmFree p 0x01 48 t) s
def execGetDigests (p : Nat) (s : State) : Res := .next (onSpdm p (getDigests p) s)

/-- The chain of slot 0, of a length and contents that the spec does not give. -/
def getCertificate (p : Nat) (s : State) : State :=
  afterStep p (spdmOf p s).algs (fun t => if t.sec.sec = .blank then spdmError p 5 t else spdmFree p 0x02 (Config.freeNat t.freeCtr % 65536) (bumpFree t)) s
def execGetCertificate (p : Nat) (s : State) : Res := .next (onSpdm p (getCertificate p) s)

/-- `CHALLENGE`: signed with one leaf; a record torn by a reset consumes none, and nothing is answered (R444). -/
def challenge (p : Nat) (torn : Bool) (s : State) : State :=
  if torn then s else afterStep p (spdmOf p s).algs (spdmSigned p fun t => spdmFree p 0x03 (48 + 32 + 48 + sigBytes) t) s
def execChallenge (p : Nat) (torn : Bool) (s : State) : Res := .next (onSpdm p (challenge p torn) s)

/-- What of the state the contents of a measurement depend on: the ROM on nothing, the component images on the running image, the fuses on
the security version and on what provisioning has burnt (R438, R446; log 246). -/
def measuredOver (i : Nat) (s : State) : List Nat :=
  if i = 1 then [] else if i = 3 then [s.fw.running, imageDigest s.fw.running s] else [s.fw.fuseSvn, b2n (decide (s.sec.dbg = .open))]

/-- The value of a measurement: index 2 is the running image's, 5 and 6 are taken over the state, the others over contents outside the
model (R446; 17 R516; log 246). -/
def measurement (i : Nat) (s : State) : Bytes :=
  if i = 2 then leBytes 48 (imageDigest s.fw.running s)
  else if i = 5 then shake256 (leBytes 1 s.sec.sec.code ++ leBytes 1 s.sec.dbg.code ++ leBytes 2 s.sec.causes) 48
  else if i = 6 then shake256 (capTable s) 48 else leBytes 48 (Config.measured i (measuredOver i s)).toNat

/-- The record of a measurement: its index and its value. -/
def measurementRecord (i : Nat) (s : State) : Bytes := leBytes 1 i ++ measurement i s

/-- The measurements that an operation names: one, all of them, or only their number (R446). -/
def measurementsOf (index : Nat) (s : State) : Bytes :=
  if index = 0 then [] else if index = 0xFF then (rangeFrom 1 6).flatMap fun i => measurementRecord i s else measurementRecord index s

/-- `GET_MEASUREMENTS`: unsigned, or signed with one leaf. -/
def getMeasurements (p index : Nat) (sig : Bool) (s : State) : State :=
  let body := leBytes 1 (if index = 0 then 6 else if index = 0xFF then 6 else 1) ++ measurementsOf index s
  afterStep p ((spdmOf p s).algs && (decide (index ≤ 6) || decide (index = 0xFF)))
    (fun t => if sig then spdmSigned p (fun u => bumpFreeBy sigBytes (spdmReply p 0x60 (body ++ freeBytes sigBytes u) u)) t else spdmReply p 0x60 body t) s
def execGetMeasurements (p index : Nat) (signed : Bool) (s : State) : Res := .next (onSpdm p (getMeasurements p index signed) s)

/-- A peer session is made only in these states (R447). -/
def peerAllowed (p : Nat) (s : State) : Bool :=
  decide (p = 0) || (decide (s.sec.sec = .provisioned ∨ s.sec.sec = .admitted) && decide (s.sec.dbg = .sealed))

/-- A verification on port H fails; the third in a row sets `ATTEST` (R449). -/
def verifyFailed (p : Nat) (s : State) : State :=
  let t := spdmError p 6 (modSpdm p (fun x => { x with opening := none }) s)
  if p ≠ 0 ∨ s.sec.sec = .blank then t
  else
    let n := (spdmOf p s).failures + 1
    if n < 3 then modSpdm p (fun x => { x with failures := n }) t
    else quarantine 0 (secEvent 0x0A03 0xFF (leBytes 1 0) (modSpdm p (fun x => { x with failures := 0 }) t))

/-- `KEY_EXCHANGE`: a signature with one leaf opens a session (R448 step 3). -/
def keyExchange (p sid : Nat) (ok : Bool) (s : State) : State :=
  afterStep p ((spdmOf p s).algs && peerAllowed p s)
    (fun t => if ok then spdmSigned p (fun u => spdmFree p 0x64 (32 + 96 + sigBytes + 48) (modSpdm p (fun x => { x with opening := some sid, failures := 0 }) u)) t
      else verifyFailed p t) s
def execKeyExchange (p sid : Nat) (ok : Bool) (s : State) : Res := .next (onSpdm p (keyExchange p sid ok) s)

/-- The keys of a session are in force at a port: TC2 for port H, TC3 for a peer; counters start anew (R447; 13 R389). -/
def installKeys (p : Nat) (s : State) : State :=
  let key : TcKey := ⟨false, 1, false⟩
  let base := 16 * (if p = 0 then 0xFE else 0x100 + p) + 2 * (if p = 0 then 2 else 3)
  setTcKey p (decide (p ≠ 0)) (some key) (modPorts (fun x => { x with ctrSeen := tdel (tdel x.ctrSeen base) (base + 1) }) s)

/-- `FINISH`: the session is in force (R448 step 4). -/
def finishSession (p : Nat) (ok : Bool) (s : State) : State :=
  afterStep p ((spdmOf p s).opening.isSome && peerAllowed p s)
    (fun t => if ok then
        spdmReply p 0x65 [] (installKeys p (modSpdm p (fun x => { x with session := x.opening, opening := none, failures := 0 }) t))
      else verifyFailed p t) s
def execFinish (p : Nat) (ok : Bool) (s : State) : Res := .next (onSpdm p (finishSession p ok) s)

def hasSession (p : Nat) (s : State) : Bool := (spdmOf p s).session.isSome

def execHeartbeat (p : Nat) (s : State) : Res := .next (onSpdm p (fun t => afterStep p (hasSession p t) (spdmReply p 0x68 []) t) s)

/-- `KEY_UPDATE` is acknowledged; the new keys come into force with the first flit of their phase (13 R389). -/
def execKeyUpdate (p : Nat) (s : State) : Res := .next (onSpdm p (fun t => afterStep p (hasSession p t) (spdmReply p 0x69 []) t) s)

/-- A session ends: its keys are destroyed, and on port H the module leaves Admitted (R443, R448). -/
def dropSession (p : Nat) (s : State) : State :=
  let t := setTcKey p (decide (p ≠ 0)) none (modSpdm p (fun x => { x with session := none }) s)
  if p = 0 then leaveAdmitted t else t

/-- Log 155. -/
def execEndSession (p : Nat) (s : State) : Res :=
  .next (onSpdm p (fun t => afterStep p (hasSession p t) (fun u => dropSession p (spdmReply p 0x6C [] u)) t) s)

/-- No message for 3 heartbeat periods on port H; not counted in Bivouac (R441, R448). -/
def sessionLapse (s : State) : State :=
  if hasSession 0 s then
    match s.host.ifState with
    | .ready | .scrub | .handover => dropSession 0 s
    | _ => s
  else s

def execSessionHeartbeatLapse (s : State) : Res := .next (sessionLapse s)

/-! ### SEC requests (R462) -/

def stBadToken : Nat := 0x8000
def stRotateBusy : Nat := 0x8001
def stWrongState : Nat := 0x8002
def stNoSpdm : Nat := 0x8003

def domGet (k : Nat) (s : State) : KeyDom := tgetD s.sec.doms k KeyDom.fresh
def modDom (k : Nat) (f : KeyDom → KeyDom) (s : State) : State := modSec (fun x => { x with doms := tupd x.doms k KeyDom.fresh f }) s

/-- `SEC.INFO`; tenants see their own fields only. -/
def secInfoReply (r : Req) (s : State) : Bytes :=
  let own := decide (r.mbx = 0)
  let d := domGet (domCtx r.mbx) s
  leBytes 1 s.sec.sec.code ++ leBytes 1 s.sec.dbg.code ++ leBytes 1 (if own then s.sec.causes else 0) ++ leBytes 1 (if own then s.sec.scope else 0)
    ++ leBytes 4 (if own then leavesLeft s else 0) ++ leBytes 4 (if own then (spdmOf 0 s).session.getD 0 else 0) ++ leBytes 4 (if own then s.sec.scrubs else 0)
    ++ leBytes 1 (bitsMask d.gens) ++ leBytes 1 d.wgen ++ zeros 6

def secInfoBody (r : Req) (s : State) : State := checked r.rid [(hasRef r, stInvalidField)] (fun t => complete r.rid stSuccess (secInfoReply r t) t) s
def execSecInfo (rid : Nat) (s : State) : Res := .next (serve 10 1 rid secInfoBody s)

/-- Injection is disabled and every armed control cleared (R454; 19 R566). -/
def disarmAll (s : State) : State := { s with mon := { s.mon with injEnabled := false, armed := [], override := [] } }

/-- Admission: keys are unwrapped, tenant slots released from their hold (R440, R448 step 6). -/
def admitModule (s : State) : State :=
  announced (fun t =>
    let t := modSec (fun x => { x with sec := .admitted, doms := tmap x.doms fun _ d => if d.destroyed then KeyDom.fresh else { d with loaded := true } }) (disarmAll t)
    modCtxs (fun x => { x with slots := tmap x.slots fun _ k => { k with secHold := false } }) t) s

/-- `ADMIT`: the conditions are checked at once; during a scrub the rest waits for its end, with the conditions checked again (R459,
R462). -/
def admitBody (r : Req) (s : State) : State :=
  checked r.rid [(hasRef r, stInvalidField), (decide ((spdmOf 0 s).session ≠ some (fld r.payload 0 4)) || s.ports.tc2.isNone, stNoSpdm),
      (decide (s.sec.sec ≠ .provisioned ∨ s.sec.dbg ≠ .sealed), stWrongState)]
    (fun t => if t.host.ifState = .scrub then setRunning r.rid t else complete r.rid stSuccess [] (admitModule t)) s
def execSecAdmit (rid : Nat) (s : State) : Res := .next (serve 10 2 rid admitBody s)

/-- `REJECT` (R449). -/
def rejectBody (r : Req) (s : State) : State :=
  checked r.rid [(hasRef r, stInvalidField), (decide (s.sec.sec = .blank), stWrongState)]
    (fun t => quarantine 0 (secEvent 0x0A03 0xFF (leBytes 1 1) (complete r.rid stSuccess [] t))) s
def execSecReject (rid : Nat) (s : State) : Res := .next (serve 10 3 rid rejectBody s)

/-- The domain that a request names: none where there is no such namespace or context. -/
def domNamed (r : Req) (s : State) : Option Nat :=
  let id := fld r.payload 4 4
  if fld r.payload 0 1 = 0 then (if (tget s.store.ns id).isSome then some (domNs id) else none)
  else if id = 0 ∨ (id < 64 ∧ slotAllocated id s = true) then some (domCtx id) else none

/-- A domain within the requester's reach: a tenant's own, for context 0 any. -/
def domReach (r : Req) : Bool := decide (r.mbx = 0) || (decide (fld r.payload 0 1 = 1) && decide (fld r.payload 4 4 = r.mbx))

/-- Checks of the two requests on a domain. -/
def domChecks (r : Req) (s : State) : List (Bool × Nat) :=
  [(hasRef r || decide (1 < fld r.payload 0 1) || (domNamed r s).isNone, stInvalidField), (!(domReach r), stAccessDenied)]

/-- `FKEY_ROTATE`: the next generation, of four, is the write generation from now on (R450, R451). -/
def rotateBody (r : Req) (s : State) : State :=
  let k := (domNamed r s).getD 0
  let d := domGet k s
  let g := (d.wgen + 1) % 4
  checked r.rid (domChecks r s ++ [(decide (2 ≤ d.gens.length), stRotateBusy)])
    (fun t =>
      let t := keyRecord (modDom k (fun d => { d with gens := d.gens ++ [g], wgen := g, oldUnits := 0 }) t)
      complete r.rid stSuccess (leBytes 1 g ++ leBytes 1 d.wgen ++ zeros 6) (commit r.rid 1 (some (leBytes 1 g)) t)) s
def execSecFkeyRotate (rid : Nat) (s : State) : Res := .next (serve 10 4 rid rotateBody s)

/-- `FKEY_STATUS`. A read is one action in the model, so none is ever outstanding under an old generation (log 46). -/
def fkeyStatusBody (r : Req) (s : State) : State :=
  let d := domGet ((domNamed r s).getD 0) s
  checked r.rid (domChecks r s)
    (fun t => complete r.rid stSuccess (leBytes 1 (bitsMask d.gens) ++ leBytes 1 d.wgen ++ zeros 6 ++ leBytes 8 d.oldUnits ++ leBytes 4 0) t) s
def execSecFkeyStatus (rid : Nat) (s : State) : Res := .next (serve 10 5 rid fkeyStatusBody s)

/-- `DEBUG_NONCE`. -/
def nonceBody (r : Req) (s : State) : State :=
  checked r.rid [(hasRef r, stInvalidField), (decide (s.sec.sec = .blank ∨ s.sec.dbg = .unlocked), stWrongState)]
    (fun t => complete r.rid stSuccess (freeBytes 32 t) (bumpFreeBy 32 (modSec (fun x => { x with nonce := some (freeBytes 32 t) }) t))) s
def execSecDebugNonce (rid : Nat) (s : State) : Res := .next (serve 10 6 rid nonceBody s)

/-! ### Tokens (R456) -/

def tokenBytes : Nat := 2756

/-- A token is accepted: magic, serial, nonce in force, signature; reserved bytes are not checked. -/
def tokenGood (magic : String) (tok : Bytes) (sigOk : Bool) (s : State) : Bool :=
  decide (tok.take 4 = ascii magic) && decide (sub tok 8 16 = s.sec.serial) && decide (s.sec.nonce = some (sub tok 24 32)) && sigOk

/-- Reads the token of a request and tries it: any try uses up the nonce (R456). -/
def withToken (magic : String) (r : Req) (given : Bytes) (sigOk : Bool) (ok : Bytes → State → State) (s : State) : State :=
  let f := refAt r.payload 0
  match refRead r f tokenBytes given s with
  | .error e => fail r.rid (checkStatus e) s
  | .ok (tok, t) =>
    let u := modSec (fun x => { x with nonce := none }) t
    if tokenGood magic tok sigOk t then ok tok u else fail r.rid stBadToken u

/-- A token that cannot be read is refused before the states are looked at (02 R569). -/
def tokenDenied (r : Req) (given : Bytes) (s : State) : Bool × Nat :=
  ((refDenied r (refAt r.payload 0) tokenBytes given s).isSome, (refDenied r (refAt r.payload 0) tokenBytes given s).getD 0)

def tokenRefBad (r : Req) : Bool := !(hasRef r) || decide (r.length ≠ 16) || !(refReads (refAt r.payload 0)) || decide ((refAt r.payload 0).len < tokenBytes)

/-- `DEBUG_UNLOCK`: `DEBUG` is set, tenants are freed, keys destroyed; Unlocked is entered at the end of the scrub (R456). -/
def unlockBody (given : Bytes) (sigOk : Bool) (r : Req) (s : State) : State :=
  if s.host.ifState = .scrub then s
  else
    checked r.rid [(tokenRefBad r, stInvalidField), tokenDenied r given s, (decide (s.sec.sec = .blank ∨ s.sec.dbg ≠ .sealed) || s.sec.unlock.isSome, stWrongState)]
      (withToken "EZDU" r given sigOk fun tok t =>
        modSec (fun x => { x with unlock := some (r.rid, fld tok 4 4), scrubDue := true }) (quarantine 2 (setRunning r.rid t))) s
def execSecDebugUnlock (rid : Nat) (tok : Bytes) (sigOk : Bool) (s : State) : Res := .next (serve 10 7 rid (unlockBody tok sigOk) s)

/-- `RECOVER`: `TAMPER` clears; with the last cause the module is Provisioned (R439, R456). -/
def recoverBody (given : Bytes) (sigOk : Bool) (r : Req) (s : State) : State :=
  checked r.rid [(tokenRefBad r, stInvalidField), tokenDenied r given s, (!(bit s.sec.causes 1), stWrongState)]
    (withToken "EZRC" r given sigOk fun _ t =>
      let t := announced (fun t =>
        let m := t.sec.causes - 2
        writeRecordFree 2 (modSec (fun x => { x with causes := m, quarantineNext := x.quarantineNext && decide (m ≠ 0)
                                                     sec := if m = 0 ∧ x.sec = .quarantined then .provisioned else x.sec }) t)) t
      complete r.rid stSuccess [] t) s
def execSecRecover (rid : Nat) (tok : Bytes) (sigOk : Bool) (s : State) : Res := .next (serve 10 8 rid (recoverBody tok sigOk) s)

/-! ### Re-encryption (R451, R452) -/

/-- Mapped units of a domain under a generation, with their slots. -/
def unitsUnder (dom gen : Nat) (s : State) : List (Nat × SlotPg) :=
  s.ftl.media.filter fun e => decide (e.2.dom = dom ∧ e.2.kgen = gen) && decide (mapGet e.2.space e.2.index s = some e.1)

/-- Queues the rewrite of a unit to a new slot, unless a newer write of it waits. -/
def queueMove (s : State) (e : Nat × SlotPg) : State :=
  if (dirtyAt e.2.space e.2.index s).isSome then s
  else modFtl (fun f => { f with dirty := f.dirty ++ [⟨f.nextUnit, .move e.1, e.2.space, e.2.index, 0, iu, e.2.data, [], e.2.dom, 0x3000000, false⟩], nextUnit := f.nextUnit + 1 }) s

/-- A pass of the walker over a domain with two generations: it rewrites the units of the old one, and with none left the old key is
destroyed. -/
def walkerPass (ns : Bool) (id : Nat) (s : State) : State :=
  let k := if ns then domNs id else domCtx id
  let d := domGet k s
  match d.gens with
  | [old, _] =>
    if flashRuns s = false ∨ (tget s.sec.doms k).isNone = true then s
    else
      let us := unitsUnder k old s
      let t := modDom k (fun d => { d with oldUnits := us.length }) s
      if us.isEmpty then
        secEvent 0x0A02 (if ns then 0xFF else id) (leBytes 1 (b2n !ns) ++ zeros 3 ++ leBytes 4 id ++ leBytes 1 old) (keyRecord (modDom k (fun d => { d with gens := [d.wgen] }) t))
      else us.foldl queueMove t
  | _ => s

def execReencryptionPass (ns : Bool) (id : Nat) (s : State) : Res := .next (walkerPass ns id s)

/-! ### Tamper (R442) -/

/-- Basecamp finds a latched tamper at boot step 2, before the runtime starts: the cause is recorded and the module is Quarantined; what the
entry frees follows in step 6 (R439, R442; log 138). -/
def basecampTamper (s : State) : State :=
  if s.sec.latch.isNone = true ∨ s.sec.sec = .blank then s
  else writeRecordFree 2 (modSec (fun x => { x with
    causes := x.causes ||| 2, quarantineNext := x.quarantineNext || decide (x.sec ≠ .quarantined), sec := .quarantined }) s)

/-- SEC reports at boot step 6 a tamper that Basecamp recorded (R442). -/
def bootTamper (s : State) : State :=
  match s.sec.latch with
  | none => s
  | some src => secEvent 0x0A00 0xFF (leBytes 1 src) (modSec (fun x => { x with latch := none }) s)

/-- The runtime runs, so that firmware records a latched tamper within 10 ms. -/
def runtimeRuns : IfState → Bool
  | .ready | .scrub | .handover | .abseil => true
  | _ => false

/-- Firmware records a latched tamper: the cause, the event, and the entry into Quarantined (R442). -/
def recordTamper (s : State) : State :=
  match s.sec.latch with
  | none => s
  | some src => quarantine 1 (secEvent 0x0A00 0xFF (leBytes 1 src) (modSec (fun x => { x with latch := none }) s))

/-- A tamper: latched by AON in every powered state. TCK toggling is one in Sealed only (R442). -/
def tamper (src : Nat) (s : State) : State :=
  if src > 2 ∨ s.pwr.pwr = .off ∨ (src = 1 ∧ s.sec.dbg ≠ .sealed) then s
  else
    let t := modSec (fun x => { x with latch := some (x.latch.getD src) }) s
    if runtimeRuns s.host.ifState then recordTamper t else t

def execSecTamper (src : Nat) (s : State) : Res := .next (tamper src s)

/-! ### The scrub (R457) -/

/-- What a scrub clears of a context: its cache lines, its mailbox region, its pages, its keys (steps 2 to 5). -/
def scrubCtx (s : State) (c : Nat) : State :=
  let t := { s with host := { s.host with aperture := Memory.clear s.host.aperture (c * 0x8000) 0x8000 } }
  let t := resetPages c t
  let t := { t with task := { t.task with l1 := t.task.l1.filter (fun e => decide (e.1 / 2 ^ 58 % 64 ≠ c)), dc := t.task.dc.filter fun e => (tget t.mem.pages (e.2 / 32768)).isSome } }
  let t := modSlot c (fun k => { Slot.new k.cfg with state := k.state }) t
  keyRecord { t with mem := { t.mem with keySlots := t.mem.keySlots.filter (fun k => decide (k ≠ c)), usage := tdel t.mem.usage c }
                     sec := { t.sec with doms := tdel t.sec.doms (domCtx c) } }

/-- A scrub starts at cycle S: the state, the SMBus frozen, and steps 2 to 5 for every context that has reached its scrub step. -/
def startScrub (s : State) : State :=
  if s.host.ifState = .ready ∧ s.sec.scrubDue = true then
    let t := measure s
    let t := modPwr (fun p => { p with frozen := some (telemetryNow t) }) t
    announced (fun t =>
      let cs := t.sec.scrubNext
      let t := { t with host := { t.host with ifState := .scrub } }
      let t := modSec (fun x => { x with scrub := some ⟨clockNow domMgmt t, .ready, cs⟩, scrubNext := [], scrubDue := false }) t
      cs.foldl scrubCtx t) t
  else s

def execScrub (s : State) : Res := .next (startScrub s)

end Sys2Proof.Machine
end

