-- ==== Sys2Proof/Machine/Power.lean ====
section
/-! DEFINITION. Power (16): feeds, the bank, Idle, Bivouac, capping, crampon limits, emergencies, the sideband. -/
namespace Sys2Proof.Machine

def feedOf (f : Nat) (s : State) : Feed := if f = 0 then s.pwr.feedA else s.pwr.feedB
def modFeed (f : Nat) (g : Feed → Feed) (s : State) : State :=
  modPwr (fun p => if f = 0 then { p with feedA := g p.feedA } else { p with feedB := g p.feedB }) s

/-- Something powers the module. -/
def powered (s : State) : Bool := decide (s.pwr.pwr ≠ .off)

/-! ### Feeds (R466, R467) -/

/-- A feed is lost: the other stage takes the load, and the power state does not change (R466). -/
def loseFeed (f cause : Nat) (s : State) : State :=
  if f < 2 ∧ (feedOf f s).good = true ∧ powered s = true then
    alertBit f false (powerEvent 0x0B00 (leBytes 1 f ++ leBytes 1 cause) (modFeed f (fun x => { x with good := false, openFuse := x.openFuse || decide (cause ≠ 0) }) s))
  else if powered s = false then modFeed f (fun x => { x with good := false }) s else s

def execFeedLost (f : Nat) (cause : Nat) (s : State) : Res := .next (if f < 2 ∧ cause < 3 then loseFeed f cause s else s)

/-- A feed has been good again for 1 s: its stage closes, the discharge load opens (R466, R467, R472). A stage that tripped on current
three times in 60 s stays open. -/
def restoreFeed (f : Nat) (s : State) : State :=
  if f < 2 ∧ (feedOf f s).good = false ∧ ((feedOf f s).latched = false ∨ powered s = false) then
    let t := modPwr (fun p => { p with discharge := false }) (modFeed f (fun x => { x with good := true, openFuse := false }) s)
    if powered s then powerEvent 0x0B01 (leBytes 1 f) t else t
  else s

def execFeedRestored (f : Nat) (s : State) : Res := .next (restoreFeed f s)

/-- AON cycles in 60 s. -/
def aonMinute : Nat := 6000000000

/-- An input stage opens its eFuse on over-voltage or over-current (R467). -/
def tripFuse (f : Nat) (current : Bool) (s : State) : State :=
  if f < 2 ∧ powered s = true ∧ (feedOf f s).openFuse = false then
    let now := clockNow domAon s
    let t := modFeed f (fun x =>
      let l := if current then (x.trips.filter fun c => decide (now < c + aonMinute)) ++ [now] else x.trips
      { x with openFuse := true, trips := l, latched := x.latched || decide (3 ≤ l.length) }) s
    loseFeed f (if current then 2 else 1) t
  else s

def execEfuseTrip (f : Nat) (current : Bool) (s : State) : Res := .next (tripFuse f current s)

/-! ### Abseil and Off (R471 to R473) -/

/-- A port without light: its link is gone and its trained parameters with it. -/
def darkPort (s : State) (p : Nat) : State :=
  modPort p (fun q => { q with train := 1, role := 0, lanes := 0, lowRate := false, replay := [], beat := none, nakOut := false, unacked := 0 }) s

/-- Abseil is entered: ARITH and CORE stop, what Abseil does not need is powered down, a scrub in progress is abandoned (R471, R473; 15
R461). -/
def enterAbseil (s : State) : State :=
  announced (fun t =>
    let h := portUp 0 t
    let t := { t with host := { t.host with ifState := .abseil } }
    let t := modPwr (fun p => { p with pwr := .abseil, frozen := none, wakeLatched := false, resetHeld := false }) t
    let t := modSec (fun x => { x with scrub := none, heldPortH := [] }) t
    let t := [1, 2, 3, 4].foldl darkPort t
    powerDomains (fun d => decide (d = domAon ∨ d = domMgmt ∨ d = domFab ∨ d = 0x18 ∨ (0x20 ≤ d ∧ d < 0x40)) || (decide (d = 0x40) && h)) t) s

/-- Nothing is powered. A tamper not yet recorded is lost with AON (R442, R473). -/
def powerOff (s : State) : State :=
  let t := { s with host := { s.host with ifState := .abseil } }
  let t := modSec (fun x => { x with latch := none }) (modPwr (fun p => { p with pwr := .off, trip := false, alert := false }) t)
  powerDomains (fun _ => false) ((List.range 5).foldl darkPort t)

/-- Both feeds are lost: the bank carries the module through Abseil; in Bivouac and Tripped nothing is dirty, and the module goes off
(R471, R476). -/
def takeover (s : State) : State :=
  if powered s = true ∧ s.pwr.feedA.good = false ∧ s.pwr.feedB.good = false then
    match s.host.ifState with
    | .abseil => s
    | .bivouac => powerOff s
    | .tripped => powerOff s
    | _ => enterAbseil s
  else s

def execHoldupTakeover (s : State) : Res := .next (takeover s)

/-- The AON hardware closes the discharge load; it is open while a feed is good (R472). -/
def execDischargeLoad (s : State) : Res :=
  .next (if s.pwr.feedA.good = false ∧ s.pwr.feedB.good = false ∧ (s.pwr.pwr = .abseil ∨ s.pwr.pwr = .off) then modPwr (fun p => { p with discharge := true }) s else s)

/-! ### POWER requests (R475, R478, R486) -/

/-- The reply of `POWER.QUERY`, coarsened while a tenant context is Admitted. -/
def powerReply (s : State) : Bytes :=
  let p := s.pwr
  leBytes 4 (coarseNat 10 p.feedA.mv s) ++ leBytes 4 (coarseNat 10 p.feedB.mv s) ++ leBytes 4 (coarseNat 1000 p.feedA.ma s) ++ leBytes 4 (coarseNat 1000 p.feedB.ma s)
    ++ leBytes 4 (coarseNat 25000 p.powerMw s) ++ leBytes 2 p.cap ++ leBytes 1 p.pwr.code
    ++ leBytes 1 (b2n p.feedA.good + 2 * b2n p.feedB.good + 4 * b2n (emergencyNow s) + 8 * b2n s.ftl.writeThrough)
    ++ tempBytes (coarseInt 16 (junctionMax s) s) ++ tempBytes (coarseInt 16 (reported 85 s) s) ++ tempBytes (coarseInt 16 (reported 86 s) s)
    ++ leBytes 2 (throttleBits s) ++ leBytes 4 (coarseNat 10 p.bankMv s) ++ leBytes 4 p.bankU ++ zeros 8

def powerQueryBody (r : Req) (s : State) : State :=
  checked r.rid [(hasRef r, stInvalidField)] (fun t => let u := measure t; complete r.rid stSuccess (powerReply u) u) s
def execPowerQuery (rid : Nat) (s : State) : Res := .next (serve 11 1 rid powerQueryBody s)

/-- Active and Capped follow the cap; Idle takes precedence (R473). -/
def syncWorking (s : State) : State := if s.pwr.pwr = .active ∨ s.pwr.pwr = .capped then modPwr (fun p => { p with pwr := workingState s }) s else s

/-- `SET_CAP`; the frequencies that firmware then sets come as their own changes (R478; log 114). -/
def setCapBody (r : Req) (s : State) : State :=
  let w := fld r.payload 0 2
  checked r.rid [(hasRef r || !(decide (w = 0) || decide (250 ≤ w ∧ w ≤ 1100)), stInvalidField)]
    (fun t => complete r.rid stSuccess (leBytes 2 w ++ zeros 6) (announced (fun u => syncWorking (modPwr (fun p => { p with cap := w }) u)) t)) s
def execPowerSetCap (rid : Nat) (s : State) : Res := .next (serve 11 2 rid setCapBody s)

/-- Bytes of the retention copies that Bivouac needs, parity included (R475). -/
def retentionBytes (s : State) : Nat :=
  let n := pageBytes * (s.mem.pages.filter fun e => e.2.t1.isSome && e.2.t2.isNone).length
  (16 * n + 14) / 15

/-- Bytes of T2 copies that have a flash copy. -/
def t2WithFlash (s : State) : Nat := sumN (s.mem.pages.map fun e => if e.2.t2.isSome && decide (2 ≤ e.2.flash) then e.2.stored else 0)

/-- Drops T2 copies that have a flash copy, in the order of R265, until the retention copies fit. -/
def bivRoom (fuel : Nat) (s : State) : State :=
  match fuel with
  | 0 => s
  | k + 1 =>
    if retentionBytes s ≤ t2Free s then s
    else match coldest (s.mem.pages.filter fun e => e.2.t2.isSome && decide (2 ≤ e.2.flash)) with
      | some p => bivRoom k (modPage p (fun q => { q with t2 := none }) s)
      | none => s

/-- Step 4 of the entry: the dirty data and the deltas go to flash with the shutdown record; writes not yet taken wait on (R475). -/
def bivFlush (s : State) : State :=
  let us := dirtyUnits s
  bumpFreeBy (s.ftl.dirty.length + 2)
    (modFtl (fun f => { f with dirty := f.dirty.filter fun u => u.thru, abseilArea := us }) (flushAllDeltas (putRecord 1 true us s.ftl.deltas.length s)))

/-- Port moved to low rate (13 R408). -/
def lowRate (s : State) (p : Nat) : State := if portUp p s then goLowRate p s else s

/-- Entry into Bivouac, from its reply on (R475). -/
def enterBivouac (rid : Nat) (s : State) : State :=
  let t := replyReq rid (complete rid stSuccess [] s)
  let t := ((t.ctxs.slots.filter fun e => decide (e.2.state = .resident)).map (·.1)).foldl (fun t c => switchOut c 0 t) t
  let t := bivRoom t.mem.pages.length (bivFlush t)
  let t := { t with mem := { t.mem with retained := true } }
  let t := (List.range 5).foldl lowRate t
  announced (fun u => modPwr (fun p => { p with pwr := .bivouac }) { u with host := { u.host with ifState := .bivouac } })
    (powerDomains (fun d => decide (d = domAon) || (decide (0x40 ≤ d ∧ d ≤ 0x44) && portUp (d - 0x40) t)) t)

/-- Exit from Bivouac: domains powered, the runtime started, the data that the flush had written back in the buffer, T1 restored; a
latched tamper is recorded; the module is Idle (R442, R477). The domains of a lost die stay without power (R484). Ports retrain to full rate by events of their own (logs 192, 193). -/
def wakeUp (s : State) : State :=
  if s.host.ifState = .bivouac then
    let t := powerDomains (fun d => !(dieDomainLost d s)) s
    let t := modFtl (fun f => { f with dirty := f.abseilArea ++ f.dirty, abseilArea := [], shutdown := none }) t
    let t := { t with mem := { t.mem with retained := false } }
    let t := announced (fun u => modPwr (fun p => { p with pwr := .idle, wakeLatched := false }) { u with host := { u.host with ifState := .ready } }) t
    recordTamper t
  else s

/-- A request to enter Bivouac has been accepted and not ended (R475). -/
def entryPending (s : State) : Bool := s.ledger.reqs.any fun r => decide (r.svc = 11 ∧ r.op = 3) && r.settled.isNone && r.done.isNone

/-- A wake request: it acts in Bivouac; one that comes during an entry is applied when the entry completes (R474, R477, R489). -/
def wakeAsk (s : State) : State :=
  if s.host.ifState = .bivouac then wakeUp s else if entryPending s then modPwr (fun p => { p with wakeLatched := true }) s else s

/-- The end of an entry: a wake that came meanwhile is applied; where no entry took place it is ignored (R474, R489). -/
def wakeAfter (s : State) : State :=
  if s.pwr.wakeLatched = false then s
  else if s.host.ifState = .bivouac then wakeUp s else if entryPending s then s else modPwr (fun p => { p with wakeLatched := false }) s

/-- `SET_STATE` with target 3: its checks, then the entry. During a scrub or a handover it waits (R474, R475). -/
def setStateBody (r : Req) (s : State) : State :=
  if s.host.ifState ≠ .ready then s
  else
    wakeAfter <| checked r.rid [(hasRef r || decide (fld r.payload 0 1 ≠ 3), stInvalidField),
        (s.ledger.reqs.any (fun q => decide (q.rid ≠ r.rid) && outstanding q), 0x8000), (emergencyNow s, 0x8001),
        (decide (t2Free s + t2WithFlash s < retentionBytes s), stNoSpace)]
      (enterBivouac r.rid) s
def execPowerSetState (rid : Nat) (s : State) : Res := .next (serve 11 3 rid setStateBody s)

def execWake (s : State) : Res := .next (wakeAsk s)

/-- A low of 10,000 AON cycles on `MOD_WAKE_N` is a wake request in Bivouac (R489). -/
def execModWakeN (cycles : Nat) (s : State) : Res := .next (if 10000 ≤ cycles then wakeAsk s else s)

/-- No context has had work for 1 ms (R473). -/
def enterIdle (s : State) : State :=
  if s.host.ifState = .ready ∧ (s.pwr.pwr = .active ∨ s.pwr.pwr = .capped) ∧ (s.ctxs.slots.any fun e => hasWork e.1 s) = false then
    announced (modPwr fun p => { p with pwr := .idle }) s
  else s

def execIdleEntry (s : State) : Res := .next (enterIdle s)

/-- The 1 s mean exceeds the cap by more than 5 % (R478). -/
def capMissed (w : Nat) (s : State) : State :=
  if s.pwr.cap ≠ 0 ∧ 105 * s.pwr.cap < 100 * w ∧ runtimeRuns s.host.ifState = true then
    alertBit 7 false (powerEvent 0x0B03 (leBytes 2 s.pwr.cap ++ leBytes 2 w) (modPwr (fun p => { p with powerMw := 1000 * w }) s))
  else s

def execCapMissed (meanW : Nat) (s : State) : Res := .next (capMissed meanW s)

/-! ### Crampon limits (R482, R483) -/

def syncThrottled (u : Nat) (s : State) : State :=
  let on := (unitDomains u).any fun d => (tget s.pwr.limKhz d).isSome
  modPwr (fun p => { p with throttled := if on then (if p.throttled.contains u then p.throttled else p.throttled ++ [u]) else p.throttled.filter fun v => decide (v ≠ u) }) s

def throttleEvent (d : Nat) (on : Bool) (s : State) : State :=
  let k := match tget s.clocks d with | some c => c.actual | none => 0
  powerEvent 0x0B02 (leBytes 1 d ++ leBytes 1 (b2n on) ++ zeros 2 ++ leBytes 4 k) s

/-- One step down of a domain, not below its lowest (R482). -/
def throttleDown (s : State) (d : Nat) : State :=
  match stepRange d with
  | none => s
  | some (lo, _) =>
    let cur := min (firmKhz d s) (tgetD s.pwr.limKhz d (nominalKhz d))
    let t := applyKhz d (modPwr (fun p => { p with limKhz := tset p.limKhz d (max lo (cur - 100000)) }) s)
    if (tget s.pwr.limKhz d).isNone then throttleEvent d true t else t

/-- One step up of a throttled domain; at the firmware setting the limit is gone (R482). -/
def throttleUp (s : State) (d : Nat) : State :=
  match tget s.pwr.limKhz d with
  | none => s
  | some k =>
    if firmKhz d s ≤ k + 100000 then throttleEvent d false (applyKhz d (modPwr (fun p => { p with limKhz := tdel p.limKhz d }) s))
    else applyKhz d (modPwr (fun p => { p with limKhz := tset p.limKhz d (k + 100000) }) s)

/-- The hardware lowers or raises the domains of a hot unit by one step. -/
def throttleUnit (u : Nat) (up : Bool) (s : State) : State :=
  if u < 5 ∧ (unitDomains u).all (fun d => clockPowered d s) = true then
    if up then syncThrottled u ((unitDomains u).foldl throttleUp s)
    else alertBit 2 true (syncThrottled u ((unitDomains u).foldl throttleDown s))
  else s

def execThrottle (unit : Nat) (up : Bool) (s : State) : Res := .next (throttleUnit unit up s)

/-- A sensor at 110 °C: Abseil on feed power, after which the module is Tripped; with no sensor at its limit it is tamper (R442,
R483). -/
def tripJunction (sensorHot : Bool) (s : State) : State :=
  if powered s = true ∧ s.host.ifState ≠ .tripped then
    let t := modPwr (fun p => { p with trip := true }) s
    let t := if s.host.ifState = .abseil then t else enterAbseil t
    let t := alertBit 3 true t
    if sensorHot then t else tamper 2 t
  else s

def execJunctionTrip (sensorHot : Bool) (s : State) : Res := .next (tripJunction sensorHot s)

/-! ### Warnings and emergencies (R485, R495) -/

/-- A coolant condition has held, or ended, for 10 s. -/
def coolantWarn (start : Bool) (s : State) : State :=
  if powered s = true ∧ s.pwr.coolant ≠ start then
    let t := powerEvent 0x0B04 (leBytes 1 (b2n start)) (modPwr (fun p => { p with coolant := start }) s)
    if start then alertBit 5 false t else t
  else s

def execCoolantWarn (start : Bool) (s : State) : Res := .next (coolantWarn start s)

/-- The first condition of an emergency arises, or none has held for 10 s. -/
def emergencyEdge (start : Bool) (s : State) : State :=
  if powered s = true ∧ s.pwr.emergency ≠ start ∧ emergencyNow s = start then
    powerEvent 0x0B05 (leBytes 1 (b2n start)) (modPwr (fun p => { p with emergency := start }) s)
  else s

def execEmergency (start : Bool) (s : State) : Res := .next (emergencyEdge start s)

/-! ### The bank (R470; 10 R323) -/

/-- Usable energy in 0.1 J of a capacitance in µF: 1,134 V² × C; 0 where the charge target is not reached (R469, R470). -/
def usableEnergy (cUf : Nat) (reached : Bool) : Nat := if reached then 1134 * cUf / 100000 else 0

/-- Takes a measurement of U: the dirty limit follows; below 60 J `HOLDUP` is set (R470, R492) (log 144). -/
def takeU (cUf : Nat) (reached : Bool) (s : State) : State :=
  let u := usableEnergy cUf reached
  let t := setLimit u (modPwr (fun p => { p with bankU := u }) s)
  if u < 600 ∧ 600 ≤ s.pwr.bankU then alertBit 6 false t else t

/-- The measurement every 24 h, skipped while a feed is lost. -/
def execHoldupMeasure (cUf : Nat) (reached : Bool) (s : State) : Res :=
  .next (if s.pwr.feedA.good = true ∧ s.pwr.feedB.good = true ∧ flashRuns s = true then takeU cUf reached s else s)

/-! ### The SMBus (R491, R492) -/

/-- A w1c write of `SB_ALERT_STAT`: bits whose condition stands are set again (R492). -/
def alertStatWrite (v : U16) (s : State) : State :=
  if powered s then standingAlerts (syncAlert false (modPwr (fun p => { p with alertStat := p.alertStat &&& ~~~v }) s)) else s

def execSbAlertStatWrite (v : U16) (s : State) : Res := .next (alertStatWrite v s)

/-- The Alert Response Address is answered by a module that asserts `MOD_ALERT_N`, with its own address (R491; log 115). -/
def execAlertResponse (s : State) : Res :=
  .next (if powered s = true ∧ s.pwr.alert = true then record (.smbus (2 * (0x58 + s.pwr.addrSel))) s else s)

end Sys2Proof.Machine
end

