-- ==== Sys2Proof/Machine/Hidden.lean ====
section
/-! DEFINITION. Faults that the module hides (18 R531 to R536; 16 R484): engines and cores retired, a die lost, rails, the safe
state. -/
namespace Sys2Proof.Machine

/-! ### Seats of resident contexts after a change of homes -/

/-- Resident contexts that keep their homes: LC first, then in slot order, none that meets one already kept. -/
def seatedOf (l : List (Nat × Slot)) (kept : List (Nat × Slot)) : List (Nat × Slot) :=
  match l with
  | [] => kept
  | e :: r => if kept.any fun k => homesMeet (k.2.homeE, k.2.homeC) (e.2.homeE, e.2.homeC) then seatedOf r kept else seatedOf r (kept ++ [e])

/-- Resident contexts that a change of homes leaves without a place: they are switched out for a capability change (06 R194, R199; log
119) (log 119). -/
def evictedBy (f : State → State) (s : State) : List Nat :=
  let res := (f s).ctxs.slots.filter fun e => decide (e.2.state = .resident)
  let kept := seatedOf (res.filter (fun e => e.2.act.lc) ++ res.filter fun e => !e.2.act.lc) []
  (res.map (·.1)).filter fun c => !(kept.any fun k => decide (k.1 = c))

/-- A resident context takes over units that are new among its homes: cleared engines in `STOPPED`, harts as new (18 R533). -/
def takeUnits (old : State) (c : Nat) (s : State) : State :=
  match slotOf c s, slotOf c old with
  | some k, some o =>
    if k.state = .resident then
      let es := k.homeE.filter fun e => !(o.homeE.contains e) && decide ((engOf e s).owner ≠ some c)
      let cs := k.homeC.filter fun u => !(o.homeC.contains u)
      let t := es.foldl (fun t e => setEng e (engIn c { k with saved := none } e s) t) s
      let t := l1Clear cs (dropHarts cs.contains t)
      let gens := cs.foldl (fun l u => if (tget l u).isSome then l else tset l u (coreSeed k.cfg.srSeed u s)) k.gens
      modSlot c (fun q => { q with gens := gens }) t
    else s
  | _, _ => s

/-- Changes the homes of contexts: those that lose their place leave first, those that stay take their new units over. -/
def withSeats (f : State → State) (s : State) : State :=
  let t := (evictedBy f s).foldl (fun t c => switchOut c 5 t) s
  setWays ((t.ctxs.slots.map (·.1)).foldl (fun u c => takeUnits t c u) (f t))

/-! ### Engines (R129; 18 R529) -/

/-- Firmware retires an engine (03 R129). -/
def execSpareReplace (e : Nat) (s : State) : Res :=
  .next (if s.caps.engMap.contains e && runtimeRuns s.host.ifState then writeRecordFree 3 (withSeats (replaceEngine e) s) else s)

/-! ### Prep cores (R531) -/

/-- Contexts that home a core. -/
def homingCore (u : Nat) (s : State) : List Nat := (s.ctxs.slots.filter fun e => e.2.homeC.contains u).map (·.1)

/-- The core of the same die that takes a retired core's place for a context: active, not its own, not homed by another LC context. -/
def coreInstead (u c : Nat) (s : State) : Option Nat :=
  match slotOf c s with
  | some k => (actCore s).find? fun v => decide (v / 64 = u / 64 ∧ v ≠ u) && !(k.homeC.contains v) && !((lcHomedC c s).contains v)
  | none => none

/-- A free hart of a resident context on a die. -/
def freeHartOnDie (c d : Nat) (s : State) : Option Nat :=
  ((homeOn c d s).flatMap fun u => rangeFrom (8 * u) 8).find? fun h => (hartOf h s).task.isNone && !(hartOf h s).halted

/-- A hart's wait on a semaphore, and its result, follow it to its new number. -/
def moveWait (c h n : Nat) (s : State) : State :=
  modCtxs (fun x => { x with sems := tmap x.sems fun _ m =>
    { m with waiters := m.waiters.map fun w => if w.ctx = c ∧ w.hart = h then { w with hart := n } else w } }) s

/-- The saved hart goes on: on a free hart of its context on its die, else it waits for one; with no home core there its tasklet ends
(R531). -/
def moveHart (h : Nat) (v : Hart) (c : Nat) (s : State) : State :=
  match freeHartOnDie c (dieOfHart h) s with
  | some n => moveWait c h n (putHart n v s)
  | none =>
    if (homeOn c (dieOfHart h) s).isEmpty then discardTask c h v s
    else { s with task := { s.task with parked := s.task.parked ++ [(c, dieOfHart h, v)] } }

/-- Tasklets not yet started go to a queue that placement chooses anew (R533). -/
def replaceTasks (d : Nat) (ps : List Nat) (s : State) : State :=
  ps.foldl (fun t p => match tget t.task.pool p with
    | some q => enqueue p { q with onlyDie := if q.onlyDie = some d then none else q.onlyDie } ⟨none, d, false⟩ t
    | none => t) s

/-- Takes a set of queues away, by their keys. -/
def dropQueues (isReady isDeque : Nat → Bool) (s : State) : List Nat × State :=
  let ps := (s.task.ready.filter fun e => isReady e.1).flatMap (·.2) ++ (s.task.deque.filter fun e => isDeque e.1).flatMap (·.2)
  (ps, { s with task := { s.task with ready := s.task.ready.filter (fun e => !(isReady e.1)), deque := s.task.deque.filter fun e => !(isDeque e.1) } })

/-- Retires a prep core: harts whose state is lost end their tasklets, the others move (R531; 01 R50, R51). -/
def retireCore (u : Nat) (bad : List Nat) (s : State) : State :=
  let hs := rangeFrom (8 * u) 8
  let t := (hs.filter bad.contains).foldl (fun t h => match (hartOf h t).task.bind (tget t.task.pool) with
    | some k => trapTask h 19 0 k t
    | none => t) s
  let moving := hs.filterMap fun h => (((hartOf h t).task.bind (tget t.task.pool)).map fun k => (h, hartOf h t, k.ctx))
  let t := stopPfs [u] t
  let t := l1Clear [u] { t with task := { t.task with harts := t.task.harts.filter fun e => decide (e.1 / 8 ≠ u) } }
  let (ps, t) := dropQueues (fun _ => false) (fun k => decide (k % 256 = u)) t
  let home := homingCore u t
  let sub := fun c => match coreInstead u c t with | some v => [(u, v)] | none => []
  let cut := fun (x : State) =>
    let y := { x with caps := { x.caps with coreMap := x.caps.coreMap.filter (fun p => decide (p ≠ u)), coreFailed := x.caps.coreFailed ++ [u] } }
    rehomeAll x.caps.engMap x.caps.coreMap [] sub y
  let t := withSeats cut t
  let t := moving.foldl (fun t e => if resident e.2.2 t then moveHart e.1 e.2.1 e.2.2 t else
    { t with task := { t.task with parked := t.task.parked ++ [(e.2.2, dieOfHart e.1, e.2.1)] } }) t
  home.foldl (fun t c => replayHomes c t) (capsChanged (replaceTasks (u / 64) ps t))

def execPrepCoreRetire (core : Nat) (badHarts : List Nat) (s : State) : Res :=
  .next (if s.caps.coreMap.contains core && runtimeRuns s.host.ifState then writeRecordFree 3 (retireCore core badHarts s) else s)

/-! ### Loss of a compute die (R532 to R534) -/

/-- Harts of a die that run a tasklet of a context. -/
def hartsRunning (d : Nat) (s : State) : List (Nat × Tasklet) :=
  (s.task.harts.filter fun e => decide (e.1 / 512 = d)).filterMap fun e => (e.2.task.bind (tget s.task.pool)).map fun k => (e.1, k)

/-- Logical engines of a list, as a mask. -/
def engMask (l : List Nat) (s : State) : Nat := bitsMask (l.filterMap (logicalOf s.caps.engMap))

def dieLostEvent (d c tasks : Nat) (mask : Nat) (s : State) : State :=
  raiseEvent 0x1F 2 d c 0 (leBytes 1 d ++ zeros 3 ++ leBytes 4 tasks ++ leBytes 16 mask) s

/-- What the loss takes out of the capability state, with the homes reassigned. -/
def cutDie (d : Nat) (s : State) : State :=
  let c := s.caps
  let es := (rangeFrom (20 * d) 20).filter fun e => !(c.engFailed.contains e)
  let cs := (rangeFrom (64 * d) 64).filter fun u => !(c.coreFailed.contains u)
  let t := { s with caps := { c with
    dieMap := c.dieMap.filter (fun x => decide (x ≠ d)), dieFailed := c.dieFailed ++ [d], engMap := c.engMap.filter (fun e => decide (e / 20 ≠ d)), engFailed := c.engFailed ++ es
    coreMap := c.coreMap.filter (fun u => decide (u / 64 ≠ d)), coreFailed := c.coreFailed ++ cs } }
  rehomeAll c.engMap c.coreMap [] (fun _ => []) t

/-- A compute die is lost (R532, R533) (log 198). -/
def loseDie (d : Nat) (s : State) : State :=
  let run := hartsRunning d s
  let t := run.foldl (fun t e => trapTask e.1 19 0 e.2 t) s
  let gone := t.task.parked.filter fun e => decide (e.2.1 = d)
  let t := gone.foldl (fun t e => discardTask e.1 (512 * d) e.2.2 t) { t with task := { t.task with parked := t.task.parked.filter fun e => decide (e.2.1 ≠ d) } }
  let (ps, t) := dropQueues (fun k => decide (k % 4 = d)) (fun k => decide (k % 256 / 64 = d)) t
  let held := t.ctxs.slots.filter fun e => e.2.homeE.any (fun u => decide (u / 20 = d)) || e.2.homeC.any fun u => decide (u / 64 = d)
  let t := stopPfs (rangeFrom (64 * d) 64) t
  let t := l1Clear (rangeFrom (64 * d) 64) { t with task := { t.task with
    harts := t.task.harts.filter (fun e => decide (e.1 / 512 ≠ d)), dc := t.task.dc.filter fun e => decide (e.1 / 1572864 ≠ d) } }
  let t := (rangeFrom (20 * d) 20).foldl (fun t e => setEng e ⟨EngSt.blank, .off, 0, 0, none, Ring.init⟩ t) t
  let t := { t with eng := { t.eng with cq := tdel t.eng.cq d, retry := t.eng.retry.filter fun x => decide (x ≠ d) } }
  let t := replaceTasks d ps (withSeats (cutDie d) t)
  let count := fun c => (run.filter fun e => decide (e.2.ctx = c)).length
  let t := held.foldl (fun t e => dieLostEvent d e.1 (count e.1) (engMask (e.2.homeE.filter fun u => decide (u / 20 = d)) s) t) t
  let t := dieLostEvent d 0xFF run.length (engMask (rangeFrom (20 * d) 20) s) t
  let t := { t with clocks := tmap t.clocks fun k c => if k = d ∨ k = 4 + d then { c with powered := false } else c }
  held.foldl (fun t e => replayHomes e.1 t) (writeRecordFree 3 (capsChanged t))

def execDieLost (d : Nat) (s : State) : Res :=
  .next (if s.caps.dieMap.contains d && runtimeRuns s.host.ifState then loseDie d s else s)

/-! ### Rails (16 R484) -/

/-- T1 reservations of LC contexts after the loss of stacks, in ascending context order: 36 GB less for each (06 R206; 18 R529). -/
def cutT1Res (s : State) : State :=
  let room := 240 - 36 * (s.caps.hbmKhz.filter fun k => decide (k = 0)).length
  let lc := s.ctxs.slots.filter fun e => e.2.cfg.lc
  (shareOut room (lc.map fun e => (e.1, e.2.cfg.t1Res))).foldl (fun t e => modSlot e.1 (fun q => { q with
    cfg := { q.cfg with t1Res := min q.cfg.t1Res e.2 }, act := { q.act with t1Res := min q.act.t1Res e.2 } }) t) s

/-- The HBM3E stacks are gone: every T1 copy with them, their clocks, and what LC contexts had reserved there; each has its record (R484; 18
R529). -/
def loseHbm (s : State) : State :=
  let hit := s.mem.pages.filter fun e => e.2.t1.isSome
  let out := s.caps.hbmKhz.filter fun k => decide (k ≠ 0)
  let t := hit.foldl (fun t e => recoverPage 0 e.1 t) s
  let t := cutT1Res { t with caps := { t.caps with hbmKhz := List.replicate 8 0 }
                             clocks := tmap t.clocks fun d c => if 0x10 ≤ d ∧ d < 0x18 then { c with powered := false } else c }
  out.foldl (fun t _ => writeRecordFree 3 t) (capsChanged t)

/-- A rail outside its window: the loss of what it supplies, by its place in R481: V_IB, C0 to C3, hub, HBM, LPD, NAND, optics, AON (log 120). -/
def railFault (rail : Nat) (s : State) : State :=
  if powered s = false then s
  else match rail with
    | 0 => takeover (loseFeed 1 0 (loseFeed 0 0 s))
    | 1 | 2 | 3 | 4 => if s.caps.dieMap.contains (rail - 1) && runtimeRuns s.host.ifState then loseDie (rail - 1) s else s
    | 6 => loseHbm s
    | 7 => ((List.range 16).filter fun p => !(s.caps.lpdFailed.contains p)).foldl (fun t p => losePackage p t) s
    | 8 => (List.range 576).foldl (fun t k => if t.caps.nandFailed.contains k then t else failDie (k / 18) (k % 18) t) s
    | 9 => (List.range 5).foldl (fun t p => if portUp p t then startRetrain p t else t) s
    | 5 | 10 => powerOff s
    | _ => s

def execRailFault (rail : Nat) (s : State) : Res := .next (railFault rail s)

/-! ### The safe state (R535, R536) -/

/-- Every request of the ledger ends without a reply (R544). -/
def interruptAll (cause : Nat) (s : State) : State := s.ledger.reqs.foldl (fun t r => interruptReq cause r t) s

/-- Entry into the safe state. Before boot step 4 only the shutdown record is written. -/
def enterSafe (s : State) : State :=
  if powered s = false ∨ s.host.ifState = .safe ∨ s.host.ifState = .tripped ∨ s.host.ifState = .abseil then s
  else
    let early := decide (s.host.ifState = .boot ∧ s.host.bootStep < 4)
    let t := if early then modFtl (fun f => { f with shutdown := some (f.shutdown.getD ⟨2, true, f.wseq, f.wseq, 0, 0, 0⟩) }) s else flushSteps 2 true (interruptAll causeSafe s)
    let t := (List.range 5).foldl lowRate t
    let t := announced (fun u =>
      let u := { u with host := { u.host with ifState := .safe, hand := none } }
      modSec (fun x => { x with scrub := none, heldPortH := [] }) (modPwr (fun p => { p with pwr := .bivouac, frozen := none }) u)) t
    alertBit 4 true (powerDomains (fun d => decide (d = domAon) || (decide (0x40 ≤ d ∧ d ≤ 0x44) && portUp (d - 0x40) t)) t)

def execSafeState (s : State) : Res := .next (enterSafe s)

end Sys2Proof.Machine
end

