-- ==== Sys2Proof/Machine/Firmware.lean ====
section
/-! DEFINITION. The firmware array and its commands, images and activations, components and Belay processors (17). -/
namespace Sys2Proof.Machine

/-! ### The array (R499 to R505) -/

/-- The register block takes writes while the runtime or Basecamp runs. -/
def faRuns (s : State) : Bool := mbxUnitRuns s.host.ifState
def onFa (f : State → State) (s : State) : State := if faRuns s then f s else s

/-- A broken unlock sequence: locked, and `RELOCK` set (R501). -/
def relock (s : State) : State := modFa (fun a => { a with seq := 0, cmd := 0, relock := true }) s

/-- An unlock key write. -/
def faKey (at_ : Nat) (key v : U32) (s : State) : State :=
  if s.fw.fa.seq = at_ ∧ v = key then modFa (fun a => { a with seq := at_ + 1 }) s else relock s

def execFaKey1 (v : U32) (s : State) : Res := .next (onFa (faKey 0 0x5A5A0F0F v) s)
def execFaKey2 (v : U32) (s : State) : Res := .next (onFa (faKey 1 0xA5A5F0F0 v) s)

/-- Fields of `FA_ADDR`. -/
def faBank (a : U32) : Nat := bits a.toNat 25 1
def faWord (a : U32) : Nat := bits a.toNat 3 22
def faSector (a : U32) : Nat := bits a.toNat 16 9

/-- The writes of a command after both keys: the array locks again, and the command is issued; out of sequence the address is a stray
write (R501). -/
def faCommand (addr : U32) (f : State → State) (s : State) : State :=
  let t := modFa (fun a => { a with addr := addr }) s
  if s.fw.fa.seq = 2 then f (modFa (fun a => { a with seq := 0, cmd := 0 }) t) else relock t

def faRefuse (s : State) : State := modFa (fun a => { a with refused := true }) s

/-- A marker of a sector of the array, 512 per bank. -/
def faOpen (bank sector : Nat) (s : State) : Bool := s.fw.fa.eopen.contains (512 * bank + sector)

/-- The word at an array offset, and how often it has been programmed since its erase. -/
def faWordAt (off : Nat) (s : State) : Nat := leNat (Memory.readN 0xFF s.fw.fa.mem off 8)
def faTimes (off : Nat) (s : State) : Nat := tgetD s.fw.fa.words (off / 8) 0

/-- A program is refused with `CONFLICT`: a third one, or a second that would turn a bit from 0 to 1 (R503). -/
def faConflict (off : Nat) (v : U64) (s : State) : Bool :=
  decide (2 ≤ faTimes off s) || (decide (faTimes off s = 1) && decide (v.toNat &&& faWordAt off s ≠ v.toNat))

/-- Starts a program (R502, R503). -/
def faStartProgram (addr : U32) (v : U64) (s : State) : State :=
  if s.fw.fa.busy.isSome ∨ faOpen (faBank addr) (faSector addr) s = true ∨ s.fw.fa.vfail = true then faRefuse s
  else if faConflict (faOff (faBank addr) (faWord addr)) v s then modFa (fun a => { a with conflict := true }) s
  else modFa (fun a => { a with busy := some ⟨1, faBank addr, faWord addr, v, 0⟩ }) s

def execFaProgram (addr : U32) (data : U64) (s : State) : Res := .next (onFa (fun t => faCommand addr (faStartProgram addr data) (modFa (fun a => { a with data := data }) t)) s)

/-- Starts an erase: its markers are set first (R502, R509). -/
def faStartErase (op bank sector : Nat) (s : State) : State :=
  if s.fw.fa.busy.isSome ∨ s.fw.fa.susp.isSome ∨ s.fw.fa.vfail = true then faRefuse s
  else
    let marks := if op = 3 then rangeFrom (512 * bank) 512 else [512 * bank + sector]
    modFa (fun a => { a with busy := some ⟨op, bank, sector, 0, 0⟩, eopen := a.eopen ++ marks.filter fun m => !(a.eopen.contains m) }) s

def execFaSectorErase (addr : U32) (s : State) : Res := .next (onFa (faCommand addr (faStartErase 2 (faBank addr) (faSector addr))) s)
def execFaBankErase (addr : U32) (s : State) : Res := .next (onFa (faCommand addr (faStartErase 3 (faBank addr) 0)) s)

/-- An operation is an erase of a bank. -/
def erases (bank : Nat) (o : Option FaOp) : Bool := match o with | some x => decide (2 ≤ x.op ∧ x.bank = bank) | none => false

/-- Steps that an erase in progress has completed by now: no command counts them, so nothing constrains them but that they do not go
back (R505; log 122). -/
def eraseSteps (s : State) : State :=
  match s.fw.fa.busy with
  | some o =>
    if o.op = 1 then s else bumpFree (modFa (fun a => { a with busy := some { o with progress := max o.progress (Config.freeNat s.freeCtr % 64) } }) s)
  | none => s

def faSuspend (bank : Nat) (s : State) : State :=
  if erases bank s.fw.fa.busy then modFa (fun a => { a with susp := a.busy, busy := none }) (eraseSteps s) else faRefuse s
def execFaSuspend (addr : U32) (s : State) : Res := .next (onFa (faCommand addr (faSuspend (faBank addr))) s)

def faResume (bank : Nat) (s : State) : State :=
  if erases bank s.fw.fa.susp ∧ s.fw.fa.busy.isNone = true then modFa (fun a => { a with busy := a.susp, susp := none }) s else faRefuse s
def execFaResume (addr : U32) (s : State) : Res := .next (onFa (faCommand addr (faResume (faBank addr))) s)

/-- The identifier that read-ID loads into `FA_DATA` (R500). -/
def faIdent (a : FaArray) : U64 := BitVec.ofNat 64 (0x1A7D + 26 * 2 ^ 16 + a.rev % 256 * 2 ^ 24 + a.dieSerial % 2 ^ 32 * 2 ^ 32)
def execFaReadId (addr : U32) (s : State) : Res := .next (onFa (faCommand addr (modFa fun a => { a with data := faIdent a })) s)

def faClear (s : State) : State :=
  modFa (fun a => { a with done := false, conflict := false, refused := false, relock := false, ue := false, vfail := false }) s
def execFaClearStatus (addr : U32) (s : State) : Res := .next (onFa (faCommand addr faClear) s)

/-- A write out of sequence: a register that can be written takes it, and the array locks (R500, R501). -/
def faStray (off : Nat) (v : U64) (s : State) : State :=
  let clr := fun (i : Nat) (b : Bool) => b && !(bit v.toNat i)
  let t := match off with
    | 0x00C => modFa (fun a => { a with addr := BitVec.ofNat 32 v.toNat }) s
    | 0x010 => modFa (fun a => { a with data := v }) s
    | 0x018 => modFa (fun a => { a with done := clr 8 a.done, conflict := clr 9 a.conflict, refused := clr 10 a.refused, relock := clr 11 a.relock, ue := clr 12 a.ue }) s
    | _ => s
  relock t

def execFaRelock (off : Nat) (v : U64) (s : State) : Res := .next (onFa (faStray off v) s)

/-- Retires a sector whose program or erase failed, and records it (R502). -/
def retireSector (k : Nat) (s : State) : State :=
  writeRecordFree 6 (modFw (fun w => { w with sectorsOut := if w.sectorsOut.contains k then w.sectorsOut else w.sectorsOut ++ [k] }) s)

/-- The end of a program; one that fails leaves a word that nothing fixes (R502 to R504). -/
def programDone (o : FaOp) (ok : Bool) (s : State) : State :=
  let off := faOff o.bank o.at_
  let put := fun (v : U64) (t : State) => modFa (fun a => { a with mem := Memory.writeN 0xFF a.mem off (leBytes 8 v.toNat), words := tset a.words (off / 8) (faTimes off s + 1) }) t
  if ok then put o.data s
  else retireSector (off / 65536) (modFa (fun a => { a with vfail := true }) (bumpFree (put (Config.freeBits 64 s.freeCtr) s)))

/-- The end of an erase; one that fails keeps its markers. -/
def eraseDone (o : FaOp) (ok : Bool) (s : State) : State :=
  let lo := if o.op = 3 then o.bank * 0x2000000 else o.bank * 0x2000000 + o.at_ * 65536
  let n := if o.op = 3 then 0x2000000 else 65536
  if ok then
    modFa (fun a => { a with
      mem := Memory.clear a.mem lo n, words := a.words.filter (fun e => decide (8 * e.1 < lo) || decide (lo + n ≤ 8 * e.1))
      eopen := a.eopen.filter fun m => decide (65536 * m < lo) || decide (lo + n ≤ 65536 * m) }) s
  else retireSector (lo / 65536) (modFa (fun a => { a with vfail := true }) s)

def operationDone (ok : Bool) (s : State) : State :=
  match s.fw.fa.busy with
  | none => s
  | some o =>
    let t := modFa (fun a => { a with busy := none, done := true }) s
    if o.op = 1 then programDone o ok t else eraseDone o ok t

def execFaOperationDone (ok : Bool) (s : State) : Res := .next (onFa (operationDone ok) s)

/-! ### Reads of the array (R506 to R508) -/

/-- A status word. -/
def statusWord (kind progress bank sector : Nat) : Nat := kind * 2 ^ 16 + progress * 2 ^ 24 + bank * 2 ^ 31 + sector * 2 ^ 32

/-- The status word that a read of an offset returns in place of data, if it does. -/
def faBlocked (off : Nat) (s : State) : Option Nat :=
  let bank := off / 0x2000000
  let sector := off % 0x2000000 / 65536
  match s.fw.fa.busy with
  | some o =>
    if o.bank = bank then some (statusWord (if o.op = 1 then 1 else 2) (if o.op = 1 then 0 else o.progress) bank (if o.op = 1 then o.at_ / 8192 else if o.op = 3 then 0 else o.at_))
    else if faOpen bank sector s then some (statusWord 3 0 bank sector) else none
  | none => if faOpen bank sector s then some (statusWord 3 0 bank sector) else none

/-- A word as it reads; words of an image that the model does not hold are free (R503; log 25). -/
def faData (off : Nat) (s : State) : Nat :=
  let image := decide (off % 0x2000000 < (imgSlotOf (off / 0x2000000) s).length)
  if image && decide (faTimes off s = 0) then (Config.freeBits 64 s.freeCtr).toNat else faWordAt off s

/-- Sense step of the k-th retry: nominal, then +1, -1, +2, -2, +3, -3 (R508). -/
def senseStep (k : Nat) : Int := [0, 1, -1, 2, -2, 3].getD (k - 1) (-3)

/-- The payload of the last record of a pair. -/
def lastPayload (j : Nat) (s : State) : U64 :=
  BitVec.ofNat 64 (faWordAt (faOff (tgetD s.fw.recCur j 0) ((384 + j) * sectorWords + (tgetD s.fw.recPos j 0 - 2))) s)

/-- A sector read with retry more than 16 times in 24 h: its record in force moves to the other sector of its pair, or its image slot
is marked invalid (R508). -/
def wornSector (k : Nat) (s : State) : State :=
  let sector := k % 512
  if sector < 384 then bootSelector (setImgSlot (k / 512) fun i => { i with state := 3 }) s
  else
    let j := sector - 384
    if tgetD s.fw.recPos j 0 < 3 ∨ tgetD s.fw.recCur j 0 ≠ k / 512 then s
    else
      let p := lastPayload j s
      writeRecord j p (modFw (fun w => { w with recCur := tset w.recCur j (1 - k / 512), recPos := tset w.recPos j 0, recErase := if w.recErase.contains j then w.recErase else w.recErase ++ [j] }) s)

/-- Counts a read with retry. -/
def countRetry (off : Nat) (s : State) : State :=
  let k := off / 65536
  let now := clockNow domAon s
  let l := (tgetD s.fw.fa.retries k []).filter (fun t => decide (now < t + 8640000000000)) ++ [now]
  let t := modFa (fun a => { a with count := satInc 0xFFFF a.count, retries := tset a.retries k l }) s
  if l.length = 17 then wornSector k t else t

/-- A data read of a word, of which the first `fails` reads fail their check; with 8, every retry has failed (R508). -/
def faRead (off fails : Nat) (s : State) : State :=
  if 0x4000000 ≤ off then s
  else
    let s := eraseSteps s
    match faBlocked off s with
    | some w => setRead w s
    | none =>
      if fails = 0 then bumpFree (setRead (faData off s) s)
      else if fails < 8 then
        bumpFree (setRead (faData off s) (countRetry off (modFa (fun a => { a with tries := fails, step := senseStep fails }) s)))
      else
        let t := countRetry off (modFa (fun a => { a with tries := 0, ue := true }) s)
        devEvent 0x1E 0 0 (leBytes 4 off) (setRead (statusWord 4 0 (off / 0x2000000) (off % 0x2000000 / 65536)) t)

def execFaRead (addr : Nat) (fails : Nat) (s : State) : Res := .next (onFa (faRead (addr / 8 * 8) fails) s)

/-- `FA_RETRY` (R500). -/
def faRetryReg (a : FaArray) : Nat := a.tries + (a.step % 16).toNat * 16 + a.count * 65536

def execFaRetryRead (s : State) : Res := .next (onFa (fun t => setRead (faRetryReg t.fw.fa) (modFa (fun a => { a with count := 0 }) t)) s)

/-- `FA_STATUS` (R500). -/
def faStatusReg (a : FaArray) : Nat :=
  let b := fun (k : Nat) (o : Option FaOp) => match o with | some x => b2n (decide (x.bank = k)) | none => 0
  let op := match a.busy, a.susp with | some x, _ => x.op | none, some x => x.op | none, none => 0
  let pr := match a.busy, a.susp with | some x, none => if x.op = 1 then 0 else x.progress | _, some x => x.progress | none, none => 0
  b 0 a.busy + 2 * b 1 a.busy + 4 * b 0 a.susp + 8 * b 1 a.susp + 16 * op + 64 * a.seq + 2 ^ 8 * b2n a.done + 2 ^ 9 * b2n a.conflict + 2 ^ 10 * b2n a.refused
    + 2 ^ 11 * b2n a.relock + 2 ^ 12 * b2n a.ue + 2 ^ 13 * b2n a.vfail + 2 ^ 16 * pr

/-- A fetch from a bank that is busy or invalid traps; the handler suspends an erase, waits for a program, and otherwise faults the
component, which restarts by an event of its own (R507). -/
def busyFetch (off : Nat) (s : State) : State :=
  match faBlocked off s, s.fw.fa.busy with
  | some w, some o => if bits w 16 8 = 2 then faSuspend o.bank s else s
  | _, _ => s

def execBusyFetchTrap (addr : Nat) (s : State) : Res := .next (onFa (busyFetch addr) s)

/-- The erase of the sector that stopped being current starts as soon as no other erase stands (R512). -/
def eraseRecordSector (j : Nat) (s : State) : State :=
  if s.fw.recErase.contains j ∧ s.fw.fa.busy.isNone = true ∧ s.fw.fa.susp.isNone = true ∧ s.fw.fa.vfail = false then
    faStartErase 2 (1 - tgetD s.fw.recCur j 0) (384 + j) (modFw (fun w => { w with recErase := w.recErase.erase j }) s)
  else s

def execRecordSectorErase (j : Nat) (s : State) : Res := .next (onFa (eraseRecordSector j) s)

/-! ### Images (R517 to R523) -/

def stFwBadImage : Nat := 0x8000
def stRollback : Nat := 0x8001
def stFwBusy : Nat := 0x8002
def stNoStandby : Nat := 0x8003
def stNoImage : Nat := 0x8004
def stFwAborted : Nat := 0x8005

def inactive (s : State) : Nat := 1 - s.fw.running
def fwBusy (s : State) : Bool := s.fw.staging.isSome || s.fw.pending.isSome

/-- A slot record of `QUERY` (R518). -/
def slotRecord (n : Nat) (s : State) : Bytes :=
  let i := imgSlotOf n s
  leBytes 1 i.state ++ leBytes 1 (if i.state = 2 then i.svn else 0) ++ leBytes 2 i.ifver ++ leBytes 4 i.belayVer ++ leBytes 4 i.length ++ zeros 4
    ++ leBytes 16 (imageDigest n s) ++ zeros 8

def fwupReply (s : State) : Bytes :=
  let w := s.fw
  leBytes 1 w.running ++ leBytes 1 w.bootSel ++ leBytes 1 w.fuseSvn
    ++ leBytes 1 (b2n w.pending.isSome + 2 * b2n w.standbyOk + 4 * b2n (emergencyNow s) + 8 * b2n w.staging.isSome) ++ leBytes 4 w.basecampVer
    ++ leBytes 4 w.takeovers ++ leBytes 4 w.restarts ++ slotRecord 0 s ++ slotRecord 1 s

/-- The bytes of a payload from an offset are not all 0: a reserved bit is set (R517). -/
def reservedSet (p : Bytes) (off n : Nat) : Bool := decide (fld p off n ≠ 0)

def fwupQueryBody (r : Req) (s : State) : State :=
  checked r.rid [(hasRef r || reservedSet r.payload 0 8, stInvalidField)] (fun t => complete r.rid stSuccess (fwupReply t) t) s
def execFwupQuery (rid : Nat) (s : State) : Res := .next (serve 12 1 rid fwupQueryBody s)

/-- Bytes of an image's signature (R516). -/
def imageSig : Nat := 2692

/-- The header of an image of `n` bytes is intact (R516; log 196). -/
def headerGood (b : Bytes) (n : Nat) : Bool :=
  decide (b.take 4 = ascii "EZBI") && decide (fld b 4 2 = 1) && decide (1 ≤ fld b 6 2 ∧ fld b 6 2 ≤ 32) && decide (fld b 8 4 = n)
    && decide (32 + 16 * fld b 6 2 + imageSig ≤ n) && decide (fld b 18 1 < 64)

/-- What a slot shows of the image that it will hold (R516, R518). -/
def imageSlot (slot : Nat) (b : Bytes) : ImgSlot :=
  ⟨2, fld b 18 1, fld b 16 2, fld b 12 4, fld b 8 4, some (leNat (shake256 (b.take (b.length - imageSig) ++ leBytes 1 slot) 48))⟩

/-- The sectors of an image slot are erased (R519). -/
def eraseSlot (n : Nat) (s : State) : State :=
  let lo := n * 0x2000000
  modFa (fun a => { a with mem := Memory.clear a.mem lo (384 * 65536), words := a.words.filter fun e => decide (8 * e.1 < lo) || decide (lo + 384 * 65536 ≤ 8 * e.1) }) s

/-- Bytes are programmed into erased words from an array offset on, each with ECC slot A in force (R503). -/
def faPutBytes (off : Nat) (b : Bytes) (s : State) : State :=
  modFa (fun a => { a with mem := Memory.writeN 0xFF a.mem off b, words := (List.range ((b.length + 7) / 8)).foldl (fun t i => tset t (off / 8 + i) 1) a.words }) s

/-- The reply of a `STAGE`: what the slot shows, and measurement index 2 for it (R519). -/
def stageReply (x : Staging) : Bytes :=
  leBytes 1 x.slot ++ leBytes 1 x.hdr.svn ++ leBytes 2 x.hdr.ifver ++ leBytes 4 x.hdr.belayVer ++ leBytes 4 x.hdr.length ++ zeros 4
    ++ leBytes 32 (x.hdr.digest.getD 0)

/-- A `STAGE` goes on by one step while the array takes commands: the slot is erased, a sector is programmed, or the slot is marked valid.
One whose request has been settled runs on to its next sector and leaves the slot staging (R502, R519; 02 R77; log 196). -/
def stageStep (s : State) : State :=
  match s.fw.staging with
  | none => s
  | some x =>
    let put := fun (y : Option Staging) (t : State) => modFw (fun w => { w with staging := y }) t
    let goes := live x.rid s
    if s.fw.fa.busy.isSome ∨ s.fw.fa.susp.isSome ∨ s.fw.fa.vfail = true then s
    else if x.erased = false then put (some { x with erased := true }) (eraseSlot x.slot s)
    else if 65536 * x.sectors < x.img.length then
      commitN x.rid 1 1 none (put (if goes then some { x with sectors := x.sectors + 1 } else none)
        (faPutBytes (x.slot * 0x2000000 + 65536 * x.sectors) (sub x.img (65536 * x.sectors) 65536) s))
    else if !goes then commit x.rid 0 none (put none s)
    else complete x.rid stSuccess (stageReply x) (put none (bootSelector (setImgSlot x.slot fun _ => x.hdr) s))

/-- The image of a `STAGE`, as its ref gives it. -/
def stagedImage (r : Req) (given : Bytes) (s : State) : Bytes :=
  match refRead r (refAt r.payload 0) (refAt r.payload 0).len given s with
  | .ok (b, _) => b
  | .error _ => []

/-- `STAGE`: the image is checked where it lies, and the slot is marked staging; the rest follows step by step (R519). -/
def stageBody (given : Bytes) (sigOk : Bool) (r : Req) (s : State) : State :=
  let f := refAt r.payload 0
  let b := stagedImage r given s
  let no := refDenied r f f.len given s
  checked r.rid [(hasRef r || !(refReads f) || decide (f.len < 2724 ∨ 25165824 < f.len) || reservedSet r.payload 16 8, stInvalidField),
      (no.isSome, no.getD 0), (fwBusy s, stFwBusy), (!(headerGood b f.len && sigOk), stFwBadImage), (decide (fld b 18 1 < s.fw.fuseSvn), stRollback)]
    (fun s =>
      let n := inactive s
      let t := match refRead r f f.len given s with | .ok (_, t) => t | .error _ => s
      modFw (fun w => { w with staging := some ⟨r.rid, n, imageSlot n b, b, false, 0⟩ }) (bootSelector (setImgSlot n fun _ => { ImgSlot.empty with state := 1 }) (setRunning r.rid t))) s
def execFwupStage (rid : Nat) (img : StageImage) (s : State) : Res := .next (serve 12 2 rid (stageBody img.image img.sigOk) s)

/-- The interface shows `HANDOVER` while a processor takes over; a cycle in which no command waits ends it (R520, R526; log 1). -/
def beginHand (h : Hand) (s : State) : State :=
  announced (fun u => { u with host := { u.host with ifState := .handover, hand := some h } }) s

/-- `STATE` returns to `READY` with what the handover changed; during a scrub it goes on at once (R520, R526) (log 191). -/
def leaveHand (f : State → State) (s : State) : State :=
  announced (fun u => let v := f u; { v with host := { v.host with hand := none, ifState := if v.host.ifState = .handover then .ready else v.host.ifState } }) s

/-- What restarts components: held ones run again, their requests continue from the ledger (R520, R525; 18 R542). -/
def restartAll (s : State) : State := replayReqs (fun r => decide (¬ (r.svc = 12 ∧ r.op = 3))) (modFw (fun w => { w with compDown := [], compTimes := [] }) s)

/-- The first moment at which nothing that bars a handover is in progress (R520). -/
def quiet (s : State) : Bool :=
  decide (s.host.ifState = .ready) && s.host.rstBusy.isNone && s.fw.fa.busy.isNone

/-- The handover to the inactive slot's image (R520): steps 3 to 6 but for the reply. -/
def activate (raise : Bool) (s : State) : State :=
  let n := inactive s
  let img := imgSlotOf n s
  let t := leaveHand (fun u => restartAll (bootSelector (modFw fun w => { w with running := n, bootSel := n, ifver := img.ifver, belayVer := img.belayVer, belay := 1 - w.belay, standbyOk := false }) u)) s
  let t := if raise then
      let v := max t.fw.fuseSvn img.svn
      let t := modFw (fun w => { w with fuseSvn := v }) t
      let other := imgSlotOf (1 - n) t
      if other.state = 2 ∧ other.svn < v then bootSelector (setImgSlot (1 - n) fun i => { i with state := 3 }) t else t
    else t
  let t := devEvent 0x1B 0 0 (leBytes 1 t.fw.belay ++ leBytes 1 3) t
  devEvent 0x0C00 1 0x0C (leBytes 1 n ++ leBytes 1 img.svn ++ leBytes 2 img.ifver ++ leBytes 4 img.belayVer) t

def activationFailed (cause : Nat) (s : State) : State := devEvent 0x0C01 1 0x0C (leBytes 1 cause) s

/-- What verification and start of the new image on the standby find: 0 it is ready, 1 its verification fails, 2 it does not start; an image
below the fuse fails verification (R514, R522, R523, R528). -/
def newImage (found : Nat) (s : State) : Nat := if (imgSlotOf (inactive s) s).svn < s.fw.fuseSvn then 1 else found

def activateReply (us : Nat) (s : State) : Bytes :=
  leBytes 1 s.fw.running ++ leBytes 1 s.fw.fuseSvn ++ leBytes 2 s.fw.ifver ++ leBytes 4 s.fw.belayVer ++ leBytes 4 us ++ zeros 4

def setPending (a : Option Activation) (s : State) : State := modFw (fun w => { w with pending := a }) s

/-- An activation before its quiet point: one whose request was settled is abandoned; an emergency defers it; at the quiet point of one that
is ready the handover begins (R520 to R522). -/
def activationStep (s : State) : State :=
  match s.fw.pending with
  | none => s
  | some a =>
    match a.rid with
    | some rid =>
      if live rid s = false then commit rid 0 none (setPending none s)
      else if emergencyNow s then complete rid stDeferred [] (setPending (some ⟨none, a.raise, none⟩) s)
      else (match a.ready with
        | some us => if quiet s then beginHand (.activation (some rid) a.raise us) (setPending none s) else s
        | none => s)
    | none =>
      (match a.ready with
        | some us =>
          if emergencyNow s then setPending (some { a with ready := none }) s
          else if quiet s then beginHand (.activation none a.raise us) (setPending none s) else s
        | none => s)

/-- `ACTIVATE`: its checks, the boot selector alone, or step 2 of the handover (R520, R521). -/
def activateBody (found us : Nat) (r : Req) (s : State) : State :=
  let flags := fld r.payload 0 1
  let n := fld r.payload 1 1
  checked r.rid [(hasRef r || decide (4 ≤ flags ∨ 1 < n) || reservedSet r.payload 2 6, stInvalidField),
      (decide (n ≠ inactive s) || decide ((imgSlotOf n s).state ≠ 2), stNoImage), (fwBusy s, stFwBusy), (!(bit flags 1) && !s.fw.standbyOk, stNoStandby)]
    (fun t =>
      if bit flags 1 then
        let u := bootSelector (modFw fun w => { w with bootSel := n }) t
        complete r.rid stSuccess (activateReply 0 u) u
      else if emergencyNow t then complete r.rid stDeferred [] (setPending (some ⟨none, bit flags 0, none⟩) t)
      else if newImage found t ≠ 0 then activationFailed (newImage found t - 1) (fail r.rid stFwBadImage t)
      else activationStep (setPending (some ⟨some r.rid, bit flags 0, some us⟩) (setRunning r.rid t))) s
def execFwupActivate (rid found us : Nat) (s : State) : Res := .next (serve 12 3 rid (activateBody found us) s)

/-- `INVALIDATE` (R522). -/
def invalidateBody (r : Req) (s : State) : State :=
  let n := fld r.payload 0 1
  checked r.rid [(hasRef r || decide (1 < n) || reservedSet r.payload 1 7, stInvalidField), (decide (n = s.fw.running), stNoImage), (s.fw.pending.isSome, stFwBusy)]
    (fun t => complete r.rid stSuccess [] (bootSelector (setImgSlot n fun i => { i with state := 3 }) t)) s
def execFwupInvalidate (rid : Nat) (s : State) : Res := .next (serve 12 4 rid invalidateBody s)

/-- A pending activation runs from step 2 once the emergency has been clear for 10 s; without a standby it fails to start (R521; log 197). -/
def runPending (found us : Nat) (s : State) : State :=
  match s.fw.pending with
  | some ⟨none, raise, none⟩ =>
    if emergencyNow s = true ∨ servicesRun s.host.ifState = false then s
    else
      let k := if newImage found s = 0 ∧ s.fw.standbyOk = false then 2 else newImage found s
      if k = 0 then activationStep (setPending (some ⟨none, raise, some us⟩) s) else activationFailed (k - 1) (setPending none s)
  | _ => s

def execPendingActivation (found us : Nat) (s : State) : Res := .next (runPending found us s)

/-! ### Components and Belay processors (R524 to R526) -/

/-- AON cycles of the restarts of a component in the last 60 s (R525). -/
def recentRestarts (c : Nat) (s : State) : List Nat := (tgetD s.fw.compTimes c []).filter fun t => decide (clockNow domAon s < t + aonMinute)

/-- A component fault: its SRAM regions, which Belay's PMP entries give it, are cleared; it is restarted and resumes its requests; the
fourth within 60 s holds it stopped (R497, R524, R525; log 249). -/
def restartComponent (c cause : Nat) (regions : List (Nat × Nat)) (s : State) : State :=
  if runtimeRuns s.host.ifState && compUp c s && (decide (1 ≤ c ∧ c ≤ 8) || decide (0x10 ≤ c ∧ c ≤ 0x13)) then
    let l := recentRestarts c s ++ [clockNow domAon s]
    let t := modFw (fun w => { w with restarts := w.restarts + 1, compTimes := tset w.compTimes c l }) (regions.foldl (fun t e => healLines 345 e.1 e.2 t) s)
    let t := devEvent 0x1C 0 0 (leBytes 1 c ++ leBytes 1 cause ++ zeros 2 ++ leBytes 4 l.length) t
    if 4 ≤ l.length then devEvent 0x1D 0 0 (leBytes 1 c) (modFw (fun w => { w with compDown := w.compDown ++ [c] }) t)
    else replayReqs (fun r => decide (svcComponent r.svc = c)) t
  else s

def execComponentRestart (comp cause : Nat) (regions : List (Nat × Nat)) (s : State) : Res := .next (restartComponent comp cause regions s)

/-- AON cycles in 24 h. -/
def aonDay : Nat := 8640000000000

/-- The failed processor: retired after its third failure in 24 h, or where its self-test fails (R526; log 121). -/
def processorFailed (b : Nat) (selfTest : Bool) (s : State) : State :=
  let now := clockNow domAon s
  let l := (tgetD s.fw.bpFails b []).filter (fun t => decide (now < t + aonDay)) ++ [now]
  let t := modFw (fun w => { w with bpFails := tset w.bpFails b l }) s
  if 3 ≤ l.length ∨ selfTest = false then writeRecordFree 3 (capsChanged { t with caps := { t.caps with belayFailed := t.caps.belayFailed ++ [b] } }) else t

/-- The takeover ends (R526). -/
def takeOver (old cause : Nat) (selfTest : Bool) (s : State) : State :=
  let t := leaveHand (fun u => replayReqs (fun _ => true) (modFw (fun w => { w with belay := 1 - old, takeovers := w.takeovers + 1 }) u)) s
  processorFailed old selfTest (devEvent 0x1B 0 0 (leBytes 1 (1 - old) ++ leBytes 1 cause) t)

/-- The handover in progress ends (R520, R526). -/
def endHand (s : State) : State :=
  match s.host.hand with
  | some (.activation rid raise us) =>
    let t := activate raise s
    (match rid with | some r => complete r stSuccess (activateReply us t) t | none => t)
  | some (.takeover old cause selfTest) => takeOver old cause selfTest s
  | none => s

/-- An activation that the takeover comes before is abandoned (R522). -/
def abandonActivation (s : State) : State :=
  match s.host.hand with
  | some (.activation rid _ _) =>
    activationFailed 2 ((match rid with | some r => fail r stFwAborted | none => id) { s with host := { s.host with hand := none } })
  | _ =>
    match s.fw.pending with
    | some a => activationFailed 2 ((match a.rid with | some r => fail r stFwAborted | none => id) (setPending none s))
    | none => s

/-- The standby takes over; without one both are lost, and the module enters the safe state (R526; 18 R535). During a scrub the takeover
does not show (log 191). -/
def belayTakeover (cause : Nat) (selfTest : Bool) (s : State) : State :=
  if runtimeRuns s.host.ifState = false ∨ s.host.ifState = .abseil then s
  else if s.fw.standbyOk = false then enterSafe s
  else
    let old := s.fw.belay
    let t := abandonActivation (if s.fw.fa.seq = 0 then s else relock s)
    let t := announced (modFw fun w => { w with standbyOk := false }) t
    if t.host.ifState = .scrub then takeOver old cause selfTest t else beginHand (.takeover old cause selfTest) t

def execBelayTakeover (cause : Nat) (selfTest : Bool) (s : State) : Res := .next (belayTakeover cause selfTest s)

/-- The standby has booted the running image (R514, R520, R526). -/
def standbyReady (s : State) : State :=
  if runtimeRuns s.host.ifState = true ∧ s.host.ifState ≠ .abseil ∧ s.caps.belayFailed.contains (1 - s.fw.belay) = false then
    announced (modFw fun w => { w with standbyOk := true }) s
  else s

def execStandbyReady (s : State) : Res := .next (standbyReady s)

end Sys2Proof.Machine
end

