-- ==== Sys2Proof/Machine/Reset.lean ====
section
/-! DEFINITION. Resets of the module and the boot (02 R57 to R59; 17 R509, R513 to R515; 10 R322), frequency changes and dual-clock
FIFO faults (01 R31, R37, R47). -/
namespace Sys2Proof.Machine

/-! ### Clocks (01 R30, R31, R47) -/

/-- A domain restarts at a new firmware setting, one of its steps; the crampon limit still holds (R31; 16 R478, R479). -/
def freqChange (d khz : Nat) (s : State) : State :=
  if isFreqStep d khz = true ∧ clockPowered d s = true ∧ (s.pwr.pwr = .active ∨ s.pwr.pwr = .capped) then
    applyKhz d (modPwr (fun p => { p with setKhz := tset p.setKhz d khz }) s)
  else s

def execFreqChange (dom khz : Nat) (s : State) : Res := .next (freqChange dom khz s)

/-- The current frequency of the rate table follows the domain (R47). -/
def currentKhz (d : Nat) (s : State) : State := { s with clocks := tmod s.clocks d fun c => { c with current := c.actual } }

def execCurrentFreqUpdate (dom : Nat) (s : State) : Res := .next (currentKhz dom s)

/-! ### Dual-clock FIFOs (01 R37) -/

/-- The command at the head of a tier queue fails. -/
def tierFails (c : Nat) (s : State) : State :=
  match slotOf c s with
  | none => s
  | some k =>
    if ringOn k.tq && decide (k.tq.head ≠ k.tq.tail) then
      match ctxRead c (ringAt k.tq) 32 s with
      | .ok (b, t) => tierDone c b false (modTq c (fun r => { r with head := r.head + 1 }) t)
      | .error _ => s
    else s

/-- What becomes of the work that the poisoned entry carried (log 210). -/
def fifoWork (w : FifoWork) (s : State) : State :=
  match w with
  | .service rid => replayReqs (fun r => decide (r.rid = rid)) s
  | .hart h => match (hartOf h s).task.bind (tget s.task.pool) with
    | some k => trapTask h 5 0 k s
    | none => s
  | .dma e => if engOn e s then dmaFault e 0 s else s
  | .tier c => tierFails c s
  | .qorgal ptag => emit (.response ptag 2 []) s

/-- A detector of a FIFO that the table of direct crossings has: the event names it (R39; 02 R80: source type 6; its instance is
log 128). -/
def fifoFault (src dst idx : Nat) (under : Bool) (w : FifoWork) (s : State) : State :=
  if (crossingDepth src dst).isSome && decide (idx < crossingFifos src dst) && clockPowered src s && clockPowered dst s then
    raiseEvent 3 6 (idx % 256) 0xFF 0 (leBytes 1 src ++ leBytes 1 dst ++ leBytes 2 idx ++ leBytes 1 (b2n under)) (fifoWork w s)
  else s

def execSyncFifoFault (src dst idx : Nat) (under : Bool) (work : FifoWork) (s : State) : Res := .next (fifoFault src dst idx under work s)

/-! ### What a reset leaves of memory, models and sessions (02 R59; 08 R267; 07 R248) -/

/-- The pages of an object with each private page back at the one it was promoted from. -/
def pagesKept (o : Obj) (s : State) : List Nat := o.pages.map fun p => match pageKindOf p s with | some (.priv q) => q | _ => p

/-- Every page is sealed and has a flash copy that was accepted. -/
def objSurvives (o : Obj) (s : State) : Bool :=
  (pagesKept o s).all fun p => match pageGet p s with | some q => decide (q.kind = .sealed) && (decide (2 ≤ q.flash) || decide (2 ≤ q.flash2)) | none => false

/-- A surviving object keeps its sealed pages; every other one is freed. -/
def settleObj (h : Nat) (s : State) : State :=
  match tget s.mem.objs h with
  | none => s
  | some o =>
    if objSurvives o s then
      let ps := pagesKept o s
      let t := (o.pages.filter fun p => !(ps.contains p)).foldl (fun t p => unrefPage p t) s
      { t with mem := { t.mem with objs := tset t.mem.objs h { o with pages := ps } } }
    else freeObj h s

/-- Memory objects after a reset: pages start in flash only; `PINNED_T1` pages are refilled in the background. -/
def settleMem (s : State) : State :=
  let t := (s.mem.objs.map (·.1)).foldl (fun t h => settleObj h t) s
  let pinned := (t.mem.objs.filter fun e => aPinned e.2.aflags).flatMap fun e => e.2.pages
  { t with mem := { t.mem with
    pages := tmap t.mem.pages (fun _ p => { p with t1 := none, t2 := none, dropT1 := false, dropT2 := false, heat := 0, promoted := false })
    moves := [], fills := pinned.eraseDups, retained := false } }

/-- Units that a flush did not keep take an accepted page copy with them: the page is lost (08 R278; log 123). -/
def loseUnits (us : List BufUnit) (s : State) : State :=
  us.foldl (fun t u => match u.item with
    | .page p k => (match pageGet p t with
      | some q =>
        if k = 2 then (if q.flash2 = 2 then modPage p (fun x => { x with flash2 := 0 }) t else t)
        else if q.flash = 2 then (if q.flash2 = 3 then modPage p (fun x => { x with flash := 0 }) t else losePage p t) else t
      | none => t)
    | .kv b => { t with agents := { t.agents with kv := tmod t.agents.kv b fun k => if k.flash = 2 then { k with flash := 0 } else k } }
    | .array h _ | .side h _ _ => if u.thru then t else { t with search := { t.search with idx := tmod t.search.idx h fun x => { x with gone := true } } }
    | _ => t) s

/-- Dirty data is written to the Abseil area, as far as the flush comes (10 R322, R324). -/
def flushAll (cause : Nat) (complete : Bool) (s : State) : State :=
  let t := flushSteps cause complete s
  loseUnits (s.ftl.dirty.filter fun u => !(isMove u) && !(t.ftl.abseilArea.any fun v => decide (v.id = u.id))) t

/-- The session of a unit, the block, the index, the page or the namespace that it belongs to still exists. -/
def itemExists (i : FItem) (s : State) : Bool :=
  match i with
  | .ns n => (tget s.store.ns n).isSome
  | .page p _ => (pageGet p s).isSome
  | .kv b => (tget s.agents.kv b).isSome
  | .array h _ => (tget s.search.idx h).isSome
  | .side h e _ => (match tget s.search.idx h with | some x => decide (e ≤ x.epoch) | none => false)
  | .snap id q =>
    (match sessOf id s with | some x => x.snaps.any fun n => decide (n.seq = q) | none => false)
      || s.agents.mirrorStore.any fun x => decide (x.key = id ∧ x.seq = q)
  | .move _ => false

/-- Every session back at its latest snapshot; models stay if their weights survive, and sessions of the others stay `PAUSED` (log 124); pools
are allocated again, those that no longer fit are left out (02 R59) (log 142). Sealed blocks are in flash only. -/
def settleAgents (s : State) : State :=
  let t := (s.agents.sess.map (·.1)).foldl (fun t i => rewindSess (fun _ => 0) i t) s
  let gone := (t.agents.models.filter fun e => !(e.2.weights.all fun h => (tget t.mem.objs h).isSome)).map (·.1)
  let t := gone.foldl (fun t m => unloadModel m t) t
  modAgents (fun a => { a with
    loads := [], snapRun := [], snapWait := [], resRun := [], resWait := []
    kv := tmap a.kv fun _ k => { k with t2 := false, flash := if k.flash = 1 then 0 else k.flash }
    models := tmap a.models fun _ m =>
      { m with members := [], joiners := [], poolBlocks := 0, freeBlocks := 0, cache := [], stepUs := 0, nextCfg := none
               maxBatch := (m.nextCfg.map (·.1)).getD m.maxBatch, retrWaitUs := (m.nextCfg.map (·.2)).getD m.retrWaitUs } }) t

/-- The pool and the staging of a model are allocated again in T1 while they fit (02 R59). -/
def allocPool (s : State) (m : Nat) : State :=
  match modelOf m s with
  | none => s
  | some x =>
    let n := x.poolMib * 2 ^ 20 / max x.kvBlockBytes 1
    if t1Fits x.ctx (x.poolMib * 2 ^ 20 + x.staging) s then modModel m (fun y => { y with poolBlocks := n, freeBlocks := n }) s else s

/-- Units of the write buffer or the Abseil area whose owner is gone are dropped. -/
def dropOrphans (s : State) : State := modFtl (fun f => { f with abseilArea := f.abseilArea.filter fun u => itemExists u.item s }) s

/-- Requests end, and sessions, models and objects are left as the ledger and the flash hold them. -/
def settleWork (cause : Nat) (s : State) : State := settleAgents (settleMem (interruptAll cause s))

/-! ### What a reset does to each part of the state (02 R57, R59) -/

/-- The control window, mailboxes and events at their reset values; `RST_STAT` shows the type. -/
def resetHost (last : Nat) (s : State) : State :=
  { s with host := { HostIf.init with rstLast := last, gone := s.host.gone, lastRead := s.host.lastRead } }

/-- Slots keep their configuration, homes and hold flag; tenants are held until the next admission (R59; 15 R440) (log 141). -/
def resetSlot (c : Nat) (k : Slot) : Slot :=
  { Slot.new k.cfg with
    state := if k.state = .freeing then .freeing else .alloc
    act := k.act, homeE := k.homeE, homeC := k.homeC, nextHomes := k.nextHomes, homeGen := k.homeGen, hold := k.hold, secHold := decide (c ≠ 0)
    switchOuts := k.switchOuts, donations := k.donations, starved := k.starved }

def resetCtxs (s : State) : State := { s with ctxs := { Contexts.init with slots := tmap s.ctxs.slots resetSlot }, task := Tasklets.init, eng := Engines.init }

/-- Remaps and retirements hold across every reset; the rest of the ECC blocks does not (09 R292). -/
def resetEcc (s : State) : State :=
  { s with ecc := { s.ecc with
    blk := tmap s.ecc.blk (fun k b => { EccBlk.fresh k with remap := b.remap, remapOut := b.remapOut, dead := b.dead }), flashCtrl := [], flashMask := [] } }

/-- The migration block at its reset values; context memory keys are gone, and drawn anew at boot (08 R270, R274). -/
def resetMem (s : State) : State :=
  { s with mem := { s.mem with
    migCtrl := Tiers.init.migCtrl, migEpoch := Tiers.init.migEpoch, migEpochNext := none, epochStart := clockNow domFab s, migStat := 0, migFail := 0
    migCfg := [], keySlots := [] } }

/-- The write buffer is empty; until U is measured its limit is that for U = 0 (17 R513). -/
def resetFtl (s : State) : State :=
  modFtl (fun f => { f with dirty := [], waiting := [], dirtyLimit := 0, writeThrough := true, extWait := [], poolFull := false }) (dropOrphans s)

/-- Queue pairs and features go; namespaces stay, and a deletion not completed has not applied (R59; 18 R545). -/
def resetStore (s : State) : State := modStore (fun y => { y with qps := [], feat := [], ns := tmap y.ns fun _ n => { n with deleting := none } }) s

/-- Ports wait for light again, a disabled one stays disabled; link keys are destroyed; the rope holds (13 R402, R411; 15 R443). -/
def resetPorts (s : State) : State :=
  modPorts (fun x => { Ports.init with
    port := tmap x.port (fun _ q => if q.train = 0 then { Port.init 0 with train := 0 } else Port.init 0)
    pos := x.pos, serials := x.serials, lostPeers := x.lostPeers }) s

/-- Sessions, the nonce and unwrapped keys are gone; Admitted becomes Provisioned (15 R439, R443, R456). -/
def resetSec (s : State) : State :=
  modSec (fun x => { x with
    sec := if x.sec = .admitted then .provisioned else x.sec, spdm := [], nonce := none
    doms := tmap x.doms (fun _ d => { d with loaded := false }), scrub := none, scrubNext := [], scrubDue := false, unlock := none, heldPortH := [] }) s

/-- Registers and components of firmware; the data of the array, images and records are kept. A program in progress leaves a word that
nothing fixes; an erase leaves its markers (17 R502, R509, R519, R521; log 125). -/
def resetFw (s : State) : State :=
  let torn := match s.fw.fa.busy with | some o => decide (o.op = 1) | none => false
  let t := match s.fw.fa.busy with
    | some o => if o.op = 1 then
        modFa (fun a => { a with mem := Memory.writeN 0xFF a.mem (faOff o.bank o.at_) (leBytes 8 (Config.freeBits 64 s.freeCtr).toNat)
                                 words := tset a.words (faOff o.bank o.at_ / 8) (faTimes (faOff o.bank o.at_) s + 1) }) s
      else s
    | none => s
  let t := if torn then bumpFree t else t
  modFw (fun w => { w with
    fa := { FaArray.init with mem := w.fa.mem, words := w.fa.words, eopen := w.fa.eopen, retries := w.fa.retries, rev := w.fa.rev, dieSerial := w.fa.dieSerial }
    standbyOk := false, compTimes := [], compDown := [], staging := none, pending := none }) t

/-- Monitors at their reset values; counters that keep counting leave the first window partial (19 R552, R554). -/
def resetMon (s : State) : State :=
  { s with mon := { Mons.init with mon := (List.range 96).map fun i =>
    let m := monReset i
    (i, { m with openIdx := clockNow (monDomain i) s / 2 ^ m.winLog2, openPartial := true }) } }

/-- Clocks run at their nominal frequency, in the domains that are not lost (01 R40, R47; 18 R532). -/
def resetClocks (s : State) : State :=
  { s with clocks := tmap s.clocks fun d c =>
    { c with current := c.nominal, actual := c.nominal, powered := !(dieDomainLost d s) } }

/-- Cap and firmware settings are gone; what AON holds stays (16 R478). -/
def resetPwr (s : State) : State :=
  modPwr (fun p => { p with pwr := .active, cap := 0, setKhz := [], frozen := none, wakeLatched := false }) s

/-- Resets every domain except AON (02 R57, R59). -/
def resetDomains (last : Nat) (s : State) : State :=
  let t := resetFtl (searchReset s)
  let t := resetCtxs (resetEcc (resetMem (resetStore (resetPorts t))))
  let t := resetMon (resetFw (resetSec { t with tune := Tune.init }))
  let t := resetHost last (resetClocks (resetPwr t))
  [0, 1, 2, 3, 4, 5, 6, 7, 8].foldl (fun t d => applyKhz d t) t

/-- The boot starts: `STATE` shows `BOOT`, step 1. -/
def startBoot (s : State) : State := { s with host := { s.host with ifState := .boot, bootStep := 1, bootFell := none } }

/-! ### Power-on reset (02 R57) -/

/-- What a module power-on reset does to the security state (15 R439). -/
def powerOnSec (x : Sec) : Sec :=
  let m := if bit x.causes 1 then 2 else 0
  { x with causes := m, quarantineNext := x.quarantineNext && decide (m ≠ 0), sec := if m = 0 ∧ x.sec = .quarantined then .provisioned else x.sec, dbg := if x.sec = .blank then x.dbg else .sealed
           scope := 0, sigPower := 0, sigDay := [], scrubs := 0, latch := none, unlock := none }

/-- The AON controller starts anew: latches, limits and counts of the power domain. -/
def powerOnPwr (p : Power) : Power :=
  let g := fun (f : Feed) => { f with openFuse := f.openFuse && !f.good, trips := [], latched := false }
  { Power.init with feedA := g p.feedA, feedB := g p.feedB, addrSel := p.addrSel }

/-- Power is applied to a feed with the module off (R57): every register at its reset value, the counters at 0; the rope cleared, ports
enabled, disabled scan units back (13 R402, R411; 12 R364). -/
def powerOn (s : State) : State :=
  let t := settleWork causePower (loseUnits (s.ftl.dirty.filter fun u => !(isMove u)) s)
  let t := { t with clocks := tmap t.clocks (fun _ c => { c with counter := 0 }) }
  let t := modPorts (fun _ => Ports.init) (modSec powerOnSec (modPwr powerOnPwr t))
  let t := modSearch (fun x => { x with disagree := [], scanOff := [] }) t
  let t := modFw (fun w => { w with takeovers := 0, restarts := 0, bpFails := [], fa := { w.fa with retries := [] } }) t
  let t := modFtl (fun f => { f with lostSince := false, cnt := { f.cnt with powerCycles := f.cnt.powerCycles + 1 } }) t
  let t := { t with agents := { t.agents with sess := tmap t.agents.sess fun _ x => { x with snapAt := 0 } } }
  let t := resetDomains 0 t
  startBoot { t with mon := Mons.init }

def execPowerOnReset (s : State) : Res :=
  .next (if s.pwr.pwr = .off ∧ (s.pwr.feedA.good = true ∨ s.pwr.feedB.good = true) then powerOn s else s)

/-! ### Abseil (10 R322; 16 R471 to R473, R483) -/

/-- The flush of an Abseil ends: Tripped after a trip, a power-on reset with a feed good, else Off (log 126). -/
def abseilEnd (complete : Bool) (ms : Nat) (s : State) : State :=
  if s.host.ifState = .abseil ∧ powered s = true then
    let trip := s.pwr.trip
    let t := modCnt (fun c => { c with abseils := c.abseils + 1, abseilMs := ms }) (flushAll (if trip then 3 else 2) complete (interruptAll (if trip then causeWarm else causePower) s))
    if t.pwr.feedA.good = false ∧ t.pwr.feedB.good = false then powerOff t
    else if trip then
      let t := (List.range 5).foldl darkPort (powerDomains (fun d => decide (d = domAon)) t)
      alertBit 3 true (modPwr (fun p => { p with pwr := .tripped }) { t with host := { t.host with ifState := .tripped } })
    else powerOn t
  else s

def execAbseil (complete : Bool) (ms : Nat) (s : State) : Res := .next (abseilEnd complete ms s)

/-! ### Warm reset (02 R57, R58; 16 R489) -/

/-- The flush, unless the state has done it or nothing has run, and the reset of the domains: `STATE` shows `RESET` until the boot
begins (R57). -/
def resetNow (s : State) : State :=
  let t := if s.host.ifState = .boot ∨ s.host.ifState = .safe then interruptAll causeWarm s else flushAll 0 true (interruptAll causeWarm s)
  let t := resetDomains 1 (settleAgents (settleMem t))
  { t with host := { t.host with
    rstLast := s.host.rstLast, rstBusy := if s.host.rstBusy = some 1 then some 1 else none, rstWarm := true, ifState := .reset, bootStep := 0 } }

/-- A warm reset is asked for, by `RST_CTRL` or by the pin, which `hold` says stays low; only `RST_CTRL` makes `BUSY` 1 (R57; 16 R489). -/
def askReset (pin hold : Bool) (s : State) : State :=
  modPwr (fun p => { p with resetHeld := p.resetHeld || hold })
    { s with host := { s.host with rstBusy := if pin then s.host.rstBusy else some 1, rstWarm := true } }

/-- A warm reset as the state has it: held during a scrub or a handover, after a wake from Bivouac, ignored in Abseil; during the boot it
restarts it, whatever `BUSY` is (R58; 16 R476) (log 211). -/
def warmReset (pin hold : Bool) (s : State) : State :=
  match s.host.ifState with
  | .scrub | .handover => let t := askReset pin hold s
    { t with host := { t.host with warmHeld := true } }
  | .bivouac => resetNow (askReset pin hold (wakeUp s))
  | .abseil | .tripped | .reset => s
  | .boot | .ready | .safe => resetNow (askReset pin hold s)

/-- A warm reset that a scrub or a handover held is carried out when that state has ended (R58). -/
def carryReset (s : State) : State :=
  if s.host.warmHeld = true ∧ s.host.ifState ≠ .scrub ∧ s.host.ifState ≠ .handover then resetNow { s with host := { s.host with warmHeld := false } } else s

/-- The handover ends: what waited for it follows (R56, R58). -/
def handoverEnd (s : State) : State := carryReset (endHand s)

/-- `RST_CTRL.TYPE` 1: it supersedes a pending mailbox or event ring reset (R58). -/
def execWarmReset (s : State) : Res :=
  .next (if powered s = true ∧ cwServes true 0x100 s = true then warmReset false false s else s)

/-- A low on `MOD_RESET_N` that has lasted 10,000 AON cycles: a warm reset, or the release of a trip with every sensor below 85 °C; `hold`:
it stays low after the flush (R483, R489). -/
def resetPin (cycles : Nat) (hold cool : Bool) (s : State) : State :=
  if cycles < 10000 ∨ powered s = false then s
  else if s.host.ifState = .tripped then
    if cool then
      let t := resetDomains 1 (settleAgents (settleMem (modPwr (fun p => { p with trip := false }) s)))
      let t := { t with host := { t.host with rstLast := s.host.rstLast, rstWarm := true } }
      if hold then modPwr (fun p => { p with resetHeld := true }) { t with host := { t.host with ifState := .reset } } else startBoot t
    else s
  else warmReset true hold s

def execModResetN (cycles : Nat) (hold cool : Bool) (s : State) : Res := .next (resetPin cycles hold cool s)

/-- `MOD_RESET_N` returns high: a boot that waited for it starts (R489). -/
def execModResetNRelease (s : State) : Res :=
  .next (if s.pwr.resetHeld = true then
    let t := modPwr (fun p => { p with resetHeld := false }) s
    if s.host.ifState = .reset then startBoot t else t
  else s)

/-! ### Boot (17 R513, R514) -/

/-- Erase-open recovery: every marked sector is erased, a bank with all its markers at once (R509). -/
def recoverErases (s : State) : State :=
  modFa (fun a => { a with
    mem := a.mem.filter (fun e => !(a.eopen.contains (e.1 / 65536))), words := a.words.filter (fun e => !(a.eopen.contains (e.1 / 8192))), eopen := [] }) s

/-- A slot passes verification. -/
def slotPasses (n verdict : Nat) (s : State) : Bool :=
  decide (verdict = 0) && decide ((imgSlotOf n s).state = 2) && decide (s.fw.fuseSvn ≤ (imgSlotOf n s).svn)

/-- Why a slot failed: 0 header, 1 signature, 2 rollback, 3 read failure (R528). -/
def failCause (n verdict : Nat) (s : State) : Nat := if verdict ≠ 0 then verdict - 1 else if (imgSlotOf n s).svn < s.fw.fuseSvn ∧ (imgSlotOf n s).state = 2 then 2 else 0

/-- The slot that Basecamp boots, and whether it is not the one that the selector names. -/
def chooseSlot (r : BootReport) (s : State) : Option (Nat × Bool) :=
  let v := fun n => if n = 0 then r.slotA else r.slotB
  let b := s.fw.bootSel
  if slotPasses b (v b) s then some (b, false) else if slotPasses (1 - b) (v (1 - b)) s then some (1 - b, true) else none

/-- The image runs on BP0, or on BP1 if the self-test of BP0 fails or BP0 is retired. -/
def runImage (n : Nat) (bp0 : Bool) (s : State) : State :=
  modFw (fun w => { w with running := n, ifver := (imgSlotOf n s).ifver, belayVer := (imgSlotOf n s).belayVer, belay := if bp0 && !(s.caps.belayFailed.contains 0) then 0 else 1, standbyOk := false }) s

/-- The steps at which an HBM3E stack can be brought up; one that passes none is failed (01 R26). -/
def hbmStep (khz : Nat) : Nat := if [1200000, 1100000, 1000000, 900000].contains khz then khz else 0

/-- Training of the memories: a failed stack or package is retired, with a record, and stays failed (01 R26, R47, R50; 17 R511). -/
def trainMem (r : BootReport) (s : State) : State :=
  let k := fun i => if s.caps.hbmKhz.getD i 0 = 0 then 0 else hbmStep (r.hbmKhz.getD i 0)
  let out := (List.range 8).filter fun i => decide (k i = 0 ∧ s.caps.hbmKhz.getD i 0 ≠ 0)
  let lpd := (r.lpdFailed.filter fun p => decide (p < 16) && !(s.caps.lpdFailed.contains p)).eraseDups
  let t := { s with caps := { s.caps with hbmKhz := (List.range 8).map k, lpdFailed := s.caps.lpdFailed ++ lpd } }
  let t := { t with clocks := tmap t.clocks fun d c => if 0x10 ≤ d ∧ d < 0x18 ∧ k (d - 0x10) ≠ 0 then { c with nominal := k (d - 0x10), current := k (d - 0x10), actual := k (d - 0x10) } else c }
  (out ++ lpd).foldl (fun t _ => writeRecordFree 3 t) (if out.isEmpty then t else cutT1Res t)

/-- Context memory keys are drawn for the slots that are not `FREE`, and firmware's (08 R274; 15 R443). -/
def drawKeys (s : State) : State := { s with mem := { s.mem with keySlots := (s.ctxs.slots.map (·.1)) ++ [64] } }

/-- A superblock for units of a region: one open there, else the first that can be opened (log 62). -/
def restoreSb (pinned : Bool) (s : State) : Option Nat := findUp (fun b => sbTakes b pinned false s) 22896 0

/-- Data that the Abseil area returns is committed, stripe by stripe, before step 4 ends (R515). -/
def commitRestored (fuel : Nat) (s : State) : State :=
  match fuel with
  | 0 => s
  | k + 1 =>
    match s.ftl.dirty with
    | [] => s
    | u :: _ =>
      match restoreSb (decide (u.space = 1)) s with
      | some b =>
        let n := (progSlots b (readySb b (decide (u.space = 1)) false s)).length
        let ids := ((s.ftl.dirty.filter fun v => decide (v.space = u.space)).take n).map (·.id)
        commitRestored k (programStripe b ids none s)
      | none => s

/-- Step 4: the shutdown record is applied (R515; 10 R324). -/
def applyShutdown (s : State) : State := let t := restoreFlush s; commitRestored t.ftl.dirty.length t

/-- Port H trains in step 5 where it meets light; a disabled port stays dark (13 R399, R411). -/
def bootPortH (t : Option TrainReport) (s : State) : State := match t with | some x => trainPort 0 x s | none => s

/-- Spare engines that fail their self-test are retired, each with a record (01 R50; 03 R129). -/
def failSpares (l : List Nat) (s : State) : State :=
  let bad := (l.filter fun e => decide (e < 80) && !(s.caps.engMap.contains e) && !(s.caps.engFailed.contains e)).eraseDups
  bad.foldl (fun t _ => writeRecordFree 3 t) { s with caps := { s.caps with engFailed := s.caps.engFailed ++ bad } }

/-- A cause that arose during a scrub which a loss of power or a fault cut short takes effect at the boot (15 R439, R461) (log 138). -/
def lateQuarantine (s : State) : State := if s.sec.quarantineNext then enterQuarantine s else s

/-- Slots left in `FREEING` complete their free (15 R461) (log 140). -/
def freeLeft (s : State) : State :=
  let l := (s.ctxs.slots.filter fun e => decide (e.2.state = CtxState.freeing)).map (·.1)
  let t := { s with ctxs := { s.ctxs with slots := s.ctxs.slots.filter fun e => decide (e.2.state ≠ CtxState.freeing) } }
  let t := { t with mem := { t.mem with keySlots := t.mem.keySlots.filter (fun c => !(l.contains c)), usage := t.mem.usage.filter fun e => !(l.contains e.1) } }
  let t := modSec (fun x => { x with doms := x.doms.filter (fun e => !(l.any fun c => decide (e.1 = domCtx c))), scrubNext := [], scrubDue := false }) t
  l.foldl (fun t c => keyRecord <| ctxEvent c .freeing .free (if s.sec.sec = .quarantined then 6 else 0) 0 t) t

/-- The capability table is compared with the one kept: a difference raises the generation once, without an event (01 R51). -/
def compareCaps (s : State) : State :=
  if capsKey s = s.caps.kept then s else { s with caps := { s.caps with generation := s.caps.generation + 1, kept := capsKey s } }

/-- At the first `READY` firmware draws the rounding seed of slot 0, which has none yet (06 R191; log 23). -/
def seedAdmin (s : State) : State :=
  match slotOf 0 s with
  | some k =>
    if k.cfg.srSeed = 0 then
      let z := Config.freeBits 64 s.freeCtr
      bumpFree (modSlot 0 (fun k => { k with cfg := { k.cfg with srSeed := z }, act := { k.act with srSeed := z } }) s)
    else s
  | none => s

/-- `READY`: a warm reset in progress completes (02 R57; R513). -/
def enterReady (s : State) : State :=
  let ty := if s.host.rstWarm then 1 else s.host.rstLast
  let t := { s with host := { s.host with rstBusy := if s.host.rstBusy = some 1 then none else s.host.rstBusy, rstWarm := false, rstLast := ty } }
  announced (fun u => modPwr (fun p => { p with pwr := workingState u }) { u with host := { u.host with ifState := .ready, bootStep := 0 } })
    (devEvent 4 0 0 (leBytes 1 ty) t)

/-- The selector names the slot that runs, the other one is marked invalid, the fallback is reported (R514). -/
def slotFallback (n cause : Nat) (s : State) : State :=
  devEvent 0x0C02 1 0x0C (leBytes 1 (1 - n) ++ leBytes 1 cause)
    (bootSelector (fun t => modFw (fun w => { w with bootSel := n }) (setImgSlot (1 - n) (fun i => { i with state := 3 }) t)) s)

def setStep (n : Nat) (s : State) : State := { s with host := { s.host with bootStep := n } }

/-- Step 2: Basecamp recovers open erases and starts an image, or finds that both slots, or both processors, fail (R509, R513, R514; 18
R535). -/
def bootImage (r : BootReport) (s : State) : State :=
  let t := basecampTamper (recoverErases s)
  let bpDown := decide (t.caps.belayFailed.contains 1) && (!r.bp0Ok || t.caps.belayFailed.contains 0)
  match chooseSlot r t, bpDown with
  | some (n, other), false =>
    let u := runImage n r.bp0Ok t
    setStep 3 { u with host := { u.host with bootFell := if other then some (n, failCause (1 - n) (if n = 0 then r.slotB else r.slotA) t) else none } }
  | _, _ => enterSafe t

/-- Step 3: memories trained, keys drawn, U measured unless a feed is lost (16 R470). -/
def bootMem (r : BootReport) (s : State) : State :=
  let t := drawKeys (trainMem r s)
  setStep 4 (if t.pwr.feedA.good && t.pwr.feedB.good then takeU r.bankUf r.charged t else t)

/-- Step 6: components started, slots in `FREEING` completed, `READY`; then a fallback is reported. -/
def bootReady (r : BootReport) (s : State) : State :=
  let t := compareCaps (lateQuarantine (freeLeft (failSpares r.spareFailed s)))
  let t := (t.agents.models.map (·.1)).foldl allocPool t
  let t := enterReady (bootTamper (seedAdmin t))
  match t.host.bootFell with
  | some (n, c) => slotFallback n c { t with host := { t.host with bootFell := none } }
  | none => t

/-- One step of the boot ends. -/
def bootStepEnd (n : Nat) (r : BootReport) (s : State) : State :=
  match n with
  | 1 => setStep 2 s
  | 2 => bootImage r s
  | 3 => bootMem r s
  | 4 => setStep 5 (applyShutdown s)
  | 5 => setStep 6 (bootPortH r.portH s)
  | _ => bootReady r s

/-- The boot goes on from the step that it is in to the end of step `till`, or to the safe state; after a warm reset it begins here
(02 R57; R513) (log 143). -/
def boot (r : BootReport) (s : State) : State :=
  let s := if s.host.ifState = .reset ∧ s.pwr.resetHeld = false then startBoot s else s
  [1, 2, 3, 4, 5, 6].foldl (fun t n => if t.host.ifState = .boot ∧ t.host.bootStep = n ∧ n ≤ r.till then bootStepEnd n r t else t) s

def execBoot (r : BootReport) (s : State) : Res := .next (boot r s)

end Sys2Proof.Machine
end

