-- ==== Sys2Proof/Machine/Admin.lean ====
section
/-! DEFINITION. The ADMIN requests that manage no context (02 R85 to R88; 13 R402, R403, R410, R411; 18 R537, R538), and the end of a
request by its timeout (02 R75 to R77). -/
namespace Sys2Proof.Machine

/-- A request expires; a training step whose request has ended is taken out of its group (02 R76; 14 R428). -/
def execTimeout (rid : Nat) (s : State) : Res := .next (pumpAll (timeoutReq rid s))

/-! ### IDENTIFY, IDENTIFY_CAPS, READ_COUNTERS, CANCEL, NOP -/

def identifyReply (s : State) : Bytes :=
  ascii "EZQ940-F" ++ s.sec.serial ++ leBytes 2 s.fw.ifver ++ zeros 2 ++ leBytes 4 s.fw.belayVer ++ leBytes 4 s.fw.basecampVer
    ++ leBytes 4 s.caps.generation.toNat ++ zeros 24

/-- Log 147. -/
def adminIdentifyBody (r : Req) (s : State) : State := complete r.rid stSuccess (identifyReply s) s
def execAdminIdentify (rid : Nat) (s : State) : Res := .next (serve 1 1 rid adminIdentifyBody s)

/-- The table is written as one snapshot; a buffer that is too short stays as it is (R88) (log 162). -/
def identifyCapsBody (r : Req) (s : State) : State :=
  let f := refAt r.payload 0
  let tab := capTable s
  checked r.rid [(!(hasRef r) || decide (r.length ≠ 16) || !(refWrites f), stInvalidField)]
    (fun t =>
      if f.len < tab.length then complete r.rid stNoSpace (leBytes 4 s.caps.generation.toNat ++ leBytes 4 tab.length) t
      else afterWrite r.rid (refWrite r f 0 tab t) (complete r.rid stSuccess (leBytes 4 s.caps.generation.toNat ++ leBytes 4 tab.length)) t) s
def execAdminIdentifyCaps (rid : Nat) (s : State) : Res := .next (serve 1 2 rid identifyCapsBody s)

/-- The domains that a `READ_COUNTERS` names. -/
def counterIds (r : Req) : List Nat := (List.range (fld r.payload 0 1)).map fun k => fld r.payload (8 + k) 1

def readCountersBody (r : Req) (s : State) : State :=
  let n := fld r.payload 0 1
  let ids := counterIds r
  let held := bitsMask ((List.range n).filter fun k => !(clockPowered (ids.getD k 0) s))
  checked r.rid [(hasRef r || decide (n = 0 ∨ 32 < n) || decide (r.length < 8 + n) || ids.any (fun d => !(domainIds.contains d)), stInvalidField)]
    (fun t => complete r.rid stSuccess (leBytes 1 n ++ zeros 3 ++ leBytes 4 held ++ ids.flatMap fun d => leBytes 8 (counterSeen r.mbx d s)) t) s
def execAdminReadCounters (rid : Nat) (s : State) : Res := .next (serve 1 3 rid readCountersBody s)

/-- The request that a `CANCEL` names: outstanding in the mailbox, its completion not yet handed over, not the `CANCEL` itself (R86). -/
def cancelTarget (r : Req) (s : State) : Option Req :=
  s.ledger.reqs.find? fun q => decide (q.mbx = r.mbx ∧ q.rid ≠ r.rid ∧ q.tag = fld r.payload 0 2) && q.settled.isNone && q.done.isNone

def cancelReq (r : Req) (s : State) : State :=
  match cancelTarget r s with
  | none => fail r.rid stInvalidField s
  | some q => pumpAll (complete r.rid stSuccess [] (settleStop q stCancelled s))

/-- `CANCEL` is taken by the mailbox unit itself (R75, R77) (log 146). -/
def execAdminCancel (rid : Nat) (s : State) : Res :=
  .next (match findReq rid s with
    | some r => if r.svc = 1 ∧ r.op = 4 ∧ r.done = none ∧ r.settled = none ∧ mbxUnitRuns s.host.ifState = true then cancelReq r s else s
    | none => s)

def execAdminNop (rid : Nat) (s : State) : Res := .next (serve 1 5 rid (fun r => complete r.rid stSuccess []) s)

/-! ### ROPE_SET (13 R402, R403) -/

/-- The serials of the ring that a `ROPE_SET` gives. -/
def ringOf (r : Req) : List Bytes := (List.range (fld r.payload 0 1)).map fun i => sub r.payload (8 + 16 * i) 16

/-- What the ring change does to a mirrored session. -/
def remirror (old : List Bytes) (s : State) (e : Nat × Sess) : State :=
  let x := e.2
  if x.mirror = 0 then s
  else if s.ports.serials.length ≤ x.mirrorPos then mirrorLost e.1 s
  else if old.getD x.mirrorPos [] = s.ports.serials.getD x.mirrorPos [] then s
  else
    let t := sendKv e.1 (modSess e.1 (fun y => { y with mirrorState := 2, sentBlks := [] }) s)
    match x.snaps with
    | n :: _ => let u := emit (.mirror x.mirrorPos e.1 n.seq) t
                if peerReach x.mirrorPos u then u else mirrorLost e.1 u
    | [] => t

/-- The rows of the rope change: the generation increments and `CAPS_CHANGED` is raised (01 R50, R51). -/
def ropeCaps (s : State) : State :=
  let g := s.caps.generation + 1
  devEvent 2 0 0 (leBytes 4 g.toNat) { s with caps := { s.caps with generation := g, kept := capsKey s } }

/-- Takes a new ring: a neighbour that is lost stays lost while its serial is in the ring. -/
def setRing (pos : Nat) (ring : List Bytes) (s : State) : State :=
  let old := s.ports.serials
  if pos = s.ports.pos ∧ ring = old then s
  else
    let lost := s.ports.lostPeers.filterMap fun p => ring.idxOf? (old.getD p [])
    let t := ropeCaps (modPorts (fun x => { x with pos := pos, serials := ring, lostPeers := lost }) s)
    let t := ringChanged (reroute t)
    s.agents.sess.foldl (remirror old) t

def ropeSetBody (r : Req) (s : State) : State :=
  let n := fld r.payload 0 1
  let pos := fld r.payload 1 1
  let ring := ringOf r
  checked r.rid [(hasRef r || decide (n = 0 ∨ 16 < n) || decide (r.length < 8 + 16 * n) || decide (ring.getD pos [] ≠ s.sec.serial) || decide (ring.eraseDups.length ≠ ring.length),
      stInvalidField)]
    (fun t => complete r.rid stSuccess [] (setRing pos ring t)) s
def execAdminRopeSet (rid : Nat) (s : State) : Res := .next (serve 1 6 rid ropeSetBody s)

/-! ### PORT_QUERY and PORT_CTRL (13 R410, R411) -/

def phaseOf (k : Option TcKey) : Bool := match k with | some x => x.phase | none => false

def portReply (p : Nat) (s : State) : Bytes :=
  let q := portOf p s
  leBytes 1 p ++ leBytes 1 q.train ++ leBytes 1 q.role ++ leBytes 1 q.lanes ++ leBytes 1 s.ports.hops ++ leBytes 1 s.ports.exit
    ++ leBytes 1 (s.ports.upstream.getD 0xFF)
    ++ leBytes 1 (b2n s.ports.tc2.isSome + 2 * b2n q.tc3.isSome + 4 * b2n (phaseOf s.ports.tc2) + 8 * b2n (phaseOf q.tc3)) ++ padSp q.partner 16
    ++ ((List.range 8).flatMap fun v => leBytes 2 (q.advertised.getD v 0)) ++ leBytes 8 q.fecFixed ++ leBytes 4 q.fecLost ++ leBytes 4 q.replays
    ++ leBytes 4 q.integrity ++ leBytes 4 s.ports.routeDrops

def portQueryBody (r : Req) (s : State) : State :=
  checked r.rid [(hasRef r || decide (4 < fld r.payload 0 1), stInvalidField)] (fun t => complete r.rid stSuccess (portReply (fld r.payload 0 1) t) t) s
def execAdminPortQuery (rid : Nat) (s : State) : Res := .next (serve 1 7 rid portQueryBody s)

/-- The path that carries the request ends with the port, and there is no other. -/
def lastPath (p : Nat) (s : State) : Bool := decide (pathPort s = some p) && (pathPort (disablePort p s)).isNone

/-- The action of a `PORT_CTRL`, with the training that follows it: 0 enable, 1 disable, 2 retrain. An enabled port that meets no light
(`inTime` false) stays in `DETECT` (log 145). -/
def portAction (p a : Nat) (t : TrainReport) (s : State) : State :=
  match a with
  | 0 =>
    if (portOf p s).train = 0 then
      let u := modPort p (fun q => { q with train := 1 }) s
      if t.inTime then trainPort p t u else u
    else s
  | 1 => if (portOf p s).train = 0 then s else disablePort p s
  | _ =>
    if portUp p s then
      let u := retrainPort p t (startRetrain p s)
      if (portOf p u).train = 7 then portStops p 10 0 u else u
    else s

def portCtrlBody (t : TrainReport) (r : Req) (s : State) : State :=
  let p := fld r.payload 0 1
  let a := fld r.payload 1 1
  checked r.rid [(hasRef r || decide (4 < p) || decide (2 < a) || (decide (a = 1) && lastPath p s), stInvalidField)]
    (fun u => let v := portAction p a t u; complete r.rid stSuccess (leBytes 1 (portOf p v).train ++ zeros 7) v) s
def execAdminPortCtrl (rid : Nat) (t : TrainReport) (s : State) : Res := .next (serve 1 8 rid (portCtrlBody t) s)

/-! ### MIRROR_ADOPT (18 R537, R538) -/

/-- The committed mirror copies of a context of an origin module. -/
def copiesOf (pos c : Nat) (s : State) : List MirrorCopy := s.agents.mirrorStore.filter fun x => decide (x.originPos = pos ∧ x.originCtx = c) && x.acked

/-- The origin is lost, shows `SAFE`, or its serial has left the ring. -/
def originLost (pos c : Nat) (s : State) : Bool :=
  s.ports.lostPeers.contains pos
    || ([1, 2, 3, 4].any fun p => decide (neighbourPos p s = some pos) && (match (portOf p s).beat with | some (_, _, st) => decide (st = 3) | none => false))
    || (let l := copiesOf pos c s; !l.isEmpty && l.all fun x => !(s.ports.serials.contains x.originSerial))

/-- A session made from a mirrored snapshot: paused, its mirroring off. -/
def adoptedSess (x : MirrorCopy) (c m : Nat) (s : State) : Sess :=
  let y : Sess :=
    { ctx := c, model := m, lc := x.lc, ephemeral := false, mirror := 0, mirrorPos := 0, window := x.window, retrBlocks := x.retrBlocks, snapPeriod := x.snapPeriod
      state := .paused, phase := .none, chunkLeft := 0, shards := [], query := 0, selected := [], omitted := [], pauseReason := 3, mirrorState := 0, body := x.body
      gen := none, joinRid := none, restore := none, atBoundary := [], blocks := 0, since := 0, snaps := [], inProg := none, nextSnap := x.seq + 1, logged := []
      snapAt := clockNow domMgmt s, mirrored := 0, mirrorWait := none, sentBlks := [] }
  { y with snaps := [⟨x.seq, snapBytes y x.body s, x.body, shake256 (snapSerial x.sess x.seq y x.body s) 32, [], false, 0⟩] }

def adoptEntry (x : MirrorCopy) (new st : Nat) : Bytes :=
  leBytes 8 x.sess ++ leBytes 8 new ++ leBytes 4 x.seq ++ leBytes 1 st ++ zeros 3 ++ leBytes 8 (totalTok x.body)

/-- Adopts one copy: the entries so far, and the state. -/
def adoptOne (c m digest : Nat) (resume : Bool) (a : Bytes × State) (x : MirrorCopy) : Bytes × State :=
  if x.digest ≠ digest then (a.1 ++ adoptEntry x 0 3, a.2)
  else
    let s := a.2
    let id := newSessId c s
    let y := adoptedSess x c m s
    let resume := resume && !(poolless m s)
    let y := if resume then { y with phase := .joinResume, restore := y.snaps.head? } else y
    let t := modAgents (fun g => { g with
      nextSerial := g.nextSerial + 1, sess := tset g.sess id y, mirrorStore := g.mirrorStore.erase x
      kv := tmap g.kv fun b k => if x.body.sealed.contains b then { k with ctx := c, model := m } else k }) s
    let t := retagCopy (.snap x.key x.seq) (.snap id x.seq) t
    let t := (t.agents.mirrorStore.filter (sameSess x)).foldl (fun t y => dropMirror y t) t
    let t := if resume then modModel m (fun g => { g with joiners := g.joiners ++ [id] }) t else t
    (a.1 ++ adoptEntry x id (if resume then 2 else 1), t)

def mirrorAdoptBody (r : Req) (s : State) : State :=
  let pos := fld r.payload 0 1
  let oc := fld r.payload 1 1
  let c := fld r.payload 2 1
  let fl := fld r.payload 3 1
  let m := fld r.payload 4 4
  let f := refAt r.payload 8
  let l := copiesOf pos oc s
  checked r.rid [(hasRef r || decide (oc = 0 ∨ 63 < oc) || decide (1 < fl) || (!(refAbsent f) && !(refWrites f)) || !(originLost pos oc s)
        || (modelFor c m s).isNone, stInvalidField),
      (decide (c = 0) || !(slotAllocated c s) || decide (s.sec.sec ≠ .admitted), stAccessDenied),
      (decide (f.len < 32 * l.length), stNoSpace)]
    (fun t =>
      let dg := match modelOf m t with | some y => y.digest | none => 0
      let (out, u) := l.foldl (adoptOne c m dg (bit fl 0)) (([] : Bytes), t)
      let u := if bit fl 0 then quietBoundary m u else u
      let n := (l.filter fun x => decide (x.digest = dg)).length
      afterWrite r.rid (refWrite r f 0 out u) (complete r.rid stSuccess (leBytes 4 n ++ leBytes 4 (l.length - n) ++ zeros 8)) t) s
def execAdminMirrorAdopt (rid : Nat) (s : State) : Res := .next (serve 1 9 rid mirrorAdoptBody s)

end Sys2Proof.Machine
end

