-- ==== Sys2Proof/Machine/Cairns.lean ====
section
/-! DEFINITION. The CAIRN service (18 R547 to R549). -/
namespace Sys2Proof.Machine

def stNoCairn : Nat := 0x8000
def stCairnOpen : Nat := 0x8001

/-- A context's cairns that a requester reaches: its own, for context 0 those of any context (R549). -/
def cairnsOf (r : Req) (c : Nat) (s : State) : List Cairn :=
  if r.mbx = 0 ∨ r.mbx = c then s.ledger.cairns.filter fun k => decide (k.ctx = c) else []

/-- The cairn that a request names at the start of its payload. -/
def cairnNamed (r : Req) (s : State) : Option Cairn :=
  (cairnsOf r (fld r.payload 8 1) s).find? fun k => decide (k.id = fld r.payload 0 8)

/-- The reply of `QUERY` (R548). -/
def cairnReply (k : Cairn) : Bytes :=
  [ leBytes 8 k.id, leBytes 1 k.svc, leBytes 1 k.op, leBytes 2 k.tag, leBytes 1 k.ctx, leBytes 1 k.cstate, leBytes 2 k.outcome, leBytes 1 (b2n k.late + 2 * b2n k.replayed + 4 * b2n k.stopped), leBytes 1 k.cause,
    leBytes 2 k.replays, leBytes 4 k.commits, leBytes 8 k.units, leBytes 8 k.total, leBytes 8 k.acceptSeq, leBytes 2 k.lateStatus, leBytes 2 k.body.length, zeros 12, k.body ].flatten

def cairnQueryBody (r : Req) (s : State) : State :=
  match cairnNamed r s with
  | some k => checked r.rid [(hasRef r, stInvalidField)] (complete r.rid stSuccess (cairnReply k)) s
  | none => checked r.rid [(hasRef r, stInvalidField)] (fail r.rid stNoCairn) s
def execCairnQuery (rid : Nat) (s : State) : Res := .next (serve 15 1 rid cairnQueryBody s)

/-- Cairns that `LIST` names: of the state asked for, from the identifier given, ascending. -/
def cairnMatches (r : Req) (s : State) : List Nat :=
  let f := fld r.payload 9 1
  sortBy (fun a b => decide (a ≤ b))
    (((cairnsOf r (fld r.payload 8 1) s).filter fun k => decide (fld r.payload 0 8 ≤ k.id) && (decide (f = 0xFF) || decide (k.cstate = f))).map (·.id))

def cairnListBody (r : Req) (s : State) : State :=
  let l := cairnMatches r s
  checked r.rid [(hasRef r || decide (2 < fld r.payload 9 1 ∧ fld r.payload 9 1 ≠ 0xFF), stInvalidField)]
    (complete r.rid stSuccess (leBytes 2 (min l.length 59) ++ leBytes 1 (b2n (decide (59 < l.length))) ++ zeros 5 ++ (l.take 59).flatMap (leBytes 8))) s
def execCairnList (rid : Nat) (s : State) : Res := .next (serve 15 2 rid cairnListBody s)

/-- `RELEASE` removes a cairn that is interrupted, or settled and stopped (R549). -/
def cairnReleaseBody (r : Req) (s : State) : State :=
  match cairnNamed r s with
  | some k =>
    checked r.rid [(hasRef r, stInvalidField), (decide (k.cstate = 0) || (decide (k.cstate = 1) && !k.stopped), stCairnOpen)]
      (fun t => complete r.rid stSuccess []
        { t with ledger := { t.ledger with cairns := t.ledger.cairns.filter fun q => !(decide (q.ctx = k.ctx ∧ q.id = k.id)) } }) s
  | none => checked r.rid [(hasRef r, stInvalidField)] (fail r.rid stNoCairn) s
def execCairnRelease (rid : Nat) (s : State) : Res := .next (serve 15 3 rid cairnReleaseBody s)

end Sys2Proof.Machine
end

