-- ==== Sys2Proof/Machine/Monitors.lean ====
section
/-! DEFINITION. Monitors, error injection and the DEBUG service on memory and harts (19). -/
namespace Sys2Proof.Machine

def monCount : Nat := 96
def setMon (i : Nat) (m : Mon) (s : State) : State := { s with mon := { s.mon with mon := tset s.mon.mon i m } }

/-- The end of the open window of an instance, in cycles of its domain (R552). -/
def windowEnd (i : Nat) (s : State) : Nat := ((monGet i s).openIdx + 1) * 2 ^ (monGet i s).winLog2

/-- A window ends: in its closing cycle the open accumulators become those of the closed window. The window of a domain that is powered
down stays open (R552, R553). -/
def closeWindow (i : Nat) (s : State) : State :=
  if i < monCount ∧ clockPowered (monDomain i) s = true then
    let t := (if monDomain i = domMgmt then reachMgmt (windowEnd i s) s else clockTo (monDomain i) (windowEnd i s) s)
    setMon i (monAdvance (clockNow (monDomain i) t) (monGet i t)) t
  else s

def execWindowClose (i : Nat) (s : State) : Res := .next (closeWindow i s)

/-! ### The register block (R558, R559) -/

def monDesc (i : Nat) : Nat := monKind i + 2 ^ 8 * monDomain i + 2 ^ 16 * monSource i + 2 ^ 24 * b2n (decide (monKind i = 5))
def monCfg (m : Mon) : Nat := b2n m.en + 2 * m.mode + 2 ^ 8 * m.winLog2 + 2 ^ 16 * m.shift

/-- A value as the low `n` bytes of its two's complement. -/
def intBytes (n : Nat) (v : Int) : Bytes := leBytes n (v % (2 ^ (8 * n) : Nat)).toNat

/-- How a read is coarsened: not, for context 0, or for a tenant (15 R460). -/
inductive Coarse where
  | exact | admin | tenant
  deriving DecidableEq, Repr

def coarseOf (tenant : Bool) (s : State) : Coarse := if tenant then .tenant else if tenantAdmitted s then .admin else .exact

/-- A count as it reads: rounded down to a multiple of 4,096 when coarse. -/
def monCnt (c : Coarse) (n : Nat) : Nat := if c = .exact then n else n / 4096 * 4096

/-- `HIDDEN`: temperatures and voltages read as zeros for a tenant. -/
def monHidden (c : Coarse) (i : Nat) : Bool := decide (c = .tenant) && decide (5 ≤ monKind i)

/-- A sample value, or a sum of them, as it reads: whole µs of a latency, 1 °C, 10 mV. -/
def monVal (c : Coarse) (i : Nat) (s : State) (v : Int) : Int :=
  if c = .exact then v
  else
    let khz := match tget s.clocks (monDomain i) with | some k => k.nominal | none => 1
    match monKind i with
    | 1 => v * 1000 / (max khz 1 : Nat)
    | 5 => v / 16 * 16
    | 6 => v / 10 * 10
    | _ => v

/-- The bins that read: of a latency instance, when coarse, those of 1 µs (R557). -/
def monBins (c : Coarse) (i : Nat) (a : MonAcc) : Bytes :=
  let b := if c ≠ .exact ∧ monKind i = 1 then a.usBins else a.bins
  (List.range 32).flatMap fun k => leBytes 8 (if monHidden c i then 0 else monCnt c (tgetD b k 0))

/-- The 384 bytes of an instance block. -/
def monBlock (tenant : Bool) (i : Nat) (s : State) : Bytes :=
  let c := coarseOf tenant s
  let m := monAdvance (clockNow (monDomain i) s) (monGet i s)
  let a := m.closed
  let h := monHidden c i
  let num := fun (n : Nat) => leBytes 8 (if h then 0 else monCnt c n)
  let val := fun (k : Nat) (v : Int) => intBytes k (if h then 0 else monVal c i s v)
  leBytes 4 (monDesc i) ++ leBytes 4 (monCfg m) ++ leBytes 4 m.seq.toNat ++ leBytes 4 (b2n m.partial_ + 2 * b2n (decide (c ≠ .exact)) + 4 * b2n h)
    ++ leBytes 8 m.winStart ++ leBytes 8 m.winEnd ++ num a.count ++ val 8 a.sum ++ val 4 a.min ++ val 4 a.max ++ num m.acc.count
    ++ intBytes 4 m.linBase ++ leBytes 4 m.linWidth ++ zeros 56 ++ monBins c i a

/-! ### MON requests (R554, R560) -/

def monListBody (r : Req) (s : State) : State :=
  checked r.rid [(hasRef r, stInvalidField)]
    (fun t => complete r.rid stSuccess (leBytes 2 monCount ++ zeros 2 ++ (List.range monCount).flatMap fun i => leBytes 4 (monDesc i)) t) s
def execMonList (rid : Nat) (s : State) : Res := .next (serve 13 1 rid monListBody s)

def monReadBody (r : Req) (s : State) : State :=
  let i := fld r.payload 0 1
  checked r.rid [(hasRef r || decide (monCount ≤ i), stInvalidField)] (fun t => complete r.rid stSuccess (monBlock (decide (r.mbx ≠ 0)) i t) t) s
def execMonRead (rid : Nat) (s : State) : Res := .next (serve 13 2 rid monReadBody s)

/-- What `CONFIG` refuses (R556, R560). -/
def monCfgBad (p : Bytes) : Bool :=
  let i := fld p 0 1
  let c := fld p 4 4
  let mode := bits c 1 2
  let win := bits c 8 6
  decide (monCount ≤ i) || decide (fld p 1 3 ≠ 0) || decide (bits c 3 5 ≠ 0 ∨ bits c 14 2 ≠ 0 ∨ bits c 21 11 ≠ 0) || decide (win < 10 ∨ 40 < win)
    || decide (mode = 3) || (decide (mode = 2) != decide (monKind i = 2)) || decide (fld p 12 4 = 0 ∨ 2 ^ 31 < fld p 12 4)

/-- A configuration is applied: the open accumulators are discarded, and the window that holds this cycle is partial (R554). -/
def monConfigure (p : Bytes) (s : State) : State :=
  let i := fld p 0 1
  let c := fld p 4 4
  let base : Int := if monKind i = 5 ∧ 2 ^ 31 ≤ fld p 8 4 then (fld p 8 4 : Int) - 2 ^ 32 else (fld p 8 4 : Int)
  let now := clockNow (monDomain i) s
  let m := monAdvance now (monGet i s)
  setMon i { m with
    en := bit c 0, mode := bits c 1 2, winLog2 := bits c 8 6, shift := bits c 16 5, linBase := base, linWidth := fld p 12 4
    openPartial := true, openIdx := now / 2 ^ bits c 8 6, acc := MonAcc.empty } s

def monConfigBody (r : Req) (s : State) : State :=
  checked r.rid [(hasRef r || monCfgBad r.payload, stInvalidField)] (fun t => complete r.rid stSuccess [] (monConfigure r.payload t)) s
def execMonConfig (rid : Nat) (s : State) : Res := .next (serve 13 3 rid monConfigBody s)

/-! ### Injection (R561 to R566) -/

def modMons (f : Mons → Mons) (s : State) : State := { s with mon := f s.mon }

def injEnableBody (r : Req) (s : State) : State :=
  let v := fld r.payload 0 1
  checked r.rid [(hasRef r || decide (1 < v), stInvalidField), (decide (s.sec.sec = .admitted), stAccessDenied)]
    (fun t => complete r.rid stSuccess [] (modMons (fun m => { m with injEnabled := decide (v = 1) }) t)) s
def execMonInjEnable (rid : Nat) (s : State) : Res := .next (serve 13 4 rid injEnableBody s)

/-- Component identifiers (17 R496). -/
def isComponent (c : Nat) : Bool := decide (c ≤ 8) || decide (0x10 ≤ c ∧ c ≤ 0x13) || decide (c = 0x20)

/-- A word of the record regions or of the inactive image slot (R563; 17 R498). -/
def faInjectable (off : Nat) (s : State) : Bool :=
  let bank := off / 0x2000000
  decide (off < 0x4000000 ∧ off % 8 = 0) && (decide (384 ≤ off % 0x2000000 / 0x10000) || decide (bank ≠ s.fw.running))

/-- Target, parameter and value fit the injection point (R564). -/
def injGood (id target param value : Nat) (s : State) : Bool :=
  match id with
  | 0x01 => isDram target && decide (param ≤ 1)
  | 0x02 => decide (256 ≤ target) && isEccCtl target && decide (param ≤ 1)
  | 0x03 => decide (target < 32) && decide (param ≤ 4088)
  | 0x04 => (physOfTarget target).isSome && decide (param = 0)
  | 0x05 => (physOfTarget target).isSome && decide (param < 16)
  | 0x06 => decide (target < 5) && decide (bits param 0 8 < 4 ∧ 1 ≤ bits param 8 8 ∧ bits param 8 8 ≤ 64 ∧ 1 ≤ bits param 16 4 ∧ bits param 16 4 ≤ 8 ∧ bits param 20 12 = 0)
  | 0x07 => decide (target < 5) && decide (1 ≤ param ∧ param ≤ 8)
  | 0x08 => decide (target < 5) && decide (bits param 2 2 = 0 ∧ 1 ≤ bits param 4 4 ∧ bits param 4 4 ≤ 8 ∧ bits param 8 24 = 0)
  | 0x09 => decide (target < 32 ∧ param = 0)
  | 0x0A => decide (target < 64 ∧ param < 65536)
  | 0x0B => decide (target = 0 ∧ param = 0)
  | 0x0C => isComponent target && decide (param = 0)
  | 0x0D => decide (5 ≤ param ∧ param ≤ 8) && s.fw.standbyOk
  | 0x0E => decide (bits param 17 15 = 0) && (crossingDepth (bits param 0 8) (bits param 8 8)).isSome
      && decide (target < crossingFifos (bits param 0 8) (bits param 8 8))
  | 0x0F => decide (target < 32 ∧ param = 0)
  | 0x10 => decide (1 ≤ param ∧ param ≤ 7) && faInjectable value s
  | 0x11 => decide (78 ≤ target ∧ target ≤ 95 ∧ 1 ≤ param ∧ param ≤ 60000)
  | _ => false

/-- Bytes of mask data that an injection point takes: the mask words of its controller (R562; 09 R294). -/
def injData (id : Nat) : Nat := match id with | 1 => 80 | 2 => 12 | 3 => 16 | _ => 0

/-- Points that may lead to a retirement. -/
def injPermanent (id : Nat) : Bool := decide (id = 1 ∨ id = 2 ∨ id = 4 ∨ id = 5)

def firedEvent (id handle : Nat) (s : State) : State := devEvent 0x25 0 0 (leBytes 1 id ++ zeros 3 ++ leBytes 4 handle) s

/-- The reported value of a sensor override, in the instance's units. -/
def overrideValue (value : Nat) : Int := if 2 ^ 63 ≤ value then (value : Int) - 2 ^ 64 else (value : Int)

def injectBody (r : Req) (s : State) : State :=
  let p := r.payload
  let id := fld p 0 1
  let flags := fld p 1 1
  let target := fld p 2 2
  let param := fld p 4 4
  let value := fld p 8 8
  let h := s.mon.nextHandle
  checked r.rid [(hasRef r || !(injGood id target param value s) || decide (2 ≤ flags) || decide (r.length ≠ 16 + injData id), stInvalidField),
      (!(injectAvail 0 s), stAccessDenied), (s.mon.armed.any fun j => decide (j.id = id ∧ j.target = target), 0x8000),
      (injPermanent id && !(bit flags 0), 0x8001)]
    (fun t =>
      let t := modMons (fun m => { m with nextHandle := (m.nextHandle + 1) % 2 ^ 32 }) t
      let t := if id = 0x11 then firedEvent id h (modMons (fun m => { m with override := tset m.override target (overrideValue value, clockNow domAon t + param * 100000) }) t)
        else modMons (fun m => { m with armed := m.armed ++ [⟨h, id, target, param, value, sub p 16 (injData id), bit flags 0⟩] }) t
      complete r.rid stSuccess (leBytes 4 h ++ zeros 4) t) s
def execMonInject (rid : Nat) (s : State) : Res := .next (serve 13 5 rid injectBody s)

/-- `INJ_CLEAR` disarms every injection and ends every override (R562, R566) (log 195). -/
def injClearBody (r : Req) (s : State) : State :=
  checked r.rid [(hasRef r, stInvalidField)]
    (fun t => complete r.rid stSuccess (leBytes 4 t.mon.armed.length ++ zeros 4) (modMons (fun m => { m with armed := [], override := [] }) t)) s
def execMonInjClear (rid : Nat) (s : State) : Res := .next (serve 13 6 rid injClearBody s)

/-- A sensor override reaches the end of its duration (R566). -/
def endOverride (i : Nat) (s : State) : State :=
  match tget s.mon.override i with
  | some o => modMons (fun m => { m with override := tdel m.override i }) (clockTo domAon o.2 s)
  | none => s

def execSensorOverrideExpiry (i : Nat) (s : State) : Res := .next (endOverride i s)

/-- Overrides whose duration has passed. -/
def overridesDue (s : State) : State :=
  (s.mon.override.filter fun e => decide (e.2.2 ≤ clockNow domAon s)).foldl (fun t e => endOverride e.1 t) s

/-- A sensor is sampled: the instance records what is reported (R551, R566). -/
def sampleSensor (i : Nat) (v : Int) (s : State) : State :=
  if 78 ≤ i ∧ i ≤ 95 ∧ clockPowered domAon s = true then
    let t := modPwr (fun p => { p with sensors := tset p.sensors i v }) s
    monSample i (reported i t) 0 t
  else s

def execSensorSample (i : Nat) (v : Int) (s : State) : Res := .next (sampleSensor i v s)

/-! ### DEBUG on memory and harts (R568) -/

/-- The service answers in Open, and in Unlocked with scope bit 1 (R567). -/
def debugDenied (s : State) : Bool := !(decide (s.sec.dbg = .open) || (decide (s.sec.dbg = .unlocked) && bit s.sec.scope 1))

/-- The page at a device physical address: T1 frames from 0 up, T2 frames after them; the offset in its copy (log 117). -/
def physPage (a : Nat) (s : State) : Option (Nat × Page × Nat) :=
  let t2 := 8 * t1PerStack * pageBytes
  if a < t2 then (s.mem.pages.find? fun e => decide (e.2.t1 = some (a / pageBytes))).map fun e => (e.1, e.2, a % pageBytes)
  else (s.mem.pages.find? fun e => inT2 e.2 ((a - t2) / 4096)).map fun e => (e.1, e.2, a - t2 - 4096 * e.2.t2.getD 0)

/-- The copy at an address is a compressed one in T2 (08 R271). -/
def compressedAt (a : Nat) (p : Page) : Bool := decide (8 * t1PerStack * pageBytes ≤ a) && decide (p.stored ≠ pageBytes)

/-- A byte read through encryption: 0 where nothing lies or the owner's key slot is empty. -/
def physByte (s : State) (a : Nat) : Byte :=
  match physPage a s with
  | some (_, p, off) =>
    if s.mem.keySlots.contains p.ctx then (if compressedAt a p then (t2Image p.data).getD off 0 else Memory.read 0 p.data off) else 0
  | none => 0

/-- The bytes of a compressed copy with some overwritten, as raw data. -/
def writeImage (p : Page) (off : Nat) (bs : Bytes) (ctr : Nat) : Memory :=
  let img := t2Image p.data
  Memory.writeN 0 p.data 0 (t2Raw 32 (img.take off ++ bs ++ img.drop (off + bs.length)) ctr)

/-- The lines that a write at a device physical address covers hold good data again (09 R284). -/
def healPhys (a n : Nat) (s : State) : State :=
  let t2 := 8 * t1PerStack * pageBytes
  if a < t2 then healLines (t1Line (a / pageBytes)).1 ((t1Line (a / pageBytes)).2 + a % pageBytes) n s
  else healLines (t2Line ((a - t2) / 4096)).1 ((t2Line ((a - t2) / 4096)).2 + (a - t2) % 4096) n s

/-- Bytes written through encryption, those of a compressed copy together; one whose key slot is empty is ignored. -/
def physBytes (fuel : Nat) (bs : Bytes) (a : Nat) (s : State) : State :=
  match fuel, bs with
  | 0, _ => s
  | _, [] => s
  | n + 1, b :: r =>
    match physPage a s with
    | some (i, p, off) =>
      if s.mem.keySlots.contains p.ctx then
        if compressedAt a p then
          let k := min bs.length (p.stored - off)
          physBytes n (bs.drop k) (a + k) (bumpFreeBy (32 * 65536) (modPage i (fun q => { q with data := writeImage p off (bs.take k) s.freeCtr }) s))
        else physBytes n r (a + 1) (modPage i (fun q => { q with data := Memory.write 0 q.data off b }) s)
      else physBytes n r (a + 1) s
    | none => physBytes n r (a + 1) s

def physWrite (fuel : Nat) (bs : Bytes) (a : Nat) (s : State) : State := healPhys a bs.length (physBytes fuel bs a s)

def debugLenBad (r : Req) : Bool := decide (fld r.payload 8 4 = 0 ∨ 448 < fld r.payload 8 4)

def debugReadBody (r : Req) (s : State) : State :=
  checked r.rid [(hasRef r || debugLenBad r, stInvalidField), (debugDenied s, stAccessDenied)]
    (fun t => complete r.rid stSuccess ((rangeFrom (fld r.payload 0 8) (fld r.payload 8 4)).map fun a => physByte t a) t) s
def execDebugMemRead (rid : Nat) (s : State) : Res := .next (serve 14 1 rid debugReadBody s)

def debugWriteBody (r : Req) (s : State) : State :=
  checked r.rid [(hasRef r || debugLenBad r, stInvalidField), (debugDenied s, stAccessDenied)]
    (fun t => complete r.rid stSuccess [] (physWrite (fld r.payload 8 4) (sub r.payload 16 (fld r.payload 8 4)) (fld r.payload 0 8) t)) s
def execDebugMemWrite (rid : Nat) (s : State) : Res := .next (serve 14 2 rid debugWriteBody s)

/-- Physical hart of a logical one (01 R49). -/
def hartNamed (r : Req) (s : State) : Option Nat :=
  let h := fld r.payload 0 2
  (s.caps.coreMap[h / 8]?).map fun c => 8 * c + h % 8

/-- Requests on a hart; an instruction is one action, so a hart always stands at a boundary (log 46). -/
def debugHart (f : Nat → Req → State → State) (r : Req) (s : State) : State :=
  checked r.rid [(hasRef r || (hartNamed r s).isNone, stInvalidField), (debugDenied s, stAccessDenied)] (f ((hartNamed r s).getD 0) r) s

def haltBody (v : Bool) (h : Nat) (r : Req) (s : State) : State := complete r.rid stSuccess [] (modHart h (fun x => { x with halted := v }) s)
def execDebugHartHalt (rid : Nat) (s : State) : Res := .next (serve 14 3 rid (debugHart (haltBody true)) s)
def execDebugHartResume (rid : Nat) (s : State) : Res := .next (serve 14 4 rid (debugHart (haltBody false)) s)

def hartStateBody (h : Nat) (r : Req) (s : State) : State :=
  let x := hartOf h s
  checked r.rid [(!x.halted, stInvalidField)]
    (fun t => complete r.rid stSuccess (leBytes 8 x.pc.toNat ++ (rangeFrom 1 31).flatMap fun n => leBytes 8 (tgetD x.x n 0).toNat) t) s
def execDebugHartState (rid : Nat) (s : State) : Res := .next (serve 14 5 rid (debugHart hartStateBody) s)

end Sys2Proof.Machine
end

