-- ==== Sys2Proof/Machine/Inject.lean ====
section
/-! DEFINITION. The firing of an armed injection (19 R562, R564, R565). -/
namespace Sys2Proof.Machine

/-- Symbols of a codeword that the mask words of an injection corrupt. -/
def injSymbols (k : Nat) (data : Bytes) : Nat := maskSymbols k ((List.range (data.length / 4)).map fun i => (i, BitVec.ofNat 32 (fld data (4 * i) 4)))

/-- The device-originated request that a forced refusal meets: the last one issued (R564). -/
def lastRemote (s : State) : Option Remote := (s.ports.remote.filter fun q => decide (q.stage = .out)).getLast?

/-- What the firing itself does: a mask goes into the stored codeword, a forced timeout settles its request as at its expiry, a request to
the control node is treated as refused, a component restarts, the standby takes over, a read of the array needs retries. Every other fault comes by
the command of its detector (R564, R565; log 116). -/
def injEffect (j : Injection) (s : State) : State :=
  match j.id with
  | 0x01 | 0x02 =>
    let a := if bit j.param 0 then j.value else Config.freeNat s.freeCtr
    let t := if bit j.param 0 then s else bumpFree s
    modEcc j.target (fun b => { b with errs := aset 0 b.errs (eccUnit j.target a) (injSymbols j.target j.data) }) t
  | 0x0A =>
    match s.ledger.reqs.find? fun r => decide (r.mbx = j.target ∧ r.tag = j.param) && outstanding r with
    | some r => modMbx r.mbx (fun m => { m with timeoutCnt := BitVec.ofNat 16 (satInc 0xFFFF m.timeoutCnt.toNat) }) (settleStop r stTimeout s)
    | none => s
  | 0x0B => (match lastRemote s with | some q => timeoutRemote q.ptag s | none => s)
  | 0x0C => restartComponent j.target 3 [] s
  | 0x0D => belayTakeover 0 true s
  | 0x10 => faRead j.value (j.param + 1) s
  | _ => s

/-- The event of an injection can come: a request to the control node is out, the component runs, a standby stands by, the array is read. -/
def injQualifies (j : Injection) (s : State) : Bool :=
  match j.id with
  | 0x0B => (lastRemote s).isSome
  | 0x0C => compUp j.target s && runtimeRuns s.host.ifState
  | 0x0D => s.fw.standbyOk && runtimeRuns s.host.ifState
  | 0x10 => faRuns s
  | _ => true

/-- A forced timeout that finds no outstanding request, or one whose completion is handed over, fires on nothing (R565). -/
def injMisses (j : Injection) (s : State) : Bool :=
  decide (j.id = 0x0A) && !(s.ledger.reqs.any fun r => decide (r.mbx = j.target ∧ r.tag = j.param) && outstanding r && r.done.isNone)

/-- An armed injection meets its qualifying event and is disarmed. -/
def fireInjection (h : Nat) (s : State) : State :=
  match s.mon.armed.find? fun j => decide (j.handle = h) with
  | none => s
  | some j =>
    let t := modMons (fun m => { m with armed := m.armed.filter fun q => decide (q.handle ≠ h) }) s
    if injQualifies j s = false then s else if injMisses j s then t else firedEvent j.id h (injEffect j t)

def execInjectFired (handle : Nat) (s : State) : Res := .next (fireInjection handle s)

end Sys2Proof.Machine
end

