-- ==== Sys2Proof/Machine/Placement.lean ====
section
/-! DEFINITION. `MEMORY.PLACE`: a new placement of sealed pages, with the flash reads that it makes (08 R256, R276, R279, R280). -/
namespace Sys2Proof.Machine

/-- Pages that a new placement brings into T1, the bytes that it brings into T2, into flash. -/
def placeT1 (fl : Nat) (o : Obj) (s : State) : Nat :=
  if aWarm fl || aCold fl then 0 else pageBytes * (o.pages.eraseDups.filter fun p => match pageGet p s with | some q => q.t1.isNone | none => false).length
def placeT2 (fl : Nat) (o : Obj) (s : State) : Nat :=
  if aWarm fl then sumN (o.pages.eraseDups.map fun p => match pageGet p s with | some q => if q.t2.isNone then q.stored else 0 | none => 0) else 0
def placeFlash (fl : Nat) (o : Obj) (s : State) : Nat :=
  if aWarm fl || aCold fl then sumN (o.pages.eraseDups.map fun p => match pageGet p s with | some q => if q.flash = 0 then q.packed else 0 | none => 0) else 0

/-- `PLACE`: the new placement of the shared pages, then the reply when the moves are made (R256, R279). -/
def placeBody (h : Nat) (r : Req) (o : Obj) (s : State) : State :=
  let fl := fld r.payload 8 2
  let lost := decide ((sealList o s).length < o.pages.length)
  let ps := ((sealList o s).map (·.1)).eraseDups
  let share := (s.mem.objs.filter fun e => e.2.pages.any o.pages.contains).map (·.1)
  let t := share.foldl (fun t k => modObj k (fun x => { x with aflags := x.aflags / 16 * 16 + fl }) t) s
  let t := ps.foldl (fun t p => applyPlace fl p t) t
  let t := commit r.rid ps.length (some (leBytes 8 h)) t
  match findReq r.rid t with
  | none => t
  | some q =>
    if lost then fail r.rid stDataLost t
    else if sealReady q t then complete r.rid stSuccess [] t else setRunning r.rid t

/-- Reads of the flash copies of pages that a placement brings into DRAM, each with the step at which it ended (R276; 10 R317; log 251). -/
def placeReads (fl : Nat) (o : Obj) (l : List (Nat × Nat)) (s : State) : State :=
  if aCold fl then s
  else l.foldl (fun t e =>
    match tget t.ftl.media e.1 with
    | none => t
    | some p =>
      match p.item with
      | .page pid _ => if o.pages.contains pid && (match pageGet pid t with | some q => q.t1.isNone && q.t2.isNone | none => false) then readSlot e.1 e.2 t else t
      | _ => t) s

/-- `PLACE`: within the quotas for what it adds (R280, R571). -/
def execMemoryPlace (rid : Nat) (reads : List (Nat × Nat)) (s : State) : Res :=
  .next (serve 5 5 rid (fun r t =>
    onObj r [(decide (16 ≤ fld r.payload 8 2) || manyPlaces (fld r.payload 8 2), stInvalidField)]
      (fun o => [(!(objSealed o t), stNotSealed),
        ((decide (placeT1 (fld r.payload 8 2) o t ≠ 0) && !(t1Fits r.mbx (placeT1 (fld r.payload 8 2) o t) t))
          || !(quotaFits r.mbx (placeT2 (fld r.payload 8 2) o t) (placeFlash (fld r.payload 8 2) o t) t), stNoSpace)])
      (fun h o u => placeBody h r o (placeReads (fld r.payload 8 2) o reads u)) t) s)

end Sys2Proof.Machine
end

