-- ==== Sys2Proof/Machine/RegMap.lean ====
section
/-! DEFINITION. What registers read (00 R15 to R18): the map of each register block as a function of the offset, with the width
and the value of the register that lies there, and none at an unassigned offset. Reserved bits read 0. The control window has its own
map (Registers). -/
namespace Sys2Proof.Machine

/-- A register as it reads: 64 bits wide or not, and its value. -/
abbrev Reg := Option (Bool × Nat)

def r32 (v : Nat) : Reg := some (false, v % 2 ^ 32)
def r64 (v : Nat) : Reg := some (true, v % 2 ^ 64)

/-- Whether `off` is entry `i` of an array at `base`, and what that entry is. -/
def inArray (base stride n off : Nat) (f : Nat → Reg) : Reg :=
  if base ≤ off ∧ (off - base) % stride = 0 ∧ (off - base) / stride < n then f ((off - base) / stride) else none

/-- An access to a map: of 32-bit registers 4 bytes, of 64-bit registers 8 bytes or one half; none where no register takes it (02 R54;
05 R166). -/
def regAt (f : Nat → Reg) (off size : Nat) : Option Nat :=
  match size with
  | 8 => match f off with | some (true, v) => some v | _ => none
  | 4 => match f off with
    | some (_, v) => some (v % 2 ^ 32)
    | none => if off % 8 = 4 then (match f (off - 4) with | some (true, v) => some (v / 2 ^ 32) | _ => none) else none
  | _ => none

/-! ### Engines (03 R121; 05 R185) -/

/-- The register block of an engine; `SR_STATE` is firmware's. -/
def engReg (e : Nat) (fw : Bool) (s : State) (off : Nat) : Reg :=
  let g := engOf e s
  match off with
  | 0x000 => r32 (engId e s)
  | 0x004 => r32 (b2n g.sav.run)
  | 0x008 => r32 (engStat e s)
  | 0x00C => r32 g.fault.toNat
  | 0x010 => r32 g.sav.head.toNat
  | 0x014 => r32 g.sav.tail.toNat
  | 0x018 => r32 g.faultIdx.toNat
  | 0x040 => r32 0
  | 0x048 => r64 (if fw then g.sav.sr.toNat else 0)
  | _ => inArray 0x020 4 8 off fun k => r32 (syncCnt g.sav k).toNat

/-- A descriptor ring: `BASE`, `CFG`, `HEAD`, `TAIL`, and the fault register that only a DMA block has. -/
def ringReg (r : Ring) (dma : Bool) (off : Nat) : Reg :=
  match off with
  | 0x00 => r64 r.base.toNat
  | 0x08 => r32 r.cfg.toNat
  | 0x0C => r32 r.head.toNat
  | 0x10 => r32 r.tail.toNat
  | 0x14 => if dma then r32 r.fault.toNat else none
  | _ => none

/-! ### The pages of a context (04 R152; 05 R184; 06 R212) -/

def tdReg (c : Nat) (k : Slot) (s : State) (off : Nat) : Reg :=
  match off with
  | 0x000 => r64 k.stackBase.toNat
  | 0x008 => r32 k.stackLog2
  | 0x010 => r64 k.gp.toNat
  | 0x018 => r32 (inFlight c s)
  | 0x01C => r32 k.act.tdQuota
  | 0x020 => r32 k.tdFaults.toNat
  | _ => inArray 0x200 8 80 off fun e => r64 (sigDescOf k e s)

/-- `CTX_INFO`. -/
def ctxInfo (c : Nat) (k : Slot) : Nat :=
  c + 2 ^ 6 * b2n k.act.lc + 2 ^ 7 * b2n k.act.save + 2 ^ 8 * b2n k.act.steal + 2 ^ 9 * b2n k.donated

/-- Logical numbers of units, as a mask. -/
def logicalMask (m l : List Nat) : Nat := bitsMask (l.filterMap (logicalOf m))

/-- The semaphore page as a hart sees it. -/
def semReg (c h : Nat) (k : Slot) (s : State) (off : Nat) : Reg :=
  match off with
  | 0x000 => r64 0
  | 0x008 => r64 (tgetD s.ctxs.semResult (2048 * c + logicalHart h s) 0).toNat
  | 0x800 => r32 (ctxInfo c k)
  | 0x838 => r32 k.homeGen.toNat
  | _ =>
    match inArray 0x808 8 2 off fun i => r64 (logicalMask s.caps.engMap k.homeE / 2 ^ (64 * i)) with
    | some x => some x
    | none => inArray 0x818 8 4 off fun i => r64 (logicalMask s.caps.coreMap k.homeC / 2 ^ (64 * i))

/-- A stream table entry. -/
def sqReg (c : Nat) (s : State) (off : Nat) : Reg :=
  if 0x1000 ≤ off then none
  else
    let q := tgetD s.eng.sq (256 * c + off / 16) Sq.init
    match off % 16 with
    | 0 => r32 q.cfg.toNat
    | 4 => r32 q.total
    | 8 => r32 q.sat
    | 12 => r32 (q.windows.toNat + 2 ^ 16 * q.events + 2 ^ 24 * b2n q.fired)
    | _ => none

/-! ### Firmware's blocks (08 R270; 09 R294; 17 R500; 16 R492) -/

def migReg (s : State) (off : Nat) : Reg :=
  match off with
  | 0x000 => r32 s.mem.migCtrl.toNat
  | 0x004 => r32 s.mem.migEpoch.toNat
  | 0x008 => r32 s.mem.migStat.toNat
  | 0x00C => r32 s.mem.migFail.toNat
  | _ => inArray 0x100 4 64 off fun c => r32 (tgetD s.mem.migCfg c 0x00042001).toNat

/-- Channels or macros of a controller; how many macros an SRAM has is not given (09 R289; log 221). -/
def eccChannels (k : Nat) : Nat := if k < 8 then 16 else if k < 32 then 4 else Config.sramMacros k

/-- An ECC block. -/
def eccReg (k : Nat) (s : State) (off : Nat) : Reg :=
  let b := eccOf k s
  match off with
  | 0x000 => r32 b.ctrl.toNat
  | 0x004 => r32 b.ceCnt.toNat
  | 0x008 => r32 b.ueCnt.toNat
  | 0x010 => r64 b.ceLast.toNat
  | 0x018 => r32 b.passes.toNat
  | 0x01C => r32 (sumN ((List.range (eccChannels k)).map fun c => (remapFree k c b).length) % 1024)
  | 0x030 => r32 b.flipCtrl.toNat
  | 0x038 => r64 b.flipAddr.toNat
  | _ =>
    match inArray 0x040 4 (if isDram k then 20 else 3) off fun i => r32 (aget (0 : U32) b.flipMask i).toNat with
    | some x => some x
    | none =>
      match inArray 0x200 8 (if isDram k then 64 else 16) off fun t => r64 (match b.track[t]? with | some e => e.count + eccUnit k e.addr | none => 0) with
      | some x => some x
      | none => inArray 0x1000 8 (remapPer k * eccChannels k) off fun e => r64 (match tget b.remap e with | some a => 1 + eccUnit k a | none => 0)

/-- The flip registers of a flash channel controller. -/
def flashEccReg (ch : Nat) (s : State) (off : Nat) : Reg :=
  if off = 0x030 then r32 (tgetD s.ecc.flashCtrl ch 0).toNat else inArray 0x040 4 4 off fun i => r32 (aget (0 : U32) s.ecc.flashMask (4 * ch + i)).toNat

/-- The register block of the firmware array. -/
def faReg (a : FaArray) (off : Nat) : Reg :=
  match off with
  | 0x000 | 0x004 | 0x008 => r32 0
  | 0x00C => r32 a.addr.toNat
  | 0x010 => r64 a.data.toNat
  | 0x018 => r32 (faStatusReg a)
  | 0x01C => r32 (faRetryReg a)
  | _ => inArray 0x100 4 32 off fun k => r32 (bitsMask ((List.range 32).filter fun b => a.eopen.contains (512 * (k / 16) + 32 * (k % 16) + b)))

/-- A signed value as a 16-bit register. -/
def r16i (v : Int) : Nat := (v % 65536).toNat

/-- The SMBus registers: 16 bits each, the serial a block of 16 bytes; frozen during a scrub (R492, R493; 15 R459). -/
def smbusReg (s : State) (off : Nat) : Option Nat :=
  let t := telemetry s
  match off with
  | 0x00 => some 0x1A7D
  | 0x01 => some 0x0940
  | 0x02 => some (leNat s.sec.serial)
  | 0x03 => some (cwState s % 2 ^ 16)
  | 0x04 => some s.pwr.alertStat.toNat
  | 0x05 => some s.pwr.alertMask.toNat
  | 0x10 => some (t.feedAV % 65536)
  | 0x11 => some (t.feedBV % 65536)
  | 0x12 => some (t.feedAI % 65536)
  | 0x13 => some (t.feedBI % 65536)
  | 0x14 => some (t.power % 65536)
  | 0x15 => some (t.cap % 65536)
  | 0x18 => some (r16i t.tJmax)
  | 0x19 => some (r16i t.tInlet)
  | 0x1A => some (r16i t.tOutlet)
  | 0x1B => some (r16i t.tNand)
  | 0x1C => some (r16i t.tBank)
  | 0x20 => some (t.bankV % 65536)
  | 0x21 => some (t.bankU % 65536)
  | 0x22 => some (t.throttle % 65536)
  | _ => none

/-! ### Registers of a hart (05 R158 to R160; 01 R43, R44) -/

/-- `satp`: Sv48, the root of the tables of the context that the hart serves; 0 while translation is off (log 214). -/
def satpOf (v : Hart) : Nat := match v.satp with | some c => 9 * 2 ^ 60 + (Config.tableRoot c).toNat | none => 0

/-- The `time` CSR: the CORE counter of the hart's own die, coarsened as for the context that it serves (01 R43, R44). -/
def timeCsr (h : Nat) (s : State) : Nat :=
  match (hartOf h s).task.bind (tget s.task.pool) with
  | some k => counterSeen k.ctx (domCore (dieOfHart h)) s
  | none => clockNow (domCore (dieOfHart h)) s

/-- Eight configuration bytes of the PMP entries from one on. -/
def pmpCfg (v : Hart) (i : Nat) : Nat := leNat ((rangeFrom i 8).map fun j => (tgetD v.pmp j (0, 0)).1)

/-- A register of a hart by its number in the RISC-V debug specification: CSRs from 0, x0 to x31 from 0x1000, f0 to f31 from 0x1020, of
the CSRs those that State holds (log 214). -/
def hartReg (h n : Nat) (s : State) : Option Nat :=
  let v := hartOf h s
  match n with
  | 0x001 => some (v.fcsr.toNat % 32)
  | 0x002 => some (v.fcsr.toNat / 32 % 8)
  | 0x003 => some (v.fcsr.toNat % 256)
  | 0x008 => some v.vstart.toNat
  | 0x00F => some v.vcsr.toNat
  | 0x180 => some (satpOf v)
  | 0x3A0 => some (pmpCfg v 0)
  | 0x3A2 => some (pmpCfg v 8)
  | 0x7B0 => some (0x40000000 + v.priv.code)
  | 0x7B1 => some v.pc.toNat
  | 0xB00 | 0xC00 => some v.cycle.toNat
  | 0xB02 | 0xC02 => some v.instret.toNat
  | 0xC01 => some (timeCsr h s)
  | 0xC20 => some v.vl.toNat
  | 0xC21 => some v.vtype.toNat
  | 0xC22 => some 64
  | 0xF14 => some h
  | _ =>
    if 0x3B0 ≤ n ∧ n < 0x3C0 then some (tgetD v.pmp (n - 0x3B0) (0, 0)).2.toNat
    else if 0x1000 ≤ n ∧ n < 0x1020 then some (xreg v (n - 0x1000)).toNat
    else if 0x1020 ≤ n ∧ n < 0x1040 then some (aget (0 : U64) v.f (n - 0x1020)).toNat
    else none

end Sys2Proof.Machine
end

