-- ==== Sys2Proof/Machine/Registers.lean ====
section
/-! DEFINITION. Register accesses (00 R15, R17; 02 R54, R56): writes to registers by their access codes, accesses from the
control node over Qorgal (13 R393), the end of a scrub (15 R457), hub registers by DEBUG and JTAG (19 R567, R568). -/
namespace Sys2Proof.Machine

/-- The state that a meaning answers, where a register write is another spelling of a command. -/
def after (r : Res) (s : State) : State :=
  match r with
  | .next t => t
  | .fault _ => s
  | .refused _ => s

/-- How an access lies on a 64-bit register: whole or one half; no other access counts (R54). -/
def halfAt (reg off size : Nat) : Option Half :=
  if off = reg ∧ size = 8 then some .full
  else if off = reg ∧ size = 4 then some .low
  else if off = reg + 4 ∧ size = 4 then some .high
  else none

/-- A write to a 64-bit register with what it stores. -/
def write64 (reg off size : Nat) (v : U64) (old : U64) : Option U64 :=
  (halfAt reg off size).map fun h => BitVec.ofNat 64 (setHalf h old.toNat v.toNat)

def low32 (v : U64) : U32 := BitVec.ofNat 32 v.toNat

/-- Index of an offset in an array of registers. -/
def regIdx (base stride n off : Nat) : Option Nat :=
  if base ≤ off ∧ (off - base) % stride = 0 ∧ (off - base) / stride < n then some ((off - base) / stride) else none

/-! ### Engines and their DMA channels (R121, R185) -/

/-- `ENG_CTRL`: a `CLR` that takes effect acts alone, and only firmware's counts; else `SKIP` acts first, then `RUN` (R121). -/
def ctrlWrite (e : Nat) (fw : Bool) (v : U32) (s : State) : State :=
  if bit v.toNat 2 && fw && decide ((engOf e s).st = .stopped) then after (execClr e s) s
  else
    let t := if bit v.toNat 1 then after (execSkip e s) s else s
    if bit v.toNat 0 then after (execRun e t) t else after (execStopRequest e t) t

/-- Registers of an engine that take writes. -/
def engWrite (e off size : Nat) (fw : Bool) (v : U64) (s : State) : State :=
  if engOn e s = false then s
  else match write64 0x048 off size v (engOf e s).sav.sr with
  | some x => if fw then modSav e (fun g => { g with sr := x }) s else s
  | none =>
    if size ≠ 4 then s
    else if off = 0x004 then ctrlWrite e fw (low32 v) s
    else if off = 0x00C then after (execEngFaultClear e (low32 v) s) s
    else if off = 0x014 then after (execSeqTailWrite e (low32 v) s) s
    else if off = 0x040 then after (execSyncInc e (low32 v) s) s
    else match regIdx 0x020 4 8 off with
      | some k => after (execSyncCntWrite e k (low32 v) s) s
      | none => s

/-- Registers of a descriptor ring: base and configuration; bits 11:0 of the base, required to be 0, are stored as written (R185, R188)
(log 130) (log 222). -/
def ringWrite (off size : Nat) (v : U64) (r : Ring) : Option Ring :=
  match write64 0x00 off size v r.base with
  | some x => some { r with base := x }
  | none => if off = 0x08 ∧ size = 4 then some { r with cfg := low32 v &&& 0x8000000F } else none

/-- Uncached writes to the local memory of an engine: 1, 2, 4 or 8 bytes, naturally aligned, in the order of the commands, so that ring
entries precede the `SEQ_TAIL` that follows them (03 R110; 05 R166). -/
def engMemWrite (e off size : Nat) (v : U64) (s : State) : State :=
  if engOn e s && decide (off % size = 0 ∧ off + size ≤ 0x200000) then
    modSav e (fun g => { g with mem := Memory.writeN 0 g.mem off (leBytes size v.toNat) }) s
  else s

def dmaWrite (e off size : Nat) (v : U64) (s : State) : State :=
  if engOn e s = false then s
  else match ringWrite off size v (engOf e s).dma with
  | some r => modDma e (fun _ => r) s
  | none =>
    if off = 0x10 ∧ size = 4 then after (execDmaTailWrite e (low32 v) s) s
    else if off = 0x14 ∧ size = 4 then modDma e (fun r => { r with fault := r.fault &&& ~~~(low32 v) }) s
    else s

/-! ### The context window (05 R165; R184, R188, 06 R212, 04 R152) -/

/-- The tasklet control page. `SIG_DESC[e]` takes writes for a logical engine that is a home of the context (R184) (log 132); bits 11:0 of
`TD_STACK_BASE`, required to be 0, are stored as written (log 222). -/
def tdWrite (c off size : Nat) (v : U64) (k : Slot) (s : State) : State :=
  match write64 0x000 off size v k.stackBase, write64 0x010 off size v k.gp with
  | some x, _ => modSlot c (fun q => { q with stackBase := x }) s
  | none, some x => modSlot c (fun q => { q with gp := x }) s
  | none, none =>
    if off = 0x008 then
      if size = 4 ∧ 12 ≤ v.toNat % 32 ∧ v.toNat % 32 ≤ 24 then modSlot c (fun q => { q with stackLog2 := v.toNat % 32 }) s else s
    else if 0x200 ≤ off ∧ off < 0x480 then
      let e := (off - 0x200) / 8
      match write64 (0x200 + 8 * e) off size v (aget 0 k.sigDesc e), s.caps.engMap[e]? with
      | some x, some p => if k.homeE.contains p then modSlot c (fun q => { q with sigDesc := aset 0 q.sigDesc e x }) s else s
      | _, _ => s
    else s

/-- The tier queue page. -/
def tqWrite (c off size : Nat) (v : U64) (k : Slot) (s : State) : State :=
  match ringWrite off size v k.tq with
  | some r => modTq c (fun _ => r) s
  | none => if off = 0x10 ∧ size = 4 then after (execTqTailWrite c (low32 v) s) s else s

/-- The semaphore page of a hart: a write to `SEM_CMD`, whole or of its low half, gives its command (R212) (log 131). -/
def semWrite (h off size : Nat) (v : U64) (s : State) : State :=
  match halfAt 0 off size with
  | some .high => s
  | none => s
  | some x =>
    let n := bits v.toNat 0 14
    let w := if x = .full then bits v.toNat 32 32 else 0
    match bits v.toNat 16 2 with
    | 0 => after (execAcquire h n ⟨w, none⟩ s) s
    | 1 => after (execTryAcquire h n s) s
    | 2 => after (execRelease h n s) s
    | _ => s

/-- `SQ_CFG[k]`: a new window opens; `EN` with `WIN_LOG2` outside 10 to 30 is taken as 0 (R152, R154). -/
def sqWrite (c off size : Nat) (v : U64) (s : State) : State :=
  match regIdx 0 16 256 off with
  | some k =>
    if size = 4 then
      let w := v.toNat
      let en := bit w 0 && decide (10 ≤ bits w 8 5) && decide (bits w 8 5 ≤ 30)
      let cfg : U32 := BitVec.ofNat 32 (b2n en + 2 ^ 8 * bits w 8 5 + 2 ^ 16 * bits w 16 16)
      let q := tgetD s.eng.sq (256 * c + k) Sq.init
      { s with eng := { s.eng with sq := tset s.eng.sq (256 * c + k) { q with cfg := cfg, total := 0, sat := 0, fired := false } } }
    else s
  | none => s

/-! ### Firmware's blocks (08 R270, 09 R294, 17 R500) -/

/-- The migration block: a field outside its range keeps its value; `MIG_EPOCH` waits for the epoch's end (R270) (log 129). -/
def migWrite (off size : Nat) (v : U64) (s : State) : State :=
  let w := v.toNat
  if size ≠ 4 then s
  else if off = 0x000 then
    let old := s.mem.migCtrl.toNat
    let sl := if bits w 4 4 ≤ 8 then bits w 4 4 else bits old 4 4
    let mp := if bits w 8 8 = 0 then bits old 8 8 else bits w 8 8
    { s with mem := { s.mem with migCtrl := BitVec.ofNat 32 (b2n (bit w 0) + 2 ^ 4 * sl + 2 ^ 8 * mp) } }
  else if off = 0x004 then
    if 2 ^ 16 ≤ w % 2 ^ 32 ∧ w % 2 ^ 32 ≤ 2 ^ 31 then { s with mem := { s.mem with migEpochNext := some (low32 v) } } else s
  else match regIdx 0x100 4 64 off with
    | some c => { s with mem := { s.mem with migCfg := tset s.mem.migCfg c (low32 v &&& 0x00FFFF01) } }
    | none => s

/-- `ECC_CTRL`: each field within its range, else it keeps its value; `PASS_HOURS` is reserved in an SRAM block (R294). -/
def eccCtrlNext (dram : Bool) (old w : Nat) : Nat :=
  let th := if bits w 0 4 = 0 then bits old 0 4 else bits w 0 4
  let iv := if 16 ≤ bits w 8 5 ∧ bits w 8 5 ≤ 30 then bits w 8 5 else bits old 8 5
  let ph := if !dram then 0 else if 1 ≤ bits w 16 8 ∧ bits w 16 8 ≤ 168 then bits w 16 8 else bits old 16 8
  th + 2 ^ 4 * b2n (bit w 4) + 2 ^ 8 * iv + 2 ^ 16 * ph

/-- Flip mask words of a controller: 20 of a DRAM block, 3 of an SRAM block, whose third holds 8 bits. -/
def flipWords (k : Nat) : Nat := if isDram k then 20 else 3
def flipWordMask (k i : Nat) : U32 := if isDram k || decide (i < 2) then 0xFFFFFFFF else 0xFF

/-- An ECC block, for the context on whose behalf firmware writes; the flip registers need injection, and their masks `ARM` = 0 (R294 to
R296). -/
def eccWrite (k off size : Nat) (who : Option Nat) (v : U64) (s : State) : State :=
  if (isEccCtl k && clockPowered (eccDomain k) s) = false then s
  else
    let inj := injectAvail (who.getD 0) s
    let armed := bit (eccOf k s).flipCtrl.toNat 0
    match write64 0x038 off size v (eccOf k s).flipAddr with
    | some x => if inj && !armed then modEcc k (fun b => { b with flipAddr := BitVec.ofNat 64 (x.toNat / 64 * 64) }) s else s
    | none =>
      if size ≠ 4 then s
      else if off = 0x000 then
        if who.isNone then modEcc k (fun b => { b with ctrl := BitVec.ofNat 32 (eccCtrlNext (isDram k) b.ctrl.toNat v.toNat) }) s else s
      else if off = 0x030 then if inj then flipCtrlWrite k (low32 v) s else s
      else match regIdx 0x040 4 (flipWords k) off with
        | some i => if inj && !armed then modEcc k (fun b => { b with flipMask := aset 0 b.flipMask i (low32 v &&& flipWordMask k i) }) s else s
        | none => s

/-- The flip registers of a flash channel controller (R294) (log 133). -/
def flashEccWrite (ch off size : Nat) (who : Option Nat) (v : U64) (s : State) : State :=
  if 32 ≤ ch ∨ size ≠ 4 ∨ injectAvail (who.getD 0) s = false then s
  else if off = 0x030 then flipCtrlWrite (1024 + ch) (low32 v) s
  else match regIdx 0x040 4 4 off with
    | some i =>
      if bit (tgetD s.ecc.flashCtrl ch 0).toNat 0 then s
      else { s with ecc := { s.ecc with flashMask := aset 0 s.ecc.flashMask (4 * ch + i) (low32 v) } }
    | none => s

/-- Issues the command that the sequence has spelled, at its last write (R501). -/
def faIssue (op : Nat) (addr : U32) (data : U64) (s : State) : State :=
  let t := modFa (fun a => { a with seq := 2 }) s
  match op with
  | 1 => after (execFaProgram addr data t) t
  | 2 => after (execFaSectorErase addr t) t
  | 3 => after (execFaBankErase addr t) t
  | 4 => after (execFaSuspend addr t) t
  | 5 => after (execFaResume addr t) t
  | 6 => after (execFaReadId addr t) t
  | 7 => after (execFaClearStatus addr t) t
  | _ => s

/-- A write to the register block of the firmware array: the next write of the unlock sequence, or one that breaks it. While a program
waits for its data, the command taken is kept with 16 added (R500, R501). -/
def faWrite (off size : Nat) (v : U64) (s : State) : State :=
  let a := s.fw.fa
  if faRuns s = false then s
  else if off = 0x000 ∧ size = 4 then after (execFaKey1 (low32 v) s) s
  else if off = 0x004 ∧ size = 4 then after (execFaKey2 (low32 v) s) s
  else if off = 0x008 ∧ size = 4 ∧ a.seq = 2 ∧ 1 ≤ v.toNat % 16 ∧ v.toNat % 16 ≤ 7 then modFa (fun a => { a with seq := 3, cmd := v.toNat % 16 }) s
  else if off = 0x00C ∧ size = 4 ∧ a.seq = 3 ∧ a.cmd < 16 then
    if a.cmd = 1 then modFa (fun a => { a with cmd := 17, addr := low32 v &&& 0x03FFFFF8 }) s else faIssue a.cmd (low32 v &&& 0x03FFFFF8) 0 s
  else if off = 0x010 ∧ size = 8 ∧ a.seq = 3 ∧ a.cmd = 17 then faIssue 1 a.addr v s
  else match write64 0x010 off size v a.data with
    | some x => after (execFaRelock 0x010 x s) s
    | none => after (execFaRelock (if size = 4 then off else 0xFFF) (if off = 0x00C then v &&& 0x03FFFFF8 else v) s) s

/-- The SMBus takes word writes to `SB_ALERT_STAT` and `SB_ALERT_MASK`, whose bits 3 and 4 stay 1 (16 R491, R492) (log 139). -/
def smbusWrite (off size : Nat) (v : U64) (s : State) : State :=
  if powered s = false ∨ size ≠ 2 then s
  else if off = 0x04 then after (execSbAlertStatWrite (BitVec.ofNat 16 v.toNat) s) s
  else if off = 0x05 then syncAlert false (modPwr (fun p => { p with alertMask := (BitVec.ofNat 16 v.toNat &&& 0xFF) ||| 0x18 }) s)
  else s

/-! ### The control window (02 R55) -/

/-- `RST_CTRL`: its key, and a type that it knows (R57). -/
def rstWrite (v : U32) (s : State) : State :=
  if bits v.toNat 16 16 ≠ 0xC1EA then s
  else match bits v.toNat 0 4 with
    | 1 => after (execWarmReset s) s
    | 2 => mailboxReset (bits v.toNat 8 6) s
    | 3 => eventRingReset s
    | _ => s

/-- `EVT_RING_BASE`, 4 KiB aligned; ignored while the ring is enabled (R79, R80). -/
def ringBaseWrite (x : U64) (s : State) : State :=
  if s.host.ringSize.toNat.testBit 31 then s else { s with host := { s.host with ringBase := BitVec.ofNat 64 (x.toNat / 4096 * 4096) } }

/-- A write to a register of the control window that is served. -/
def cwWrite (off size : Nat) (v : U64) (s : State) : State :=
  match write64 0x208 off size v s.host.ringBase with
  | some x => ringBaseWrite x s
  | none =>
    if 0x2000 ≤ off ∧ off < 0x2400 ∧ off % 16 = 0 ∧ (size = 4 ∨ size = 8) then
      if bit v.toNat 28 then modMbx ((off - 0x2000) / 16) (fun m => { m with badDb := false }) s else s
    else if size ≠ 4 then s
    else if off = 0x100 then rstWrite (low32 v) s
    else if off = 0x200 then causeWrite (low32 v) s
    else if off = 0x204 then { s with host := { s.host with evtMask := low32 v &&& 0x3F } }
    else if off = 0x210 then ringSizeWrite (low32 v) s
    else if off = 0x214 then ringConsWrite (low32 v) s
    else match regIdx 0x1000 16 64 off with
      | some n => doorbell n (low32 v) s
      | none => s

/-- `CW_IFVER` and the 32-bit registers that a read does not change. -/
def cwWord (off : Nat) (s : State) : Nat :=
  if off = 0 then 0x09401A7D
  else if off = 4 then s.fw.ifver
  else if off = 8 then cwState s
  else if off = 0x104 then rstStat s
  else if off = 0x200 then s.host.evtCause.toNat
  else if off = 0x204 then s.host.evtMask.toNat
  else if off = 0x210 then s.host.ringSize.toNat
  else if off = 0x214 then ringHead s
  else match regIdx 0x1000 16 64 off with
    | some n => mbxDb n s
    | none => 0

/-- Offsets of the 64-bit registers of a monitor block (19 R558). -/
def mon64 (o : Nat) : Bool := [0x10, 0x18, 0x20, 0x28, 0x38].contains o || (decide (0x80 ≤ o ∧ o < 0x180) && decide (o % 8 = 0))

/-- A read of a monitor instance block. -/
def monWord (off size : Nat) (s : State) : Nat :=
  let i := (off - 0x4000) / 512
  let o := (off - 0x4000) % 512
  if monCount ≤ i ∨ off % 4 ≠ 0 then 0
  else if size = 8 then (if mon64 o then fld (monBlock false i s) o 8 else 0)
  else if size = 4 then fld (monBlock false i s ++ zeros 128) o 4
  else 0

/-- A read of the control window that is served; the value read is the last one returned (log 136). -/
def cwRead (off size : Nat) (s : State) : State :=
  match halfAt 0x208 off size with
  | some h => setRead (halfOf h s.host.ringBase.toNat) s
  | none =>
    if 0x2000 ≤ off ∧ off < 0x2400 then
      match halfAt (off / 16 * 16) off size with
      | some h => mbxStatRead ((off - 0x2000) / 16) h s
      | none => setRead 0 s
    else if 0x3000 ≤ off ∧ off < 0x3050 ∧ off % 16 = 0 ∧ size = 4 then linkStatRead ((off - 0x3000) / 16) s
    else if 0x4000 ≤ off then setRead (monWord off size s) s
    else setRead (if size = 4 then cwWord off s else 0) s

/-! ### `REGISTER_WRITE` -/

/-- The engine blocks are reached by firmware, and by the context that the engine is assigned to (03 R121; 05 R167). -/
def reachesEng (e : Nat) (who : Option Nat) (s : State) : Bool :=
  match who with
  | none => true
  | some c => decide ((engOf e s).owner = some c)

/-- The pages of a context are reached by firmware and by its own code while the hub is powered (04 R151; 05 R165). -/
def onPage (c : Nat) (who : Option Nat) (f : Slot → State → State) (s : State) : State :=
  match slotOf c s with
  | some k => if (who.isNone || decide (who = some c)) && clockPowered domFab s then f k s else s
  | none => s

/-- A register of a halted hart is written through its debug interface: x1 to x31, f0 to f31, the pc and `fcsr` (log 214). -/
def hartWrite (h n : Nat) (v : U64) (s : State) : State :=
  if (hartOf h s).halted = false then s
  else if 0x1000 ≤ n ∧ n < 0x1020 then modHart h (setX (n - 0x1000) v) s
  else if 0x1020 ≤ n ∧ n < 0x1040 then modHart h (fun x => { x with f := aset 0 x.f (n - 0x1020) v }) s
  else if n = 0x7B1 then modHart h (fun x => { x with pc := v }) s
  else if n = 3 then modHart h (fun x => { x with fcsr := v &&& 0xFF }) s
  else s

/-- A write to a register acts as its access code and its block state (R15, R17, R54). -/
def regWrite (w : RegWrite) (s : State) : State :=
  match w.blk with
  | .engineMemory => if reachesEng w.unit w.onBehalf s then engMemWrite w.unit w.off w.size w.val s else s
  | .hart => if w.onBehalf.isNone then hartWrite w.unit w.off w.val s else s
  | .controlWindow => cwAccess true w.off w.size w.val.toNat (cwWrite w.off w.size w.val) s
  | .engine => if reachesEng w.unit w.onBehalf s then engWrite w.unit w.off w.size w.onBehalf.isNone w.val s else s
  | .dma => if reachesEng w.unit w.onBehalf s then dmaWrite w.unit w.off w.size w.val s else s
  | .taskletPage => onPage w.unit w.onBehalf (tdWrite w.unit w.off w.size w.val) s
  | .tierPage => onPage w.unit w.onBehalf (tqWrite w.unit w.off w.size w.val) s
  | .semPage => semWrite w.unit w.off w.size w.val s
  | .streamPage => onPage w.unit w.onBehalf (fun _ => sqWrite w.unit w.off w.size w.val) s
  | .migration => if w.onBehalf.isNone && clockPowered domFab s then migWrite w.off w.size w.val s else s
  | .ecc => eccWrite w.unit w.off w.size w.onBehalf w.val s
  | .flashEcc => flashEccWrite w.unit w.off w.size w.onBehalf w.val s
  | .firmwareArray => if w.onBehalf.isNone then faWrite w.off w.size w.val s else s
  | .smbus => smbusWrite w.off w.size w.val s

/-! ### Reads of registers (R15, R17; 02 R54; 05 R166) -/

/-- The register that an access names, as it reads for a context or for firmware; none at an unassigned offset, or for a size that the
register does not take. -/
def blkRead (w : RegWrite) (s : State) : Option Nat :=
  let page := fun (f : Slot → Nat → Reg) => (slotOf w.unit s).bind fun k => regAt (f k) w.off w.size
  match w.blk with
  | .controlWindow => some 0
  | .engine => regAt (engReg w.unit w.onBehalf.isNone s) w.off w.size
  | .engineMemory => if (w.size = 1 ∨ w.size = 2 ∨ w.size = 4 ∨ w.size = 8) ∧ w.off % w.size = 0 ∧ w.off + w.size ≤ 0x200000 then
      some (leNat (Memory.readN 0 (engOf w.unit s).sav.mem w.off w.size)) else none
  | .dma => regAt (ringReg (engOf w.unit s).dma true) w.off w.size
  | .taskletPage => page fun k => tdReg w.unit k s
  | .tierPage => page fun k => ringReg k.tq false
  | .streamPage => page fun _ => sqReg w.unit s
  | .semPage => match (hartOf w.unit s).task.bind (tget s.task.pool) with
    | some t => (slotOf t.ctx s).bind fun k => regAt (semReg t.ctx w.unit k s) w.off w.size
    | none => none
  | .migration => regAt (migReg s) w.off w.size
  | .ecc => regAt (eccReg w.unit s) w.off w.size
  | .flashEcc => regAt (flashEccReg w.unit s) w.off w.size
  | .firmwareArray => regAt (faReg s.fw.fa) w.off w.size
  | .smbus => if w.size = 2 ∨ (w.off = 2 ∧ w.size = 16) then smbusReg s w.off else none
  | .hart => if w.size = 8 then hartReg w.unit w.off s else none

/-- A read of a register: 0 where there is none; an rc register is cleared (R15, R17). -/
def regRead (w : RegWrite) (s : State) : State :=
  match w.blk, w.off with
  | .controlWindow, _ => cwRead w.off w.size s
  | .taskletPage, 0x020 => if w.size = 4 then after (execTdFaultsRead w.unit s) s else setRead 0 s
  | .migration, 0x00C => if w.size = 4 then after (execMigFailRead s) s else setRead 0 s
  | .ecc, 0x004 => if w.size = 4 then after (execEccCeCntRead w.unit false s) s else setRead 0 s
  | .ecc, 0x008 => if w.size = 4 then after (execEccCeCntRead w.unit true s) s else setRead 0 s
  | .firmwareArray, 0x018 => if w.size = 4 then (let t := eraseSteps s; setRead (faStatusReg t.fw.fa) t) else setRead 0 s
  | .firmwareArray, 0x01C => if w.size = 4 then after (execFaRetryRead s) s else setRead 0 s
  | _, _ => setRead ((blkRead w s).getD 0) s

/-! ### The fixed windows of a context (05 R165 to R167) -/

/-- Virtual address of a register in the context window, or in the die-local window by the number of the engine on its die (R165). -/
def windowVa (w : RegWrite) : Nat :=
  match w.blk with
  | .streamPage => 0xFE00000000 + w.off
  | .taskletPage => 0xFE00001000 + w.off
  | .tierPage => 0xFE00002000 + w.off
  | .semPage => 0xFE00003000 + w.off
  | .engineMemory => 0xFF00000000 + 0x200000 * (w.unit % 20) + w.off
  | .engine => 0xFF04000000 + 0x1000 * (w.unit % 20) + w.off
  | .dma => 0xFF04020000 + 0x100 * (w.unit % 20) + w.off
  | _ => 0

/-- The block, unit and offset that a hart's access to a virtual address names: its own copy of the semaphore page, its context's pages, the
units of its die; none outside the windows and in reserved ranges (R165, R167). -/
def windowAt (h c va : Nat) : Option (Blk × Nat × Nat) :=
  let a := va - 0xFE00000000
  let b := va - 0xFF00000000
  let eng := fun (i : Nat) => 20 * dieOfHart h + i
  if 0xFE00000000 ≤ va ∧ a < 0x4000 then
    match a / 0x1000 with
    | 0 => some (.streamPage, c, a % 0x1000)
    | 1 => some (.taskletPage, c, a % 0x1000)
    | 2 => some (.tierPage, c, a % 0x1000)
    | _ => some (.semPage, h, a % 0x1000)
  else if 0xFF00000000 ≤ va ∧ b < 0x4000000 then (if b / 0x200000 < 20 then some (.engineMemory, eng (b / 0x200000), b % 0x200000) else none)
  else if 0xFF04000000 ≤ va ∧ b < 0x4014000 then some (.engine, eng ((b - 0x4000000) / 0x1000), b % 0x1000)
  else if 0xFF04020000 ≤ va ∧ b < 0x4021400 then some (.dma, eng ((b - 0x4020000) / 0x100), b % 0x100)
  else none

/-- An access of a hart has an effect: aligned, to a register of a size that it takes, of an engine that is assigned to its context
(R166, R167). -/
def windowOk (h c : Nat) (w : RegWrite) (s : State) : Bool :=
  let x := { w with onBehalf := some c }
  decide (windowAt h c (windowVa w) = some (w.blk, w.unit, w.off)) && decide (w.off % w.size = 0) && (blkRead x s).isSome
    && (match w.blk with
      | .engine | .engineMemory | .dma => decide ((engOf w.unit s).owner = some c)
      | _ => true)

/-- A store of a hart to a window: performed uncached, in program order, or an access fault without effect (R166, R167). A vector store is
its element stores in element order. -/
def windowStore (h : Nat) (w : RegWrite) (s : State) : State :=
  onHart h (fun k t =>
    if windowOk h k.ctx w t then modHart h nextPc (regWrite { w with onBehalf := some k.ctx } t) else trapTask h 7 (windowVa w) k t) s

def execRegisterWrite (w : RegWrite) (s : State) : Res :=
  .next (match w.hart with
    | some h => windowStore h w s
    | none => regWrite w s)

/-! ### Accesses of the control node (13 R392, R393) -/

/-- Completion of an access: `READ_DATA` or `WRITE_ACK`. Tags have 16 bits; a held register access of a row carries none. -/
def answer (pk : Packet) (st : Nat) (data : Bytes) (s : State) : State :=
  if pk.ptag < 65536 then emit (.response pk.ptag st data) s else s

/-- The aperture serves while the mailbox unit runs (02 R56, R61). -/
def apertureServes (s : State) : Bool := mbxUnitRuns s.host.ifState

/-- Device memory serves the control node while contexts and their memory are up (log 134). -/
def memoryServes (s : State) : Bool := match s.host.ifState with | .ready | .handover | .scrub => true | _ => false

def apertureRead (a n : Nat) (s : State) : Bytes :=
  if apertureServes s then (rangeFrom a n).map fun i => if i < 0x200000 then Memory.read 0 s.host.aperture i else 0 else zeros n

/-- A word among those read that the mailbox memory cannot correct (17 R527). -/
def apertureBad (a n : Nat) (s : State) : Option Nat :=
  if apertureServes s then ((List.range ((a + n + 7) / 8 - a / 8)).map fun i => 8 * (a / 8 + i)).find? fun w => decide (eccCorrects 344 < lineErrs 344 w s) else none

/-- Bytes written to request slots are stored; those of reply slots are ignored (R61) (log 135). -/
def apertureWrite (a : Nat) (bs : Bytes) (s : State) : State :=
  match bs with
  | [] => s
  | b :: r =>
    apertureWrite (a + 1) r (if a < 0x200000 ∧ a % 0x8000 < 0x4000 then { s with host := { s.host with aperture := Memory.write 0 s.host.aperture a b } } else s)

/-- A read packet that is served now. -/
def readNow (pk : Packet) (s : State) : State :=
  match pk.space with
  | 0 =>
    let t := if cwServes false pk.addr s then cwRead pk.addr pk.len s else setRead 0 s
    answer pk 0 ((leBytes 8 t.host.lastRead.toNat ++ zeros pk.len).take pk.len) t
  | 1 => (match apertureBad pk.addr pk.len s with
    | some a => answer pk 2 [] (uncorrectable 344 a 0 s)
    | none => answer pk 0 (apertureRead pk.addr pk.len s) s)
  | 2 =>
    if memoryServes s = false then answer pk 1 [] s
    else match ctxRead pk.ctx pk.addr pk.len s with
      | .ok (bs, t) => answer pk 0 bs t
      | .error .lost => answer pk 2 [] s
      | .error _ => answer pk 1 [] s
  | _ => answer pk 1 [] s

/-- A write packet that is served now. -/
def writeNow (pk : Packet) (data : Bytes) (s : State) : State :=
  match pk.space with
  | 0 => answer pk 0 [] (if cwServes true pk.addr s then cwWrite pk.addr data.length (BitVec.ofNat 64 (leNat data)) s else s)
  | 1 => answer pk 0 [] (if apertureServes s then apertureWrite pk.addr data (healLines 344 pk.addr data.length s) else s)
  | 2 =>
    if memoryServes s = false then answer pk 1 [] s
    else match ctxWrite pk.ctx pk.addr data s with
      | .ok t => answer pk 0 [] t
      | .lost => answer pk 2 [] s
      | .xlate => answer pk 1 [] s
  | _ => answer pk 1 [] s

/-- The credits of a received packet go back to the control node: VC2 for its requests, VC5 for its completions (13 R391, R396). -/
def returnRx (vc len : Nat) (s : State) : State :=
  match pathPort s with
  | some p => record (.credits p vc (packetCost len)) s
  | none => s

/-- A received packet is applied, and its credits return. -/
def accessNow (h : HeldAccess) (s : State) : State :=
  if h.reply then returnRx 5 h.data.length (if h.write then ackRemote h.pk s else dataRemote h.pk h.data.length s)
  else returnRx 2 (if h.write then h.data.length else 0) (if h.write then writeNow h.pk h.data s else readNow h.pk s)

/-- An access arrives on the path to the control node: held during a scrub, else served (02 R56; 13 R409). -/
def arrive (h : HeldAccess) (s : State) : State :=
  if pathUp s = false then s
  else if s.host.ifState = .scrub then modSec (fun x => { x with heldPortH := x.heldPortH ++ [h] }) s
  else accessNow h s

def execPacketRead (pk : Packet) (s : State) : Res := .next (arrive ⟨pk, [], false, false⟩ s)
def execPacketWrite (pk : Packet) (data : Bytes) (s : State) : Res := .next (arrive ⟨pk, data, true, false⟩ s)
def execReadData (pk : Packet) (data : Bytes) (s : State) : Res := .next (arrive ⟨pk, data, false, true⟩ s)
def execWriteAck (pk : Packet) (s : State) : Res := .next (arrive ⟨pk, [], true, true⟩ s)

/-! ### The end of a scrub (15 R457, R459) -/

/-- Cause of the end of a free: that of the free, a `CTX_FREE` or the entry into Quarantined (06 R194) (log 140). -/
def freedCause (c : Nat) (s : State) : Nat :=
  if s.sec.sec = .quarantined ∧ (s.ledger.reqs.any fun r => decide (r.svc = 1 ∧ r.op = 0x12 ∧ fld r.payload 0 1 = c)) = false then 6 else 0

/-- Contexts that a scrub covered become `FREE`; their `CTX_FREE` requests complete (06 R192, R197). -/
def scrubbed (cs : List Nat) (s : State) : State :=
  let done := s.ledger.reqs.filter fun r => decide (r.svc = 1 ∧ r.op = 0x12) && r.running && cs.contains (fld r.payload 0 1)
  let t := cs.foldl (fun t c =>
    if slotState c t = .freeing then ctxEvent c .freeing .free (freedCause c s) 0 { t with ctxs := { t.ctxs with slots := tdel t.ctxs.slots c } } else t) s
  done.foldl (fun t r => complete r.rid stSuccess [] t) t

/-- A debug unlock that waited for this scrub enters Unlocked and replies (15 R456) (log 137). -/
def finishUnlock (s : State) : State :=
  match s.sec.unlock with
  | some (rid, scope) =>
    complete rid stSuccess [] (announced (modSec (fun x => { x with dbg := .unlocked, scope := scope, unlock := none })) s)
  | none => s

/-- An `ADMIT` that waited for the end of the scrub takes effect, or ends for the condition that no longer holds (R459, R462). -/
def finishAdmit (s : State) : State :=
  (s.ledger.reqs.filter fun r => decide (r.svc = 10 ∧ r.op = 2) && r.running && r.settled.isNone && r.done.isNone).foldl (fun t r => admitBody r t) s

/-- What follows step 6: the traffic in arrival order, then what waited for the end; contexts that reached their scrub step meanwhile are
covered by the next scrub, which starts now, unless a warm reset is held (R457 to R459; 02 R58). -/
def releaseHeld (s : State) : State :=
  let t := releaseFwd s
  let t := s.sec.heldPortH.foldl (fun t h => accessNow h t) (modSec (fun y => { y with heldPortH := [] }) t)
  let t := finishAdmit (if t.sec.quarantineNext then enterQuarantine t else t)
  if t.sec.scrubDue = false then finishUnlock t else if t.host.warmHeld then t else startScrub t

/-- At cycle S + 5,000,000 the scrub is over: the state before it returns, then what it covered is `FREE`. -/
def scrubDone (b : Scrub) (s : State) : State :=
  syncAlert false (scrubbed b.ctxs (announced (fun u =>
    modPwr (fun p => { p with frozen := none })
      (modSec (fun x => { x with scrub := none, scrubs := x.scrubs + 1 }) { u with host := { u.host with ifState := b.prev } }))
    (reachMgmt (b.start + 5000000) s)))

/-- Step 6; steps that a fault holds past S + 4,500,000 lead to the safe state. -/
def scrubEnd (overrun : Bool) (s : State) : State :=
  match s.sec.scrub with
  | none => s
  | some b =>
    if s.host.ifState ≠ .scrub then s
    else carryReset (if overrun then enterSafe s else releaseHeld (scrubDone b s))

def execScrubEnd (overrun : Bool) (s : State) : Res := .next (scrubEnd overrun s)

/-! ### DEBUG and JTAG on hub registers (19 R567, R568) -/

/-- A hub register address is an offset of the control window (log 118). -/
def hubBad (r : Req) : Bool := decide (fld r.payload 0 8 % 4 ≠ 0 ∨ 0x10000 ≤ fld r.payload 0 8)

def debugRegReadBody (r : Req) (s : State) : State :=
  checked r.rid [(hasRef r || hubBad r, stInvalidField), (debugDenied s, stAccessDenied)]
    (fun t =>
      let u := cwRead (fld r.payload 0 8) 4 t
      complete r.rid stSuccess (leBytes 4 u.host.lastRead.toNat) u) s
def execDebugRegRead (rid : Nat) (s : State) : Res := .next (serve 14 6 rid debugRegReadBody s)

def debugRegWriteBody (r : Req) (s : State) : State :=
  checked r.rid [(hasRef r || hubBad r, stInvalidField), (debugDenied s, stAccessDenied)]
    (fun t => complete r.rid stSuccess [] (cwWrite (fld r.payload 0 8) 4 (BitVec.ofNat 64 (fld r.payload 8 4)) t)) s
def execDebugRegWrite (rid : Nat) (s : State) : Res := .next (serve 14 7 rid debugRegWriteBody s)

/-- JTAG reaches processors and SRAM: in Open, and in Unlocked with scope bit 0 (15 R455; R567). -/
def jtagOpen (s : State) : Bool := decide (s.sec.dbg = .open) || (decide (s.sec.dbg = .unlocked) && bit s.sec.scope 0)

/-- A write through JTAG, which no interface state holds back. -/
def jtagWrite (w : RegWrite) (s : State) : State :=
  if w.blk = .controlWindow then cwWrite w.off w.size w.val s else regWrite { w with onBehalf := none } s

/-- A JTAG access: toggling TCK is tamper in Sealed (15 R442). Boundary scan answers in every state with the identification code; an
access beyond the state is ignored, and reads zeros. A permitted one reaches any register block, engine memory and the registers of the
harts (log 214). -/
def jtag (boundary : Bool) (w : RegWrite) (write : Bool) (s : State) : State :=
  if powered s = false then s
  else
    let t := tamper 1 s
    if boundary then setRead 0x1094077B t
    else if jtagOpen t then (if write then jtagWrite w t else regRead w t)
    else if write then t else setRead 0 t

def execJtagAccess (boundary : Bool) (reg : RegAddr) (write : Bool) (val : U64) (s : State) : Res :=
  .next (jtag boundary ⟨reg.blk, reg.unit, reg.off, reg.size, val, none, none⟩ write s)

end Sys2Proof.Machine
end

