-- ==== Sys2Proof/Machine/Search.lean ====
section
/-! DEFINITION. The SCAN and SEARCH services (12), the scan units' pages, the advance of epochs and the end of merges; and EMBED
(07 R250), which reads by the scan path and inserts into indexes. -/
namespace Sys2Proof.Machine

def stNoProgram : Nat := 0x8000
def stProgLimit : Nat := 0x8001
def stNoIndex : Nat := 0x8000
def stIndexLimit : Nat := 0x8001
def stEmbedNoModel : Nat := 0x8000
def stEmbedNoIndex : Nat := 0x8001

/-! ### SCAN (R361 to R366) -/

/-- The bytes that a reference gives: context memory, or what the control node supplied (log 3). -/
def refBytes (r : Req) (x : Ref) (n : Nat) (given : Bytes) (s : State) : Bytes :=
  if x.space = 0 then rdBytes r.mbx x.addr n s else sub given 0 n

/-- A read in context memory starts the fills of its pages (08 R266); one in control-node memory is a remote read (02 R73). -/
def refFill (r : Req) (x : Ref) (n : Nat) (s : State) : State := if x.space = 0 then fillRange r.mbx x.addr n s else emit (.ctlRead r.mbx x.addr n) s

def progLoad (given : Bytes) (r : Req) (s : State) : State :=
  let x := refAt r.payload 0
  let n := min x.len 4385
  let code := refBytes r x n given s
  let err := if refReads x then refDenied r x n given s else none
  checked r.rid [(hasRef r || !(refReads x) || (err.isNone && !(progGood code)), stInvalidField), (err.isSome, err.getD 0),
    (decide (64 ≤ (s.search.progs.filter fun e => decide (e.2.ctx = r.mbx)).length), stProgLimit)]
    (fun t =>
      let h := r.mbx * 2 ^ 26 + t.search.nextProg
      let t := modSearch (fun y => { y with progs := tset y.progs h ⟨r.mbx, code⟩, nextProg := y.nextProg + 1 }) (refFill r x n t)
      complete r.rid stSuccess (leBytes 4 h ++ zeros 4) t) s

def execScanProgLoad (rid : Nat) (prog : Bytes) (s : State) : Res := .next (serve 7 1 rid (progLoad prog) s)

def progFree (r : Req) (s : State) : State :=
  let h := fld r.payload 0 4
  checked r.rid [(hasRef r, stInvalidField), ((progOf r.mbx h s).isNone, stNoProgram)]
    (fun t => complete r.rid stSuccess [] (modSearch (fun y => { y with progs := tdel y.progs h }) t)) s

def execScanProgFree (rid : Nat) (s : State) : Res := .next (serve 7 2 rid progFree s)

/-- A namespace attached to a context (11 R347, R348). -/
def nsFor (c n : Nat) (s : State) : Option Ns := (tget s.store.ns n).filter fun x => x.attached.contains c

/-- A scan that has found its results writes the buffer and ends (R365, R366, R382). -/
def scanReply (r : Req) (x : Ref) (slba : Nat) (o : ScanOut) (s : State) : State :=
  if o.status = some stNoSpace then fail r.rid stNoSpace s
  else
    afterWrite r.rid (refWrite r x 0 (scanBuffer o) s) (fun t =>
      let t := commitN r.rid (o.next - slba) (o.next - slba) (some (scanHead o)) t
      match o.status with
      | some st => fail r.rid st t
      | none => complete r.rid stSuccess (scanHead o) t) s

def scanRun (r : Req) (s : State) : State :=
  let x := refAt r.payload 32
  let slba := fld r.payload 8 8
  let nlb := fld r.payload 16 4
  let pr := progOf r.mbx (fld r.payload 4 4) s
  let base := hasRef r || !(refWrites x) || decide (nlb = 0) || decide (2 ^ 24 < nlb)
  match nsFor r.mbx (fld r.payload 0 4) s with
  | none => checked r.rid [(base, stInvalidField), (true, stAccessDenied)] id s
  | some n =>
    checked r.rid [(base || decide (n.nsze < slba + nlb), stInvalidField), (pr.isNone, stNoProgram)]
      (fun t => scanReply r x slba (scanRange ((pr.map (·.code)).getD []) n slba nlb x.len t) t) s

/-- Log 161. -/
def execScanRun (rid : Nat) (s : State) : Res := .next (serve 7 3 rid scanRun s)

/-- Cycles of AON in 24 h, and the disagreements that disable a scan unit (R364). -/
def dayCycles : Nat := 86400 * 100000000
def maxDisagree : Nat := 16

/-- Two comparator paths disagree: counted over 24 h, reported, the unit disabled at 16 (R364). -/
def disagreement (ch : Nat) (s : State) : State :=
  let now := clockNow domAon s
  let l := (tgetD s.search.disagree ch []).filter (fun t => decide (now < t + dayCycles)) ++ [now]
  let t := modSearch (fun y => { y with disagree := tset y.disagree ch l }) s
  let t := devEvent 0x1A 4 ch (leBytes 4 l.length) t
  if maxDisagree ≤ l.length ∧ t.search.scanOff.contains ch = false then modSearch (fun y => { y with scanOff := y.scanOff ++ [ch] }) t else t

/-- The namespace that holds a unit of the user pool, and the unit's place in it. -/
def nsOfUnit (idx : Nat) (s : State) : Option (Nat × Ns × Nat) :=
  s.store.ns.findSome? fun e =>
    (e.2.extents.foldl (fun (a : Nat × Option Nat) r =>
      if a.2.isNone ∧ r.1 ≤ idx / 128 ∧ idx / 128 < r.1 + r.2 then (a.1, some (a.1 + idx / 128 - r.1)) else (a.1 + r.2, a.2)) (0, none)).2.map
      fun k => (e.1, e.2, 128 * k + idx % 128)

/-- A scan unit evaluates the page of a unit under a program (R358, R359, R364): its output enters the channel's result queue when
the paths agree. The page is of the program's context, on the channel, and not in the write buffer. -/
def pageEvaluate (ch unit prog : Nat) (disagree : Bool) (s : State) : State :=
  match tget s.search.progs prog, nsOfUnit unit s, mapGet 0 unit s with
  | some p, some (_, x, u), some k =>
    if flashRuns s = true ∧ slotCh k = ch ∧ (dirtyAt 0 unit s).isNone = true ∧ s.search.scanOff.contains ch = false ∧ x.attached.contains p.ctx = true
        ∧ ((tgetD s.search.resultQ ch []).any fun e => decide (e.1 = prog)) = false then
      if disagree then disagreement ch s
      else
        let out := ((scanUnit p.code x u 0 (x.nsze * nsBlock x) s).filterMap (·.2)).flatMap id
        let held := tgetD s.search.resultQ ch []
        if out.isEmpty then s else modSearch (fun y => { y with resultQ := tset y.resultQ ch (held ++ [(prog, out.take (65536 - sumN (held.map fun e => e.2.length)))]) }) s
    else s
  | _, _, _ => s

def execPageEvaluate (ch unit prog : Nat) (disagree : Bool) (s : State) : Res := .next (pageEvaluate ch unit prog disagree s)

/-! ### SEARCH (R367 to R380) -/

/-- `CREATE`: with `max_nodes` nodes its arrays and its hot region keep the quotas (08 R571; log 230). -/
def searchCreate (r : Req) (s : State) : State :=
  let cb := fld r.payload 0 2
  let dg := fld r.payload 2 1
  let pf := fld r.payload 3 1
  let mib := fld r.payload 4 4
  let mx := fld r.payload 8 8
  checked r.rid [
    (hasRef r || !(decide (cb = 256 ∨ cb = 512 ∨ cb = 1024 ∨ cb = 2048)) || (decide (dg ≠ 0) && (decide (dg < 16) || decide (64 < dg)))
      || (decide (32 < pf) && decide (pf ≠ 255)) || decide (65536 < mib) || decide (mx = 0) || decide (2 ^ 32 ≤ mx), stInvalidField),
    (decide (1024 ≤ s.search.idx.length) || decide (256 ≤ (s.search.idx.filter fun e => decide (e.2.ctx = r.mbx)).length), stIndexLimit),
    (decide (2 ^ 33 < mx + sumN (s.search.idx.map fun e => e.2.maxNodes))
      || (let arrays := mx * (cb / 8 + 4 * (if dg = 0 then 32 else dg) + 8); !(quotaFits r.mbx (min (mib * 2 ^ 20) arrays) arrays s)), stNoSpace)]
    (fun t =>
      let h := r.mbx * 2 ^ 26 + t.search.nextIdx
      let x : Index := ⟨r.mbx, cb, if dg = 0 then 32 else dg, if pf = 255 then 8 else pf, mib, mx, 0, 0, ⟨[], [], []⟩, [], [], none, false⟩
      complete r.rid stSuccess (leBytes 4 h ++ zeros 4 ++ leBytes 8 0) (modSearch (fun y => { y with idx := tset y.idx h x, nextIdx := y.nextIdx + 1 }) t)) s

def execSearchCreate (rid : Nat) (s : State) : Res := .next (serve 6 1 rid searchCreate s)

/-- A request on an index that is found. -/
def onIndex (r : Req) (f : Nat → Index → State → State) (s : State) : State :=
  let h := fld r.payload 0 4
  match idxOf r h s with
  | none => checked r.rid [(hasRef r, stInvalidField), (true, stNoIndex)] id s
  | some x => checked r.rid [(hasRef r, stInvalidField)] (f h x) s

def execSearchDrop (rid : Nat) (s : State) : Res :=
  .next (serve 6 2 rid (fun r t => onIndex r (fun h _ u => complete rid stSuccess [] (freeIndex h u)) t) s)

/-- Requests that take epochs of an index are applied in acceptance order (R369). -/
def takesEpoch (q : Req) (h : Nat) : Bool :=
  (decide (q.svc = 6) && decide (q.op = 3 ∨ q.op = 4) && decide (fld q.payload 0 4 = h))
    || (decide (q.svc = 8) && decide (fld q.payload 23 1 = 1 ∨ fld q.payload 23 1 = 2) && decide (fld q.payload 28 4 = h))

def epochTurn (r : Req) (h : Nat) (s : State) : Bool :=
  !(s.ledger.reqs.any fun q => decide (q.rid < r.rid) && decide (q.mbx = r.mbx) && takesEpoch q h && q.done.isNone && q.settled.isNone && !q.running)

/-- The keys of a list of entries of `w` bytes, with the code that follows each. -/
def splitItems (w n : Nat) (bs : Bytes) : List (Nat × Bytes) := (List.range n).map fun i => (fld bs (i * w) 8, sub bs (i * w + 8) (w - 8))

/-- `INSERT` and `DELETE`: the items read through their reference (R371, R379, R380). -/
def changeItems (ins : Bool) (given : Bytes) (r : Req) (s : State) : State :=
  let h := fld r.payload 0 4
  let n := fld r.payload 4 4
  let x := refAt r.payload 16
  let base := hasRef r || decide (n = 0) || decide (2 ^ 20 < n) || !(refReads x)
  if epochTurn r h s then
    match idxOf r h s with
    | none => checked r.rid [(base, stInvalidField), (true, stNoIndex)] id s
    | some i =>
      let w := if ins then 8 + i.codeBits / 8 else 8
      let short := decide (x.len < n * w)
      let err := if base || short then none else refDenied r x (n * w) given s
      let items := if base || short then [] else splitItems w n (refBytes r x (n * w) given s)
      let keys := items.map (·.1)
      checked r.rid [(base || short || (err.isNone && decide (keys.eraseDups.length ≠ keys.length)), stInvalidField), (err.isSome, err.getD 0)]
        (fun t =>
          let t := refFill r x (n * w) t
          if ins then applyInsert r.rid h items stSuccess t else applyDelete r.rid h keys t) s
  else s

def execSearchInsert (rid : Nat) (data : Bytes) (s : State) : Res := .next (serve 6 3 rid (changeItems true data) s)
def execSearchDelete (rid : Nat) (data : Bytes) (s : State) : Res := .next (serve 6 4 rid (changeItems false data) s)

/-- `QUERY` of an index: every code against the graph and the side list, its blocks written, the counts returned (R373 to R375,
R379, R382). -/
def queryBody (r : Req) (h : Nat) (x : Index) (codes : List Bytes) (s : State) : State :=
  let k := fld r.payload 4 2
  let ex := decide (fld r.payload 6 1 = 1)
  let beam := if fld r.payload 8 2 = 0 then max 128 k else fld r.payload 8 2
  let res := codes.map (runQuery x k beam (fld r.payload 12 2) ex)
  let blocks := res.zipIdx.flatMap fun e => queryBlock e.2 k e.1.1
  if arrayLost h s then fail r.rid stDataLost s
  else
    afterWrite r.rid (refWrite r (refAt r.payload 32) 0 blocks s) (fun t =>
      let nodes := x.graph.nodes.length
      let groups := (nodes + 2 ^ 20 - 1) / 2 ^ 20
      let t := if ex then commitN r.rid groups groups (some (leBytes 8 x.epoch ++ leBytes 8 nodes)) t else t
      complete r.rid stSuccess (leBytes 8 x.epoch ++ leBytes 4 (sumN (res.map fun e => e.1.length)) ++ leBytes 4 (sumN (res.map fun e => e.2))
        ++ leBytes 4 (sideSeen x x.epoch).length ++ zeros 4) t) s

def searchQuery (given : Bytes) (r : Req) (s : State) : State :=
  let h := fld r.payload 0 4
  let k := fld r.payload 4 2
  let mode := fld r.payload 6 1
  let nq := fld r.payload 7 1
  let beam := fld r.payload 8 2
  let pf := fld r.payload 10 1
  let qs := refAt r.payload 16
  let out := refAt r.payload 32
  let base := hasRef r || decide (k = 0) || decide (1024 < k) || decide (2 ≤ mode) || decide (nq = 0) || decide (16 < nq) || (decide (32 < pf) && decide (pf ≠ 255))
    || (decide (mode = 0) && decide (beam ≠ 0) && (decide (beam < max 16 k) || decide (4096 < beam)))
    || !(refReads qs) || !(refWrites out) || decide (out.len < nq * (16 + 16 * k))
  match idxOf r h s with
  | none => checked r.rid [(base, stInvalidField), (true, stNoIndex)] id s
  | some x =>
    let w := x.codeBits / 8
    let short := decide (qs.len < nq * w)
    let err := if base || short then none else refDenied r qs (nq * w) given s
    checked r.rid [(base || short, stInvalidField), (err.isSome, err.getD 0)]
      (fun t =>
        let bs := refBytes r qs (nq * w) given t
        queryBody r h x ((List.range nq).map fun i => sub bs (i * w) w) (refFill r qs (nq * w) t)) s

def execSearchQuery (rid : Nat) (data : Bytes) (s : State) : Res := .next (serve 6 5 rid (searchQuery data) s)

/-- `MERGE`: starts a merge, or joins the one that runs; the reply follows the publication (R376, R379). -/
def searchMerge (r : Req) (h : Nat) (x : Index) (s : State) : State :=
  match x.merge with
  | some m => setRunning r.rid (modIdx h (fun y => { y with merge := some { m with waiters := m.waiters ++ [r.rid] } }) s)
  | none => setRunning r.rid (beginMerge h [r.rid] s)

def execSearchMerge (rid : Nat) (s : State) : Res := .next (serve 6 6 rid (fun r t => onIndex r (searchMerge r) t) s)

/-- The reply of `INFO` (R379). -/
def indexInfo (x : Index) : Bytes :=
  leBytes 2 x.codeBits ++ leBytes 1 x.degree ++ leBytes 1 x.pfAhead ++ leBytes 4 x.cacheMib ++ leBytes 8 x.maxNodes ++ leBytes 8 x.graph.nodes.length
    ++ leBytes 4 x.side.length ++ leBytes 4 sideCap ++ leBytes 8 x.epoch ++ leBytes 8 x.mergeEpoch ++ leBytes 1 (b2n x.merge.isSome) ++ zeros 7

def execSearchInfo (rid : Nat) (s : State) : Res :=
  .next (serve 6 7 rid (fun r t => onIndex r (fun _ x u => complete rid stSuccess (indexInfo x) u) t) s)

/-- The oldest applied request of an index: its entries are in the side list and accepted, so the index epoch advances to its epoch,
and it replies (R369, R379, R382). -/
def epochAdvance (h : Nat) (s : State) : State :=
  match idxGet h s with
  | none => s
  | some x =>
    match x.pend with
    | [] => s
    | p :: rest =>
      if p.acc = false then s
      else
      let t := modIdx h (fun y => { y with epoch := p.epoch, pend := rest }) s
      match findReq p.rid t with
      | none => t
      | some r =>
        if r.svc = 8 then
          let t := modCairn r (fun k => { k with body := sub k.body 0 8 ++ leBytes 8 p.epoch }) t
          if r.settled.isSome then commitN p.rid 0 0 none t else complete p.rid p.st [] t
        else complete p.rid p.st (leBytes 8 p.epoch ++ leBytes 4 p.done ++ leBytes 4 p.other) (commit p.rid 1 (some (leBytes 8 p.epoch)) t)

def execEpochAdvance (idx : Nat) (s : State) : Res := .next (epochAdvance idx s)

/-- The merge in progress publishes the graph that it built; its edges and entry nodes are the command's (log 3, log 91). -/
def execMergeDone (idx : Nat) (g : NewGraph) (s : State) : Res := .next (publish idx g s)

/-! ### EMBED (07 R250, R251) -/

/-- Codes of EMBED go into an index of the context with the code length asked for. -/
def embedIndex (r : Req) (s : State) : Bool :=
  match idxOf r (fld r.payload 28 4) s with
  | some x => decide (x.codeBits = fld r.payload 24 2)
  | none => false

def encoderOf (r : Req) (s : State) : Bool :=
  match modelFor r.mbx (fld r.payload 0 4) s with
  | some m => m.encoder
  | none => false

/-- Fields that both opcodes share. -/
def embedBad (r : Req) : Bool :=
  let kind := fld r.payload 23 1
  let cb := fld r.payload 24 2
  hasRef r || decide (2 < kind) || !(decide (cb = 256 ∨ cb = 512 ∨ cb = 1024 ∨ cb = 2048)) || (decide (kind ≠ 1) && !(refWrites (refAt r.payload 32)))

/-- Component i of a pooled output is above zero: a positive FP16 number (R240, R250). -/
def aboveZero (v : U16) : Bool := decide (0 < v.toNat ∧ v.toNat ≤ 0x7C00)

/-- The code of a pooled output: the sign bits of its first components (R250). -/
def codeOf (bitsN : Nat) (o : List U16) : Bytes :=
  leBytes (bitsN / 8) (sumN ((List.range bitsN).map fun i => if aboveZero (o.getD i 0) then 2 ^ i else 0))

/-- Keys and codes of the records embedded; a key given again is left out (R371; log 234). -/
def embedItems (res : EmbedReport) (offs : List Nat) (bitsN : Nat) : List (Nat × Bytes) :=
  offs.zipIdx.map fun e => (e.1, codeOf bitsN (res.outs.getD e.2 []))

/-- The vectors of the records embedded, each with its record offset (R250; log 234). -/
def embedVectors (res : EmbedReport) (offs : List Nat) : Bytes :=
  offs.zipIdx.flatMap fun e => leBytes 8 e.1 ++ (res.outs.getD e.2 []).flatMap fun v => leBytes 2 v.toNat

def outSmall (res : EmbedReport) (offs : List Nat) (r : Req) : Bool := decide (fld r.payload 23 1 ≠ 1) && decide ((refAt r.payload 32).len < (embedVectors res offs).length)

/-- The vectors are written, the records counted in steps of 1,024, and the codes inserted under one epoch (R250, R251). -/
def embedFinish (res : EmbedReport) (next : Nat) (offs : List Nat) (st : Nat) (r : Req) (s : State) : State :=
  let kind := fld r.payload 23 1
  let n := offs.length
  let ok := fun t =>
    let t := commitN r.rid ((1023 + n) / 1024) n (some (leBytes 8 next ++ leBytes 8 0)) t
    if kind = 0 then complete r.rid st [] t
    else applyInsert r.rid (fld r.payload 28 4) (embedItems res offs (fld r.payload 24 2)) st t
  if kind = 1 then ok s else afterWrite r.rid (refWrite r (refAt r.payload 32) 0 (embedVectors res offs) s) ok s

/-- Byte offsets in a namespace of the records whose first byte lies in a range, up to the first lost unit; and the block at which it
stopped (R360). -/
def recordsFound (recLen : Nat) (delim : Byte) (x : Ns) (slba nlb : Nat) (s : State) : List Nat × Nat × Bool :=
  let bs := nsBlock x
  let us := (rangeFrom (slba * bs / iu) (((slba + nlb) * bs + iu - 1) / iu - slba * bs / iu)).filter fun u => unitMapped (nsUnit x u) s
  let good := us.takeWhile fun u => !(unitLost 0 (nsUnit x u) s)
  let offs := good.flatMap fun u => ((recordsOf recLen delim (Memory.readN 0 (unitData 0 (nsUnit x u) s) 0 iu)).map fun r => u * iu + r.1).filter fun o =>
    decide (slba * bs ≤ o) && decide (o < (slba + nlb) * bs)
  match us[good.length]? with
  | some u => (offs, max slba (u * iu / bs), true)
  | none => (offs, slba + nlb, false)

def embedDocs (res : EmbedReport) (r : Req) (s : State) : State :=
  let slba := fld r.payload 8 8
  let nlb := fld r.payload 16 4
  let rl := fld r.payload 20 2
  let kind := fld r.payload 23 1
  let base := embedBad r || decide (nlb = 0) || decide (2 ^ 24 < nlb) || decide (16384 < rl)
  if kind = 0 ∨ epochTurn r (fld r.payload 28 4) s = true then
    match nsFor r.mbx (fld r.payload 4 4) s with
    | none => checked r.rid [(base, stInvalidField), (true, stAccessDenied)] id s
    | some x =>
      let (offs, next, lost) := recordsFound rl (BitVec.ofNat 8 (fld r.payload 22 1)) x slba nlb s
      checked r.rid [(base || decide (x.nsze < slba + nlb) || outSmall res offs r, stInvalidField), (!(encoderOf r s), stEmbedNoModel), (decide (kind ≠ 0) && !(embedIndex r s), stEmbedNoIndex)]
        (embedFinish res next offs (if lost then stDataLost else stSuccess) r) s
  else s

/-- `DOCS`; the pooled outputs are what the encoder computed (log 3; 04 R156). -/
def execEmbedDocs (rid : Nat) (res : EmbedReport) (s : State) : Res := .next (serve 8 1 rid (embedDocs res) s)

def embedTokens (res : EmbedReport) (r : Req) (s : State) : State :=
  let kind := fld r.payload 23 1
  let x := refAt r.payload 48
  let offs := List.range res.records
  let base := embedBad r || outSmall res offs r || !(refReads x)
  let err := if base then none else if x.space = 0 then refDenied r x x.len [] s else if res.refused then some stAccessDenied else none
  if kind = 0 ∨ epochTurn r (fld r.payload 28 4) s = true then
    checked r.rid [(base, stInvalidField), (err.isSome, err.getD 0), (!(encoderOf r s), stEmbedNoModel), (decide (kind ≠ 0) && !(embedIndex r s), stEmbedNoIndex)]
      (fun t => embedFinish res 0 offs stSuccess r (refFill r x x.len t)) s
  else s

def execEmbedTokens (rid : Nat) (res : EmbedReport) (s : State) : Res := .next (serve 8 2 rid (embedTokens res) s)

end Sys2Proof.Machine
end

