-- ==== Sys2Proof/Machine/Tune.lean ====
section
/-! DEFINITION. The TUNE service (14 R430 to R433) and the events of its ring. -/
namespace Sys2Proof.Machine

def stNoAdapter : Nat := 0x8000
def stNoGroup : Nat := 0x8001
def stBusyTune : Nat := 0x8004

/-! ### Groups (R416, R418, R430) -/

/-- A `HELLO` whose mask matches makes the group ready, where the mask fits the ring (R403, R418). -/
def takeHello (g mask : Nat) (s : State) : State :=
  match groupOf g s with
  | none => s
  | some x =>
    let t := modGroup g (fun y => { y with hello := some mask }) s
    if mask = x.mask ∧ bit mask s.ports.pos = true ∧ mask < 2 ^ ropeN s then groupReady g t else t

def modHellos (f : Tbl Nat → Tbl Nat) (s : State) : State := { s with tune := { s.tune with hellos := f s.tune.hellos } }

def groupSetBody (r : Req) (s : State) : State :=
  let g := fld r.payload 0 2
  let mask := fld r.payload 2 2
  let c := fld r.payload 4 1
  let w := fld r.payload 6 2
  let k := (members mask).length
  let idx := ((members mask).idxOf? s.ports.pos).getD 0
  checked r.rid [
    (hasRef r || decide (g = 0 ∨ 1023 < g) || (groupOf g s).isSome || !(bit mask s.ports.pos) || decide (2 ^ ropeN s ≤ mask)
      || decide (c = 0 ∨ 63 < c) || !(slotAllocated c s) || decide (16 ≤ s.tune.groups.length) || (decide (w ≠ 0) && decide (w < 10 ∨ 60000 < w)), stInvalidField),
    (!(t1Fits c 67108864 s), stNoSpace)]
    (fun t =>
      let x : Group := ⟨g, mask, c, if w = 0 then 500 else w, k, idx, headroom k, false, none, 1, 0, 0, [], [], [], [], []⟩
      let t := { t with tune := { t.tune with groups := tset t.tune.groups g x } }
      let t := complete r.rid stSuccess (leBytes 1 k ++ leBytes 1 idx ++ leBytes 1 (headroom k) ++ zeros 5) t
      let u := sayHello g t
      match tget u.tune.hellos g with
      | some m => takeHello g m (modHellos (fun h => tdel h g) u)
      | none => u) s

def execTuneGroupSet (rid : Nat) (s : State) : Res := .next (serve 9 1 rid groupSetBody s)

def groupFreeBody (r : Req) (s : State) : State :=
  let g := fld r.payload 0 2
  checked r.rid [(hasRef r, stInvalidField), ((groupOf g s).isNone, stNoGroup), (s.tune.adapters.any fun e => decide (e.2.group = g), stBusyTune)]
    (fun t => complete r.rid stSuccess [] { t with tune := { t.tune with groups := tdel t.tune.groups g } }) s

def execTuneGroupFree (rid : Nat) (s : State) : Res := .next (serve 9 2 rid groupFreeBody s)

/-- A group that the requester may name: its own; context 0 any (R430, R433). -/
def groupFor (c g : Nat) (s : State) : Option Group :=
  match groupOf g s with
  | some x => if x.owner = c then some x else none
  | none => none

/-! ### Adapters (R414, R431) -/

/-- Q0 of a tensor from its seeded generator (R414). -/
def seedQ0 (seed : U64) (idx n : Nat) : List U32 :=
  let k : U64 := 0x9E3779B97F4A7C15
  let g := seed ^^^ BitVec.ofNat 64 (idx * k.toNat)
  let g := if g = 0 then k else g
  ((List.range n).foldl (fun (a : U64 × List U32) _ =>
    let s := srStep a.1
    let v := (s >>> 40).toNat
    (s, (if 2 ^ 23 ≤ v then roundF32 false (v - 2 ^ 23) (-23) else roundF32 true (2 ^ 23 - v) (-23)) :: a.2)) (g, [])).2.reverse

/-- Tensor entries of `ADAPTER_CREATE` (R431): address, rows, columns, format. -/
def tensorEntries (n : Nat) (bs : Bytes) : List (Nat × Nat × Nat × Nat) :=
  (List.range n).map fun i => (fld bs (32 * i) 8, fld bs (32 * i + 8) 4, fld bs (32 * i + 12) 4, fld bs (32 * i + 16) 1)

def tensorBad (r : Nat) (e : Nat × Nat × Nat × Nat) : Bool :=
  let (_, m, n, f) := e
  decide (m = 0 ∨ 65536 < m ∨ n = 0 ∨ 65536 < n ∨ (f ≠ 8 ∧ f ≠ 10)) || decide (min m n < r) || decide (4128768 < m * r ∨ 4128768 < n * r)

def adapterCreateBody (data : Bytes) (r : Req) (s : State) : State :=
  let g := fld r.payload 0 2
  let rank := fld r.payload 2 1
  let n := fld r.payload 4 2
  let atag := fld r.payload 8 4
  let ref := refAt r.payload 24
  let used := s.tune.adapters.any fun e => decide (e.2.group = g ∧ e.2.atag = atag)
  checked r.rid [
    (hasRef r || decide (rank = 0 ∨ 64 < rank ∨ n = 0 ∨ 1024 < n) || !(refReads ref) || decide (ref.len < 32 * n) || used, stInvalidField)]
    (fun t => match refRead r ref (32 * n) data t with
      | .error e => fail r.rid (checkStatus e) t
      | .ok (bs, t) =>
        let es := tensorEntries n bs
        let ts := es.zipIdx.map fun e => (⟨e.1.1, e.1.2.1, e.1.2.2.1, decide (e.1.2.2.2 = 10), seedQ0 (BitVec.ofNat 64 (fld r.payload 16 8)) e.2 (e.1.2.2.1 * rank),
          List.replicate (e.1.2.1 * e.1.2.2.1) 0⟩ : Tensor)
        let a : Adapter := ⟨r.mbx, g, rank, atag, ts⟩
        checked r.rid [(es.any (tensorBad rank), stInvalidField), ((groupFor r.mbx g t).isNone, stNoGroup), (!(t1Fits r.mbx (adapterT1 a) t), stNoSpace)]
          (fun u =>
            let h := 2 ^ 26 * r.mbx + u.tune.nextAdapter % 2 ^ 26
            let u := { u with tune := { u.tune with adapters := tset u.tune.adapters h a, nextAdapter := u.tune.nextAdapter + 1 } }
            complete r.rid stSuccess (leBytes 4 h ++ zeros 4 ++ leBytes 8 (adapterT1 a)) u) t) s

def execTuneAdapterCreate (rid : Nat) (data : Bytes) (s : State) : Res := .next (serve 9 3 rid (adapterCreateBody data) s)

/-- An adapter of the requester. -/
def adapterFor (c h : Nat) (s : State) : Option Adapter :=
  match adapterOf h s with
  | some a => if a.ctx = c then some a else none
  | none => none

def adapterFreeBody (r : Req) (s : State) : State :=
  let h := fld r.payload 0 4
  checked r.rid [(hasRef r, stInvalidField), ((adapterFor r.mbx h s).isNone, stNoAdapter),
    (s.tune.steps.any (fun x => decide (x.adapter = h) && !(x.tensors.all treated)), stBusyTune)]
    (fun t => complete r.rid stSuccess [] { t with tune := { t.tune with adapters := tdel t.tune.adapters h } }) s

def execTuneAdapterFree (rid : Nat) (s : State) : Res := .next (serve 9 4 rid adapterFreeBody s)

/-! ### Steps (R432) -/

/-- Gradient entries: tensor index, format, address. -/
def gradEntries (n : Nat) (bs : Bytes) : List (Nat × Nat × Nat) :=
  (List.range n).map fun i => (fld bs (16 * i) 2, fld bs (16 * i + 2) 1, fld bs (16 * i + 8) 8)

def gradBad (a : Adapter) (es : List (Nat × Nat × Nat)) : Bool :=
  es.any (fun e => decide (a.tensors.length ≤ e.1) || !(decide (e.2.1 = 8 ∨ e.2.1 = 9 ∨ e.2.1 = 10))) || decide ((es.map (·.1)).eraseDups.length < es.length)

/-- What reading G and W of an entry meets. -/
def gradCheck (a : Adapter) (e : Nat × Nat × Nat) (s : State) : Check :=
  match a.tensors[e.1]? with
  | none => .fine
  | some z =>
    match checkRead a.ctx e.2.2 (z.m * z.n * elemBytes e.2.1) s, checkRead a.ctx z.wAddr (z.m * z.n * (if z.fp32 then 4 else 2)) s with
    | .fine, c => c
    | c, _ => c

/-- No earlier accepted step of the group waits to be taken up: `step_seq` counts in acceptance order (R420, R432). -/
def stepTurn (r : Req) (g : Nat) (s : State) : Bool :=
  !(s.ledger.reqs.any fun q => decide (q.rid < r.rid ∧ q.svc = 9 ∧ q.op = 5) && q.done.isNone && q.settled.isNone && !q.running
    && (match adapterOf (fld q.payload 0 4) s with | some a => decide (a.group = g) | none => false))

/-- The step is accepted by its group: the next of its steps (R432). A lost page ends it with `DATA_LOST` and breaks its buckets. -/
def stepStart (r : Req) (h : Nat) (a : Adapter) (es : List (Nat × Nat × Nat)) (s : State) : State :=
  let n := match groupOf a.group s with | some x => x.stepSeq + 1 | none => 1
  let lost := es.any fun e => decide (gradCheck a e s = .lost)
  let x : TStep := ⟨r.rid, h, a.group, BitVec.ofNat 32 (fld r.payload 4 4), n, es.map (fun e => ⟨e.1, e.2.1, e.2.2, [], [], false, if lost then .broke else .wait⟩),
    0, 0, [], 0, 0, if lost then stDataLost else 0, 0, 0, lost, none⟩
  let t := modGroup a.group (fun y => { y with stepSeq := n }) { s with tune := { s.tune with steps := s.tune.steps ++ [x] } }
  let t := if lost then fail r.rid stDataLost t else setRunning r.rid t
  pumpGroup a.group t

def tuneStepBody (data : Bytes) (r : Req) (s : State) : State :=
  let h := fld r.payload 0 4
  let n := fld r.payload 8 2
  let ref := refAt r.payload 16
  let tooMany := match adapterFor r.mbx h s with | some a => decide (a.tensors.length < n) | none => false
  if (match adapterFor r.mbx h s with | some a => !(stepTurn r a.group s) | none => false) then s else
  checked r.rid [(hasRef r || decide (n = 0) || tooMany || !(refReads ref) || decide (ref.len < 16 * n), stInvalidField)]
    (fun t => match refRead r ref (16 * n) data t with
      | .error e => fail r.rid (checkStatus e) t
      | .ok (bs, t) =>
        match adapterFor r.mbx h t with
        | none => fail r.rid stNoAdapter t
        | some a =>
          let es := gradEntries n bs
          checked r.rid [(gradBad a es, stInvalidField), (es.any (fun e => decide (gradCheck a e t = .xlate)), stAccessDenied)] (stepStart r h a es) t) s

/-- `STEP`; `data` is the gradient table where it lies in control-node memory (log 3). -/
def execTuneStep (rid : Nat) (data : Bytes) (s : State) : Res := .next (serve 9 5 rid (tuneStepBody data) s)

/-- Reply of `QUERY` (R433). -/
def groupQuery (x : Group) : Bytes :=
  leBytes 1 (b2n x.ready) ++ leBytes 1 x.k ++ leBytes 1 x.index ++ leBytes 1 x.recs.length ++ leBytes 4 x.nextSeq ++ leBytes 4 x.broken ++ zeros 4
    ++ x.recs.flatMap fun b => leBytes 4 b.seq ++ leBytes 1 b.state ++ zeros 1 ++ leBytes 2 b.entries ++ leBytes 4 b.blocks ++ leBytes 4 b.growth ++ leBytes 4 b.grew ++ zeros 4

def tuneQueryBody (r : Req) (s : State) : State :=
  let g := fld r.payload 0 2
  match if r.mbx = 0 then groupOf g s else groupFor r.mbx g s with
  | some x => checked r.rid [(hasRef r, stInvalidField)] (complete r.rid stSuccess (groupQuery x)) s
  | none => checked r.rid [(hasRef r, stInvalidField), (true, stNoGroup)] id s

def execTuneQuery (rid : Nat) (s : State) : Res := .next (serve 9 6 rid tuneQueryBody s)

/-! ### The ring (R417, R418, R421, R423, R428) -/

/-- A `HELLO` is for a member; a module that its mask does not name relays it, one whose group is not set yet keeps its mask (R417; log
245). -/
def helloIn (g mask src : Nat) (s : State) : State :=
  if (groupOf g s).isSome then takeHello g mask s
  else if bit mask s.ports.pos then modHellos (fun h => tset h g mask) s
  else emit (.tune g ⟨kHello, 0, 0, mask, src, 0⟩) s

def execHello (g : Nat) (pk : TuneCtl) (s : State) : Res := .next (helloIn g pk.mask pk.src s)

/-- A `SLOT_GRANT` (R421); a module without the group relays it (R417). -/
def takeGrant (g seq src : Nat) (s : State) : State :=
  match groupOf g s with
  | none => emit (.tune g ⟨kGrant, 1, seq, 0, src, 0⟩) s
  | some x =>
    match bucketOf g seq s with
    | some _ => pumpGroup g (modBucket g seq (fun b => { b with granted := true }) s)
    | none => if x.nextSeq ≤ seq ∧ x.grants.contains seq = false then modGroup g (fun y => { y with grants := y.grants ++ [seq] }) s else s

def execSlotGrant (g : Nat) (pk : TuneCtl) (s : State) : Res := .next (takeGrant g pk.seq pk.src s)

/-- An `ABORT` breaks a bucket that is not applied; one for a bucket still to be closed breaks it at its close (R428, R429). -/
def takeAbort (g : Nat) (pk : TuneCtl) (s : State) : State :=
  let seq := pk.seq
  match groupOf g s with
  | none => emit (.tune g pk) s
  | some x =>
    match bucketOf g seq s with
    | some b =>
      if b.closed then pumpGroup g (breakBucket g seq 1 s)
      else if x.aborts.contains seq then s else modGroup g (fun y => { y with aborts := y.aborts ++ [seq] }) s
    | none => if x.nextSeq ≤ seq ∧ x.aborts.contains seq = false then modGroup g (fun y => { y with aborts := y.aborts ++ [seq] }) s else s

def execAbort (g : Nat) (pk : TuneCtl) (s : State) : Res := .next (takeAbort g pk s)

/-- A data packet: added to and sent on, or applied; kept until the bucket is closed here (R423, R424, R426). -/
def takeTuneData (g : Nat) (pk : TunePacket) (s : State) : State :=
  match groupOf g s with
  | none => emit (.tuneData g pk) s
  | some x =>
    match bucketOf g pk.seq s with
    | some _ => pumpGroup g (modBucket g pk.seq (fun b => { b with early := b.early ++ [pk] }) s)
    | none => if x.nextSeq ≤ pk.seq then modGroup g (fun y => { y with ahead := y.ahead ++ [pk] }) s else s

def execTuneDataPacket (g : Nat) (pk : TunePacket) (s : State) : Res := .next (takeTuneData g pk s)

/-- No up path to a neighbouring member for `wait_ms`: the bucket breaks with cause 0 (R428). -/
def execPathLossTimeout (g seq : Nat) (s : State) : Res :=
  .next (if (bucketOf g seq s).isSome then pumpGroup g (breakBucket g seq 0 s) else s)

end Sys2Proof.Machine
end

