-- ==== Sys2Proof/Machine/Dispatch.lean ====
section
/-! DEFINITION. What each command does: one arm per command, each a call of its meaning. -/
namespace Sys2Proof.Machine

/-- The effect of a command on everything but the queue of waiting commands. -/
def exec (i : Instr) (s : State) : Host.Outcome State Fault Refusal :=
  match i with
  | .powerOnReset => Sys2Proof.Machine.execPowerOnReset s
  | .boot r => Sys2Proof.Machine.execBoot r s
  | .freqChange dom khz => Sys2Proof.Machine.execFreqChange dom khz s
  | .currentFreqUpdate dom => Sys2Proof.Machine.execCurrentFreqUpdate dom s
  | .syncFifoFault src dst idx under work => Sys2Proof.Machine.execSyncFifoFault src dst idx under work s
  | .warmReset => Sys2Proof.Machine.execWarmReset s
  | .mailboxReset n => Sys2Proof.Machine.execMailboxReset n s
  | .mailboxResetDone n => Sys2Proof.Machine.execMailboxResetDone n s
  | .eventRingReset => Sys2Proof.Machine.execEventRingReset s
  | .evtCauseWrite v => Sys2Proof.Machine.execEvtCauseWrite v s
  | .evtRingSizeWrite v => Sys2Proof.Machine.execEvtRingSizeWrite v s
  | .evtRingConsWrite v => Sys2Proof.Machine.execEvtRingConsWrite v s
  | .eventWrite refused => Sys2Proof.Machine.execEventWrite refused s
  | .reqTailWrite n v => Sys2Proof.Machine.execReqTailWrite n v s
  | .rplHeadWrite n v => Sys2Proof.Machine.execRplHeadWrite n v s
  | .mbxStatRead n half => Sys2Proof.Machine.execMbxStatRead n half s
  | .linkStatRead p => Sys2Proof.Machine.execLinkStatRead p s
  | .registerWrite w => Sys2Proof.Machine.execRegisterWrite w s
  | .requestAccept n ue => Sys2Proof.Machine.execRequestAccept n ue s
  | .reply rid => Sys2Proof.Machine.execReply rid s
  | .timeout rid => Sys2Proof.Machine.execTimeout rid s
  | .adminIdentify rid => Sys2Proof.Machine.execAdminIdentify rid s
  | .adminIdentifyCaps rid => Sys2Proof.Machine.execAdminIdentifyCaps rid s
  | .adminReadCounters rid => Sys2Proof.Machine.execAdminReadCounters rid s
  | .adminCancel rid => Sys2Proof.Machine.execAdminCancel rid s
  | .adminNop rid => Sys2Proof.Machine.execAdminNop rid s
  | .adminRopeSet rid => Sys2Proof.Machine.execAdminRopeSet rid s
  | .adminPortQuery rid => Sys2Proof.Machine.execAdminPortQuery rid s
  | .adminPortCtrl rid t => Sys2Proof.Machine.execAdminPortCtrl rid t s
  | .adminMirrorAdopt rid => Sys2Proof.Machine.execAdminMirrorAdopt rid s
  | .ctxAlloc rid => Sys2Proof.Machine.execCtxAlloc rid s
  | .ctxConfig rid => Sys2Proof.Machine.execCtxConfig rid s
  | .ctxFree rid => Sys2Proof.Machine.execCtxFree rid s
  | .ctxQuery rid => Sys2Proof.Machine.execCtxQuery rid s
  | .ctxSuspend rid => Sys2Proof.Machine.execCtxSuspend rid s
  | .ctxResume rid => Sys2Proof.Machine.execCtxResume rid s
  | .semAlloc rid => Sys2Proof.Machine.execSemAlloc rid s
  | .semFree rid => Sys2Proof.Machine.execSemFree rid s
  | .schedSet rid => Sys2Proof.Machine.execSchedSet rid s
  | .ldw e => Sys2Proof.Machine.execLdw e s
  | .strm e tagFault => Sys2Proof.Machine.execStrm e tagFault s
  | .drn e => Sys2Proof.Machine.execDrn e s
  | .addVec e => Sys2Proof.Machine.execAddVec e s
  | .mulVec e => Sys2Proof.Machine.execMulVec e s
  | .addImm e => Sys2Proof.Machine.execAddImm e s
  | .mulImm e => Sys2Proof.Machine.execMulImm e s
  | .relu e => Sys2Proof.Machine.execRelu e s
  | .gelu e => Sys2Proof.Machine.execGelu e s
  | .silu e => Sys2Proof.Machine.execSilu e s
  | .clamp e => Sys2Proof.Machine.execClamp e s
  | .deq e => Sys2Proof.Machine.execDeq e s
  | .addRows e => Sys2Proof.Machine.execAddRows e s
  | .scq e => Sys2Proof.Machine.execScq e s
  | .streamRecordApply e => Sys2Proof.Machine.execStreamRecordApply e s
  | .fence e => Sys2Proof.Machine.execFence e s
  | .wait e => Sys2Proof.Machine.execWait e s
  | .inc e => Sys2Proof.Machine.execInc e s
  | .signal e => Sys2Proof.Machine.execSignal e s
  | .run e => Sys2Proof.Machine.execRun e s
  | .stopRequest e => Sys2Proof.Machine.execStopRequest e s
  | .engineStopped e => Sys2Proof.Machine.execEngineStopped e s
  | .skip e => Sys2Proof.Machine.execSkip e s
  | .clr e => Sys2Proof.Machine.execClr e s
  | .clearDone e => Sys2Proof.Machine.execClearDone e s
  | .seqTailWrite e v => Sys2Proof.Machine.execSeqTailWrite e v s
  | .syncInc e v => Sys2Proof.Machine.execSyncInc e v s
  | .syncCntWrite e k v => Sys2Proof.Machine.execSyncCntWrite e k v s
  | .engFaultClear e v => Sys2Proof.Machine.execEngFaultClear e v s
  | .eccUe e busy onRead => Sys2Proof.Machine.execEccUe e busy onRead s
  | .spareReplace e => Sys2Proof.Machine.execSpareReplace e s
  | .tspawn h rd rs1 => Sys2Proof.Machine.execTspawn h rd rs1 s
  | .tjoin h rd rs1 => Sys2Proof.Machine.execTjoin h rd rs1 s
  | .tjoinTimeout h => Sys2Proof.Machine.execTjoinTimeout h s
  | .tend h => Sys2Proof.Machine.execTend h s
  | .taskletFault h mcause tval => Sys2Proof.Machine.execTaskletFault h mcause tval s
  | .taskletStart c h => Sys2Proof.Machine.execTaskletStart c h s
  | .pfstream h rs1 rs2 => Sys2Proof.Machine.execPfstream h rs1 rs2 s
  | .pfstop h rs1 => Sys2Proof.Machine.execPfstop h rs1 s
  | .pfind h rs1 rs2 => Sys2Proof.Machine.execPfind h rs1 rs2 s
  | .vxpopcVv h vd vs2 s1 vm => Sys2Proof.Machine.execVxpopcVv h vd vs2 s1 vm s
  | .vxpopcVx h vd vs2 s1 vm => Sys2Proof.Machine.execVxpopcVx h vd vs2 s1 vm s
  | .vxpopcaccVv h vd vs2 s1 vm => Sys2Proof.Machine.execVxpopcaccVv h vd vs2 s1 vm s
  | .vxpopcaccVx h vd vs2 s1 vm => Sys2Proof.Machine.execVxpopcaccVx h vd vs2 s1 vm s
  | .coreFence h pred succ => Sys2Proof.Machine.execCoreFence h pred succ s
  | .tdFaultsRead c => Sys2Proof.Machine.execTdFaultsRead c s
  | .signalDispatch d => Sys2Proof.Machine.execSignalDispatch d s
  | .signalRetry d => Sys2Proof.Machine.execSignalRetry d s
  | .dmaTailWrite e v => Sys2Proof.Machine.execDmaTailWrite e v s
  | .dmaDescriptor e => Sys2Proof.Machine.execDmaDescriptor e s
  | .tqTailWrite c v => Sys2Proof.Machine.execTqTailWrite c v s
  | .tierCopy c => Sys2Proof.Machine.execTierCopy c s
  | .tierDecompress c => Sys2Proof.Machine.execTierDecompress c s
  | .tierCompress c => Sys2Proof.Machine.execTierCompress c s
  | .tierZero c => Sys2Proof.Machine.execTierZero c s
  | .workObserved c => Sys2Proof.Machine.execWorkObserved c s
  | .switch out inn us => Sys2Proof.Machine.execSwitch out inn us s
  | .beSliceExpiry c => Sys2Proof.Machine.execBeSliceExpiry c s
  | .lcIdleExpiry c => Sys2Proof.Machine.execLcIdleExpiry c s
  | .acquire h sem wait => Sys2Proof.Machine.execAcquire h sem wait s
  | .tryAcquire h sem => Sys2Proof.Machine.execTryAcquire h sem s
  | .release h sem => Sys2Proof.Machine.execRelease h sem s
  | .semTimeout h sem => Sys2Proof.Machine.execSemTimeout h sem s
  | .donatedRun h sem => Sys2Proof.Machine.execDonatedRun h sem s
  | .semHolderStarved sem => Sys2Proof.Machine.execSemHolderStarved sem s
  | .modelLoad rid img => Sys2Proof.Machine.execModelLoad rid img s
  | .modelUnload rid => Sys2Proof.Machine.execModelUnload rid s
  | .modelQuery rid => Sys2Proof.Machine.execModelQuery rid s
  | .modelBatchCfg rid => Sys2Proof.Machine.execModelBatchCfg rid s
  | .stepBoundary m step => Sys2Proof.Machine.execStepBoundary m step s
  | .reshard sess => Sys2Proof.Machine.execReshard sess s
  | .retrievalWaitExpiry sess block => Sys2Proof.Machine.execRetrievalWaitExpiry sess block s
  | .agentCreate rid => Sys2Proof.Machine.execAgentCreate rid s
  | .agentAppend rid toks => Sys2Proof.Machine.execAgentAppend rid toks s
  | .agentGenerate rid => Sys2Proof.Machine.execAgentGenerate rid s
  | .agentPause rid => Sys2Proof.Machine.execAgentPause rid s
  | .agentResume rid => Sys2Proof.Machine.execAgentResume rid s
  | .agentSnapshot rid => Sys2Proof.Machine.execAgentSnapshot rid s
  | .agentFork rid => Sys2Proof.Machine.execAgentFork rid s
  | .agentClose rid => Sys2Proof.Machine.execAgentClose rid s
  | .agentQuery rid => Sys2Proof.Machine.execAgentQuery rid s
  | .snapshotCommit sess => Sys2Proof.Machine.execSnapshotCommit sess s
  | .mirrorDone sess seq => Sys2Proof.Machine.execMirrorDone sess seq s
  | .mirrorUnavailable sess => Sys2Proof.Machine.execMirrorUnavailable sess s
  | .embedDocs rid res => Sys2Proof.Machine.execEmbedDocs rid res s
  | .embedTokens rid res => Sys2Proof.Machine.execEmbedTokens rid res s
  | .memoryAlloc rid => Sys2Proof.Machine.execMemoryAlloc rid s
  | .memoryFree rid => Sys2Proof.Machine.execMemoryFree rid s
  | .memorySeal rid racing => Sys2Proof.Machine.execMemorySeal rid racing s
  | .memoryClone rid => Sys2Proof.Machine.execMemoryClone rid s
  | .memoryPlace rid reads => Sys2Proof.Machine.execMemoryPlace rid reads s
  | .memoryQuery rid => Sys2Proof.Machine.execMemoryQuery rid s
  | .memoryUsage rid => Sys2Proof.Machine.execMemoryUsage rid s
  | .memoryQuota rid => Sys2Proof.Machine.execMemoryQuota rid s
  | .memoryMigCfg rid => Sys2Proof.Machine.execMemoryMigCfg rid s
  | .cowPromotion c va => Sys2Proof.Machine.execCowPromotion c va s
  | .fill c va ok => Sys2Proof.Machine.execFill c va ok s
  | .migrationEpoch => Sys2Proof.Machine.execMigrationEpoch s
  | .pageMove pid => Sys2Proof.Machine.execPageMove pid s
  | .migFailRead => Sys2Proof.Machine.execMigFailRead s
  | .t1Pressure => Sys2Proof.Machine.execT1Pressure s
  | .t2Pressure => Sys2Proof.Machine.execT2Pressure s
  | .dramRead k addr c heal => Sys2Proof.Machine.execDramRead k addr c heal s
  | .patrolRead k heal => Sys2Proof.Machine.execPatrolRead k heal s
  | .remapInstall k addr => Sys2Proof.Machine.execRemapInstall k addr s
  | .pageRetired t2 page pid => Sys2Proof.Machine.execPageRetired t2 page pid s
  | .lpddrPackageLoss p => Sys2Proof.Machine.execLpddrPackageLoss p s
  | .eccCeCntRead k ue => Sys2Proof.Machine.execEccCeCntRead k ue s
  | .eccFlipCtrlWrite k v c => Sys2Proof.Machine.execEccFlipCtrlWrite k v c s
  | .flipApply k addr => Sys2Proof.Machine.execFlipApply k addr s
  | .writeAccept src => Sys2Proof.Machine.execWriteAccept src s
  | .stripeProgram sb units failBlock => Sys2Proof.Machine.execStripeProgram sb units failBlock s
  | .fold => Sys2Proof.Machine.execFold s
  | .garbageCollection dst => Sys2Proof.Machine.execGarbageCollection dst s
  | .wearLevelling dst => Sys2Proof.Machine.execWearLevelling dst s
  | .journalPageProgram => Sys2Proof.Machine.execJournalPageProgram s
  | .mapSegmentWrite seg => Sys2Proof.Machine.execMapSegmentWrite seg s
  | .dynCacheRecompute => Sys2Proof.Machine.execDynCacheRecompute s
  | .flashRead unit step => Sys2Proof.Machine.execFlashRead unit step s
  | .mediaScan blocks => Sys2Proof.Machine.execMediaScan blocks s
  | .blockRetired blk cause => Sys2Proof.Machine.execBlockRetired blk cause s
  | .nandDieFailed ch d silent => Sys2Proof.Machine.execNandDieFailed ch d silent s
  | .dieRebuildDone ch d => Sys2Proof.Machine.execDieRebuildDone ch d s
  | .abseil complete ms => Sys2Proof.Machine.execAbseil complete ms s
  | .holdupMeasure cUf reached => Sys2Proof.Machine.execHoldupMeasure cUf reached s
  | .storeAdmin rid data prps refused => Sys2Proof.Machine.execStoreAdmin rid data prps refused s
  | .storeQpCreate rid => Sys2Proof.Machine.execStoreQpCreate rid s
  | .storeQpDelete rid => Sys2Proof.Machine.execStoreQpDelete rid s
  | .storeQpQuery rid => Sys2Proof.Machine.execStoreQpQuery rid s
  | .qpDoorbell q => Sys2Proof.Machine.execQpDoorbell q s
  | .sqFetch q sqe => Sys2Proof.Machine.execSqFetch q sqe s
  | .flush q => Sys2Proof.Machine.execFlush q s
  | .write q data refused => Sys2Proof.Machine.execWrite q data refused s
  | .read q prps refused => Sys2Proof.Machine.execRead q prps refused s
  | .compare q data refused => Sys2Proof.Machine.execCompare q data refused s
  | .writeZeroes q => Sys2Proof.Machine.execWriteZeroes q s
  | .datasetManagement q data refused => Sys2Proof.Machine.execDatasetManagement q data refused s
  | .vendorScan q prps refused => Sys2Proof.Machine.execVendorScan q prps refused s
  | .vendorSearch q code prps refused => Sys2Proof.Machine.execVendorSearch q code prps refused s
  | .getLogPage rid prps refused => Sys2Proof.Machine.execGetLogPage rid prps refused s
  | .nvmeIdentify rid prps refused => Sys2Proof.Machine.execNvmeIdentify rid prps refused s
  | .setFeatures rid => Sys2Proof.Machine.execSetFeatures rid s
  | .getFeatures rid => Sys2Proof.Machine.execGetFeatures rid s
  | .namespaceCreate rid data refused => Sys2Proof.Machine.execNamespaceCreate rid data refused s
  | .namespaceDelete rid => Sys2Proof.Machine.execNamespaceDelete rid s
  | .namespaceAttach rid data refused => Sys2Proof.Machine.execNamespaceAttach rid data refused s
  | .namespaceDetach rid data refused => Sys2Proof.Machine.execNamespaceDetach rid data refused s
  | .keepAlive rid => Sys2Proof.Machine.execKeepAlive rid s
  | .storeKeepAliveExpired c => Sys2Proof.Machine.execStoreKeepAliveExpired c s
  | .cryptoErase rid => Sys2Proof.Machine.execCryptoErase rid s
  | .blockErase rid => Sys2Proof.Machine.execBlockErase rid s
  | .storeSanitizeDone => Sys2Proof.Machine.execStoreSanitizeDone s
  | .storeCqNotify q => Sys2Proof.Machine.execStoreCqNotify q s
  | .scanProgLoad rid prog => Sys2Proof.Machine.execScanProgLoad rid prog s
  | .scanProgFree rid => Sys2Proof.Machine.execScanProgFree rid s
  | .scanRun rid => Sys2Proof.Machine.execScanRun rid s
  | .pageEvaluate ch unit prog disagree => Sys2Proof.Machine.execPageEvaluate ch unit prog disagree s
  | .searchCreate rid => Sys2Proof.Machine.execSearchCreate rid s
  | .searchDrop rid => Sys2Proof.Machine.execSearchDrop rid s
  | .searchInsert rid data => Sys2Proof.Machine.execSearchInsert rid data s
  | .searchDelete rid data => Sys2Proof.Machine.execSearchDelete rid data s
  | .searchQuery rid data => Sys2Proof.Machine.execSearchQuery rid data s
  | .searchMerge rid => Sys2Proof.Machine.execSearchMerge rid s
  | .searchInfo rid => Sys2Proof.Machine.execSearchInfo rid s
  | .epochAdvance idx => Sys2Proof.Machine.execEpochAdvance idx s
  | .mergeDone idx g => Sys2Proof.Machine.execMergeDone idx g s
  | .flitReceive p f => Sys2Proof.Machine.execFlitReceive p f s
  | .nak p seq => Sys2Proof.Machine.execNak p seq s
  | .ackTimer p => Sys2Proof.Machine.execAckTimer p s
  | .retrain p t => Sys2Proof.Machine.execRetrain p t s
  | .training p t => Sys2Proof.Machine.execTraining p t s
  | .linkDown p => Sys2Proof.Machine.execLinkDown p s
  | .trainRetry p => Sys2Proof.Machine.execTrainRetry p s
  | .keyUpdatePhase p tc3 => Sys2Proof.Machine.execKeyUpdatePhase p tc3 s
  | .packetRead pk => Sys2Proof.Machine.execPacketRead pk s
  | .packetWrite pk data => Sys2Proof.Machine.execPacketWrite pk data s
  | .readData pk data => Sys2Proof.Machine.execReadData pk data s
  | .writeAck pk => Sys2Proof.Machine.execWriteAck pk s
  | .remoteAccessTimeout ptag => Sys2Proof.Machine.execRemoteAccessTimeout ptag s
  | .creditReturn p vc n => Sys2Proof.Machine.execCreditReturn p vc n s
  | .ropeHeartbeatSend => Sys2Proof.Machine.execRopeHeartbeatSend s
  | .ropeHeartbeatReceive p pos hops exit st => Sys2Proof.Machine.execRopeHeartbeatReceive p pos hops exit st s
  | .peerLost pos => Sys2Proof.Machine.execPeerLost pos s
  | .tuneGroupSet rid => Sys2Proof.Machine.execTuneGroupSet rid s
  | .tuneGroupFree rid => Sys2Proof.Machine.execTuneGroupFree rid s
  | .tuneAdapterCreate rid data => Sys2Proof.Machine.execTuneAdapterCreate rid data s
  | .tuneAdapterFree rid => Sys2Proof.Machine.execTuneAdapterFree rid s
  | .tuneStep rid data => Sys2Proof.Machine.execTuneStep rid data s
  | .tuneQuery rid => Sys2Proof.Machine.execTuneQuery rid s
  | .hello g pk => Sys2Proof.Machine.execHello g pk s
  | .slotGrant g pk => Sys2Proof.Machine.execSlotGrant g pk s
  | .abort g pk => Sys2Proof.Machine.execAbort g pk s
  | .tuneDataPacket g pk => Sys2Proof.Machine.execTuneDataPacket g pk s
  | .pathLossTimeout g seq => Sys2Proof.Machine.execPathLossTimeout g seq s
  | .getVersion p => Sys2Proof.Machine.execGetVersion p s
  | .getCapabilities p => Sys2Proof.Machine.execGetCapabilities p s
  | .negotiateAlgorithms p => Sys2Proof.Machine.execNegotiateAlgorithms p s
  | .getDigests p => Sys2Proof.Machine.execGetDigests p s
  | .getCertificate p => Sys2Proof.Machine.execGetCertificate p s
  | .challenge p torn => Sys2Proof.Machine.execChallenge p torn s
  | .getMeasurements p index signed => Sys2Proof.Machine.execGetMeasurements p index signed s
  | .keyExchange p sid ok => Sys2Proof.Machine.execKeyExchange p sid ok s
  | .finish p ok => Sys2Proof.Machine.execFinish p ok s
  | .heartbeat p => Sys2Proof.Machine.execHeartbeat p s
  | .keyUpdate p => Sys2Proof.Machine.execKeyUpdate p s
  | .endSession p => Sys2Proof.Machine.execEndSession p s
  | .sessionHeartbeatLapse => Sys2Proof.Machine.execSessionHeartbeatLapse s
  | .secInfo rid => Sys2Proof.Machine.execSecInfo rid s
  | .secAdmit rid => Sys2Proof.Machine.execSecAdmit rid s
  | .secReject rid => Sys2Proof.Machine.execSecReject rid s
  | .secFkeyRotate rid => Sys2Proof.Machine.execSecFkeyRotate rid s
  | .secFkeyStatus rid => Sys2Proof.Machine.execSecFkeyStatus rid s
  | .secDebugNonce rid => Sys2Proof.Machine.execSecDebugNonce rid s
  | .secDebugUnlock rid tok sigOk => Sys2Proof.Machine.execSecDebugUnlock rid tok sigOk s
  | .secRecover rid tok sigOk => Sys2Proof.Machine.execSecRecover rid tok sigOk s
  | .reencryptionPass ns id => Sys2Proof.Machine.execReencryptionPass ns id s
  | .secTamper src => Sys2Proof.Machine.execSecTamper src s
  | .scrub => Sys2Proof.Machine.execScrub s
  | .scrubEnd overrun => Sys2Proof.Machine.execScrubEnd overrun s
  | .feedLost f cause => Sys2Proof.Machine.execFeedLost f cause s
  | .feedRestored f => Sys2Proof.Machine.execFeedRestored f s
  | .efuseTrip f current => Sys2Proof.Machine.execEfuseTrip f current s
  | .holdupTakeover => Sys2Proof.Machine.execHoldupTakeover s
  | .dischargeLoad => Sys2Proof.Machine.execDischargeLoad s
  | .powerQuery rid => Sys2Proof.Machine.execPowerQuery rid s
  | .powerSetCap rid => Sys2Proof.Machine.execPowerSetCap rid s
  | .powerSetState rid => Sys2Proof.Machine.execPowerSetState rid s
  | .wake => Sys2Proof.Machine.execWake s
  | .idleEntry => Sys2Proof.Machine.execIdleEntry s
  | .capMissed meanW => Sys2Proof.Machine.execCapMissed meanW s
  | .throttle unit up => Sys2Proof.Machine.execThrottle unit up s
  | .junctionTrip sensorHot => Sys2Proof.Machine.execJunctionTrip sensorHot s
  | .railFault rail => Sys2Proof.Machine.execRailFault rail s
  | .coolantWarn start => Sys2Proof.Machine.execCoolantWarn start s
  | .emergency start => Sys2Proof.Machine.execEmergency start s
  | .modResetN cycles hold cool => Sys2Proof.Machine.execModResetN cycles hold cool s
  | .modWakeN cycles => Sys2Proof.Machine.execModWakeN cycles s
  | .sbAlertStatWrite v => Sys2Proof.Machine.execSbAlertStatWrite v s
  | .alertResponse => Sys2Proof.Machine.execAlertResponse s
  | .faKey1 v => Sys2Proof.Machine.execFaKey1 v s
  | .faKey2 v => Sys2Proof.Machine.execFaKey2 v s
  | .faProgram addr data => Sys2Proof.Machine.execFaProgram addr data s
  | .faSectorErase addr => Sys2Proof.Machine.execFaSectorErase addr s
  | .faBankErase addr => Sys2Proof.Machine.execFaBankErase addr s
  | .faSuspend addr => Sys2Proof.Machine.execFaSuspend addr s
  | .faResume addr => Sys2Proof.Machine.execFaResume addr s
  | .faReadId addr => Sys2Proof.Machine.execFaReadId addr s
  | .faClearStatus addr => Sys2Proof.Machine.execFaClearStatus addr s
  | .faRelock off v => Sys2Proof.Machine.execFaRelock off v s
  | .faOperationDone ok => Sys2Proof.Machine.execFaOperationDone ok s
  | .faRead addr fails => Sys2Proof.Machine.execFaRead addr fails s
  | .faRetryRead => Sys2Proof.Machine.execFaRetryRead s
  | .busyFetchTrap addr => Sys2Proof.Machine.execBusyFetchTrap addr s
  | .recordSectorErase j => Sys2Proof.Machine.execRecordSectorErase j s
  | .fwupQuery rid => Sys2Proof.Machine.execFwupQuery rid s
  | .fwupStage rid img => Sys2Proof.Machine.execFwupStage rid img s
  | .fwupActivate rid found us => Sys2Proof.Machine.execFwupActivate rid found us s
  | .fwupInvalidate rid => Sys2Proof.Machine.execFwupInvalidate rid s
  | .pendingActivation found us => Sys2Proof.Machine.execPendingActivation found us s
  | .componentRestart comp cause regions => Sys2Proof.Machine.execComponentRestart comp cause regions s
  | .belayTakeover cause selfTest => Sys2Proof.Machine.execBelayTakeover cause selfTest s
  | .prepCoreRetire core badHarts => Sys2Proof.Machine.execPrepCoreRetire core badHarts s
  | .dieLost d => Sys2Proof.Machine.execDieLost d s
  | .safeState => Sys2Proof.Machine.execSafeState s
  | .cairnQuery rid => Sys2Proof.Machine.execCairnQuery rid s
  | .cairnList rid => Sys2Proof.Machine.execCairnList rid s
  | .cairnRelease rid => Sys2Proof.Machine.execCairnRelease rid s
  | .windowClose inst => Sys2Proof.Machine.execWindowClose inst s
  | .monList rid => Sys2Proof.Machine.execMonList rid s
  | .monRead rid => Sys2Proof.Machine.execMonRead rid s
  | .monConfig rid => Sys2Proof.Machine.execMonConfig rid s
  | .monInjEnable rid => Sys2Proof.Machine.execMonInjEnable rid s
  | .monInject rid => Sys2Proof.Machine.execMonInject rid s
  | .monInjClear rid => Sys2Proof.Machine.execMonInjClear rid s
  | .injectFired handle => Sys2Proof.Machine.execInjectFired handle s
  | .sensorOverrideExpiry inst => Sys2Proof.Machine.execSensorOverrideExpiry inst s
  | .debugMemRead rid => Sys2Proof.Machine.execDebugMemRead rid s
  | .debugMemWrite rid => Sys2Proof.Machine.execDebugMemWrite rid s
  | .debugHartHalt rid => Sys2Proof.Machine.execDebugHartHalt rid s
  | .debugHartResume rid => Sys2Proof.Machine.execDebugHartResume rid s
  | .debugHartState rid => Sys2Proof.Machine.execDebugHartState rid s
  | .debugRegRead rid => Sys2Proof.Machine.execDebugRegRead rid s
  | .debugRegWrite rid => Sys2Proof.Machine.execDebugRegWrite rid s
  | .jtagAccess boundary reg write val => Sys2Proof.Machine.execJtagAccess boundary reg write val s
  | .modResetNRelease => Sys2Proof.Machine.execModResetNRelease s
  | .standbyReady => Sys2Proof.Machine.execStandbyReady s
  | .lightLost p => Sys2Proof.Machine.execLightLost p s
  | .sensorSample inst v => Sys2Proof.Machine.execSensorSample inst v s
  | .trackerEntryExpiry k t => Sys2Proof.Machine.execTrackerEntryExpiry k t s

end Sys2Proof.Machine
end

