-- ==== Sys2Proof/Machine/Ezdun.lean ====
section
/-! DEFINITION. What a hart does with a word of the Ezdun major opcodes that it fetches (05 R168): the instruction that the word spells,
else the illegal-instruction trap. -/
namespace Sys2Proof.Machine

/-- A fetched word of the Ezdun opcodes, executed: the trap gives `mtval` 0 (log 223). -/
def runEzdun (h w : Nat) (s : State) : Res :=
  match decodeEzdun h w with
  | some i => exec i s
  | none => .next (if isEzdun w then onHart h (trapTask h 2 0) s else s)

end Sys2Proof.Machine
end

