-- ==== Sys2Proof/Machine/Idle.lean ====
section
/-! DEFINITION. What happens in an interval in which no command waits (log 1): timers expire, a handover ends, the counters advance,
the scan results drain, loads, prefills and restores go on, the ports send. -/
namespace Sys2Proof.Machine

/-- The requests whose expiry cycle has come expire (02 R75, R76). -/
def expireDue (s : State) : State :=
  let now := clockNow domMgmt s
  if s.ledger.reqs.any fun r => timed r && decide (expiry r ≤ now) then pumpAll (expireBefore (now + 1) s) else s

/-- Keep-alive timers and notification time limits of the STORE service that have come: an acceptance of their cycle was before (11 R354,
R357). -/
def storeTimers (s : State) : State :=
  let now := clockNow domMgmt s
  let t := (s.store.feat.filter fun e => decide (e.2.kato ≠ 0 ∧ e.2.katoFrom + e.2.kato * 1000000 ≤ now)).foldl (fun t e => keepAliveExpired e.1 t) s
  (t.store.qps.filter fun (e : Nat × Qp) => e.2.ien && decide (0 < e.2.unnotified ∧ e.2.firstAt + (featOf e.2.ctx t).time * 100000 ≤ now)).foldl (fun t e => cqTimeLimit e.1 t) t

/-- A handover under way, or a reset that waited for the end of a state, takes its course (02 R56, R58). -/
def endStates (s : State) : State := if s.host.ifState = .handover then handoverEnd s else carryReset s

/-- A scrub that is due starts; a running one ends with its last cycle (15 R457). -/
def scrubTimes (s : State) : State :=
  match scrubOver s with
  | none => startScrub s
  | some e => if e ≤ clockNow domMgmt s then scrubEnd false s else s

/-- Agents' work in progress goes on: loads, prefill chunks, the restore that started first (07 R222, R226, R246). -/
def agentWork (s : State) : State :=
  let t := s.agents.sess.foldl (fun t e => advanceChunk e.1 t) (loadProgress s)
  let t := pumpResumes t.agents.resWait.length (pumpSnaps t.agents.snapWait.length t)
  match t.agents.resRun with
  | id :: _ => restoreDone id t
  | [] => t

/-- Firmware's work in progress goes on while services run: a `STAGE`, an activation, agents' work. -/
def continueWork (s : State) : State := if servicesRun s.host.ifState then activationStep (stageStep (agentWork s)) else s

/-- Flits that waited for room in a replay buffer are passed on; during a scrub they wait (13 R387, R409). -/
def goOnForward (s : State) : State := if s.host.ifState = .scrub ∨ s.ports.heldFwd.isEmpty = true then s else releaseFwd s

/-- The interval (log 1) (log 203). -/
def idle (s : State) : State := [0, 1, 2, 3, 4].foldl (fun t p => sendOne p t) (continueWork (goOnForward (drainScan (tick (wakeAfter (scrubTimes (endStates (storeTimers (expireDue (overridesDue s))))))))))

end Sys2Proof.Machine
end

