-- ==== Sys2Proof/Safety.lean ====
section
/-! DEFINITION. What counts as a safe step: the block answers a next state; and what the security state machine may hold. -/
namespace Sys2Proof

/-- A command is executed from a state: the block neither faults nor refuses. -/
def Executes (i : Instr) (s : Machine.State) : Prop := ∃ t, Machine.exec i s = .next t

/-- A step of the block is safe. -/
def SafeStep (s : Machine.State) : Prop := ∃ t, Machine.step s = .next t

/-- The five pairs of security and debug state that exist (15 R438). -/
def SecPair (x : Machine.SecState) (d : Machine.DbgState) : Prop :=
  (x = .blank ∧ d = .open) ∨ (x = .provisioned ∧ d = .sealed) ∨ (x = .admitted ∧ d = .sealed) ∨ (x = .quarantined ∧ d = .sealed)
    ∨ (x = .quarantined ∧ d = .unlocked)

/-- The security state machine is sound (15 R438, R439, R456, R459): one of the five pairs; a cause is set exactly where the module is
Quarantined or is due to be after a scrub, which a Blank module never is; Unlocked, and an unlock that waits, stand on `DEBUG`. -/
def SecOk (s : Machine.State) : Prop :=
  SecPair s.sec.sec s.sec.dbg ∧ (s.sec.causes ≠ 0 ↔ s.sec.sec = .quarantined ∨ s.sec.quarantineNext = true)
    ∧ (s.sec.quarantineNext = true → s.sec.sec ≠ .blank) ∧ (s.sec.dbg = .unlocked ∨ s.sec.unlock.isSome = true → Machine.bit s.sec.causes 2 = true)

end Sys2Proof
end

