-- ==== Sys2Proof/WellFormed.lean ====
section
/-! DEFINITION. Which commands are well formed: every operand within the range that the spec gives what it names. A
well-formed command says nothing of the state; a command that names something absent has no effect (log 5). -/
namespace Sys2Proof

/-- Ranges of what operands name: engines 20·die + peng (03 R121), harts (05 R160), context slots and mailboxes (06 R191),
ports, peer ports (13 R384), semaphores (06 R212), queue pairs 1024·context + identifier (11 R329), compute dies. -/
def Wf.eng (e : Nat) : Bool := decide (e < 80)
def Wf.hart (h : Nat) : Bool := decide (h < 2048)
def Wf.slot (c : Nat) : Bool := decide (c < 64)
def Wf.port (p : Nat) : Bool := decide (p < 5)
def Wf.peer (p : Nat) : Bool := decide (1 ≤ p ∧ p < 5)
def Wf.sem (n : Nat) : Bool := decide (n < 16384)
def Wf.qp (q : Nat) : Bool := decide (q < 65536)
def Wf.die (d : Nat) : Bool := decide (d < 4)
def Wf.reg (r : Nat) : Bool := decide (r < 32)

/-- A clock domain identifier (01 R46). -/
def Wf.dom (d : Nat) : Bool :=
  decide (d < 9) || decide (0x10 ≤ d ∧ d ≤ 0x18) || decide (0x20 ≤ d ∧ d ≤ 0x44) || decide (d = 0x48 ∨ d = 0x49)

/-- An ECC controller: DRAM, SRAM (09 R281, R294). -/
def Wf.dram (k : Nat) : Bool := decide (k < 8) || decide (16 ≤ k ∧ k < 32)
def Wf.ctl (k : Nat) : Bool := Wf.dram k || decide (256 ≤ k ∧ k ≤ 345) || decide (512 ≤ k ∧ k < 1024)
/-- A flash channel controller. -/
def Wf.flashCtl (k : Nat) : Bool := decide (1024 ≤ k ∧ k < 1056)

/-- A codeword has 80 symbols in DRAM, 72 bits in SRAM (09 R281); only DRAM has elements (R282). -/
def DramHeal.wf (k : Nat) (h : DramHeal) : Bool := decide (h.symbols ≤ (if k < 32 then 80 else 72)) && (Wf.dram k || h.element.isNone)

/-- Blocks that lie in the windows of 05 R165. -/
def Blk.inWindow : Blk → Bool
  | .engine | .engineMemory | .dma | .taskletPage | .tierPage | .semPage | .streamPage => true
  | _ => false

/-- A register access has a size of R54 and R166, and names a unit that its block has. -/
def RegWrite.wf (w : RegWrite) : Bool :=
  (decide (w.size = 1 ∨ w.size = 2 ∨ w.size = 4 ∨ w.size = 8))
    && (match w.onBehalf with | some c => Wf.slot c | none => true)
    && (match w.hart with | some h => Wf.hart h && w.blk.inWindow | none => true)
    && (match w.blk with
      | .controlWindow => decide (w.off < 0x10000)
      | .engine => Wf.eng w.unit && decide (w.off < 0x1000)
      | .engineMemory => Wf.eng w.unit && decide (w.off < 0x200000)
      | .hart => Wf.hart w.unit && decide (w.off < 0x1040)
      | .dma => Wf.eng w.unit && decide (w.off < 0x100)
      | .taskletPage => Wf.slot w.unit && decide (w.off < 0x1000)
      | .tierPage => Wf.slot w.unit && decide (w.off < 0x1000)
      | .semPage => Wf.hart w.unit && decide (w.off < 0x1000)
      | .streamPage => Wf.slot w.unit && decide (w.off < 0x1000)
      | .migration => decide (w.off < 0x1000)
      | .ecc => Wf.ctl w.unit && decide (w.off < 0x2000)
      | .flashEcc => decide (w.unit < 32) && decide (w.off < 0x2000)
      | .firmwareArray => decide (w.off < 0x200)
      | .smbus => decide (w.off < 0x100))

/-- At most the lanes of a port lock; a serial has 16 bytes; one credit count for each channel (13 R384, R396, R401). -/
def TrainReport.wf (t : TrainReport) : Bool := decide (t.locked ≤ 4) && decide (t.serial.length = 16) && decide (t.credits.length = 8)

/-- A step of the clock of an HBM3E stack, or a stack that passed none (01 R26). -/
def Wf.hbmStep (k : Nat) : Bool := decide (k = 0 ∨ k = 900000 ∨ k = 1000000 ∨ k = 1100000 ∨ k = 1200000)

/-- Eight stacks, sixteen packages, two verdicts of R514, spares of the 80 engines. -/
def BootReport.wf (r : BootReport) : Bool :=
  decide (r.hbmKhz.length = 8) && r.hbmKhz.all Wf.hbmStep && decide (r.till ≤ 6) && r.lpdFailed.all (fun p => decide (p < 16)) && decide (r.slotA ≤ 4) && decide (r.slotB ≤ 4)
    && r.spareFailed.all Wf.eng && (match r.portH with | some t => t.wf | none => true)

/-- A tensor has a format of 03 R92 and elements. -/
def WTensor.wf (x : WTensor) : Bool := decide (1 ≤ x.fmt ∧ x.fmt ≤ 9 ∧ 1 ≤ x.rows ∧ 1 ≤ x.cols)

/-- Four components; the shape fits its fields in the reply of `MODEL.QUERY`, a block holds 256 positions alike (07 R225, R239). -/
def ModelImage.wf (x : ModelImage) : Bool :=
  decide (x.comps.length = 4) && decide (x.bodies.length = 4) && decide (x.layers < 65536) && decide (x.kvHeads < 65536) && decide (x.headDim < 65536)
    && decide (1 ≤ x.kvFmt ∧ x.kvFmt ≤ 9) && decide (256 ≤ x.kvBlockBytes ∧ x.kvBlockBytes < 2 ^ 32 ∧ x.kvBlockBytes % 256 = 0) && x.tensors.all WTensor.wf

/-- One token for each session; a time of 32 bits (07 R225, R228). -/
def StepReport.wf (x : StepReport) : Bool := decide ((x.toks.map (·.1)).eraseDups.length = x.toks.length) && decide (x.stepUs < 2 ^ 32)

/-- Pooled outputs of one length (07 R250). -/
def EmbedReport.wf (x : EmbedReport) : Bool := x.outs.all fun o => decide (o.length = (x.outs.headD []).length)

/-- Positions of a ring of at most 16, a tenant context, the widths of 07 R234 and R243. -/
def Mirrored.wf (m : Mirrored) : Bool :=
  decide (m.origin < 16) && decide (m.dest < 16) && decide (1 ≤ m.ctx) && decide (m.ctx < 64) && decide (m.sess < 2 ^ 64) && decide (m.seq < 2 ^ 32)
    && decide (m.sparams.length = 32) && decide (m.openToks.length ≤ 256) && decide (m.openKv.length = m.openToks.length) && m.blocks.all fun b => decide (b.code < 2 ^ 1024)

/-- A flit type and traffic class of 13 R386. -/
def Flit.wf (f : Flit) : Bool :=
  decide (f.ftype ≤ 3) && decide (f.tc ≤ 3) && decide (f.route < 256) && (match f.mirror with | some m => m.wf | none => true)

/-- A packet header (13 R392). -/
def Packet.wf (p : Packet) : Bool := decide (p.vc < 8) && decide (p.space < 256) && decide (p.ctx < 256) && decide (p.ptag < 65536) && decide (p.len ≤ 4096)

/-- A wire block holds 64 elements (14 R422), a packet as many as fit 4,096 bytes. -/
def TunePacket.wf (p : TunePacket) : Bool := p.blocks.all fun b => decide (b.v.length = 64)

def FifoWork.wf : FifoWork → Bool
  | .service _ => true
  | .hart h => Wf.hart h
  | .dma e => Wf.eng e
  | .tier c => Wf.slot c
  | .qorgal p => decide (p < 65536)

/-- Well-formed commands. -/
def Instr.wf : Instr → Bool
  | .boot r => r.wf
  | .freqChange d _ | .currentFreqUpdate d => Wf.dom d
  | .syncFifoFault a b i _ w => Wf.dom a && Wf.dom b && decide (i < 65536) && w.wf
  | .mailboxReset n | .mailboxResetDone n | .reqTailWrite n _ | .rplHeadWrite n _ | .mbxStatRead n _ | .requestAccept n _ => Wf.slot n
  | .linkStatRead p | .linkDown p | .trainRetry p | .ackTimer p | .lightLost p | .keyUpdatePhase p _ => Wf.port p
  | .getVersion p | .getCapabilities p | .negotiateAlgorithms p | .getDigests p | .getCertificate p | .heartbeat p | .keyUpdate p
  | .endSession p => Wf.port p
  | .challenge p _ | .getMeasurements p _ _ | .keyExchange p _ _ | .finish p _ => Wf.port p
  | .registerWrite w => w.wf
  | .adminPortCtrl _ t => t.wf
  | .retrain p t | .training p t => Wf.port p && t.wf
  | .ldw e | .drn e | .addVec e | .mulVec e | .addImm e | .mulImm e | .relu e | .gelu e | .silu e | .clamp e | .deq e | .addRows e
  | .scq e | .streamRecordApply e | .fence e | .wait e | .inc e | .signal e | .run e | .stopRequest e | .engineStopped e | .skip e | .clr e
  | .clearDone e | .spareReplace e | .dmaDescriptor e => Wf.eng e
  | .strm e _ | .eccUe e _ _ | .seqTailWrite e _ | .syncInc e _ | .engFaultClear e _ | .dmaTailWrite e _ => Wf.eng e
  | .syncCntWrite e k _ => Wf.eng e && decide (k < 8)
  | .tspawn h a b | .tjoin h a b | .pfstream h a b | .pfind h a b => Wf.hart h && Wf.reg a && Wf.reg b
  | .pfstop h a => Wf.hart h && Wf.reg a
  | .tjoinTimeout h | .tend h => Wf.hart h
  | .taskletFault h m _ => Wf.hart h && decide (m < 2 ^ 63)
  | .taskletStart c h => Wf.slot c && Wf.hart h
  | .vxpopcVv h a b c _ | .vxpopcVx h a b c _ | .vxpopcaccVv h a b c _ | .vxpopcaccVx h a b c _ => Wf.hart h && Wf.reg a && Wf.reg b && Wf.reg c
  | .coreFence h p q => Wf.hart h && decide (p < 16) && decide (q < 16)
  | .tdFaultsRead c | .tierCopy c | .tierDecompress c | .tierCompress c | .tierZero c | .workObserved c | .beSliceExpiry c | .lcIdleExpiry c
  | .storeKeepAliveExpired c => Wf.slot c
  | .tqTailWrite c _ | .cowPromotion c _ | .fill c _ _ => Wf.slot c
  | .signalDispatch d | .signalRetry d | .dieLost d => Wf.die d
  | .switch l i _ => l.all Wf.slot && (match i with | some c => Wf.slot c | none => true)
  | .acquire h n w => Wf.hart h && Wf.sem n && decide (w.timeout < 2 ^ 32)
  | .tryAcquire h n | .release h n | .semTimeout h n | .donatedRun h n => Wf.hart h && Wf.sem n
  | .semHolderStarved n => Wf.sem n
  | .dramRead k _ c h => Wf.ctl k && decide (c < 65) && h.wf k
  | .patrolRead k h => Wf.ctl k && h.wf k
  | .remapInstall k _ | .eccCeCntRead k _ => Wf.ctl k
  | .trackerEntryExpiry k t => Wf.ctl k && decide (t < 64)
  | .eccFlipCtrlWrite k _ c => (Wf.ctl k || Wf.flashCtl k) && Wf.slot c
  | .flipApply k _ => Wf.ctl k || Wf.flashCtl k
  | .lpddrPackageLoss p => decide (p < 16)
  | .pageRetired _ _ _ => true
  | .nandDieFailed ch d _ | .dieRebuildDone ch d => decide (ch < 32) && decide (d < 18)
  | .flashRead _ k => decide (1 ≤ k ∧ k ≤ 7)
  | .blockRetired _ k => decide (k < 3)
  | .pageEvaluate ch _ _ _ => decide (ch < 32)
  | .qpDoorbell q | .flush q | .writeZeroes q | .storeCqNotify q => Wf.qp q
  | .sqFetch q e => Wf.qp q && decide (e.length = 64)
  | .write q _ _ | .read q _ _ | .compare q _ _ | .datasetManagement q _ _ | .vendorScan q _ _ => Wf.qp q
  | .vendorSearch q _ _ _ => Wf.qp q
  | .flitReceive p f => Wf.port p && f.wf
  | .nak p n => Wf.port p && decide (n < 65536)
  | .packetRead k => k.wf && decide (1 ≤ k.len)
  | .packetWrite k d | .readData k d => k.wf && decide (d.length = k.len)
  | .writeAck k => k.wf
  | .remoteAccessTimeout t => decide (t < 65536)
  | .creditReturn p v n => Wf.port p && decide (v < 8) && decide (n < 65536)
  | .ropeHeartbeatReceive p a b c d => Wf.peer p && decide (a < 256 ∧ b < 256 ∧ c < 256 ∧ d < 256)
  | .peerLost q => decide (q < 16)
  | .hello _ pk => decide (pk.kind = 1) && decide (pk.mask < 2 ^ 16) && decide (pk.src < 16)
  | .memoryPlace _ l => l.all fun e => decide (1 ≤ e.2 ∧ e.2 ≤ 7)
  | .tuneDataPacket _ p => p.wf
  | .secTamper k => decide (k ≤ 2)
  | .feedLost f k => decide (f < 2) && decide (k < 3)
  | .feedRestored f | .efuseTrip f _ => decide (f < 2)
  | .throttle u _ => decide (u < 5)
  | .railFault r => decide (r < 11)
  | .faRelock o _ => decide (o < 0x200)
  | .faRead a k => decide (a < 0x4000000) && decide (k ≤ 8)
  | .busyFetchTrap a => decide (a < 0x4000000)
  | .recordSectorErase j => decide (j < 128)
  | .componentRestart k c _ => (decide (1 ≤ k ∧ k ≤ 8) || decide (0x10 ≤ k ∧ k ≤ 0x13)) && decide (c < 256)
  | .belayTakeover c _ => decide (c < 256)
  | .prepCoreRetire u l => decide (u < 256) && l.all Wf.hart
  | .windowClose i => decide (i < 96)
  | .sensorOverrideExpiry i | .sensorSample i _ => decide (78 ≤ i ∧ i ≤ 95)
  | .wearLevelling _ | .garbageCollection _ | .mapSegmentWrite _ | .stripeProgram _ _ _ | .mediaScan _ | .writeAccept _ => true
  | .powerOnReset | .warmReset | .eventRingReset | .evtCauseWrite _ | .evtRingSizeWrite _ | .evtRingConsWrite _ | .eventWrite _ => true
  | .reply _ | .timeout _ | .adminIdentify _ | .adminIdentifyCaps _ | .adminReadCounters _ | .adminCancel _ | .adminNop _ | .adminRopeSet _
  | .adminPortQuery _ | .adminMirrorAdopt _ | .ctxAlloc _ | .ctxConfig _ | .ctxFree _ | .ctxQuery _ | .ctxSuspend _ | .ctxResume _ | .semAlloc _
  | .semFree _ | .schedSet _ => true
  | .modelLoad _ x => x.wf
  | .stepBoundary _ x => x.wf
  | .embedDocs _ x | .embedTokens _ x => x.wf
  | .modelUnload _ | .modelQuery _ | .modelBatchCfg _ | .reshard _ | .retrievalWaitExpiry _ _ => true
  | .agentCreate _ | .agentAppend _ _ | .agentGenerate _ | .agentPause _ | .agentResume _ | .agentSnapshot _ | .agentFork _ | .agentClose _
  | .agentQuery _ | .snapshotCommit _ | .mirrorDone _ _ | .mirrorUnavailable _ => true
  | .memoryAlloc _ | .memoryFree _ | .memorySeal _ _ | .memoryClone _ | .memoryQuery _ | .memoryUsage _ | .memoryQuota _
  | .memoryMigCfg _ | .migrationEpoch | .pageMove _ | .migFailRead | .t1Pressure | .t2Pressure => true
  | .fold | .journalPageProgram | .dynCacheRecompute | .abseil _ _ | .holdupMeasure _ _ => true
  | .storeAdmin _ _ _ _ | .storeQpCreate _ | .storeQpDelete _ | .storeQpQuery _ | .getLogPage _ _ _ | .nvmeIdentify _ _ _ | .setFeatures _
  | .getFeatures _ | .namespaceCreate _ _ _ | .namespaceDelete _ | .namespaceAttach _ _ _ | .namespaceDetach _ _ _ | .keepAlive _
  | .cryptoErase _ | .blockErase _ | .storeSanitizeDone => true
  | .scanProgLoad _ _ | .scanProgFree _ | .scanRun _ | .searchCreate _ | .searchDrop _ | .searchInsert _ _ | .searchDelete _ _ | .searchQuery _ _
  | .searchMerge _ | .searchInfo _ | .epochAdvance _ | .mergeDone _ _ => true
  | .ropeHeartbeatSend | .tuneGroupSet _ | .tuneGroupFree _ | .tuneAdapterCreate _ _ | .tuneAdapterFree _ | .tuneStep _ _ | .tuneQuery _ =>
    true
  | .slotGrant _ pk => decide (pk.kind = 2) && decide (pk.dir = 1) && decide (pk.src < 16)
  | .abort _ pk => decide (pk.kind = 3) && decide (pk.dir < 2) && decide (pk.src < 16) && decide (pk.cause < 5)
  | .pathLossTimeout _ _ => true
  | .sessionHeartbeatLapse | .secInfo _ | .secAdmit _ | .secReject _ | .secFkeyRotate _ | .secFkeyStatus _ | .secDebugNonce _
  | .secDebugUnlock _ _ _ | .secRecover _ _ _ | .reencryptionPass _ _ | .scrub | .scrubEnd _ => true
  | .holdupTakeover | .dischargeLoad | .powerQuery _ | .powerSetCap _ | .powerSetState _ | .wake | .idleEntry | .capMissed _ | .junctionTrip _
  | .coolantWarn _ | .emergency _ | .modResetN _ _ _ | .modWakeN _ | .sbAlertStatWrite _ | .alertResponse | .modResetNRelease => true
  | .faKey1 _ | .faKey2 _ | .faProgram _ _ | .faSectorErase _ | .faBankErase _ | .faSuspend _ | .faResume _ | .faReadId _ | .faClearStatus _
  | .faOperationDone _ | .faRetryRead | .fwupQuery _ | .fwupStage _ _ | .fwupInvalidate _
  | .standbyReady => true
  | .safeState | .cairnQuery _ | .cairnList _ | .cairnRelease _ | .monList _ | .monRead _ | .monConfig _ | .monInjEnable _ | .monInject _
  | .monInjClear _ | .injectFired _ | .debugMemRead _ | .debugMemWrite _ | .debugHartHalt _ | .debugHartResume _ | .debugHartState _
  | .debugRegRead _ | .debugRegWrite _ => true
  | .fwupActivate _ f _ | .pendingActivation f _ => decide (f ≤ 2)
  | .jtagAccess _ w _ _ => (⟨w.blk, w.unit, w.off, w.size, 0, none, none⟩ : RegWrite).wf

end Sys2Proof
end

