-- ==== Sys2Proof/Certificates/Slice0/Obligations.lean ====
section
/-! DEFINITION. The statements for the provers. Each is a proposition; none is proved here. -/
namespace Sys2Proof.Certs
open Sys2Proof.Machine

/-- The control window serves every register at once: `BOOT`, `READY` or `HANDOVER` (02 R56). -/
def Served (s : State) : Prop := s.host.ifState = .boot ∨ s.host.ifState = .ready ∨ s.host.ifState = .handover

/-- The states in which the event, mailbox and doorbell registers are not served (02 R56). -/
def Shut (s : State) : Prop :=
  s.host.ifState = .safe ∨ s.host.ifState = .bivouac ∨ s.host.ifState = .abseil ∨ s.host.ifState = .reset ∨ s.host.ifState = .tripped

/-- An access of an offset is held for the end of the scrub, behind those held before it, and nothing else changes (02 R56). -/
def HeldForScrub (write : Bool) (off : Nat) (s t : State) : Prop :=
  ∃ e : HeldAccess, e.write = write ∧ e.pk.addr = off ∧ t = { s with sec := { s.sec with heldPortH := s.sec.heldPortH ++ [e] } }

/-- A bit of a register word. -/
def On (v : U32) (i : Nat) : Prop := v.toNat.testBit i = true

/-- A request waits for its service: it is in the ledger under its identity, of the service and opcode, not taken up, not completed and
not settled; services run and the component of the service is up (02 R65, R75; 17 R525). -/
def Waits (svc op rid : Nat) (r : Req) (s : State) : Prop :=
  findReq rid s = some r ∧ r.rid = rid ∧ r.svc = svc ∧ r.op = op ∧ r.done = none ∧ r.settled = none ∧ r.running = false ∧ r.redone = false
    ∧ (s.host.ifState = .ready ∨ s.host.ifState = .scrub) ∧ s.fw.compDown.contains (svcComponent svc) = false

/-- A request has been handed over with a status and a reply payload, which the mailbox unit then writes (02 R66, R75). -/
def Done (rid st : Nat) (body : Bytes) (t : State) : Prop := ∃ q : Req, findReq rid t = some q ∧ q.done = some (st, body)

/-- A request has been taken up by its service and is not completed: it goes on by later commands. -/
def TakenUp (rid : Nat) (t : State) : Prop := ∃ q : Req, findReq rid t = some q ∧ q.running = true ∧ q.done = none

/-- Nothing but the command ledger has changed: the requests and the cairns. -/
def OnlyLedger (s t : State) : Prop := t = { s with ledger := t.ledger }

/-- The sequencer of a powered engine may issue, holds nothing, and the instruction `w` at its head decodes to a class and operation
(03 R111, R121). -/
def AtHead (e w cls op : Nat) (s : State) : Prop :=
  engOn e s = true ∧ canIssue (engOf e s) = true ∧ (engOf e s).st ≠ .wait ∧ w = ringInstr (engOf e s).sav (engOf e s).sav.head
    ∧ engDecode (dieEngs (engDie e) s).length w = some (cls, op)

/-- A running engine holds the SYNC `w`, which its head has passed (03 R112, R121). -/
def Held (e w op : Nat) (s : State) : Prop :=
  engOn e s = true ∧ (engOf e s).sav.run = true ∧ (engOf e s).st = .wait ∧ w = ringInstr (engOf e s).sav ((engOf e s).sav.head - 1)
    ∧ engDecode (dieEngs (engDie e) s).length w = some (6, op)

/-- The engine after it has completed the instruction that it issues or holds with this saved state (03 R112, R121). -/
def Advanced (g : Eng) (v : EngSt) : Eng :=
  { g with sav := { v with head := engIdx g + 1 }, st := if engIdx g + 1 = v.tail then .idle else .run }

/-- The engine after a fault: the bit, the index, `RUN` 0, state `FAULT`; its registers, counters and local memory as they were (03 R124). -/
def FaultedEng (g : Eng) (b : Nat) (idx : U16) : Eng :=
  { g with fault := g.fault ||| BitVec.ofNat 32 (2 ^ b), faultIdx := idx, st := .fault, sav := { g.sav with run := false } }

/-- The engine after a software fault of the instruction at its head: as it was, or with what an LDW behind that instruction, issued before
the fault, has loaded (03 R124). -/
def SoftFault (g : Eng) (b : Nat) (x : Eng) : Prop :=
  x = FaultedEng g b g.sav.head ∨
    (g.sav.head + 1 ≠ g.sav.tail ∧ ldwLegal (ringInstr g.sav (g.sav.head + 1)) = true ∧
      x = FaultedEng { g with sav := ldwState (ringInstr g.sav (g.sav.head + 1)) g.sav } b g.sav.head)

/-- Nothing but the engines, their records, the events and their causes, and the monitors have changed. -/
def OnlyEngines (s t : State) : Prop := t = { s with eng := t.eng, host := t.host, mon := t.mon, freeCtr := t.freeCtr }

/-- No byte of any context's memory has changed as its contexts read it. -/
def SameBytes (s t : State) : Prop := ∀ c va, rdByte c t va = rdByte c s va

/-- A context may write every byte of a range at once: its pages are writable (08 R253, R257). -/
def WritableAt (c va n : Nat) (s : State) : Prop :=
  ∀ i, i < n → ∃ pid p, pidAt c (va + i) s = some pid ∧ pageGet pid s = some p ∧ p.kind = .writable

/-- The objects lie at page boundaries, and no page of a context lies at two places of its address space (08 R253). -/
def NoAlias (c : Nat) (s : State) : Prop :=
  (∀ e ∈ s.mem.objs, e.2.va % pageBytes = 0) ∧ ∀ a b p, pidAt c a s = some p → pidAt c b s = some p → a / pageBytes = b / pageBytes

/-- A context's memory is that before, except that the bytes of one range are now these. -/
def Stored (c va : Nat) (bs : Bytes) (s t : State) : Prop :=
  (∀ i, i < bs.length → rdByte c t (va + i) = bs.getD i 0) ∧ (∀ a, (a < va ∨ va + bs.length ≤ a) → rdByte c t a = rdByte c s a)

/-- Nothing but the harts, tasklets, prefetch slots and caches, where copies of pages and blocks lie with the error records of their
frames, the monitors and the drawn values has changed. -/
def OnlyTasks (s t : State) : Prop :=
  t = { s with task := t.task, mem := t.mem, ecc := t.ecc, agents := { s.agents with kv := t.agents.kv }, mon := t.mon, freeCtr := t.freeCtr }

/-- No transfer to or from control-node memory of a context is under way: one more goes out at once (06 R213; 13 R391). -/
def LinkFree (c : Nat) (s : State) : Prop := ∀ q ∈ s.ports.remote, q.ctx ≠ c

/-- A request has been answered with a status and nothing else has changed but the ledger. -/
def Refuses (c : Instr) (rid st : Nat) (s : State) : Prop := ∃ t : State, exec c s = .next t ∧ Done rid st [] t ∧ OnlyLedger s t

/-- Every page is still there with its kind and its bytes. -/
def PagesKept (s t : State) : Prop := ∀ p q, pageGet p s = some q → ∃ x, pageGet p t = some x ∧ x.kind = q.kind ∧ x.data = q.data ∧ x.ctx = q.ctx

/-- Number of the stripe of a superblock that a slot lies in: the inverse of the order in which programs advance (10 R298). -/
def stripeOf (slc : Bool) (k : Nat) : Nat :=
  let pg := k / 32 / 18 % 3072
  if slc then 4 * pg + slotPlane k else 16 * (pg / 4) + 4 * slotPlane k + pg % 4

/-- Every mapped unit of a superblock lies in a stripe that the superblock, which is open or full, has consumed; an open one has whole
programs behind it and stripes left (10 R298, R300). -/
def FreshSb (sb : Nat) (s : State) : Prop :=
  (∀ e ∈ s.ftl.user ++ s.ftl.pinned, slotSb e.2 = sb → ((sbOf sb s).open_ = true ∨ (sbOf sb s).full = true) ∧ stripeOf (sbOf sb s).slc e.2 < (sbOf sb s).stripes)
    ∧ ((sbOf sb s).open_ = true → (sbOf sb s).stripes < sbStripes (sbOf sb s).slc ∧ (sbOf sb s).stripes % progStripes (sbOf sb s).slc = 0)

/-- Every unit of the user pool and the pinned region reads as before (10 R301, R308). -/
def UnitsKept (s t : State) : Prop := ∀ sp i, sp ≤ 1 → unitData sp i t = unitData sp i s

/-- No namespace is being deleted and no detach waits: the end of a command ends nothing else (11 R348, R349). -/
def QuietStore (s : State) : Prop :=
  (∀ e ∈ s.store.ns, e.2.deleting = none) ∧ ∀ r ∈ s.ledger.reqs, r.svc = 2 → r.op = 1 → r.running = false

/-- The one fetched command of a queue pair, whose completion ring and data are in control-node memory, executes next (11 R342). -/
def NextIo (q op : Nat) (p : Qp) (m : Cmd) (s : State) : Prop :=
  qpOf q s = some p ∧ p.fetched = [m] ∧ m.result = none ∧ m.waiting = false ∧ sqeOp m.sqe = op ∧ storeRuns p.ctx s = true ∧ p.deleting = none ∧ p.ien = false
    ∧ p.cq.space = 1 ∧ p.dataSpace = 1 ∧ QuietStore s ∧ LinkFree p.ctx s

/-- The one fetched command of a queue pair has completed: after these writes its completion entry is sent, the tail has moved on with
the phase, and no other queue pair or namespace has changed (11 R337). -/
def CqEnd (q : Nat) (p : Qp) (m : Cmd) (st d0 d1 : Nat) (pre : List Tx) (s t : State) : Prop :=
  qpOf q t = some { p with fetched := [], cqTail := if p.cqTail + 1 = p.depth then 0 else p.cqTail + 1, phase := p.phase != decide (p.cqTail + 1 = p.depth) }
    ∧ (∀ k, k ≠ q → qpOf k t = qpOf k s) ∧ t.store.ns = s.store.ns
    ∧ t.host.out = s.host.out ++ pre ++ [.ctlWrite p.ctx (p.cq.addr + 16 * p.cqTail)
        (leBytes 4 d0 ++ leBytes 4 d1 ++ leBytes 2 m.sqHead ++ leBytes 2 (q % 1024) ++ leBytes 2 (sqeCid m.sqe) ++ leBytes 2 (b2n p.phase + 2 * st))]
    ∧ t = { s with store := t.store, ports := t.ports, host := t.host, mon := t.mon, ftl := t.ftl }

/-- A command's namespace is one of the context's, no sanitize runs, and its blocks lie inside it (11 R346). -/
def NsReady (m : Cmd) (x : Ns) (s : State) : Prop :=
  m.nsOk = true ∧ tget s.store.ns (sqeNs m.sqe) = some x ∧ s.store.sanitize = none ∧ sqeLba m.sqe + cmdNlb m.sqe ≤ x.nsze

/-- A STORE.ADMIN request waits, at its turn, with an entry of this opcode and without reserved bits (11 R332, R340). -/
def AdminWaits (op rid : Nat) (r : Req) (s : State) : Prop :=
  Waits 2 1 rid r s ∧ hasRef r = false ∧ adminTurn r s = true ∧ sqeOp (adminSqe r) = op ∧ fld (adminSqe r) 1 1 = 0

/-- An admin request has been answered with its completion entry (11 R332). -/
def AdminDone (rid : Nat) (r : Req) (st d0 : Nat) (t : State) : Prop :=
  Done rid 0 (leBytes 4 d0 ++ zeros 8 ++ leBytes 2 (sqeCid (adminSqe r)) ++ leBytes 2 (1 + 2 * st)) t

/-- In READY nothing is due and nothing goes on by itself: no timer runs, no scrub, reset or wake is due, no firmware work is in progress,
nothing waits to be sent (02 R56, R75; 07 R222, R226, R246; 11 R354, R357; 13 R387; 15 R457; 16 R475; 17 R518, R519; 19 R568). -/
structure Uneventful (s : State) : Prop where
  ready : s.host.ifState = .ready
  reset : s.host.warmHeld = false
  expiry : s.ledger.reqs.any timed = false
  timers : s.mon.override = [] ∧ (∀ e ∈ s.store.feat, e.2.kato = 0) ∧ ∀ e ∈ s.store.qps, e.2.ien = false
  scrub : s.sec.scrub = none ∧ s.sec.scrubDue = false
  wake : s.pwr.wakeLatched = false
  agents : s.agents.loads = [] ∧ s.agents.sess = [] ∧ s.agents.snapWait = [] ∧ s.agents.resWait = [] ∧ s.agents.resRun = []
  firmware : s.fw.staging = none ∧ s.fw.pending = none
  sends : s.host.out = [] ∧ s.ports.heldFwd = []

end Sys2Proof.Certs

open Sys2Proof Sys2Proof.Machine Sys2Proof.Certs

/-! ### The step, the state after reset, the whole machine -/

/-- A step runs the command at the front of the queue. For every command c, queue rest r and state s: a step of s with c at the front and r behind it is exec of c on s with the queue r. -/
def Obligations.StepRunsFront : Prop :=
  ∀ (c : Instr) (r : List Instr) (s : State), step { s with pending := c :: r } = exec c { s with pending := r }

/-- Every step answers, and takes exactly one command from the queue. From every state whose queue is a command and a rest, the step answers a next state whose queue is that rest: none faults, none is refused (a command whose condition does not hold has no effect, the model's choice of log 5), and no command adds to the queue, drops from it or reorders it. On an empty queue the step answers a next state with an empty queue (the model's choice of log 1); where nothing is due and nothing waits to be sent, only time passes in it: each powered domain's counter, for a port's domain only while that port's link is up, has advanced by at least one, every other counter is as before, the cycle counters of harts that execute no tasklet too, and nothing else changes but the scan results that drain and the drawn-values counter. -/
def Obligations.StepsAnswer : Prop :=
  (∀ (c : Instr) (r : List Instr) (s : State), s.pending = c :: r → ∃ t : State, step s = .next t ∧ t.pending = r) ∧
  (∀ (c : Instr) (s : State), Executes c s) ∧
  (∀ s : State, s.pending = [] → ∃ t : State, step s = .next t ∧ t.pending = [] ∧ (Uneventful s →
    (∀ d c, tget s.clocks d = some c → ∃ n, 0 < n ∧ tget t.clocks d = some { c with counter := if tickRuns d c s then c.counter + BitVec.ofNat 64 n else c.counter }) ∧
    (∀ h, (hartOf h s).task = none → hartOf h t = hartOf h s) ∧
    t = { s with freeCtr := t.freeCtr, clocks := t.clocks, task := { s.task with harts := t.task.harts }, search := { s.search with resultQ := [] } }))

/-- What a power-on reset leaves. After a power-on reset the interface state is BOOT in step 1; RST_STAT is 0; EVT_CAUSE, EVT_MASK and the event ring registers are 0, no event is held and every source's sequence number is 0; every mailbox's indices, counts and flags are 0; every cycle counter is 0; every active engine is STOPPED and every other OFF, with its indices, sync counters and faults 0; no tenant context slot is allocated and slot 0 is; the security state machine is sound, and the module is Provisioned and Sealed (the model's choice of log 24); the queue of waiting commands is empty. -/
def Obligations.ResetValues : Prop :=
  let s := State.reset
  s.pending = [] ∧ s.host.ifState = .boot ∧ s.host.bootStep = 1 ∧ rstStat s = 0 ∧ s.host.evtCause = 0 ∧ s.host.evtMask = 0 ∧
    s.host.ringBase = 0 ∧ s.host.ringSize = 0 ∧ s.host.prod = 0 ∧ s.host.cons = 0 ∧ s.host.held = [] ∧ s.host.seqs = [] ∧
    (∀ n, n < 64 → mbxOf n s = Mbx.init) ∧
    (∀ d c, tget s.clocks d = some c → c.counter = 0) ∧
    (∀ e, (engOf e s).st = (if s.caps.engMap.contains e then .stopped else .off) ∧ (engOf e s).sav = EngSt.blank ∧ (engOf e s).fault = 0) ∧
    slotState 0 s = .alloc ∧ (∀ c, c ≠ 0 → slotState c s = .free) ∧ SecOk s ∧ s.sec.sec = .provisioned ∧ s.sec.dbg = .sealed

/-! ### Matrix engines (03, 04) -/

/-- LDW, STRM, DRN and FENCE complete at the head of the sequence. For a powered engine that may issue and has an LDW, a DRN or a FENCE at its head: the command answers a next state in which that engine alone has changed: SEQ_HEAD has moved on by one, its state is IDLE where SEQ_HEAD now equals SEQ_TAIL and RUN otherwise, and its registers and local memory are those of the load (ldwState), of the drain (drnState), or unchanged (FENCE). A STRM at its head with no tag fault does the same with the accumulators of the pass (strmState) where its format and row type checks hold, and nothing but engines, monitors and the drawn-values counter changes; where a check fails, the engine takes FMT_MISMATCH at its head with registers and local memory unchanged, but for what an LDW behind it, already issued, loads. -/
def Obligations.EngineLoadStreamDrain : Prop :=
  ∀ (e w : Nat) (b : Bool) (s : State),
    (AtHead e w 1 0 s → exec (.ldw e) s = .next (setEng e (Advanced (engOf e s) (ldwState w (engOf e s).sav)) s)) ∧
    (AtHead e w 3 0 s → exec (.drn e) s = .next (setEng e (Advanced (engOf e s) (drnState w (engOf e s).sav)) s)) ∧
    (AtHead e w 6 0 s → exec (.fence e) s = .next (setEng e (Advanced (engOf e s) (engOf e s).sav) s)) ∧
    (AtHead e w 2 0 s → strmOk w (engOf e s).sav = true →
      ∃ t : State, exec (.strm e false) s = .next t ∧ engOf e t = Advanced (engOf e s) (strmState w (engOf e s).sav) ∧
        (∀ q, q ≠ e → engOf q t = engOf q s) ∧ t = { s with eng := t.eng, mon := t.mon, freeCtr := t.freeCtr }) ∧
    (AtHead e w 2 0 s → strmOk w (engOf e s).sav = false →
      ∃ t : State, exec (.strm e b) s = .next t ∧ SoftFault (engOf e s) 1 (engOf e t) ∧
        (∀ q, q ≠ e → engOf q t = engOf q s) ∧ OnlyEngines s t)

/-- LDW loads the weight registers of its columns and no others. A legal LDW leaves in register i of column COL0 + k of set TAG (k below NCOL, i below 256) the 16-bit little-endian value at byte 2i of staging record (SRC + k) mod 512, with bits 6, 7, 14 and 15 cleared for a 6-bit format, records WFMT for each such column, leaves every register and format record of other columns and of the other set as it was, and leaves local memory, the row types, the indices, the sync counters and the generator as they were. -/
def Obligations.LdwLoadsColumns : Prop :=
  ∀ (w : Nat) (g : EngSt), ldwLegal w = true →
    (∀ k i, k < bits w 32 9 → i < 256 →
      aget 0 (ldwState w g).wreg (65536 * bits w 4 1 + 256 * (bits w 16 8 + k) + i)
        = BitVec.ofNat 16 (leNat (Memory.readN 0 g.mem (0x180000 + 512 * ((bits w 48 9 + k) % 512) + 2 * i) 2)
            &&& (if fmtBits (bits w 8 4) = 6 then 0x3F3F else 0xFFFF))) ∧
    (∀ k, k < bits w 32 9 → aget 0 (ldwState w g).colFmt (256 * bits w 4 1 + bits w 16 8 + k) = bits w 8 4) ∧
    (∀ x, (∀ k, k < bits w 32 9 → x / 256 ≠ 256 * bits w 4 1 + bits w 16 8 + k) → aget 0 (ldwState w g).wreg x = aget 0 g.wreg x) ∧
    (∀ x, (∀ k, k < bits w 32 9 → x ≠ 256 * bits w 4 1 + bits w 16 8 + k) → aget 0 (ldwState w g).colFmt x = aget 0 g.colFmt x) ∧
    (ldwState w g).mem = g.mem ∧ (ldwState w g).rowInt = g.rowInt ∧ (ldwState w g).head = g.head ∧ (ldwState w g).tail = g.tail ∧
    (ldwState w g).sync = g.sync ∧ (ldwState w g).sr = g.sr ∧ (ldwState w g).run = g.run

/-- DRN with ZERO clear stores only to its destination. A DRN whose ZERO is 0 leaves every byte of local memory as it was, except bytes at the destination: those at DADDR·512 + k·RB + i, wrapped within the region of DADDR, for a row k below NROWS and a byte i below the row size RB. Weight registers, formats, row types, indices and counters are unchanged. -/
def Obligations.DrnStoresOnlyDestination : Prop :=
  ∀ (w : Nat) (g : EngSt), bit w 4 = false →
    (∀ a, (∀ k i, k < bits w 32 10 → i < viewBytes (bit w 6) → a ≠ areaAddr (bits w 48 12) (k * viewBytes (bit w 6) + i)) →
      Memory.read 0 (drnState w g).mem a = Memory.read 0 g.mem a) ∧
    drnState w g = { g with mem := (drnState w g).mem }

/-- The ten EPI operations. For each operation 0 to 9 of EPI at the head of a powered engine that may issue: where every row it names carries the type the operation takes (INT32 for DEQ, FP32 for the others), the command answers a next state in which that engine alone has changed, moved on by one, each entry of each named row replaced by the operation's function of the entry, the per-lane vector or per-row matrix at LADDR as they were before the instruction, and the immediate; DEQ's rows become FP32. Where a row has the other type, the engine takes FMT_MISMATCH and no row changes. -/
def Obligations.EngineEpilogue : Prop :=
  ∀ (e w : Nat) (s : State),
    let g := (engOf e s).sav
    let v := bit w 6
    let allRows := fun (f : U32 → Nat → Nat → U32) (toFp : Bool) (g : EngSt) =>
      ((rowList w).zip (List.range (bits w 32 10))).foldl (fun t x =>
        if toFp then setRowType v x.1 false (epiRow w f x.1 x.2 t) else epiRow w f x.1 x.2 t) g
    let op := fun (k : Nat) (c : Instr) (int : Bool) (f : U32 → Nat → Nat → U32) =>
      AtHead e w 4 k s →
        ((∀ r ∈ rowList w, rowType g v r = some int) → exec c s = .next (setEng e (Advanced (engOf e s) (allRows f int g)) s)) ∧
        ((∃ r ∈ rowList w, rowType g v r ≠ some int) →
          ∃ t : State, exec c s = .next t ∧ SoftFault (engOf e s) 1 (engOf e t) ∧ (∀ q, q ≠ e → engOf q t = engOf q s) ∧ OnlyEngines s t)
    op 0 (.addVec e) false (fun a l _ => fpAdd a (epiVec g w l)) ∧
    op 1 (.mulVec e) false (fun a l _ => fpMul a (epiVec g w l)) ∧
    op 2 (.addImm e) false (fun a _ _ => fpAdd a (epiImm w)) ∧
    op 3 (.mulImm e) false (fun a _ _ => fpMul a (epiImm w)) ∧
    op 4 (.relu e) false (fun a _ _ => fpRelu a) ∧
    op 5 (.gelu e) false (fun a _ _ => fpAct fxGelu Config.gelu a) ∧
    op 6 (.silu e) false (fun a _ _ => fpAct fxSilu Config.silu a) ∧
    op 7 (.clamp e) false (fun a _ _ => fpClamp a (epiImm w)) ∧
    op 8 (.deq e) true (fun a l _ => fpDeq a (epiVec g w l)) ∧
    op 9 (.addRows e) false (fun a l k => fpAdd a (epiMat g w k l))

/-- SCQ quantises its rows and counts saturations; the record reaches the stream table. For an SCQ over FP32 rows at the head of a powered engine that may issue: the command answers a next state in which the engine has moved on with the slots and generator of scqState and, where a context owns the engine, one count record of its stream, elements converted and saturations has been queued behind those before it; nothing but engines and monitors has changed. Applying the oldest record of an engine takes it from the queue; where the entry is disabled nothing else changes; where it is enabled and the window does not end, SQ_TOTAL and SQ_SAT grow by the record's counts. -/
def Obligations.ScqCountsSaturations : Prop :=
  (∀ (e w : Nat) (s : State), AtHead e w 5 0 s → (∀ r ∈ rowList w, rowType (engOf e s).sav (bit w 6) r = some false) →
    ∃ t : State, exec (.scq e) s = .next t ∧ engOf e t = Advanced (engOf e s) (scqState w (engOf e s).sav).1 ∧
      t.eng.recs = s.eng.recs ++ (match (engOf e s).owner with
        | some c => [⟨e, c, bits w 80 8, scqElements w, (scqState w (engOf e s).sav).2⟩]
        | none => []) ∧
      t.eng.cq = s.eng.cq ∧ t.eng.sq = s.eng.sq ∧ t = { s with eng := t.eng, mon := t.mon }) ∧
  (∀ (e : Nat) (r : CountRec) (s : State), s.eng.recs.find? (fun x => decide (x.eng = e)) = some r →
    let key := 256 * r.ctx + r.sid
    let q := tgetD s.eng.sq key Sq.init
    (bit q.cfg.toNat 0 = false → exec (.streamRecordApply e) s = .next { s with eng := { s.eng with recs := s.eng.recs.erase r } }) ∧
    (bit q.cfg.toNat 0 = true → q.total + r.elements < 2 ^ bits q.cfg.toNat 8 5 →
      ∃ t q2, exec (.streamRecordApply e) s = .next t ∧ t.eng = { s.eng with recs := s.eng.recs.erase r, sq := tset s.eng.sq key q2 } ∧
        q2.total = q.total + r.elements ∧ q2.sat = q.sat + r.saturated ∧ q2.windows = q.windows ∧ t = { s with eng := t.eng, host := t.host }))

/-- WAIT, INC and SIGNAL. With the instruction at the head of a powered engine that may issue, or held by it: WAIT completes where (SYNC_CNT[CNT] − VALUE) mod 2^16 is below 2^15 and otherwise leaves the engine in WAIT with its head past the WAIT; SIGNAL completes and puts the engine's logical index and VALUE at the end of the die's completion queue while that holds fewer than 16 records, and otherwise leaves the engine in WAIT, its head past the SIGNAL. INC at the head moves on and adds VALUE to SYNC_CNT[CNT] of the die-local logical engine TARGET, where that is another engine of the same owner. Only engines and that queue change. -/
def Obligations.EngineSync : Prop :=
  ∀ (e w : Nat) (s : State),
    let g := engOf e s
    let held : State := setEng e { g with st := .wait, sav := { g.sav with head := engIdx g + 1 } } s
    (AtHead e w 6 1 s ∨ Held e w 1 s →
      ((syncCnt g.sav (bits w 8 3) - BitVec.ofNat 16 (bits w 16 16)).toNat < 2 ^ 15 → exec (.wait e) s = .next (setEng e (Advanced g g.sav) s)) ∧
      (¬ (syncCnt g.sav (bits w 8 3) - BitVec.ofNat 16 (bits w 16 16)).toNat < 2 ^ 15 → exec (.wait e) s = .next held)) ∧
    (AtHead e w 6 2 s → ∀ q, (dieEngs (engDie e) s)[bits w 32 5]? = some q → q ≠ e → (engOf q s).owner = g.owner →
      ∃ t : State, exec (.inc e) s = .next t ∧ engOf e t = Advanced g g.sav ∧
        syncCnt (engOf q t).sav (bits w 8 3) = syncCnt (engOf q s).sav (bits w 8 3) + BitVec.ofNat 16 (bits w 16 16) ∧
        (∀ k, k ≠ bits w 8 3 → syncCnt (engOf q t).sav k = syncCnt (engOf q s).sav k) ∧
        (∀ p, p ≠ e → p ≠ q → engOf p t = engOf p s) ∧ t = { s with eng := { s.eng with eng := t.eng.eng } }) ∧
    (AtHead e w 6 3 s ∨ Held e w 3 s →
      ((tgetD s.eng.cq (engDie e) []).length < 16 →
        ∃ t : State, exec (.signal e) s = .next t ∧ engOf e t = Advanced g g.sav ∧
          tgetD t.eng.cq (engDie e) [] = tgetD s.eng.cq (engDie e) [] ++ [(engLogical e s, bits w 16 16, g.owner.getD 0xFF)] ∧
          t = { s with eng := { s.eng with eng := t.eng.eng, cq := t.eng.cq } }) ∧
      (16 ≤ (tgetD s.eng.cq (engDie e) []).length → exec (.signal e) s = .next held))

/-- Run, stop, skip, clear, the engine's counters, and illegal instructions. For a powered engine, each control command answers a next state in which that engine alone has changed, as R121 to R128 give it: RUN written 1 is taken except in FAULT and CLEARING, and starts a stopped engine; RUN written 0 turns IDLE, RUN and WAIT into STOPPING, SEQ_HEAD returning to a held instruction, and the boundary turns STOPPING into STOPPED; SKIP moves the head of a stopped engine with instructions left; CLR turns a stopped engine into CLEARING, whose end leaves the blank state, STOPPED, with FAULT_IDX 0; SEQ_TAIL is taken within R122's bounds and otherwise sets BAD_TAIL alone; SYNC_INC adds its amount to its counter and SYNC_CNT[k] takes the value written, modulo 2^16; ENG_FAULT loses the bits written 1 and leaves FAULT for STOPPED when no bit but BAD_TAIL is left. Where the instruction at the head of a powered engine that may issue, or the one held, is illegal, every engine instruction command answers the same next state: ENG_FAULT gains ILLEGAL, SEQ_HEAD and FAULT_IDX are its index, RUN is 0, the state is FAULT, the registers and local memory are as they were, one ENGINE_FAULT event of the die with the owning context is raised, and other engines are unchanged. -/
def Obligations.EngineControl : Prop :=
  (∀ (e k : Nat) (v : U32) (s : State), engOn e s = true →
    let g := engOf e s
    (g.st ≠ .fault → g.st ≠ .clearing → exec (.run e) s = .next (setEng e { g with
      sav := { g.sav with run := true }, st := if g.st = .stopped then (if g.sav.head = g.sav.tail then .idle else .run) else g.st } s)) ∧
    (g.st = .fault ∨ g.st = .clearing → exec (.run e) s = .next s) ∧
    (exec (.stopRequest e) s = .next (setEng e { g with
      sav := { g.sav with run := false, head := engIdx g }, st := if g.st = .idle ∨ g.st = .run ∨ g.st = .wait then .stopping else g.st } s)) ∧
    (g.st = .stopping → exec (.engineStopped e) s = .next (setEng e { g with st := .stopped } s)) ∧
    (g.st = .stopped → g.sav.head ≠ g.sav.tail → exec (.skip e) s = .next (setEng e { g with sav := { g.sav with head := g.sav.head + 1 } } s)) ∧
    (g.st ≠ .stopped ∨ g.sav.head = g.sav.tail → exec (.skip e) s = .next s) ∧
    (g.st = .stopped → exec (.clr e) s = .next (setEng e { g with st := .clearing, sav := { g.sav with run := false } } s)) ∧
    (g.st = .clearing → exec (.clearDone e) s = .next (setEng e { g with st := .stopped, sav := EngSt.blank, faultIdx := 0 } s)) ∧
    (∀ n : U16, n = BitVec.ofNat 16 v.toNat →
      ((n - g.sav.head).toNat ≤ 8192 ∧ (g.sav.tail - g.sav.head).toNat ≤ (n - g.sav.head).toNat →
        exec (.seqTailWrite e v) s = .next (setEng e { g with sav := { g.sav with tail := n }, st := if g.st = .idle ∧ n ≠ g.sav.head then .run else g.st } s)) ∧
      (¬ ((n - g.sav.head).toNat ≤ 8192 ∧ (g.sav.tail - g.sav.head).toNat ≤ (n - g.sav.head).toNat) →
        exec (.seqTailWrite e v) s = .next (setEng e { g with fault := g.fault ||| 16 } s))) ∧
    (exec (.syncInc e v) s = .next (setEng e { g with
      sav := setSync (bits v.toNat 0 3) (syncCnt g.sav (bits v.toNat 0 3) + BitVec.ofNat 16 (bits v.toNat 16 16)) g.sav } s)) ∧
    (k < 8 → exec (.syncCntWrite e k v) s = .next (setEng e { g with sav := setSync k (BitVec.ofNat 16 v.toNat) g.sav } s)) ∧
    (exec (.engFaultClear e v) s = .next (setEng e { g with
      fault := g.fault &&& ~~~v, st := if g.st = .fault ∧ g.fault &&& ~~~v &&& 0xF = 0 then .stopped else g.st } s))) ∧
  (∀ (e : Nat) (b : Bool) (s : State) (c : Instr),
    c ∈ [.ldw e, .strm e b, .drn e, .addVec e, .mulVec e, .addImm e, .mulImm e, .relu e, .gelu e, .silu e, .clamp e, .deq e, .addRows e, .scq e,
      .fence e, .wait e, .inc e, .signal e] →
    engOn e s = true → canIssue (engOf e s) = true →
    engDecode (dieEngs (engDie e) s).length (ringInstr (engOf e s).sav (engIdx (engOf e s))) = none →
    ∃ t : State, exec c s = .next t ∧
      engOf e t = FaultedEng { engOf e s with sav := { (engOf e s).sav with head := engIdx (engOf e s) } } 0 (engIdx (engOf e s)) ∧ (∀ q, q ≠ e → engOf q t = engOf q s) ∧
      t.host.seqs = tset s.host.seqs (256 * 2 + engDie e) ((tgetD s.host.seqs (256 * 2 + engDie e) 0 + 1) % 2 ^ 32) ∧
      (s.host.held.length < 256 → ∃ v : Ev, t.host.held = s.host.held ++ [v] ∧ v.code = 0x10 ∧ v.srcType = 2 ∧ v.srcIdx = engDie e ∧
        v.ctx = (engOf e s).owner.getD 0xFF ∧ v.payload.take 1 = leBytes 1 (e % 20)) ∧
      t = { s with eng := t.eng, host := t.host })

/-- An uncorrectable error stops an engine, and a spare takes its place. On a powered engine, ECC_UE with no instruction in progress answers a next state in which that engine has the fault ECC_UE with FAULT_IDX the SEQ_HEAD at detection, a held instruction withdrawn, and its registers and local memory as they were. With an LDW in progress, the LDW has completed and FAULT_IDX is its index where its own read met the error, else SEQ_HEAD, and nothing is undefined. While the runtime firmware runs, with no context resident and a spare on its die, the replacement of an active engine answers a next state in which the spare holds the logical index of the failed one and has its state with RUN, ENG_FAULT and FAULT_IDX 0 and STATE STOPPED; the failed one is OFF, cleared, unassigned and counted as failed; and every other engine is unchanged. -/
def Obligations.EngineErrorAndSpare : Prop :=
  (∀ (e w : Nat) (busy onRead : Bool) (s : State), engOn e s = true →
    let g := engOf e s
    (busy = false ∨ canIssue g = false ∨ g.st = .wait →
      ∃ t : State, exec (.eccUe e busy onRead) s = .next t ∧
        engOf e t = FaultedEng { g with sav := { g.sav with head := engIdx g } } 3 g.sav.head ∧ (∀ q, q ≠ e → engOf q t = engOf q s) ∧ OnlyEngines s t) ∧
    (AtHead e w 1 0 s →
      ∃ t : State, exec (.eccUe e true onRead) s = .next t ∧
        engOf e t = FaultedEng (Advanced g (ldwState w g.sav)) 3 (if onRead then g.sav.head else g.sav.head + 1) ∧
        (∀ q, q ≠ e → engOf q t = engOf q s) ∧ OnlyEngines s t)) ∧
  (∀ (e q i : Nat) (s : State), runtimeRuns s.host.ifState = true → s.caps.engMap[i]? = some e → spareFor e s = some q →
    (∀ x ∈ s.ctxs.slots, x.2.state ≠ .resident) →
    ∃ t : State, exec (.spareReplace e) s = .next t ∧ t.caps.engMap[i]? = some q ∧ t.caps.engFailed = s.caps.engFailed ++ [e] ∧
      engOf q t = { (engOf e s) with st := .stopped, fault := 0, faultIdx := 0, sav := { (engOf e s).sav with run := false } } ∧
      (engOf e t).st = .off ∧ (engOf e t).sav = EngSt.blank ∧ (engOf e t).owner = none ∧
      (∀ p, p ≠ e → p ≠ q → engOf p t = engOf p s))

/-! ### The control window, events and mailboxes (02) -/

/-- Writes of the event registers, and reads that clear counts. While the control window is served: EVT_CAUSE loses the bits written 1; EVT_RING_SIZE while EN is 1 keeps LOG2N, and EN goes to the bit written; while EN is 0, a write of EN 1 is taken with LOG2N from 6 to 15 and sets PROD and CONS to 0, and is otherwise ignored, and a write of EN 0 stores LOG2N; CONS is taken only where it consumes no more entries than were written. Each changes nothing else. During a scrub each write is held in order behind those before it. Where the registers are not served, each write changes nothing. In a served state, a read of MBX_STAT returns the register, or the half read, as it is before the read, and a read that takes in the upper half sets LATE_CNT and TIMEOUT_CNT to 0 and changes nothing else; a read of LINK_STAT returns the register as it is before the read and sets RETRAIN_CNT to 0. LINK_STAT is served in the safe state and in Bivouac too. -/
def Obligations.EventRegisterAccesses : Prop :=
  (∀ (v : U32) (s : State),
    let lg := v.toNat % 16
    let ring : U32 → U16 → U16 → Res := fun z p c => .next { s with host := { s.host with ringSize := z, prod := p, cons := c } }
    let new : U16 := BitVec.ofNat 16 (v.toNat / 65536)
    (Served s →
      exec (.evtCauseWrite v) s = .next { s with host := { s.host with evtCause := s.host.evtCause &&& ~~~v } } ∧
      (On s.host.ringSize 31 → On v 31 → exec (.evtRingSizeWrite v) s = .next s) ∧
      (On s.host.ringSize 31 → ¬ On v 31 → exec (.evtRingSizeWrite v) s = ring (BitVec.ofNat 32 (s.host.ringSize.toNat % 16)) s.host.prod s.host.cons) ∧
      (¬ On s.host.ringSize 31 → ¬ On v 31 → exec (.evtRingSizeWrite v) s = ring (BitVec.ofNat 32 lg) s.host.prod s.host.cons) ∧
      (¬ On s.host.ringSize 31 → On v 31 → 6 ≤ lg → exec (.evtRingSizeWrite v) s = ring (BitVec.ofNat 32 (lg + 2 ^ 31)) 0 0) ∧
      (¬ On s.host.ringSize 31 → On v 31 → lg < 6 → exec (.evtRingSizeWrite v) s = .next s) ∧
      ((new - s.host.cons).toNat ≤ (s.host.prod - s.host.cons).toNat →
        exec (.evtRingConsWrite v) s = .next { s with host := { s.host with cons := new } }) ∧
      ((s.host.prod - s.host.cons).toNat < (new - s.host.cons).toNat → exec (.evtRingConsWrite v) s = .next s)) ∧
    (s.host.ifState = .scrub → ∀ x ∈ [(Instr.evtCauseWrite v, 0x200), (.evtRingSizeWrite v, 0x210), (.evtRingConsWrite v, 0x214)],
      ∃ t : State, exec x.1 s = .next t ∧ HeldForScrub true x.2 s t) ∧
    (Shut s → ∀ c ∈ [Instr.evtCauseWrite v, .evtRingSizeWrite v, .evtRingConsWrite v], exec c s = .next s)) ∧
  ((∀ (n : Nat) (m : Mbx) (h : Half) (s : State), n < 64 → Served s → tget s.host.mbx n = some m →
    exec (.mbxStatRead n h) s = .next { s with host := { s.host with
      lastRead := BitVec.ofNat 64 (halfOf h (mbxStat n s))
      mbx := if h = .low then s.host.mbx else tset s.host.mbx n { m with lateCnt := 0, timeoutCnt := 0 } } }) ∧
  (∀ (p : Nat) (q : Port) (s : State), p < 5 → Served s ∨ s.host.ifState = .safe ∨ s.host.ifState = .bivouac → tget s.ports.port p = some q →
    exec (.linkStatRead p) s = .next { s with
      host := { s.host with lastRead := BitVec.ofNat 64 (linkStat p s) }, ports := { s.ports with port := tset s.ports.port p { q with retrainCnt := 0 } } }))

/-- A doorbell write is checked field by field. A doorbell write of a mailbox that is enabled or paused (STATE 1 or 2), in a served state, answers a next state that differs in that mailbox alone. REQ_TAIL becomes the new value exactly where REQ_WE is 1 and, modulo 256, new − REQ_HEAD is at least old − REQ_HEAD and at most 32; RPL_HEAD becomes the new value exactly where RPL_WE is 1 and new − old is at most RPL_TAIL − old; a field that fails keeps its value; BAD_DB is set where an enabled field fails and otherwise stays. Both commands of the doorbell register do so. To a disabled or resetting mailbox the write sets BAD_DB alone. -/
def Obligations.DoorbellWrite : Prop :=
  ∀ (n : Nat) (v : U32) (s : State) (m : Mbx) (c : Instr), c = .reqTailWrite n v ∨ c = .rplHeadWrite n v →
    n < 64 → Served s → tget s.host.mbx n = some m →
    let newT : Byte := BitVec.ofNat 8 v.toNat
    let newH : Byte := BitVec.ofNat 8 (v.toNat / 65536)
    let okT := (m.reqTail - m.reqHead).toNat ≤ (newT - m.reqHead).toNat ∧ (newT - m.reqHead).toNat ≤ 32
    let okH := (newH - m.rplHead).toNat ≤ (m.rplTail - m.rplHead).toNat
    let put := fun (q : Mbx) => ({ s with host := { s.host with mbx := tset s.host.mbx n q } } : State)
    (mbxState n s = 1 ∨ mbxState n s = 2 → ∃ q, exec c s = .next (put q) ∧
      (On v 31 → okT → q.reqTail = newT) ∧ (¬ (On v 31 ∧ okT) → q.reqTail = m.reqTail) ∧
      (On v 30 → okH → q.rplHead = newH) ∧ (¬ (On v 30 ∧ okH) → q.rplHead = m.rplHead) ∧
      (q.badDb = true ↔ m.badDb = true ∨ (On v 31 ∧ ¬ okT) ∨ (On v 30 ∧ ¬ okH)) ∧
      q = { m with reqTail := q.reqTail, rplHead := q.rplHead, badDb := q.badDb }) ∧
    (mbxState n s = 0 ∨ mbxState n s = 3 → exec c s = .next (put { m with badDb := true }))

/-- An event entry is written, or the ring is disabled. Where the oldest held event can be written, the command answers a next state in which one 64-byte entry has left for the ring base address + 64·(PROD mod 2^LOG2N), the event is no longer held, PROD has grown by one, and cause bit 0 is set, with one notification exactly where that bit was 0 and its mask bit is 1. A refused write leaves the event held, clears EN, keeps LOG2N, PROD and CONS, and sets cause bit 2, with the notification of that bit. Nothing else changes. -/
def Obligations.EventEntryWritten : Prop :=
  ∀ (e : Ev) (r : List Ev) (s : State), s.host.held = e :: r → ringWritable s = true →
    let told := fun (b : Nat) => if s.host.evtCause.toNat.testBit b = false ∧ s.host.evtMask.toNat.testBit b = true then [Tx.notify b] else []
    (∃ (t : State) (entry : Bytes), exec (.eventWrite false) s = .next t ∧ entry.length = 64 ∧ entry = eventEntry e s.host.prod.toNat (ringLog s) ∧
      t = { s with host := { s.host with
        held := r, prod := s.host.prod + 1, evtCause := s.host.evtCause ||| 1
        out := s.host.out ++ [.ringEntry (s.host.ringBase.toNat + 64 * (s.host.prod.toNat % 2 ^ ringLog s)) entry] ++ told 0 } }) ∧
    exec (.eventWrite true) s = .next { s with host := { s.host with
      ringSize := BitVec.ofNat 32 (s.host.ringSize.toNat % 16), evtCause := s.host.evtCause ||| 4, out := s.host.out ++ told 2 } }

/-- A mailbox accepts a request, or replies at once with its first failure. Where the conditions of acceptance hold and it is the mailbox's turn, the command answers a next state in which REQ_HEAD has grown by one, the ledger's sequence by one, and the turn is behind the mailbox. A request that passes every check and names no cairn is entered in the ledger last, OUTSTANDING has grown by one, and no reply is written. A request whose ctx is not the mailbox's number, else whose service or opcode is unknown, else is not permitted, else whose length, references or tag are wrong, is not entered; its reply lies whole in the slot of the old RPL_TAIL with status ACCESS_DENIED, INVALID_OPCODE, ACCESS_DENIED or INVALID_FIELD, RPL_TAIL has grown by one, OUTSTANDING is as before and cause bit 5 is set. Where the conditions do not hold or another mailbox has the turn nothing changes. -/
def Obligations.RequestAcceptance : Prop :=
  ∀ (n : Nat) (m : Mbx) (s : State), n < 64 → tget s.host.mbx n = some m →
    let r := slotReq n s
    let dup := s.ledger.reqs.any (fun q => decide (q.mbx = n ∧ q.tag = r.tag) && outstanding q)
    let bad := 480 < r.length ∨ (hasRef r = true ∧ r.length % 16 ≠ 0) ∨ dup = true
    let taken := fun (st : Nat) => ∃ (t : State) (q : Mbx), exec (.requestAccept n none) s = .next t ∧ tget t.host.mbx n = some q ∧
      q = { m with reqHead := m.reqHead + 1, rplTail := m.rplTail + 1 } ∧ t.ledger = { s.ledger with nextSeq := s.ledger.nextSeq + 1 } ∧
      (∀ k, k ≠ n → tget t.host.mbx k = tget s.host.mbx k) ∧ On t.host.evtCause 5 ∧
      Memory.readN 0 t.host.aperture (replySlot n m.rplTail) 32 = replyHeader r st 0 s ∧
      t.eng = s.eng ∧ t.ctxs = s.ctxs ∧ t.mem = s.mem ∧ t.agents = s.agents ∧ t.store = s.store ∧ t.sec = s.sec ∧ t.fw = s.fw
    (canAccept n s = false ∨ hasTurn n s = false → exec (.requestAccept n none) s = .next s) ∧
    (canAccept n s = true → hasTurn n s = true →
      (r.hctx ≠ n → taken 0x0102) ∧
      (r.hctx = n → opKnown r.svc r.op = false → taken 0x0101) ∧
      (r.hctx = n → opKnown r.svc r.op = true → opPermitted n r.svc r.op s = false → taken 0x0102) ∧
      (r.hctx = n → opKnown r.svc r.op = true → opPermitted n r.svc r.op s = true → bad → taken 0x0100) ∧
      (r.hctx = n → opKnown r.svc r.op = true → opPermitted n r.svc r.op s = true → ¬ bad → bit r.flags 1 = false → ¬ (r.svc = 2 ∧ r.op = 1) →
        exec (.requestAccept n none) s = .next { s with
          host := { s.host with mbx := tset s.host.mbx n { m with reqHead := m.reqHead + 1, outstanding := m.outstanding + 1 }, turn := (n + 1) % 64 }
          ledger := { s.ledger with nextSeq := s.ledger.nextSeq + 1, reqs := s.ledger.reqs ++ [r] } }))

/-- A completion is replied to, a late one is discarded; timeout and cancellation settle a request. For a request in the ledger with none of its remote accesses outstanding, while the mailbox unit runs: a completion is written as its reply with the service's status, RPL_TAIL + 1, OUTSTANDING − 1, and its entry leaves the ledger; a completion of a request settled and answered before is discarded, LATE_CNT + 1 saturating, with no reply; a settled request whose reply was held back is answered with its status. The expiry of the request that expires first, not completed and not settled, at its expiry cycle writes a TIMEOUT reply and adds one to TIMEOUT_CNT; a CANCEL that names it by its tag writes a CANCELLED reply and hands over its own SUCCESS. Either leaves an untaken request out of the ledger, and a running one in it with its references closed. -/
def Obligations.ReplyTimeoutCancel : Prop :=
  ∀ (rid : Nat) (r : Req) (m : Mbx) (s : State), findReq rid s = some r → r.rid = rid → tget s.host.mbx r.mbx = some m → mbxUnitRuns s.host.ifState = true →
    accessing rid s = false →
    (∀ st body, r.done = some (st, body) → r.settled = none → body.length ≤ 480 →
      ∃ t : State, exec (.reply rid) s = .next t ∧ findReq rid t = none ∧ (∀ k, k ≠ rid → findReq k t = findReq k s) ∧
        tget t.host.mbx r.mbx = some { m with rplTail := m.rplTail + 1, outstanding := m.outstanding - 1 } ∧ On t.host.evtCause 5 ∧
        Memory.readN 0 t.host.aperture (replySlot r.mbx m.rplTail) (32 + body.length) = replyHeader r st body.length s ++ body) ∧
    (∀ st body, r.done = some (st, body) → r.settled.isSome = true → r.owed = false →
      ∃ (t : State) (q : Mbx), exec (.reply rid) s = .next t ∧ findReq rid t = none ∧ (∀ k, k ≠ rid → findReq k t = findReq k s) ∧ tget t.host.mbx r.mbx = some q ∧
        q = { m with lateCnt := q.lateCnt } ∧ q.lateCnt.toNat = min 0xFFFF (m.lateCnt.toNat + 1) ∧ t.host.aperture = s.host.aperture ∧ t.host.evtCause = s.host.evtCause) ∧
    (∀ st, r.settled = some st → r.owed = true →
      ∃ (t : State) (q : Mbx), exec (.reply rid) s = .next t ∧ tget t.host.mbx r.mbx = some q ∧ q.rplTail = m.rplTail + 1 ∧ q.outstanding = m.outstanding - 1 ∧
        Memory.readN 0 t.host.aperture (replySlot r.mbx m.rplTail) 32 = replyHeader r st 0 s ∧
        findReq rid t = (if r.running then some { r with owed := false } else none)) ∧
    (r.timeoutUs ≠ 0 → r.settled = none → r.done = none → clockNow domMgmt s ≤ expiry r → (∀ q ∈ s.ledger.reqs, timed q = true → expiry r ≤ expiry q) → s.tune.groups = [] →
      ∃ (t : State) (q : Mbx), exec (.timeout rid) s = .next t ∧ tget t.host.mbx r.mbx = some q ∧ q.rplTail = m.rplTail + 1 ∧ q.outstanding = m.outstanding - 1 ∧
        q.timeoutCnt.toNat = min 0xFFFF (m.timeoutCnt.toNat + 1) ∧
        Memory.readN 0 t.host.aperture (replySlot r.mbx m.rplTail) 32 = replyHeader r 0x0300 0 s ∧
        (r.running = false → findReq rid t = none) ∧
        (r.running = true → findReq rid t = some { r with settled := some 0x0300, refsOpen := false, owed := false })) ∧
    (∀ q, r.svc = 1 → r.op = 4 → r.redone = false → r.done = none → r.settled = none → cancelTarget r s = some q → accessing q.rid s = false → s.tune.groups = [] →
      ∃ (t : State) (p : Mbx), exec (.adminCancel rid) s = .next t ∧ Done rid 0 [] t ∧ tget t.host.mbx r.mbx = some p ∧ p.rplTail = m.rplTail + 1 ∧ p.outstanding = m.outstanding - 1 ∧
        Memory.readN 0 t.host.aperture (replySlot r.mbx m.rplTail) 32 = replyHeader q 0x0301 0 s ∧
        (q.running = false → findReq q.rid t = none))

/-- A mailbox reset and an event ring reset. In a served state with no reset in progress: the reset of mailbox n answers a next state in which its indices, counts and flags are 0, its STATE shows RESETTING, RST_STAT shows a reset in progress, no request of it is left in the ledger, every other mailbox is as before, and no reply is written; its end answers a next state in which RESETTING is over, RST_STAT.LAST is 2 and RESET_DONE is the event raised last. The event ring reset disables the ring, sets PROD and CONS to 0, discards the events held, holds RESET_DONE alone and shows LAST 3; base, LOG2N, causes and mask are as before. -/
def Obligations.MailboxAndRingReset : Prop :=
  (∀ (n : Nat) (m : Mbx) (s : State), n < 64 → Served s → s.host.rstBusy = none → tget s.host.mbx n = some m → s.tune.groups = [] →
    ∃ t : State, exec (.mailboxReset n) s = .next t ∧ tget t.host.mbx n = some { Mbx.init with resetting := true } ∧ mbxState n t = 3 ∧ t.host.rstBusy = some 2 ∧
      (∀ r ∈ t.ledger.reqs, r.mbx ≠ n) ∧ (∀ k, k ≠ n → tget t.host.mbx k = tget s.host.mbx k) ∧ t.host.aperture = s.host.aperture) ∧
  (∀ (n : Nat) (m : Mbx) (s : State), tget s.host.mbx n = some m → m.resetting = true → s.host.rstBusy = some 2 → s.host.held.length < 256 →
    ∃ t : State, exec (.mailboxResetDone n) s = .next t ∧ tget t.host.mbx n = some { m with resetting := false } ∧ t.host.rstBusy = none ∧ t.host.rstLast = 2 ∧
      t = { s with host := { s.host with
        mbx := t.host.mbx, rstBusy := none, rstLast := 2, seqs := tset s.host.seqs 0 ((tgetD s.host.seqs 0 0 + 1) % 2 ^ 32)
        held := s.host.held ++ [⟨4, 0, 0, tgetD s.host.seqs 0 0, 0xFF, 0, [2]⟩] } }) ∧
  (∀ s : State, Served s → s.host.rstBusy = none →
    exec .eventRingReset s = .next { s with host := { s.host with
      ringSize := BitVec.ofNat 32 (s.host.ringSize.toNat % 16), prod := 0, cons := 0, rstLast := 3
      seqs := tset s.host.seqs 0 ((tgetD s.host.seqs 0 0 + 1) % 2 ^ 32)
      held := [⟨4, 0, 0, tgetD s.host.seqs 0 0, 0xFF, 0, [3]⟩] } })

/-! ### Prep cores, tasklets, DMA and the tier queue (05) -/

/-- TSPAWN accepts or refuses a descriptor. On a hart that executes a tasklet and whose store buffer is empty, TSPAWN with a 64-byte-aligned descriptor that the context can read answers a next state in which the hart has passed the instruction with 0 in rd where the descriptor obeys R176 and pool and quota have room, 1 where they have not, 2 where it breaks a rule; x0 stays 0. Accepted, the pool holds one more tasklet of the context with the descriptor's entry, arguments and join record; refused, the pool is as before. Other harts, and every byte of memory as a context reads it, are unchanged. A misaligned descriptor traps: the hart is free, and TD_FAULTS has grown. -/
def Obligations.TspawnAcceptsOrRefuses : Prop :=
  ∀ (h rd rs1 : Nat) (k : Tasklet) (s : State), runningOn h s = some k → (hartOf h s).sbuf = [] →
    let v := hartOf h s
    let a := (xreg v rs1).toNat
    let b := rdBytes k.ctx a 64 s
    let r := if descOk b s = true then (if spawnRoom k.ctx s = true then 0 else 1) else 2
    (a % 64 = 0 → checkRead k.ctx a 64 s = .fine →
      ∃ t : State, exec (.tspawn h rd rs1) s = .next t ∧ hartOf h t = nextPc (setX rd (BitVec.ofNat 64 r) v) ∧
        (∀ q, q ≠ h → hartOf q t = hartOf q s) ∧ SameBytes s t ∧ OnlyTasks s t ∧ t.task.parked = s.task.parked ∧
        (r = 0 → ∃ d, t.task.pool = tset s.task.pool s.task.nextSlot { taskOf k.ctx b none with onlyDie := d }) ∧
        (r ≠ 0 → t.task.pool = s.task.pool ∧ t.task.ready = s.task.ready ∧ t.task.deque = s.task.deque)) ∧
    (a % 64 ≠ 0 → k.join = 0 → ∀ sl, slotOf k.ctx s = some sl →
      ∃ (t : State) (z : Slot), exec (.tspawn h rd rs1) s = .next t ∧ (hartOf h t).task = none ∧ slotOf k.ctx t = some z ∧ (sl.tdFaults ≠ 0xFFFFFFFF → z.tdFaults = sl.tdFaults + 1))

/-- TJOIN waits on a join record, and TEND ends the tasklet. On a hart that executes a tasklet and whose store buffer is empty: TJOIN with an aligned record that the context can read passes with 0 in rd where its count is 0, and otherwise leaves the hart waiting at the instruction, with the count observed; the end of the wait passes the instruction with that count in rd. TEND of a tasklet that names no record frees the hart, in M-mode, and the pool slot. TEND of one that names a record in writable memory, with a count of 2 or more and no hart waiting on it, frees both and stores the count less 1 with FAULT as it was; no other byte of the context's memory changes. -/
def Obligations.JoinAndEnd : Prop :=
  ∀ (h rd rs1 : Nat) (s : State),
    let v := hartOf h s
    (∀ k, runningOn h s = some k →
      let a := (xreg v rs1).toNat
      let n := leNat (rdBytes k.ctx a 8 s) % 2 ^ 63
      a % 16 = 0 → checkRead k.ctx a 8 s = .fine → v.sbuf = [] →
        ∃ t : State, exec (.tjoin h rd rs1) s = .next t ∧ (∀ q, q ≠ h → hartOf q t = hartOf q s) ∧ SameBytes s t ∧ OnlyTasks s t ∧ t.task.pool = s.task.pool ∧
          (n = 0 → hartOf h t = nextPc (setX rd 0 v)) ∧
          (n ≠ 0 → hartOf h t = { v with tjoin := some (a, rd, n) })) ∧
    (∀ a r n, v.tjoin = some (a, r, n) →
      exec (.tjoinTimeout h) s = .next (setHart h (nextPc (setX r (BitVec.ofNat 64 n) { v with tjoin := none })) s)) ∧
    (∀ k p, runningOn h s = some k → v.task = some p → k.join = 0 → v.sbuf = [] →
      ∃ t : State, exec (.tend h) s = .next t ∧ hartOf h t = { v with task := none, tjoin := none, sem := none, priv := .m, instret := v.instret + 1 } ∧
        (∀ q, q ≠ h → hartOf q t = hartOf q s) ∧ t.task.pool = tdel s.task.pool p ∧ t.mem = s.mem ∧ OnlyTasks s t) ∧
    (∀ k p, runningOn h s = some k → v.task = some p → k.join ≠ 0 → k.join % 16 = 0 → WritableAt k.ctx k.join 16 s → NoAlias k.ctx s → checkRead k.ctx k.join 16 s = .fine → v.sbuf = [] →
      2 ≤ leNat (rdBytes k.ctx k.join 8 s) % 2 ^ 63 → (∀ x ∈ s.task.harts, x.2.tjoin = none) →
      ∃ t : State, exec (.tend h) s = .next t ∧ (hartOf h t).task = none ∧ t.task.pool = tdel s.task.pool p ∧
        Stored k.ctx k.join (leBytes 8 (leNat (rdBytes k.ctx k.join 8 s) - 1)) s t ∧ OnlyTasks s t)

/-- A tasklet starts on a free hart, and a trap that is not resolved ends it. On a free, unhalted, powered hart of a home core of a resident context without stealing, with no hart waiting to be taken over, the oldest tasklet of the context's queue on the die leaves the queue and starts: pc is its entry, x10 to x14 its arguments, x15 its join address, x2, x3 and x4 the stack pointer, gp and logical index of R182, every other integer register 0, vill set, vl, vstart and fcsr 0, float and vector registers kept, in U-mode under its context's tables; its core's L1 data cache is invalidated; nothing else changes. A trap that tiering does not resolve, of a tasklet without a join record, frees hart and pool slot, adds one to TD_FAULTS, and raises TASKLET_FAULT with its cause, code (that of an access fault where the page is lost or, for a store, sealed), hart, entry, pc and value unless NOFAULTEVT is set. -/
def Obligations.TaskletStartAndFault : Prop :=
  (∀ (c h p : Nat) (r : List Nat) (k : Slot) (q : Tasklet) (s : State), slotOf c s = some k → resident c s = true → k.homeC.contains (coreOfHart h) = true →
    (hartOf h s).task = none → (hartOf h s).halted = false → clockPowered (domCore (dieOfHart h)) s = true → s.task.parked = [] → k.act.steal = false → (hartOf h s).sbuf = [] →
    tgetD s.task.ready (4 * c + dieOfHart h) [] = p :: r → tget s.task.pool p = some q →
    ∃ t : State, exec (.taskletStart c h) s = .next t ∧
      t = { s with task := { s.task with ready := tset s.task.ready (4 * c + dieOfHart h) r, harts := tset s.task.harts h (hartOf h t), l1 := s.task.l1.filter fun x => decide (l1Core x.1 ≠ coreOfHart h) } } ∧
      (let w := hartOf h t
       let l := logicalHart h s
       w.priv = .u ∧ w.satp = some q.ctx ∧ w.task = some p ∧ w.pc = q.entry ∧ w.vtype = vill ∧ w.vl = 0 ∧ w.vstart = 0 ∧ w.fcsr = 0 ∧ w.f = (hartOf h s).f ∧ w.v = (hartOf h s).v ∧
         (∀ i, i < 5 → xreg w (10 + i) = q.args.getD i 0) ∧ xreg w 15 = BitVec.ofNat 64 q.join ∧ xreg w 4 = BitVec.ofNat 64 l ∧ xreg w 3 = k.gp ∧
         xreg w 2 = BitVec.ofNat 64 (k.stackBase.toNat + 2 ^ k.stackLog2 * (l + 1)) ∧ xreg w 1 = 0 ∧
         (∀ i, 5 ≤ i → i < 10 → xreg w i = 0) ∧ (∀ i, 16 ≤ i → i < 32 → xreg w i = 0))) ∧
  (∀ (h m : Nat) (z : U64) (k : Tasklet) (p : Nat) (sl : Slot) (s : State), runningOn h s = some k → resolveTrap k.ctx m z.toNat s = none → compUp (0x10 + dieOfHart h) s = true → (hartOf h s).sbuf = [] → k.join = 0 →
    (hartOf h s).task = some p → slotOf k.ctx s = some sl → sl.tdFaults ≠ 0xFFFFFFFF → s.host.held.length < 256 →
    ∃ t : State, exec (.taskletFault h m z) s = .next t ∧ (hartOf h t).task = none ∧ (∀ q, q ≠ h → hartOf q t = hartOf q s) ∧ t.task.pool = tdel s.task.pool p ∧ t.mem = s.mem ∧
      slotOf k.ctx t = some { sl with tdFaults := sl.tdFaults + 1 } ∧ (∀ q, q ≠ k.ctx → slotOf q t = slotOf q s) ∧
      t.host.held = (if k.noFaultEvt = true then s.host.held else s.host.held ++ [⟨0x12, 2, dieOfHart h, tgetD s.host.seqs (512 + dieOfHart h) 0, k.ctx, 0,
        leBytes 1 1 ++ leBytes 1 (trapCause k.ctx m z.toNat s) ++ leBytes 2 (logicalHart h s) ++ zeros 4 ++ leBytes 8 k.entry.toNat ++ leBytes 8 (hartOf h s).pc.toNat ++ leBytes 8 z.toNat⟩]))

/-- Vector XOR-popcount and its accumulating form. On a hart that executes a tasklet, with a legal setting and vl within the register group, each of the four vector forms answers a next state in which the hart has passed the instruction with vstart 0 and its scalar registers kept; each element from vstart below vl that is active holds the number of 1 bits of the exclusive or of its second operand with the first vector element, or with the scalar truncated to the element width, added to the old destination element modulo the element width for the accumulating forms; with vta and vma 0 every other element of every register is as before. Only that hart and the drawn-values counter change. -/
def Obligations.XorPopcount : Prop :=
  ∀ (h vd vs2 s1 : Nat) (vm : Bool) (k : Tasklet) (s : State), runningOn h s = some k →
    let v := hartOf h s
    let sew := sewOf v.vtype.toNat
    let form := fun (c : Instr) (regs : List Nat) (acc : Bool) (src : Nat → Nat) =>
      vIllegal v vm vd regs = false → 64 * v.vl.toNat * sew ≤ 512 * 8 * (lmul8 v.vtype.toNat).getD 0 → bit v.vtype.toNat 6 = false → bit v.vtype.toNat 7 = false →
      ∃ t : State, exec c s = .next t ∧ t = { s with task := { s.task with harts := tset s.task.harts h (hartOf h t) }, freeCtr := t.freeCtr } ∧
        hartOf h t = { v with pc := v.pc + 4, instret := v.instret + 1, vstart := 0, v := (hartOf h t).v } ∧
        (∀ i, v.vstart.toNat ≤ i → i < v.vl.toNat → (vm = true ∨ bit (vreg v 0) i = true) →
          vElem (hartOf h t) sew vd i = ((if acc then vElem v sew vd i else 0) + popcount sew (vElem v sew vs2 i ^^^ src i)) % 2 ^ sew) ∧
        (∀ r i, i * sew < 512 → (∀ j, v.vstart.toNat ≤ j → j < v.vl.toNat → (vm = true ∨ bit (vreg v 0) j = true) → ¬ (r = vd + j * sew / 512 ∧ i * sew = j * sew % 512)) →
          vElem (hartOf h t) sew r i = vElem v sew r i)
    form (.vxpopcVv h vd vs2 s1 vm) [vd, vs2, s1] false (fun i => vElem v sew s1 i) ∧
    form (.vxpopcaccVv h vd vs2 s1 vm) [vd, vs2, s1] true (fun i => vElem v sew s1 i) ∧
    form (.vxpopcVx h vd vs2 s1 vm) [vd, vs2] false (fun _ => (xreg v s1).toNat % 2 ^ sew) ∧
    form (.vxpopcaccVx h vd vs2 s1 vm) [vd, vs2] true (fun _ => (xreg v s1).toNat % 2 ^ sew)

/-- Prefetch hints, FENCE, TD_FAULTS, and the dispatch of signals. On a hart that executes a tasklet: PFSTREAM passes with its slot holding the stream of rs1 and rs2, or no stream where the target is reserved or the number of lines is 0; PFSTOP passes with the slot named stopped; neither changes another slot; PFIND passes with no byte of memory changed; each changes nothing of any hart but the pc and the instruction count of its own. FENCE passes, having invalidated the core's L1 data cache where its predecessor set holds R and left the store buffer empty where it holds W. A read of TD_FAULTS returns the count and clears it alone. With a record of engine e, VALUE and owner c at the head of a die's completion queue: where SIG_DESC[e] of c is 0, as it reads for an engine not assigned to c, the record leaves the queue and nothing else changes; where it names a readable descriptor that obeys R176 and there is room, the record leaves the queue and the pool holds one more tasklet, its fifth argument e·2^16 + VALUE; where there is no room the queue is as before and the die retries. Both the first attempt and, on a die that retries, with no resume handler waiting, the retry do so; the first attempt does nothing on a die that retries. -/
def Obligations.HintsFenceAndSignals : Prop :=
  (∀ (h rs1 rs2 : Nat) (k : Tasklet) (s : State), runningOn h s = some k →
    let v := hartOf h s
    let w := (xreg v rs2).toNat
    let key := 64 * coreOfHart h + bits w 48 6
    let stop := 64 * coreOfHart h + bits (xreg v rs1).toNat 0 6
    (∃ t : State, exec (.pfstream h rs1 rs2) s = .next t ∧ t.task.harts = tset s.task.harts h (nextPc v) ∧ t.task.pool = s.task.pool ∧ t.mem = s.mem ∧ OnlyTasks s t ∧
      (∀ q, q ≠ key → tget t.task.pf q = tget s.task.pf q) ∧
      (bits w 54 2 ≤ 1 → bits w 32 16 ≠ 0 →
        ∃ n, tget t.task.pf key = some ⟨xreg v rs1, signed 32 (bits w 0 32), bits w 32 16, bits w 54 2, if bits w 56 8 = 0 then 8 else bits w 56 8, h, n⟩) ∧
      (¬ (bits w 54 2 ≤ 1 ∧ bits w 32 16 ≠ 0) → tget t.task.pf key = none)) ∧
    (∃ t : State, exec (.pfstop h rs1) s = .next t ∧ t.task.harts = tset s.task.harts h (nextPc v) ∧ t.task.pool = s.task.pool ∧ t.mem = s.mem ∧ OnlyTasks s t ∧
      tget t.task.pf stop = none ∧ (∀ q, q ≠ stop → tget t.task.pf q = tget s.task.pf q)) ∧
    (∃ t : State, exec (.pfind h rs1 rs2) s = .next t ∧ t.task.harts = tset s.task.harts h (nextPc v) ∧ t.task.pool = s.task.pool ∧ SameBytes s t ∧ OnlyTasks s t) ∧
    (∀ pred succ, ∃ t : State, exec (.coreFence h pred succ) s = .next t ∧
      hartOf h t = nextPc { v with sbuf := if pred.testBit 0 then [] else v.sbuf } ∧ (∀ q, q ≠ h → hartOf q t = hartOf q s) ∧
      (pred.testBit 0 = false ∨ v.sbuf = [] → t = { s with task := { s.task with
        harts := tset s.task.harts h (nextPc v), l1 := if pred.testBit 1 then s.task.l1.filter fun x => decide (l1Core x.1 ≠ coreOfHart h) else s.task.l1 } })) ∧
    (∀ c q, slotOf c s = some q → exec (.tdFaultsRead c) s = .next { s with
      host := { s.host with lastRead := BitVec.ofNat 64 q.tdFaults.toNat }
      ctxs := { s.ctxs with slots := tset s.ctxs.slots c { q with tdFaults := 0 } } })) ∧
  (∀ (d e val c : Nat) (r : List (Nat × Nat × Nat)) (k : Slot) (s : State) (cmd : Instr),
    (cmd = .signalDispatch d ∧ s.eng.retry.contains d = false) ∨ (cmd = .signalRetry d ∧ s.eng.retry.contains d = true ∧ ∀ x ∈ s.ctxs.slots, x.2.resumeWait = false) →
    tgetD s.eng.cq d [] = (e, val, c) :: r → slotOf c s = some k →
    let desc := sigDescOf k e s
    let b := rdBytes c desc 64 s
    let popped : State := { s with eng := { s.eng with cq := tset s.eng.cq d r, retry := s.eng.retry.filter fun x => decide (x ≠ d) } }
    (desc = 0 → exec cmd s = .next popped) ∧
    (desc ≠ 0 → checkRead c desc 64 s = .fine → descOk b s = true → spawnRoom c s = true →
      ∃ (t : State) (q : _), exec cmd s = .next t ∧ t.eng = popped.eng ∧ t.task.pool = tset s.task.pool s.task.nextSlot { taskOf c b (some (e * 65536 + val)) with onlyDie := q } ∧
        t.task.harts = s.task.harts ∧ SameBytes s t ∧ OnlyTasks popped t) ∧
    (desc ≠ 0 → checkRead c desc 64 s = .fine → descOk b s = true → spawnRoom c s = false →
      ∃ t : State, exec cmd s = .next t ∧ t.eng.cq = s.eng.cq ∧ t.eng.retry.contains d = true ∧ t = { s with eng := { s.eng with retry := t.eng.retry } }) ∧
    (s.eng.retry.contains d = true → exec (.signalDispatch d) s = .next s))

/-- A DMA descriptor moves its rows. DMA_TAIL within the ring's bounds is taken and nothing else changes. On a powered, owned engine whose channel is enabled with a descriptor waiting that the context can read, that obeys R185 and stays in local memory: from memory to local, with every row readable, local memory at local + k·len + i becomes the byte at mem + k·pitch + i and no other local byte changes; from local to memory, for rows that lie apart in writable memory, each of those bytes of memory becomes the local byte and no other byte of the context's memory changes. DMA_HEAD has grown by one, SYNC_CNT[k] by one where the descriptor says so, and no other engine has changed. A range beyond local memory sets RANGE, clears EN, keeps DMA_HEAD and moves nothing. -/
def Obligations.DmaMovesRows : Prop :=
  ∀ (e : Nat) (v : U32) (s : State), engOn e s = true →
    let g := engOf e s
    let n : U16 := BitVec.ofNat 16 v.toNat
    (tailOk g.dma n = true → exec (.dmaTailWrite e v) s = .next (setEng e { g with dma := { g.dma with tail := n } } s)) ∧
    (∀ c, g.owner = some c → g.dma.cfg.toNat.testBit 31 = true → g.dma.head ≠ g.dma.tail → checkRead c (ringAt g.dma) 32 s = .fine →
      let b := rdBytes c (ringAt g.dma) 32 s
      let mem := fld b 0 8
      let loc := fld b 8 4
      let len := fld b 12 4
      let rows := fld b 16 4
      let pitch := fld b 20 4
      dmaDescOk b = true →
        let moved := fun (t : State) => (engOf e t).dma = { g.dma with head := g.dma.head + 1 } ∧ (∀ q, q ≠ e → engOf q t = engOf q s) ∧
          (∀ j, syncCnt (engOf e t).sav j = syncCnt g.sav j + (if bit (fld b 25 1) 7 = true ∧ j = bits (fld b 25 1) 0 3 then 1 else 0)) ∧
          t = { s with eng := t.eng, mem := t.mem, ecc := t.ecc, agents := { s.agents with kv := t.agents.kv } }
        (loc + len * rows ≤ 0x200000 → fld b 24 1 = 0 → (∀ j, j < rows → checkRead c (mem + j * pitch) len s = .fine) →
          ∃ t : State, exec (.dmaDescriptor e) s = .next t ∧ moved t ∧ SameBytes s t ∧
            (∀ j i, j < rows → i < len → Memory.read 0 (engOf e t).sav.mem (loc + j * len + i) = rdByte c s (mem + j * pitch + i)) ∧
            (∀ a, (a < loc ∨ loc + len * rows ≤ a) → Memory.read 0 (engOf e t).sav.mem a = Memory.read 0 g.sav.mem a)) ∧
        (loc + len * rows ≤ 0x200000 → fld b 24 1 = 1 → len ≤ pitch → NoAlias c s → (∀ j, j < rows → checkRead c (mem + j * pitch) len s = .fine ∧ WritableAt c (mem + j * pitch) len s) →
          ∃ t : State, exec (.dmaDescriptor e) s = .next t ∧ moved t ∧ (engOf e t).sav.mem = g.sav.mem ∧
            (∀ j i, j < rows → i < len → rdByte c t (mem + j * pitch + i) = Memory.read 0 g.sav.mem (loc + j * len + i)) ∧
            (∀ a, (∀ j, j < rows → a < mem + j * pitch ∨ mem + j * pitch + len ≤ a) → rdByte c t a = rdByte c s a)) ∧
        (0x200000 < loc + len * rows → ∃ t : State, exec (.dmaDescriptor e) s = .next t ∧ SameBytes s t ∧ (∀ q, q ≠ e → engOf q t = engOf q s) ∧
          engOf e t = { g with dma := { g.dma with fault := g.dma.fault ||| 2, cfg := g.dma.cfg &&& 0x7FFFFFFF } } ∧
          t = { s with eng := t.eng, mem := t.mem, ecc := t.ecc, agents := { s.agents with kv := t.agents.kv }, host := t.host }))

/-- The tier queue copies, zeroes, compresses and decompresses. TQ_TAIL within the ring's bounds is taken and nothing else changes. For a context with its tier ring enabled, a command waiting that it can read and that obeys R188, no join record, and its source readable: copy stores the source bytes at the destination, zero stores zeros, compress, of a range that its output does not overlap, stores the compressed stream of the source, each where the destination is writable; decompress of a source of one good chunk stores the raw bytes of the chunk. No other byte of the context's memory changes, and TQ_HEAD has grown by one. -/
def Obligations.TierQueue : Prop :=
  ∀ (c : Nat) (k : Slot) (v : U32) (s : State), slotOf c s = some k →
    (tailOk k.tq (BitVec.ofNat 16 v.toNat) = true →
      exec (.tqTailWrite c v) s = .next { s with ctxs := { s.ctxs with slots := tset s.ctxs.slots c { k with tq := { k.tq with tail := BitVec.ofNat 16 v.toNat } } } }) ∧
    (k.tq.cfg.toNat.testBit 31 = true → k.tq.head ≠ k.tq.tail → k.hold = false → k.secHold = false → checkRead c (ringAt k.tq) 32 s = .fine → NoAlias c s →
      let b := rdBytes c (ringAt k.tq) 32 s
      let src := rdBytes c (fld b 8 8) (fld b 24 4) s
      let dst := fld b 16 8
      fld b 24 4 ≠ 0 → fld b 28 4 = 0 →
        let puts := fun (cmd : Instr) (bs : Bytes) => checkRead c dst bs.length s = .fine → WritableAt c dst bs.length s →
          ∃ t : State, exec cmd s = .next t ∧ Stored c dst bs s t ∧ slotOf c t = some { k with tq := { k.tq with head := k.tq.head + 1 } } ∧
            (∀ q, q ≠ c → slotOf q t = slotOf q s) ∧
            t = { s with ctxs := t.ctxs, mem := t.mem, ecc := t.ecc, agents := { s.agents with kv := t.agents.kv } }
        (fld b 0 1 = 4 → puts (.tierZero c) (zeros (fld b 24 4))) ∧
        (checkRead c (fld b 8 8) (fld b 24 4) s = .fine →
          (fld b 0 1 = 1 → puts (.tierCopy c) src) ∧
          (fld b 0 1 = 3 → (dst + (compressAll (src.length / 65536 + 1) src).length ≤ fld b 8 8 ∨ fld b 8 8 + fld b 24 4 ≤ dst) →
            puts (.tierCompress c) (compressAll (src.length / 65536 + 1) src)) ∧
          (fld b 0 1 = 2 → ∀ raw used, decompressChunk src = some (raw, used) → src.length ≤ (used + 7) / 8 * 8 → puts (.tierDecompress c) raw)))

/-! ### Memory tiers and error correction (08, 09) -/

/-- MEMORY.ALLOC, FREE and CLONE. For a waiting request without references: ALLOC ends with INVALID_FIELD, else RANGE_IN_USE, else NO_SPACE where R280 says so, with nothing changed but the ledger; otherwise it completes with the handle and address of a new object of the context, whose pages are new, writable and read as zero, at the address asked for where one was; every page and object there was is unchanged. FREE of an object of the context without private pages completes, its handle is gone, other objects and all pages outside it are unchanged, and a page that other objects reference stays with its bytes. CLONE of a sealed object without repeated pages completes with a new object over the same pages, each now referenced once more with its bytes as they were; a clone of an object that is not sealed, to a free or no given address, ends with NOT_SEALED. A handle not of the context ends with NO_OBJECT. -/
def Obligations.MemoryObjects : Prop :=
  ∀ (rid : Nat) (r : Req) (s : State), hasRef r = false →
    let va := fld r.payload 0 8
    let n := fld r.payload 8 8
    let fl := fld r.payload 16 2
    let len := pageBytes * pagesFor n
    let bad := manyPlaces fl = true ∨ 256 ≤ fl ∨ n = 0 ∨ 2 ^ 40 < n ∨ va % pageBytes ≠ 0
    let inUse := va ≠ 0 ∧ vaFree r.mbx va len s = false
    let full := t1Fits r.mbx len s = false ∨ 2 ^ 20 ≤ objCount r.mbx s ∨ (va = 0 ∧ chooseVa r.mbx len s = none)
    (Waits 5 1 rid r s →
      (bad → Refuses (.memoryAlloc rid) rid 0x0100 s) ∧
      (¬ bad → inUse → Refuses (.memoryAlloc rid) rid 0x8003 s) ∧
      (¬ bad → ¬ inUse → full → Refuses (.memoryAlloc rid) rid 0x0200 s) ∧
      (¬ bad → ¬ inUse → ¬ full → ∃ (t : State) (h a ps : _), exec (.memoryAlloc rid) s = .next t ∧ Done rid 0 (leBytes 8 h ++ leBytes 8 a) t ∧
        tget t.mem.objs h = some ⟨r.mbx, a, fl, ps, []⟩ ∧ ps.length = pagesFor n ∧ (va ≠ 0 → a = va) ∧ h / 2 ^ 58 = r.mbx ∧
        (∀ p ∈ ps, ∃ q : Page, pageGet p t = some q ∧ q.ctx = r.mbx ∧ q.kind = .writable ∧ q.data = []) ∧
        (∀ p, p < s.mem.nextPage → pageGet p t = pageGet p s) ∧ (∀ k, k ≠ h → tget t.mem.objs k = tget s.mem.objs k) ∧ t = { s with mem := t.mem, ecc := t.ecc, ledger := t.ledger })) ∧
    (∀ h o, h = fld r.payload 0 8 → objTurn r s = true →
      (Waits 5 2 rid r s → objOf r.mbx h s = none → Refuses (.memoryFree rid) rid 0x8000 s) ∧
      (Waits 5 2 rid r s → objOf r.mbx h s = some o → o.pages.Nodup → (∀ p ∈ o.pages, isPrivKind (pageKindOf p s) = false) →
        ∃ t : State, exec (.memoryFree rid) s = .next t ∧ Done rid 0 [] t ∧ tget t.mem.objs h = none ∧ (∀ k, k ≠ h → tget t.mem.objs k = tget s.mem.objs k) ∧
          (∀ p, p ∉ o.pages → pageGet p t = pageGet p s) ∧
          (∀ p ∈ o.pages, ∀ q, pageGet p s = some q → pageGet p t = if q.refs ≤ 1 then none else some { q with refs := q.refs - 1 }) ∧
          t = { s with mem := t.mem, ledger := t.ledger, ftl := t.ftl }) ∧
      (Waits 5 4 rid r s → objOf r.mbx h s = some o → fld r.payload 16 2 &&& 0xFF3F = 0 → fld r.payload 8 8 % pageBytes = 0 → objSealed o s = false →
        (fld r.payload 8 8 = 0 ∨ vaFree r.mbx (fld r.payload 8 8) (pageBytes * o.pages.length) s = true) → Refuses (.memoryClone rid) rid 0x8001 s) ∧
      (Waits 5 4 rid r s → objOf r.mbx h s = some o → fld r.payload 16 2 &&& 0xFF3F = 0 → fld r.payload 8 8 % pageBytes = 0 → objSealed o s = true → o.pages.Nodup →
        fld r.payload 8 8 ≠ 0 → vaFree r.mbx (fld r.payload 8 8) (pageBytes * o.pages.length) s = true → objCount r.mbx s < 2 ^ 20 →
        ∃ (t : State) (g f : _), exec (.memoryClone rid) s = .next t ∧ Done rid 0 (leBytes 8 g ++ leBytes 8 (fld r.payload 8 8)) t ∧
          tget t.mem.objs g = some ⟨r.mbx, fld r.payload 8 8, f, o.pages, o.digest⟩ ∧ f % 64 = o.aflags % 64 ∧ f / 64 = fld r.payload 16 2 / 64 ∧
          (∀ k, k ≠ g → tget t.mem.objs k = tget s.mem.objs k) ∧
          (∀ p q, pageGet p s = some q → pageGet p t = some (if p ∈ o.pages then { q with refs := q.refs + 1 } else q)) ∧
          t = { s with mem := t.mem, ledger := t.ledger }))

/-- MEMORY.SEAL and PLACE keep the bytes. For a waiting request without references on an object of the context that is next on it: SEAL with no flag, of an object kept in T1 that is not durable, has writable or sealed pages of T1 only, and has at least one writable, completes with the SHAKE256 digest of the object's bytes; every page of it is sealed and holds the bytes it held. SEAL of a sealed object ends with ALREADY_SEALED. The writes to the object that were accepted before the seal are performed first: a SEAL with them is the SEAL after them, and one to writable pages is stored. PLACE with a flag outside the placement flags ends with INVALID_FIELD, of an object not sealed with NOT_SEALED; a PLACE as HOT of a sealed object all of whose pages have a T1 copy completes with the placement flags replaced. Every page keeps its bytes, and every other object its address and pages. A PLACE as HOT of an object of one page whose only copy is in flash, and whose read fails at every step, ends with DATA_LOST; the page is lost and no other changes. -/
def Obligations.MemorySealAndPlace : Prop :=
  ∀ (rid h : Nat) (r : Req) (o : Obj) (s : State), hasRef r = false → h = fld r.payload 0 8 → objTurn r s = true → objOf r.mbx h s = some o →
    let inT1 := ∀ p ∈ o.pages, ∃ q : Page, pageGet p s = some q ∧ (q.kind = .writable ∨ q.kind = .sealed) ∧ q.t1.isSome = true
    let objsKept := fun (t : State) => ∀ k x, tget s.mem.objs k = some x → ∃ y : Obj, tget t.mem.objs k = some y ∧ y.va = x.va ∧ y.pages = x.pages ∧ y.ctx = x.ctx
    (Waits 5 3 rid r s → fld r.payload 8 2 < 4 → objSealed o s = true → Refuses (.memorySeal rid []) rid 0x8002 s) ∧
    (Waits 5 3 rid r s → fld r.payload 8 2 = 0 → objSealed o s = false → aWarm o.aflags = false → aCold o.aflags = false → aDurable o.aflags = false → inT1 →
      ∃ (t : State) (x : Obj), exec (.memorySeal rid []) s = .next t ∧ Done rid 0 (shake256 (objBytes o s) 32) t ∧ tget t.mem.objs h = some x ∧ x.digest = shake256 (objBytes o s) 32 ∧
        objSealed x t = true ∧ objsKept t ∧ (∀ p q, pageGet p s = some q → ∃ y : Page, pageGet p t = some y ∧ y.data = q.data ∧ (p ∉ o.pages → y = q) ∧ (p ∈ o.pages → y.kind = .sealed)) ∧
        t = { s with mem := t.mem, ledger := t.ledger }) ∧
    (∀ l, exec (.memorySeal rid l) s = exec (.memorySeal rid []) (sealWrites rid l s)) ∧
    (∀ va bs, Waits 5 3 rid r s → o.va ≤ va → va + bs.length ≤ o.va + pageBytes * o.pages.length → checkRead r.mbx va bs.length s = .fine → WritableAt r.mbx va bs.length s → NoAlias r.mbx s →
      Stored r.mbx va bs s (sealWrites rid [(va, bs)] s) ∧ findReq rid (sealWrites rid [(va, bs)] s) = some r) ∧
    (Waits 5 5 rid r s → (16 ≤ fld r.payload 8 2 ∨ manyPlaces (fld r.payload 8 2) = true) → ∀ l, Refuses (.memoryPlace rid l) rid 0x0100 s) ∧
    (Waits 5 5 rid r s → fld r.payload 8 2 = 1 → objSealed o s = false → ∀ l, Refuses (.memoryPlace rid l) rid 0x8001 s) ∧
    (Waits 5 5 rid r s → fld r.payload 8 2 = 1 → objSealed o s = true → o.pages ≠ [] → inT1 → ∀ l,
      ∃ (t : State) (x : Obj), exec (.memoryPlace rid l) s = .next t ∧ Done rid 0 [] t ∧ tget t.mem.objs h = some x ∧ x.aflags = o.aflags / 16 * 16 + 1 ∧ objsKept t ∧ PagesKept s t ∧
        t = { s with mem := t.mem, ledger := t.ledger }) ∧
    (∀ p q k x, Waits 5 5 rid r s → fld r.payload 8 2 = 1 → objSealed o s = true → o.pages = [p] → pageGet p s = some q → q.kind = .sealed → q.t1 = none → q.t2 = none → q.flash2 < 2 →
      t1Fits r.mbx pageBytes s = true → flashRuns s = true → tget s.ftl.media k = some x → x.item = .page p 0 → mapGet x.space x.index s = some k →
      ∃ (t : State) (y : Page), exec (.memoryPlace rid [(k, 6)]) s = .next t ∧ Done rid 0x0400 [] t ∧ pageGet p t = some y ∧ y.kind = .lost ∧ (∀ j, j ≠ p → pageGet j t = pageGet j s))

/-- MEMORY.QUERY, USAGE, QUOTA and MIG_CFG. For a waiting request without references: QUERY of an object of the context, next on it, completes with its reply and changes nothing but the ledger; USAGE of the own context, or by context 0 of any, completes with its reply and changes nothing but the ledger; a tenant that names another context ends with INVALID_FIELD, in USAGE and in MIG_CFG; MIG_CFG with EN at most 1 and DEMOTE below PROMOTE completes with the context's entry so written and no other memory state changed; QUOTA of a context completes with its three quotas as given; every page keeps its bytes and every writable page its T1 copy. -/
def Obligations.MemoryQueryAndQuota : Prop :=
  ∀ (rid c : Nat) (r : Req) (s : State), hasRef r = false → c = fld r.payload 0 1 →
    (∀ o, Waits 5 6 rid r s → objTurn r s = true → objOf r.mbx (fld r.payload 0 8) s = some o →
      ∃ t : State, exec (.memoryQuery rid) s = .next t ∧ Done rid 0 (objQuery (fld r.payload 0 8) o s) t ∧ OnlyLedger s t) ∧
    (Waits 5 7 rid r s → c < 64 → (r.mbx = 0 ∨ c = r.mbx) → ∃ t : State, exec (.memoryUsage rid) s = .next t ∧ Done rid 0 (usageReply c s) t ∧ OnlyLedger s t) ∧
    (Waits 5 7 rid r s → r.mbx ≠ 0 → c ≠ r.mbx → Refuses (.memoryUsage rid) rid 0x0100 s) ∧
    (Waits 5 9 rid r s → r.mbx ≠ 0 → c ≠ r.mbx → Refuses (.memoryMigCfg rid) rid 0x0100 s) ∧
    (Waits 5 9 rid r s → c < 64 → (r.mbx = 0 ∨ c = r.mbx) → fld r.payload 1 1 ≤ 1 → fld r.payload 3 1 < fld r.payload 2 1 →
      ∃ t : State, exec (.memoryMigCfg rid) s = .next t ∧ Done rid 0 [] t ∧
        t = { s with ledger := t.ledger, mem := { s.mem with migCfg := tset s.mem.migCfg c (BitVec.ofNat 32 (fld r.payload 1 1 + 256 * fld r.payload 2 1 + 65536 * fld r.payload 3 1)) } }) ∧
    (Waits 5 8 rid r s → c < 64 → ∃ t : State, exec (.memoryQuota rid) s = .next t ∧ Done rid 0 [] t ∧
      (usageOf c t).t1Quota = fld r.payload 8 8 ∧ (usageOf c t).t2Quota = fld r.payload 16 8 ∧ (usageOf c t).flashQuota = fld r.payload 24 8 ∧ PagesKept s t ∧
      (∀ p q, pageGet p s = some q → q.kind ≠ .sealed → ∃ x : Page, pageGet p t = some x ∧ x.t1 = q.t1) ∧ t.mem.objs = s.mem.objs ∧ t.ctxs = s.ctxs)

/-- Copy-on-write, fills, moves and pressure never change a page's bytes. A promotion of a sealed page of a COW object with a T1 or T2 copy, with room in the quota, maps a new private page with the same bytes and leaves the sealed page and every byte as it was; without room it changes nothing. A fill of a sealed page without a DRAM copy, into T1, from a flash copy that reads, keeps its bytes and is counted; a failed one makes the page lost. The end of an epoch advances the epoch by its length and puts the next length in force, with no move chosen and MIG_STAT 0 where moves are off; with them on it chooses at most MAX_PAGES moves. A promotion of a sealed page takes a T1 frame and keeps its T2 copy; a move of a page no longer sealed is abandoned and counted. A read of MIG_FAIL returns and clears it. Pressure changes nothing while enough is free, and otherwise keeps every page's bytes and the T1 copy of every page that is not sealed. -/
def Obligations.TierEvents : Prop :=
  (∀ (c va h p : Nat) (o : Obj) (q : Page) (s : State), objAt c va s = some (h, o) → tget s.mem.objs h = some o → o.ctx = c → o.va % pageBytes = 0 → pidAt c va s = some p → pageGet p s = some q →
    q.kind = .sealed → aCow o.aflags = true →
    (t1Fits c pageBytes s = true → (q.t1.isSome = true ∨ q.t2.isSome = true) → (∀ e ∈ s.mem.objs, ∀ k ∈ e.2.pages, k < s.mem.nextPage) → keysRise s.mem.objs = true →
      ∃ (t : State) (x : Page), exec (.cowPromotion c va) s = .next t ∧ pageAt c va t = some x ∧ x.kind = .priv p ∧ x.data = q.data ∧ pageGet p t = some q ∧ SameBytes s t ∧
        (usageOf c t).cowPages = (usageOf c s).cowPages + 1 ∧ t = { s with mem := t.mem, ecc := t.ecc }) ∧
    (t1Fits c pageBytes s = false → exec (.cowPromotion c va) s = .next s)) ∧
  (∀ (c va p f : Nat) (q : Page) (s : State), pidAt c va s = some p → pageGet p s = some q → q.kind = .sealed → q.t1 = none → q.t2 = none →
    (copyReads p s = true → aHot (pageFlags p s) = true ∨ aPinned (pageFlags p s) = true → t1Fits q.ctx pageBytes s = true → newT1 s = some f →
      ∃ t : State, exec (.fill c va true) s = .next t ∧ pageGet p t = some { q with t1 := some f } ∧ (usageOf q.ctx t).fills = (usageOf q.ctx s).fills + 1 ∧
        (∀ k, k ≠ p → pageGet k t = pageGet k s) ∧ t = { s with mem := t.mem, ecc := t.ecc }) ∧
    (∀ ok : Bool, (ok && copyReads p s) = false → ∃ (t : State) (x : Page), exec (.fill c va ok) s = .next t ∧ pageGet p t = some x ∧ x.kind = .lost ∧ (∀ k, k ≠ p → pageGet k t = pageGet k s) ∧ t = { s with mem := t.mem, ftl := t.ftl, host := t.host })) ∧
  (∀ s : State, clockPowered domFab s = true →
    ∃ t : State, exec .migrationEpoch s = .next t ∧ t.mem.epochStart = s.mem.epochStart + s.mem.migEpoch.toNat ∧ t.mem.migEpoch = s.mem.migEpochNext.getD s.mem.migEpoch ∧
      t.mem.migEpochNext = none ∧ (bit s.mem.migCtrl.toNat 0 = false → t.mem.moves = s.mem.moves ∧ t.mem.pages = s.mem.pages ∧ t.mem.migStat = 0) ∧
      t.mem.moves.length ≤ s.mem.moves.length + bits s.mem.migCtrl.toNat 8 8 ∧ t.mem.objs = s.mem.objs ∧ t = { s with mem := t.mem, clocks := t.clocks, freeCtr := t.freeCtr }) ∧
  (∀ (p f : Nat) (q : Page) (s : State), pageGet p s = some q →
    (s.mem.moves.find? (fun m => decide (m.1 = p)) = some (p, .promote) → q.kind = .sealed → q.t1 = none → newT1 s = some f →
      ∃ t : State, exec (.pageMove p) s = .next t ∧ pageGet p t = some { q with t1 := some f, promoted := true } ∧ (∀ k, k ≠ p → pageGet k t = pageGet k s) ∧
        (usageOf q.ctx t).promoted = (usageOf q.ctx s).promoted + 1 ∧ t.mem.moves = s.mem.moves.erase (p, .promote) ∧ t = { s with mem := t.mem, ecc := t.ecc }) ∧
    (∀ m, s.mem.moves.find? (fun m => decide (m.1 = p)) = some m → q.kind ≠ .sealed →
      exec (.pageMove p) s = .next { s with mem := { s.mem with
        moves := s.mem.moves.filter (fun m => decide (m.1 ≠ p)), migFail := if s.mem.migFail = 0xFFFFFFFF then s.mem.migFail else s.mem.migFail + 1 } })) ∧
  (∀ s : State, exec .migFailRead s = .next { s with host := { s.host with lastRead := BitVec.ofNat 64 s.mem.migFail.toNat }, mem := { s.mem with migFail := 0 } }) ∧
  (∀ (c : Instr) (s : State), c = .t1Pressure ∨ c = .t2Pressure →
    ∃ t : State, exec c s = .next t ∧ PagesKept s t ∧ t.mem.objs = s.mem.objs ∧ (∀ p q, pageGet p s = some q → q.kind ≠ .sealed → ∃ x : Page, pageGet p t = some x ∧ x.t1 = q.t1) ∧
      (c = .t1Pressure → 4 * 2 ^ 30 ≤ t1FreeAll s → t = s) ∧ (c = .t2Pressure → 16 * 2 ^ 30 ≤ t2Free s → t = s) ∧
      t = { s with mem := t.mem, ftl := t.ftl, ecc := t.ecc, agents := { s.agents with kv := t.agents.kv }, host := t.host })

/-- Reads with stored errors: counted, corrected, recovered or lost. At a powered controller, with the die or lane that fails counted to it: a read that meets no error leaves the controller as it is; one that meets a correctable error counts in ECC_CE_CNT, saturating, and records the line; neither changes memory contents, and an HBM line of a page delivers that page's bytes. One of a DRAM line that is uncorrectable counts in ECC_UE_CNT and raises its event; the page whose copy lies there is served from its other DRAM copy or an accepted flash copy that reads when sealed, and is lost otherwise. A patrol read with patrol enabled reads the next code unit, counts as a demand read does, and closes a pass after the last one. A read of a counter returns it and clears it alone; the expiry of a tracker entry removes that entry alone. -/
def Obligations.EccReads : Prop :=
  ∀ (k a c : Nat) (heal : DramHeal) (s : State), isEccCtl k = true → clockPowered (eccDomain k) s = true →
    let b := eccOf k s
    let r := failElement k heal.element s
    (∀ u, u = eccUnit k a → readOutcome k u heal.symbols r ≠ .uncorrectable →
      ∃ t : State, exec (.dramRead k a c heal) s = .next t ∧
        (readOutcome k u heal.symbols r = .clean → eccOf k t = eccOf k r) ∧
        (readOutcome k u heal.symbols r = .corrected → (eccOf k t).ceCnt.toNat = min 0xFFFFFFFF (b.ceCnt.toNat + 1) ∧ (eccOf k t).ceLast = BitVec.ofNat 64 (u / 64 * 64)) ∧
        (eccOf k t).ueCnt = b.ueCnt ∧ (∀ q, q ≠ k → eccOf q t = eccOf q s) ∧
        (∀ p q, k < 8 → pageOfLine k u s = some p → pageGet p s = some q → t.host.lastRead = BitVec.ofNat 64 (leNat (Memory.readN 0 q.data (u % pageBytes) 8))) ∧
        t = { s with ecc := { s.ecc with blk := t.ecc.blk }, host := { s.host with lastRead := t.host.lastRead }, mon := t.mon, freeCtr := t.freeCtr }) ∧
    (∀ u p q, u = eccUnit k a → readOutcome k u heal.symbols r = .uncorrectable → isDram k = true → pageOfLine k u s = some p → pageGet p s = some q → q.kind ≠ .priv p →
      s.host.held.length + (objsOf p s).length < 256 →
      ∃ (t : State) (x : _), exec (.dramRead k a c heal) s = .next t ∧ (eccOf k t).ueCnt.toNat = min 0xFFFFFFFF (b.ueCnt.toNat + 1) ∧
        (∃ e ∈ t.host.held, e.code = 0x17 ∧ e.srcType = 3 ∧ e.srcIdx = k ∧ e.payload = leBytes 8 u ++ [0]) ∧ pageGet p t = some x ∧
        (q.kind = .sealed → ((if k < 8 then q.t2.isSome else q.t1.isSome) = true ∨ copyReads p s = true) →
          x = (if k < 8 then { q with t1 := none, promoted := false } else { q with t2 := none })) ∧
        (¬ (q.kind = .sealed ∧ ((if k < 8 then q.t2.isSome else q.t1.isSome) = true ∨ copyReads p s = true)) → x.kind = .lost) ∧
        ((∀ o, q.kind ≠ .priv o) → ∀ j, j ≠ p → pageGet j t = pageGet j s) ∧
        t = { s with mem := t.mem, ecc := t.ecc, host := t.host, ftl := t.ftl, mon := t.mon, freeCtr := t.freeCtr }) ∧
    (∀ n, n = b.patrolPos + (if isDram k then 64 else 8) → bit b.ctrl.toNat 4 = true → s.host.ifState ≠ .bivouac → readOutcome k b.patrolPos heal.symbols r ≠ .uncorrectable →
      ∃ t : State, exec (.patrolRead k heal) s = .next t ∧ (eccOf k t).patrolPos = (if n < eccSize k then n else 0) ∧
        (eccOf k t).passes = (if n < eccSize k then b.passes else b.passes + 1) ∧ (eccOf k t).ueCnt = b.ueCnt ∧
        (readOutcome k b.patrolPos heal.symbols r = .clean → eccOf k t = { eccOf k r with patrolPos := (eccOf k t).patrolPos, passes := (eccOf k t).passes }) ∧
        (readOutcome k b.patrolPos heal.symbols r = .corrected → (eccOf k t).ceCnt.toNat = min 0xFFFFFFFF (b.ceCnt.toNat + 1)) ∧
        (∀ q, q ≠ k → eccOf q t = eccOf q s) ∧ t = { s with ecc := { s.ecc with blk := t.ecc.blk } }) ∧
    (exec (.eccCeCntRead k false) s = .next { s with
      host := { s.host with lastRead := BitVec.ofNat 64 b.ceCnt.toNat }, ecc := { s.ecc with blk := tset s.ecc.blk k { b with ceCnt := 0 } } }) ∧
    (exec (.eccCeCntRead k true) s = .next { s with
      host := { s.host with lastRead := BitVec.ofNat 64 b.ueCnt.toNat }, ecc := { s.ecc with blk := tset s.ecc.blk k { b with ueCnt := 0 } } }) ∧
    (∀ i e, b.track[i]? = some e → ∃ t : State, exec (.trackerEntryExpiry k i) s = .next t ∧ eccOf k t = { b with track := b.track.erase e } ∧
      (∀ q, q ≠ k → eccOf q t = eccOf q s) ∧ t = { s with clocks := t.clocks, ecc := { s.ecc with blk := t.ecc.blk } })

/-- Remaps, retired pages, a lost package and flip masks. At a powered controller, an address at its threshold that can be corrected, with a free entry of its channel, is remapped: it reads without error from then on, waits no more and is tracked no more, and the event is raised. A frame that holds an address for which no entry was left, with sealed pages only that have another DRAM copy, is retired: it is never allocated again, each page in it keeps its bytes and drops that copy, no other page changes, and its addresses wait no more. The loss of an LPDDR5X package drops the T2 copies in it of sealed pages with another copy, changes no byte of them, and counts the package as failed. Where injection is available, ECC_FLIP_CTRL takes ARM set by a 1, MATCH as written, APPLIED cleared by a 1; an armed mask that does not match by address is taken by the next codeword written: ARM and the masks are 0 then and APPLIED is 1. -/
def Obligations.EccRemapAndFlip : Prop :=
  (∀ (k a e : Nat) (l : List Nat) (s : State), isEccCtl k = true → clockPowered (eccDomain k) s = true →
    let u := eccUnit k a
    let b := eccOf k s
    b.atThresh.contains u = true → b.atThresh.Nodup → lineErrs k u s ≤ eccCorrects k → remapFree k (eccChannel k u) b = e :: l →
      ∃ t : State, exec (.remapInstall k a) s = .next t ∧ remapOf u (eccOf k t) ≠ none ∧ readOutcome k u 0 t = .clean ∧ (eccOf k t).atThresh.contains u = false ∧
        (∀ x ∈ (eccOf k t).track, x.addr ≠ u) ∧ (∀ q, q ≠ k → eccOf q t = eccOf q s) ∧
        t = { s with ecc := { s.ecc with blk := t.ecc.blk }, host := t.host, fw := t.fw, freeCtr := t.freeCtr }) ∧
  (∀ (t2 : Bool) (f pid : Nat) (s : State),
    let k := (frameCtl t2 f).1
    let off := (frameCtl t2 f).2
    let hit := fun (q : Page) => if t2 then meetsFrame q f else decide (q.t1 = some f)
    (∃ a ∈ (eccOf k s).atThresh, a / pageBytes = off) → (if t2 then s.ecc.t2Out else s.ecc.t1Out).contains f = false →
      (∀ e ∈ s.mem.pages, hit e.2 = true → e.2.kind = .sealed ∧ (if t2 then e.2.t1 else e.2.t2).isSome = true) → keysRise s.mem.pages = true →
      ∃ t : State, exec (.pageRetired t2 f pid) s = .next t ∧ (if t2 then t.ecc.t2Out else t.ecc.t1Out) = (if t2 then s.ecc.t2Out else s.ecc.t1Out) ++ [f] ∧
        (∀ j q, pageGet j s = some q → pageGet j t = some (if hit q then (if t2 then { q with t2 := none } else { q with t1 := none, promoted := false }) else q)) ∧
        (∀ a ∈ (eccOf k t).atThresh, a / pageBytes ≠ off) ∧ t = { s with mem := t.mem, ecc := t.ecc, host := t.host, fw := t.fw, freeCtr := t.freeCtr }) ∧
  (∀ (p : Nat) (s : State), p < 16 → s.caps.lpdFailed.contains p = false →
    (∀ e ∈ s.mem.pages, ∀ f, e.2.t2 = some f → t2Pack f = p → e.2.kind = .sealed ∧ (e.2.t1.isSome = true ∨ copyReads e.1 s = true)) → keysRise s.mem.pages = true →
      ∃ t : State, exec (.lpddrPackageLoss p) s = .next t ∧ t.caps.lpdFailed = s.caps.lpdFailed ++ [p] ∧
        (∀ j q, pageGet j s = some q → pageGet j t = some (if (∃ f, q.t2 = some f ∧ t2Pack f = p) then { q with t2 := none } else q)) ∧
        t = { s with mem := t.mem, caps := t.caps, host := t.host, fw := t.fw, freeCtr := t.freeCtr }) ∧
  (∀ (k c : Nat) (v : U32) (s : State), isEccCtl k = true → injectAvail c s = true →
    ∃ t : State, exec (.eccFlipCtrlWrite k v c) s = .next t ∧ eccOf k t = { eccOf k s with flipCtrl := (eccOf k t).flipCtrl } ∧
      bit (eccOf k t).flipCtrl.toNat 0 = (bit (eccOf k s).flipCtrl.toNat 0 || bit v.toNat 0) ∧ bit (eccOf k t).flipCtrl.toNat 1 = bit v.toNat 1 ∧
      bit (eccOf k t).flipCtrl.toNat 2 = (bit (eccOf k s).flipCtrl.toNat 2 && !(bit v.toNat 2)) ∧ t = { s with ecc := { s.ecc with blk := t.ecc.blk } }) ∧
  (∀ (k a : Nat) (s : State), isEccCtl k = true → clockPowered (eccDomain k) s = true → bit (eccOf k s).flipCtrl.toNat 0 = true → bit (eccOf k s).flipCtrl.toNat 1 = false →
    ∃ t : State, exec (.flipApply k a) s = .next t ∧ (eccOf k t).flipMask = [] ∧ bit (eccOf k t).flipCtrl.toNat 0 = false ∧ bit (eccOf k t).flipCtrl.toNat 2 = true ∧
      aget 0 (eccOf k t).errs (eccUnit k a) = maskSymbols k (eccOf k s).flipMask ∧ (∀ q, q ≠ k → eccOf q t = eccOf q s) ∧ t = { s with ecc := { s.ecc with blk := t.ecc.blk } })

/-! ### Contexts, placement and pre-emption (06) -/

/-- CTX_ALLOC and CTX_CONFIG. For a waiting request without references. CTX_ALLOC that names a slot above 63, one not FREE, or a field out of range ends with INVALID_FIELD; else, in a module not Admitted, with ACCESS_DENIED; else, with no slot free, reservations that fail or no room for the save area, with NO_SPACE; each changes only the ledger. Otherwise, with a seed given, it completes with the slot and its home masks: the slot named, or the lowest FREE one, is ALLOC with that configuration in force and the homes firmware assigns; every other slot is as before. CTX_CONFIG of a slot not allocated ends with INVALID_FIELD; where it may be taken it completes: the configuration is set, class, reservations and homes wait for the next switch-in, the other fields but the switch mode are in force, the seed and every other slot are as before. -/
def Obligations.ContextAllocConfig : Prop :=
  ∀ (rid : Nat) (r : Req) (s : State), hasRef r = false →
    let p := r.payload
    let n := fld p 0 1
    (∀ c, (if n = 0 then lowestFreeSlot s else some n) = c → Waits 1 0x10 rid r s →
      let d := c.getD 0
      let bad := 63 < n ∨ (n ≠ 0 ∧ slotState n s ≠ .free) ∨ cfgBad p s = true
      let none_ := c = none ∨ reserveFails d (cfgOf p 0) s = true ∨ saveFails d (cfgOf p 0) s = true
      (bad → Refuses (.ctxAlloc rid) rid 0x0100 s) ∧
      (¬ bad → s.sec.sec ≠ .admitted → Refuses (.ctxAlloc rid) rid 0x0102 s) ∧
      (¬ bad → s.sec.sec = .admitted → none_ → Refuses (.ctxAlloc rid) rid 0x0200 s) ∧
      (¬ bad → s.sec.sec = .admitted → ¬ none_ → fld p 24 8 ≠ 0 →
        let k := cfgOf p (BitVec.ofNat 64 (fld p 24 8))
        ∃ (t : State) (q : Slot), exec (.ctxAlloc rid) s = .next t ∧ slotOf d t = some q ∧ q.state = .alloc ∧ q.cfg = k ∧ q.act = k ∧ (q.homeE, q.homeC) = assignHomes d k s ∧
          q.saved = none ∧ q.hold = false ∧ q.tdFaults = 0 ∧ q.switchOuts = 0 ∧ (∀ x, x ≠ d → slotOf x t = slotOf x s) ∧
          Done rid 0 (homesReply d (assignHomes d k s) s) t ∧ (∀ h o, tget s.mem.objs h = some o → tget t.mem.objs h = some o) ∧ t.task = s.task ∧ t.agents = s.agents)) ∧
    (Waits 1 0x11 rid r s → slotAllocated n s = false → Refuses (.ctxConfig rid) rid 0x0100 s) ∧
    (∀ q, Waits 1 0x11 rid r s → slotOf n s = some q → slotAllocated n s = true → cfgBad p s = false →
      let k := cfgOf p q.cfg.srSeed
      (k.steal = q.cfg.steal ∨ inFlight n s = 0) → reserveFails n k s = false → saveFails n k s = false →
      ∃ (t : State) (z : Slot), exec (.ctxConfig rid) s = .next t ∧ slotOf n t = some z ∧ z.cfg = k ∧ z.cfg.srSeed = q.cfg.srSeed ∧ z.homeE = q.homeE ∧ z.homeC = q.homeC ∧ z.state = q.state ∧
        z.nextHomes = (if k.lc = q.cfg.lc ∧ k.engHome = q.cfg.engHome ∧ k.coreHome = q.cfg.coreHome then q.nextHomes else some (assignHomes n k s)) ∧
        z.act = { q.act with steal := k.steal, tdQuota := k.tdQuota, donateUs := k.donateUs, resumeDesc := k.resumeDesc, resumeRec := k.resumeRec } ∧
        (∀ x, x ≠ n → slotOf x t = slotOf x s) ∧ Done rid 0 (homesReply n (z.nextHomes.getD (q.homeE, q.homeC)) s) t ∧ t = { s with ctxs := t.ctxs, ledger := t.ledger })

/-- Query, suspend, resume and free a context; the slice; semaphores. For a waiting request without references. CTX_QUERY of a slot up to 63 completes with its reply, changing only the ledger. CTX_SUSPEND of an allocated slot other than 0 sets its hold flag alone; it completes at once where the slot is not resident and otherwise is taken up. CTX_RESUME clears the flag and completes. CTX_FREE of one leaves the slot FREEING without homes, with no request, object, tasklet or semaphore of the context left and its scrub due; all three end with INVALID_FIELD for slot 0 or a slot not allocated. SCHED_SET takes a slice of 100 to 1,000,000 µs, 0 for the default of 5,000, replies with it and changes nothing else; any other value ends with INVALID_FIELD. SEM_ALLOC takes the lowest free number with the kind, count, owner and mask asked for; SEM_FREE of one that no hart waits on and no donated run serves removes it alone. -/
def Obligations.ContextManagement : Prop :=
  ∀ (rid c : Nat) (r : Req) (s : State), hasRef r = false → c = fld r.payload 0 1 → r.mbx = 0 →
    let can := c ≠ 0 ∧ slotAllocated c s = true
    (Waits 1 0x13 rid r s → c < 64 → ∃ t : State, exec (.ctxQuery rid) s = .next t ∧ Done rid 0 (ctxQueryReply c s) t ∧ OnlyLedger s t) ∧
    (Waits 1 0x14 rid r s → ¬ can → Refuses (.ctxSuspend rid) rid 0x0100 s) ∧
    (Waits 1 0x15 rid r s → ¬ can → Refuses (.ctxResume rid) rid 0x0100 s) ∧
    (Waits 1 0x12 rid r s → ¬ can → Refuses (.ctxFree rid) rid 0x0100 s) ∧
    (∀ k, slotOf c s = some k → can →
      let held := fun (b : Bool) (t : State) => t = { s with ledger := t.ledger, ctxs := { s.ctxs with slots := tset s.ctxs.slots c { k with hold := b } } }
      (Waits 1 0x14 rid r s → ∃ t : State, exec (.ctxSuspend rid) s = .next t ∧ held true t ∧ (k.state ≠ .resident → Done rid 0 [] t) ∧ (k.state = .resident → TakenUp rid t)) ∧
      (Waits 1 0x15 rid r s → ∃ t : State, exec (.ctxResume rid) s = .next t ∧ held false t ∧ Done rid 0 [] t) ∧
      (Waits 1 0x12 rid r s → ∃ (t : State) (z : Slot), exec (.ctxFree rid) s = .next t ∧ slotOf c t = some z ∧ z.state = .freeing ∧ z.homeE = [] ∧ z.homeC = [] ∧ z.saved = none ∧
        (∀ q ∈ t.ledger.reqs, q.mbx ≠ c) ∧ (∀ e ∈ t.mem.objs, e.2.ctx ≠ c) ∧ (∀ e ∈ t.task.pool, e.2.ctx ≠ c) ∧ (∀ e ∈ t.ctxs.sems, e.2.owner ≠ c) ∧
        t.sec.scrubDue = true ∧ c ∈ t.sec.scrubNext)) ∧
    (Waits 1 0x18 rid r s → fld r.payload 4 4 = 0 →
      let n := fld r.payload 0 4
      let v := if n = 0 then 5000 else n
      (n = 0 ∨ (100 ≤ n ∧ n ≤ 1000000) → ∃ t : State, exec (.schedSet rid) s = .next t ∧ Done rid 0 (leBytes 4 v ++ zeros 4) t ∧ t = { s with ledger := t.ledger, ctxs := { s.ctxs with beSliceUs := v } }) ∧
      (n ≠ 0 → n < 100 ∨ 1000000 < n → Refuses (.schedSet rid) rid 0x0100 s)) ∧
    (∀ m, Waits 1 0x16 rid r s → lowestFree 16384 (s.ctxs.sems.map (·.1)) = some m → fld r.payload 0 1 ≤ 1 → (fld r.payload 0 1 = 1 → fld r.payload 2 2 = 1) →
      fld r.payload 4 1 < 64 → slotAllocated (fld r.payload 4 1) s = true →
      ∃ t : State, exec (.semAlloc rid) s = .next t ∧ Done rid 0 (leBytes 2 m) t ∧ t = { s with ledger := t.ledger, ctxs := { s.ctxs with
        sems := tset s.ctxs.sems m ⟨decide (fld r.payload 0 1 = 1), fld r.payload 2 2, fld r.payload 4 1, BitVec.ofNat 64 (fld r.payload 8 8), none, [], false⟩ } }) ∧
    (∀ m, Waits 1 0x17 rid r s → semOf (fld r.payload 0 2) s = some m → m.waiters = [] → s.ctxs.donations = [] →
      ∃ t : State, exec (.semFree rid) s = .next t ∧ Done rid 0 [] t ∧ t.ctxs.sems = tdel s.ctxs.sems (fld r.payload 0 2) ∧ (∀ x, slotOf x t = slotOf x s) ∧
        t = { s with ledger := t.ledger, ctxs := { s.ctxs with sems := t.ctxs.sems, slots := t.ctxs.slots } })

/-- A switch stores what leaves and restores what enters. An observed context with work that is neither resident nor waiting takes the last place of the waiting order; an LC context gives way no more. A switch that the scheduler may decide answers a next state in which every context that leaves is SUSPENDED and the one that enters is RESIDENT, and every other slot's state is as before; one that it may not decide changes nothing. A held context in Save mode that leaves alone has in its save area the state, the ring and the harts of each home unit as they were, with store buffers drained, and leaves its engines blank, without owner. A context that enters alone without a configuration that waits, with a Save-mode save area, owns its home engines again with exactly that state and ring. A BE slice that ends for a BE waiter, and an LC context idle for one, are marked to give way, and nothing else changes. -/
def Obligations.ContextSwitch : Prop :=
  (∀ (c : Nat) (s : State), hasWork c s = true → s.pwr.pwr ≠ .idle → resident c s = false → s.ctxs.order.contains c = false →
    exec (.workObserved c) s = .next { s with ctxs := { s.ctxs with
      order := s.ctxs.order ++ [c], slots := if runsLc c s then tmod s.ctxs.slots c (fun k => { k with yield := false }) else s.ctxs.slots } }) ∧
  (∀ (out : List Nat) (inn : Option Nat) (us : Nat) (s : State),
    (switchAllowed out inn s = false → exec (.switch out inn us) s = .next s) ∧
    (switchAllowed out inn s = true → keysRise s.ctxs.slots = true → ∃ t : State, exec (.switch out inn us) s = .next t ∧
      (∀ o ∈ out, some o ≠ inn → slotState o t = .suspended) ∧ (∀ c, inn = some c → slotState c t = .resident) ∧
      (∀ c, c ∉ out → inn ≠ some c → slotState c t = slotState c s))) ∧
  (∀ (o us : Nat) (k : Slot) (s : State), switchAllowed [o] none s = true → slotOf o s = some k → k.cfg.save = true → k.homeE.Nodup → (∀ h, (hartOf h s).tjoin = none) →
    ∃ (t : State) (z v : _), exec (.switch [o] none us) s = .next t ∧ slotOf o t = some z ∧ z.saved = some v ∧ v.save = true ∧
      (∀ e ∈ k.homeE, ((engOf e s).st ≠ .clearing → tget v.engines e = some ((engOf e s).sav, (engOf e s).dma)) ∧ (engOf e t).sav = EngSt.blank ∧ (engOf e t).owner = none) ∧
      (∀ h w, k.homeC.contains (h / 8) = true → tget s.task.harts h = some w → keysRise s.task.harts = true → tget v.harts h = some { w with sbuf := [] }) ∧
      (∀ e, e ∉ k.homeE → engOf e t = engOf e s)) ∧
  (∀ (c us : Nat) (k : Slot) (v : Saved) (s : State), switchAllowed [] (some c) s = true → slotOf c s = some k → k.nextHomes = none → k.saved = some v → v.save = true → k.homeE.Nodup →
    ∃ t : State, exec (.switch [] (some c) us) s = .next t ∧ (∀ e ∈ k.homeE, ∀ x, tget v.engines e = some x →
      (engOf e t).sav = x.1 ∧ (engOf e t).dma = x.2 ∧ (engOf e t).owner = some c ∧
        (engOf e t).st = (if x.1.run then (if x.1.head = x.1.tail then .idle else .run) else .stopped)) ∧ (∀ e, e ∉ k.homeE → engOf e t = engOf e s)) ∧
  (∀ (c : Nat) (k : Slot) (s : State), slotOf c s = some k → k.state = .resident → wantedBy false k s = true →
    (runsLc c s = false → hasWork c s = true → exec (.beSliceExpiry c) s = .next { s with ctxs := { s.ctxs with slots := tset s.ctxs.slots c { k with yield := true } } }) ∧
    (runsLc c s = true → k.donated = false → hasWork c s = false → exec (.lcIdleExpiry c) s = .next { s with ctxs := { s.ctxs with slots := tset s.ctxs.slots c { k with yield := true } } }))

/-- Semaphore commands of a hart, and donated runs. On a hart that executes a tasklet of context c. A semaphore not allocated, or closed to c, answers DENIED and changes nothing else. With a count above 0 and no waiter, ACQUIRE and TRY take it: the count falls by one, a mutex is held by c and the hart, and the result is ACQUIRED with the count; otherwise TRY answers BUSY, and ACQUIRE leaves the hart blocked, last in the queue, with its deadline 1,024 FAB cycles per unit from now, or none, and with the request of its context that it works for. RELEASE of a counting semaphore nobody waits for raises its count by one, or answers SATURATED at 65,535; of a mutex held by c that nobody waits for frees it; of one not held by c answers DENIED. The end of a wait by its deadline removes the waiter and answers TIMEOUT, or STARVED where its holder's budget ran out. Nothing else changes but the FAB counter in the last case. A hart of resident context w waits on a mutex whose holder d is out and waits on nothing itself. Where d is not held, its budget is not exhausted, it has home cores, and no LC context but w holds a home of it, the donated run answers a next state in which d is RESIDENT and marked as donated, with one more donation, and every context that held a home of it is SUSPENDED; the run is recorded. Where d is held, w is told: SEM_HOLDER_STARVED is raised with the semaphore and d, and its waits end as STARVED. When a run's budget is exhausted, the holder is SUSPENDED, has one more run that starved, gets no further donation for that mutex, and each context that waits is told; a service request that waits ends. -/
def Obligations.SemaphoresAndDonation : Prop :=
  ((∀ (h n tmo : Nat) (rid : Option Nat) (k : Tasklet) (s : State), runningOn h s = some k →
    let c := k.ctx
    let key := 2048 * c + logicalHart h s
    let word := fun (code count : Nat) => BitVec.ofNat 64 (code + 65536 * count)
    let result := fun (w : U64) (x : Contexts) => { x with semResult := tset x.semResult key w }
    let denied := fun (count : Nat) => ∀ cmd ∈ [Instr.acquire h n ⟨tmo, rid⟩, .tryAcquire h n, .release h n], exec cmd s = .next { s with ctxs := result (word 6 count) s.ctxs }
    (semOf n s = none → denied 0) ∧
    (∀ m, semOf n s = some m →
      (m.owner ≠ c → m.mask.toNat.testBit c = false → denied m.count) ∧
      (m.owner = c ∨ m.mask.toNat.testBit c = true →
        let put := fun (q : Sem) (code count : Nat) => Host.Outcome.next (φ := Fault) (ρ := Refusal) ({ s with ctxs := result (word code count) { s.ctxs with sems := tset s.ctxs.sems n q } } : State)
        (0 < m.count → m.waiters = [] → ∀ cmd ∈ [Instr.acquire h n ⟨tmo, rid⟩, .tryAcquire h n],
          exec cmd s = put { m with count := m.count - 1, holder := if m.mutex then some (c, logicalHart h s) else none } 1 (m.count - 1)) ∧
        (m.count = 0 ∨ m.waiters ≠ [] →
          exec (.tryAcquire h n) s = .next { s with ctxs := result (word 3 m.count) s.ctxs } ∧
          exec (.acquire h n ⟨tmo, rid⟩) s = .next (setHart h { hartOf h s with sem := some n } { s with ctxs := { s.ctxs with
            sems := tset s.ctxs.sems n { m with waiters := m.waiters ++ [⟨c, h, if tmo = 0 then 0 else clockNow domFab s + 1024 * tmo, false,
              rid.filter fun r => match findReq r s with | some q => decide (q.mbx = c) && q.settled.isNone | none => false⟩] } } })) ∧
        (m.mutex = false → m.waiters = [] → m.count ≠ 65535 → exec (.release h n) s = put { m with count := m.count + 1 } 2 (m.count + 1)) ∧
        (m.mutex = false → m.count = 65535 → exec (.release h n) s = .next { s with ctxs := result (word 8 65535) s.ctxs }) ∧
        (m.mutex = true → (∀ x, m.holder ≠ some (c, x)) → exec (.release h n) s = .next { s with ctxs := result (word 6 m.count) s.ctxs }) ∧
        (∀ x, m.mutex = true → m.holder = some (c, x) → m.waiters = [] → s.ctxs.donations = [] → exec (.release h n) s = put { m with holder := none, count := 1, exhausted := false } 2 1)))) ∧
  (∀ (h n : Nat) (m : Sem) (w : Waiter) (s : State), semOf n s = some m → timedWaiter h m = some w → resident w.ctx s = true →
    ∃ t : State, exec (.semTimeout h n) s = .next t ∧ semOf n t = some { m with waiters := m.waiters.erase w } ∧ (hartOf h t).sem = none ∧
      tget t.ctxs.semResult (2048 * w.ctx + logicalHart h s) = some (BitVec.ofNat 64 ((if w.starved then 5 else 4) + 65536 * m.count)) ∧
      (∀ q, q ≠ n → semOf q t = semOf q s) ∧ t = { s with ctxs := { s.ctxs with sems := t.ctxs.sems, semResult := t.ctxs.semResult }, task := t.task, clocks := t.clocks })) ∧
  ((∀ (h n d lh : Nat) (m : Sem) (w : Waiter) (k : Slot) (s : State), semOf n s = some m → m.mutex = true → m.exhausted = false → m.holder = some (d, lh) →
    m.waiters.find? (fun x => decide (x.hart = h) && resident x.ctx s) = some w → d ≠ w.ctx → resident d s = false → schedRuns s = true → blockedOn d s = none → slotOf d s = some k →
    (isHeld k = false → (entryHomes k).2 ≠ [] → (∀ o ∈ holdersOf (entryHomes k) s, o ≠ w.ctx → runsLc o s = false) → keysRise s.ctxs.slots = true →
      ∃ (t : State) (z : Slot), exec (.donatedRun h n) s = .next t ∧ slotOf d t = some z ∧ z.state = .resident ∧ z.donated = true ∧ z.donations = (k.donations + 1) % 2 ^ 32 ∧
        (∀ o ∈ holdersOf (entryHomes k) s, slotState o t = .suspended) ∧ (⟨d, n, w.ctx, runsLc w.ctx s⟩ : Machine.Donation) ∈ t.ctxs.donations) ∧
    (isHeld k = true → s.host.held.length < 256 → ∃ (t : State) (v : Ev) (q : _), exec (.donatedRun h n) s = .next t ∧ t.host.held = s.host.held ++ [v] ∧ v.code = 0x16 ∧ v.ctx = w.ctx ∧ v.status = 0x0202 ∧
      v.payload = leBytes 2 n ++ leBytes 1 d ∧ semOf n t = some q ∧ (∀ x ∈ q.waiters, x.ctx = w.ctx → x.starved = true) ∧ t = { s with ctxs := { s.ctxs with sems := t.ctxs.sems }, host := t.host })) ∧
  (∀ (n : Nat) (m : Sem) (d : Machine.Donation) (k : Slot) (s : State), s.ctxs.donations.find? (fun x => decide (x.sem = n)) = some d → semOf n s = some m → slotOf d.holder s = some k → k.state = .resident →
    ∃ (t : State) (z : Slot) (q : _), exec (.semHolderStarved n) s = .next t ∧ slotOf d.holder t = some z ∧ z.state = .suspended ∧ z.starved = (k.starved + 1) % 2 ^ 32 ∧ semOf n t = some q ∧ q.exhausted = true ∧
      (∀ x ∈ q.waiters, x.starved = true) ∧ d ∉ t.ctxs.donations ∧
      (∀ x ∈ m.waiters, ∀ rid r, x.rid = some rid → findReq rid s = some r → r.svc ≠ 1 → r.done = none → r.redone = false → Done rid 0x0202 [] t)))

/-! ### Models and agent sessions (07) -/

/-- MODEL requests. For a waiting request without references. LOAD with fields in range: a component that may not be read ends it with the status of that read; one that fails its checks ends it with BAD_IMAGE; with good components, fewer than 16 models, room and quota, it is taken up: a model of the context under a new handle, with the shape found, the batch limit and window asked for, an empty batch and a free pool, no weight yet, and a load of its tensors in progress, every other model and session as before; from there loads go on as far as there is room, and a model without tensors completes at once with its handle. UNLOAD of an unknown model ends with NO_MODEL, of one with sessions with MODEL_BUSY, and otherwise removes that model and completes. QUERY completes with its reply and changes only the ledger. BATCH_CFG sets what takes effect at the next boundary and nothing else. -/
def Obligations.ModelRequests : Prop :=
  ∀ (rid m : Nat) (img : ModelImage) (r : Req) (s : State), hasRef r = false → m = fld r.payload 0 4 →
    let p := r.payload
    let mib := fld p 64 4
    let mb := fld p 68 2
    let fl := fld p 70 2
    let mw := fld p 72 4
    let pool := mib * 2 ^ 20 / max img.kvBlockBytes 1
    let comps := (readComps img r s).1
    let parts := img.tensors.map fun x => bytePages (tensorBytes (comps.getD 0 []) x)
    let need := mib * 2 ^ 20 + mb * 16 * img.kvBlockBytes + (if bit fl 1 then pageBytes * sumN (parts.map List.length) else 0)
    let h := s.agents.nextModel
    (Waits 3 1 rid r s → (∀ x ∈ loadRefs r, refReads x = true) → 1 ≤ mb → mb ≤ 4096 → fl < 4 → 4096 ≤ mw → mw ≤ 262144 → mw % 256 = 0 → fld p 76 4 ≤ 100000 →
      (∀ st, loadDenied img r s = some st → Refuses (.modelLoad rid img) rid st s) ∧
      (loadDenied img r s = none → imageOk img comps s = false → Refuses (.modelLoad rid img) rid 0x8001 s) ∧
      (loadDenied img r s = none → imageOk img comps s = true → 4 ≤ pool → modelCount r.mbx s < 16 → t1Fits r.mbx need s = true →
        quotaFits r.mbx 0 (sumN (parts.map fun l => sumN (l.map (packedOf 16))) * (1 + b2n (bit fl 0))) s = true →
        ∃ (u : State) (x : Model), exec (.modelLoad rid img) s = .next (loadProgress u) ∧ TakenUp rid u ∧ modelOf h u = some x ∧ x.ctx = r.mbx ∧ x.layers = img.layers ∧ x.kvHeads = img.kvHeads ∧
          x.headDim = img.headDim ∧ x.kvBlockBytes = img.kvBlockBytes ∧ x.encoder = img.encoder ∧ x.maxBatch = mb ∧ x.maxWindow = mw ∧ x.poolBlocks = pool ∧ x.freeBlocks = pool ∧
          x.members = [] ∧ x.joiners = [] ∧ x.weights = [] ∧ u.agents.nextModel = h + 1 ∧ u.agents.loads = s.agents.loads ++ [⟨rid, h, bit fl 1, parts, []⟩] ∧
          (∀ k, k ≠ h → modelOf k u = modelOf k s) ∧ u.agents.sess = s.agents.sess ∧ u.ctxs = s.ctxs ∧
          (img.tensors = [] → s.agents.loads = [] → Done rid 0 (leBytes 4 h ++ zeros 4 ++ leBytes 8 0) (loadProgress u)))) ∧
    (Waits 3 2 rid r s → modelFor r.mbx m s = none → Refuses (.modelUnload rid) rid 0x8002 s) ∧
    (∀ x, Waits 3 2 rid r s → modelFor r.mbx m s = some x → modelBusy m s = true → Refuses (.modelUnload rid) rid 0x8000 s) ∧
    (∀ x, Waits 3 2 rid r s → modelFor r.mbx m s = some x → modelBusy m s = false →
      ∃ t : State, exec (.modelUnload rid) s = .next t ∧ Done rid 0 [] t ∧ modelOf m t = none ∧ (∀ k, k ≠ m → modelOf k t = modelOf k s) ∧
        (∀ h o, h ∉ x.weights → tget s.mem.objs h = some o → tget t.mem.objs h = some o) ∧ t.agents.sess = s.agents.sess ∧ t.ctxs = s.ctxs) ∧
    (∀ x, Waits 3 3 rid r s → modelFor r.mbx m s = some x → ∃ t : State, exec (.modelQuery rid) s = .next t ∧ Done rid 0 (modelReply m x s) t ∧ OnlyLedger s t) ∧
    (∀ x, Waits 3 4 rid r s → modelFor r.mbx m s = some x → 1 ≤ fld p 4 2 → fld p 4 2 ≤ 4096 → fld p 8 4 ≤ 100000 →
      ∃ t : State, exec (.modelBatchCfg rid) s = .next t ∧ Done rid 0 [] t ∧
        t = { s with ledger := t.ledger, agents := { s.agents with models := tset s.agents.models m { x with nextCfg := some (fld p 4 2, if fld p 8 4 = 0 then 2000 else fld p 8 4) } } })

/-- CREATE, APPEND, GENERATE, FORK, CLOSE and QUERY of a session. For a waiting request without references, next on its session. CREATE with fields in range and a seed is taken up: a new session of the model waits to join, with no token, the window asked for and its generator seeded from seed and identifier. On an unknown session each request ends with NO_SESSION. APPEND of inline tokens to a session that is not running, within the limits, completes with its counts, and the tokens are the last of its pending input. GENERATE on an OPEN session is taken up: it is RUNNING and the last joiner of its model's batch. FORK of an OPEN parent is taken up: a child with the parent's sealed blocks, open block, pending input and generator waits to join, and the parent is as it was. FORK and CLOSE of a RUNNING one wait for its boundary. CLOSE of one without generation frees it and completes. QUERY completes with its reply and changes only the ledger. An operation that the state does not permit ends with BAD_STATE. Where a request waits for a boundary of its model's batch and the batch is empty, that boundary follows at once. -/
def Obligations.SessionRequests : Prop :=
  ∀ (rid id : Nat) (toks : List U32) (r : Req) (s : State), hasRef r = false → id = fld r.payload 0 8 →
    let p := r.payload
    let n := fld p 8 4
    let win := if fld p 16 4 = 0 then 32768 else fld p 16 4
    (∀ y, Waits 4 1 rid r s → modelFor r.mbx (fld p 0 4) s = some y → y.encoder = false → y.poolBlocks ≠ 0 → 4096 ≤ win → win ≤ y.maxWindow → win % 256 = 0 → fld p 4 1 = 0 → fld p 5 1 ≤ 1 → fld p 6 1 ≤ 2 →
      fld p 20 2 ≤ 512 → s.agents.sess.length < 2 ^ 24 → fld p 8 8 ≠ 0 →
      let k := newSessId r.mbx s
      ∃ (t : State) (x : Sess), exec (.agentCreate rid) s = .next (quietBoundary (fld p 0 4) t) ∧ sessOf k t = some x ∧ k / 2 ^ 58 = r.mbx ∧ x.ctx = r.mbx ∧ x.model = fld p 0 4 ∧ x.window = win ∧ x.state = .open ∧
        x.phase = .joinCreate ∧ x.joinRid = some rid ∧ x.body = SessBody.fresh (seedRng (BitVec.ofNat 64 (fld p 8 8)) k) ∧ x.snaps = [] ∧ x.blocks = 0 ∧ TakenUp rid t ∧ (∀ q, q ≠ k → sessOf q t = sessOf q s) ∧
        modelOf (fld p 0 4) t = some { y with joiners := y.joiners ++ [k] } ∧ t = { s with agents := t.agents, ledger := t.ledger, freeCtr := t.freeCtr }) ∧
    (sessTurn r s = true → sessFor r.mbx id s = none → ∀ x ∈ [(4, Instr.agentPause rid), (5, .agentResume rid), (6, .agentSnapshot rid), (8, .agentClose rid), (9, .agentQuery rid)],
      Waits 4 x.1 rid r s → Refuses x.2 rid 0x8002 s) ∧
    (∀ x, sessTurn r s = true → sessFor r.mbx id s = some x →
      let waits := fun (cmd : Instr) => ∃ t : State, exec cmd s = .next (quietBoundary x.model t) ∧ TakenUp rid t ∧ sessOf id t = some { x with atBoundary := x.atBoundary ++ [rid] } ∧
        t = { s with agents := t.agents, ledger := t.ledger }
      (Waits 4 2 rid r s → 1 ≤ n → n ≤ 112 → (refAt p 16).len = 0 →
        (x.state = .running → Refuses (.agentAppend rid toks) rid 0x8001 s) ∧
        (x.state ≠ .running → totalTok x.body + n ≤ 2 ^ 26 → x.body.pending.length + n ≤ 2 ^ 20 → (x.ephemeral = true ∨ x.logged.length + n ≤ 65536) →
          let l : List U32 := (List.range n).map (fun i => BitVec.ofNat 32 (fld p (32 + 4 * i) 4))
          ∃ t : State, exec (.agentAppend rid toks) s = .next t ∧ Done rid 0 (leBytes 8 (totalTok x.body + n) ++ leBytes 4 (x.body.pending.length + n) ++ zeros 4) t ∧
            sessOf id t = some { x with body := { x.body with pending := x.body.pending ++ l }, logged := if x.ephemeral then [] else x.logged ++ l } ∧
            (∀ q, q ≠ id → sessOf q t = sessOf q s) ∧ t = { s with agents := t.agents, ledger := t.ledger })) ∧
      (Waits 4 3 rid r s → 1 ≤ n → n ≤ 2 ^ 20 → refWrites (refAt p 56) = true → 8 + 4 * n ≤ (refAt p 56).len →
        (x.state ≠ .open → Refuses (.agentGenerate rid) rid 0x8001 s) ∧
        (∀ y, x.state = .open → modelOf x.model s = some y →
          ∃ (t : State) (z : Sess) (g : Gen), exec (.agentGenerate rid) s = .next (quietBoundary x.model t) ∧ TakenUp rid t ∧ sessOf id t = some z ∧ z.state = .running ∧ z.phase = .joinGen ∧ z.gen = some g ∧
            g.rid = rid ∧ g.maxNew = n ∧ g.stopTok = fld p 12 4 ∧ g.retrMissed = 0 ∧
            z.body = { x.body with sampler := fld p 16 2, sparams := sub p 24 32, chunks := 0, chunksTotal := (8191 + x.body.pending.length) / 8192, generated := 0, gens := x.body.gens + 1 } ∧
            modelOf x.model t = some { y with joiners := y.joiners ++ [id] } ∧ (∀ q, q ≠ id → sessOf q t = sessOf q s) ∧ t = { s with agents := t.agents, ledger := t.ledger })) ∧
      (Waits 4 7 rid r s → fld p 16 1 = 0 → x.ephemeral = false → s.agents.sess.length < 2 ^ 24 →
        (x.state = .running → waits (.agentFork rid)) ∧
        (x.state = .open → fld p 8 8 = 0 → newSessId x.ctx s ≠ id →
          ∃ (t : State) (z : Sess), exec (.agentFork rid) s = .next (quietBoundary x.model t) ∧ TakenUp rid t ∧ sessOf (newSessId x.ctx s) t = some z ∧ z.body = x.body ∧ z.window = x.window ∧ z.model = x.model ∧
            z.phase = .joinCreate ∧ z.joinRid = some rid ∧ z.snaps = [] ∧ sessOf id t = some x ∧ t = { s with agents := t.agents, ledger := t.ledger })) ∧
      (Waits 4 8 rid r s →
        (x.state = .running → waits (.agentClose rid)) ∧
        (x.state ≠ .running → x.gen = none →
          ∃ t : State, exec (.agentClose rid) s = .next t ∧ Done rid 0 [] t ∧ sessOf id t = none ∧ (∀ q, q ≠ id → sessOf q t = sessOf q s) ∧ t.mem = s.mem ∧ t.ctxs = s.ctxs)) ∧
      (Waits 4 9 rid r s → ∃ t : State, exec (.agentQuery rid) s = .next t ∧ Done rid 0 (sessReply id x) t ∧ OnlyLedger s t))

/-- PAUSE, SNAPSHOT and RESUME, and the commit of a snapshot. For a waiting request without references, next on its session. PAUSE and SNAPSHOT of a RUNNING or OPEN session that is not EPHEMERAL wait for the next boundary of its model's batch, which follows at once where the batch is empty; PAUSE of a PAUSED one replies at once with the latest snapshot; of an EPHEMERAL one, and SNAPSHOT of a PAUSED one, end with BAD_STATE. RESUME of a PAUSED one whose model has a pool is taken up, to restore the snapshot named or the latest; one that is not kept ends with INVALID_FIELD, one of a session not PAUSED with BAD_STATE. A boundary of an empty batch with one OPEN session that waits for its PAUSE or SNAPSHOT, with room in the checkpoint store and none being written, has a snapshot of exactly the session's state in progress, with the next sequence number, waited for by the request. When the snapshot in progress is durable its commit makes it the latest, keeps at most the one before it, leaves none in progress, and leaves the session PAUSED where it was a pause; where it is not durable nothing changes. -/
def Obligations.Snapshots : Prop :=
  (∀ (rid id : Nat) (r : Req) (x : Sess) (s : State), hasRef r = false → id = fld r.payload 0 8 → sessTurn r s = true → sessFor r.mbx id s = some x →
    let waits := fun (cmd : Instr) => ∃ t : State, exec cmd s = .next (quietBoundary x.model t) ∧ TakenUp rid t ∧ sessOf id t = some { x with atBoundary := x.atBoundary ++ [rid] } ∧
      t = { s with agents := t.agents, ledger := t.ledger }
    (Waits 4 4 rid r s →
      (x.ephemeral = true → Refuses (.agentPause rid) rid 0x8001 s) ∧
      (x.ephemeral = false → x.state ≠ .paused → waits (.agentPause rid)) ∧
      (∀ a l, x.ephemeral = false → x.state = .paused → x.snaps = a :: l → ∃ t : State, exec (.agentPause rid) s = .next t ∧ Done rid 0 (snapReply a.seq a.bytes (totalTok x.body)) t ∧ OnlyLedger s t)) ∧
    (Waits 4 6 rid r s →
      (x.ephemeral = true ∨ x.state = .paused → Refuses (.agentSnapshot rid) rid 0x8001 s) ∧
      (x.ephemeral = false → x.state ≠ .paused → waits (.agentSnapshot rid))) ∧
    (Waits 4 5 rid r s →
      let q := fld r.payload 8 4
      let found := x.snaps.find? (fun n => decide (q = 0 ∨ n.seq = q))
      (q ≠ 0 → found = none → Refuses (.agentResume rid) rid 0x0100 s) ∧
      (q = 0 ∨ found ≠ none → x.state ≠ .paused → Refuses (.agentResume rid) rid 0x8001 s) ∧
      (∀ n y, x.state = .paused → found = some n → modelOf x.model s = some y → y.poolBlocks ≠ 0 →
        ∃ t : State, exec (.agentResume rid) s = .next (quietBoundary x.model t) ∧ TakenUp rid t ∧ sessOf id t = some { x with phase := .joinResume, joinRid := some rid, restore := some n } ∧
          modelOf x.model t = some { y with joiners := y.joiners ++ [id] } ∧ t = { s with agents := t.agents, ledger := t.ledger }))) ∧
  (∀ (m id rid : Nat) (y : Model) (x : Sess) (r : Req) (s : State), modelOf m s = some y → y.encoder = false → slotState y.ctx s = .resident → y.members = [] → y.joiners = [] →
    sessOfModel m s = [(id, x)] → sessOf id s = some x → x.model = m → x.state = .open → x.phase = .none → x.gen = none → x.chunkLeft = 0 → x.inProg = none → x.atBoundary = [rid] →
    findReq rid s = some r → r.settled = none → r.op = 4 ∨ r.op = 6 → s.agents.snapWait = [] → s.agents.snapRun = [] → ckptUsed s + snapBytes x x.body s ≤ ckptCap →
    ∃ (t : State) (z : Sess) (sn : Snap), exec (.stepBoundary m ⟨[], [], 0⟩) s = .next t ∧ sessOf id t = some z ∧ z.inProg = some sn ∧ sn.body = x.body ∧ sn.seq = x.nextSnap ∧ sn.pause = decide (r.op = 4) ∧
      sn.waiters = [rid] ∧ z.nextSnap = x.nextSnap + 1 ∧ z.state = .open ∧ z.body = x.body ∧ z.snaps = x.snaps ∧ z.atBoundary = [] ∧ (∀ q, q ≠ id → sessOf q t = sessOf q s) ∧ t.ctxs = s.ctxs) ∧
  (∀ (id : Nat) (x : Sess) (n : Snap) (s : State), sessOf id s = some x → x.inProg = some n →
    (snapDurable id n s = false → exec (.snapshotCommit id) s = .next s) ∧
    (snapDurable id n s = true → x.mirror = 0 → s.agents.snapWait = [] →
      ∃ (t : State) (z : Sess), exec (.snapshotCommit id) s = .next t ∧ sessOf id t = some z ∧ z.snaps = ({ n with waiters := [] } :: x.snaps).take 2 ∧ z.inProg = none ∧ z.body = x.body ∧
        z.logged = x.logged.drop n.mark ∧ (n.pause = true → z.state = .paused) ∧ (n.pause = false → z.state = x.state ∧ z.blocks = x.blocks ∧ t.mem = s.mem) ∧
        (∀ q, q ≠ id → sessOf q t = sessOf q s) ∧ t.ctxs = s.ctxs ∧
        (∀ rid r, n.waiters = [rid] → findReq rid s = some r → r.op = 6 → r.done = none → r.redone = false → Done rid 0 (snapReply n.seq n.bytes (totalTok n.body)) t)))

/-- The step boundary, reshards, retrieval waits and mirrors. A boundary of a model without sessions and joiners, of a resident context, puts a batch change in force, re-forms the stages on the home dies and counts the free blocks. A boundary at which the only member of a model has a token sampled, with blocks to spare, nothing to end its generation, and its buffer in control-node memory with no transfer of the context under way, sends the token at its place and then the new count, and adds one to the generated and the session's tokens. A reshard that completes makes the session ready for the next boundary. A retrieval wait that expires for a selected block that has to be read counts one missed block and omits it. The peer's commit of a snapshot whose blocks were sent makes it the last one mirrored, current where it is the latest, and is reported in asynchronous mode; a peer that is late in synchronous mode ends the request that waits with MIRROR_UNAVAILABLE. -/
def Obligations.StepBoundary : Prop :=
  (∀ (m : Nat) (step : StepReport) (y : Model) (s : State), modelOf m s = some y → y.encoder = false → slotState y.ctx s = .resident → y.members = [] → y.joiners = [] →
    sessOfModel m s = [] → y.cache = [] →
    ∃ t : State, exec (.stepBoundary m step) s = .next t ∧
      modelOf m t = some { y with
        freeBlocks := y.poolBlocks, nextCfg := none, stages := stagesOf y s
        maxBatch := (match y.nextCfg with | some c => c.1 | none => y.maxBatch), retrWaitUs := (match y.nextCfg with | some c => c.2 | none => y.retrWaitUs) } ∧
      (∀ k, k ≠ m → modelOf k t = modelOf k s) ∧ (∀ k, sessOf k t = sessOf k s) ∧ t = { s with agents := t.agents }) ∧
  (∀ (m id : Nat) (tok : U32) (us : Nat) (y : Model) (x : Sess) (g : Gen) (r : Req) (s : State),
    let step : StepReport := ⟨[(id, tok, false)], [], us⟩
    modelOf m s = some y → y.encoder = false → slotState y.ctx s = .resident → y.members = [id] → y.joiners = [] → y.nextCfg = none → sessOfModel m s = [(id, x)] → sessOf id s = some x → x.model = m →
    x.state = .running → x.phase = .member → x.gen = some g → x.inProg = none → x.atBoundary = [] → x.chunkLeft = 0 → x.selected = [] → x.snapPeriod = 0xFFFF → x.logged.length < 65535 → x.ephemeral = false →
    x.retrBlocks = 0 → x.body.sealed = [] → x.body.openTok < 255 → x.blocks = 1 → tok.toNat ≠ g.stopTok → x.body.generated + 1 < g.maxNew → totalTok x.body + 1 < 2 ^ 26 → x.body.pending = [] → g.outSpace = 1 →
    findReq g.rid s = some r → r.rid = g.rid → r.done = none → r.settled = none → r.refsOpen = true → LinkFree r.mbx s →
    ∃ (t : State) (z : Sess), exec (.stepBoundary m step) s = .next t ∧ sessOf id t = some z ∧ z.body.tokens = x.body.tokens + 1 ∧ z.body.openToks = x.body.openToks ++ [tok] ∧
      z.body.generated = x.body.generated + 1 ∧ z.gen = some g ∧ z.logged = x.logged ++ [tok] ∧ z.phase = .member ∧ z.state = .running ∧
      t.host.out = s.host.out ++ [.ctlWrite r.mbx (g.outAddr + (8 + 4 * x.body.generated)) (leBytes 4 tok.toNat), .ctlWrite r.mbx (g.outAddr + 0) (leBytes 8 (x.body.generated + 1))] ∧
      (∀ k, k ≠ id → sessOf k t = sessOf k s) ∧ t.mem = s.mem ∧ t.ctxs = s.ctxs) ∧
  (∀ (id : Nat) (x : Sess) (s : State), sessOf id s = some x →
    let put := fun (z : Sess) => ({ s with agents := { s.agents with sess := tset s.agents.sess id z } } : State)
    (x.phase = .reshard → exec (.reshard id) s = .next (put { x with phase := .ready, shards := [], blocks := min x.blocks (blockNeed x s) })) ∧
    (∀ b g, retrieving x b s = true → x.gen = some g →
      exec (.retrievalWaitExpiry id b) s = .next (put { x with omitted := x.omitted ++ [b], gen := some { g with retrMissed := g.retrMissed + 1 } })) ∧
    (∀ n l q, x.mirror = 1 → x.snaps = n :: l → q = n.seq → (∀ b ∈ n.body.sealed, b ∈ x.sentBlks) → x.mirrorWait = none → s.host.held.length < 256 →
      ∃ (t : State) (v : Ev), exec (.mirrorDone id q) s = .next t ∧ sessOf id t = some { x with mirrored := q, mirrorState := 1 } ∧ t.host.held = s.host.held ++ [v] ∧ v.code = 0x401 ∧ v.ctx = x.ctx ∧
        v.payload = leBytes 8 id ++ leBytes 4 q ∧ t = { put { x with mirrored := q, mirrorState := 1 } with host := t.host }) ∧
    (∀ q rid r, x.mirrorWait = some (q, [rid]) → findReq rid s = some r → r.op = 6 → r.done = none → peerReach x.mirrorPos s = true →
      ∃ (t : State) (p : Req), exec (.mirrorUnavailable id) s = .next t ∧ findReq rid t = some p ∧ p.done.map (·.1) = some 0x8003 ∧ sessOf id t = some { x with mirrorWait := none, mirrorState := 2 } ∧
        t = { put { x with mirrorWait := none, mirrorState := 2 } with ledger := t.ledger }))

/-! ### Scan, search and EMBED (12; 07 R250, R251) -/

/-- Predicate programs and scans. A record always qualifies under a program without terms or distance limit; the distance of two codes does not depend on their order and is 0 from a code to itself. For a waiting request without references: PROG_LOAD of a program that the control node does not let be read ends with ACCESS_DENIED, of a badly formed one with INVALID_FIELD, of a good one below the limit completes with its handle, and the program of that handle is the one given; PROG_FREE of an unknown program ends with NO_PROGRAM, of a known one frees exactly it. RUN over an attached namespace within its range, with a result buffer in control-node memory and no transfer of the context under way, sends the result buffer there and completes with its header, with the next block one past the range where it is not truncated; where no unit of the range is mapped it finds nothing. A disagreement of a unit's two paths leaves the result queue as it is, counts the event of the day and raises SCAN_UNIT_FAULT; otherwise the page's results, at most 64 KiB, enter the channel's queue. -/
def Obligations.ScanCommands : Prop :=
  (∀ p rec : Bytes, prTerms p = 0 → prMaxDist p = 0xFFFF → qualifies p rec = true) ∧
  (∀ a b : Bytes, hamming a a = 0 ∧ hamming a b = hamming b a) ∧
  (∀ (rid : Nat) (prog : Bytes) (r : Req) (s : State), hasRef r = false →
    let p := r.payload
    (Waits 7 1 rid r s → refReads (refAt p 0) = true → (refAt p 0).space = 1 →
      let n := min (refAt p 0).len 4385
      let code := sub prog 0 n
      let h := r.mbx * 2 ^ 26 + s.search.nextProg
      (prog.length < n → Refuses (.scanProgLoad rid prog) rid 0x0102 s) ∧
      (n ≤ prog.length → progGood code = false → Refuses (.scanProgLoad rid prog) rid 0x0100 s) ∧
      (n ≤ prog.length → progGood code = true → (s.search.progs.filter fun e => decide (e.2.ctx = r.mbx)).length < 64 →
        ∃ t : State, exec (.scanProgLoad rid prog) s = .next t ∧ Done rid 0 (leBytes 4 h ++ zeros 4) t ∧ progOf r.mbx h t = some ⟨r.mbx, code⟩ ∧
          (∀ k, k ≠ h → tget t.search.progs k = tget s.search.progs k) ∧ t.search.idx = s.search.idx ∧
          t = { s with search := t.search, ledger := t.ledger, host := { s.host with out := s.host.out ++ [.ctlRead r.mbx (refAt p 0).addr n] } })) ∧
    (Waits 7 2 rid r s →
      (progOf r.mbx (fld p 0 4) s = none → Refuses (.scanProgFree rid) rid 0x8000 s) ∧
      (∀ x, progOf r.mbx (fld p 0 4) s = some x → ∃ t : State, exec (.scanProgFree rid) s = .next t ∧ Done rid 0 [] t ∧ tget t.search.progs (fld p 0 4) = none ∧
        (∀ k, k ≠ fld p 0 4 → tget t.search.progs k = tget s.search.progs k) ∧ t.search.idx = s.search.idx ∧ t = { s with search := t.search, ledger := t.ledger })) ∧
    (Waits 7 3 rid r s → refWrites (refAt p 32) = true → 1 ≤ fld p 16 4 → fld p 16 4 ≤ 2 ^ 24 →
      (nsFor r.mbx (fld p 0 4) s = none → Refuses (.scanRun rid) rid 0x0102 s) ∧
      (∀ n, nsFor r.mbx (fld p 0 4) s = some n → n.nsze < fld p 8 8 + fld p 16 4 → Refuses (.scanRun rid) rid 0x0100 s) ∧
      (∀ n, nsFor r.mbx (fld p 0 4) s = some n → fld p 8 8 + fld p 16 4 ≤ n.nsze → progOf r.mbx (fld p 4 4) s = none → Refuses (.scanRun rid) rid 0x8000 s) ∧
      (∀ n x, nsFor r.mbx (fld p 0 4) s = some n → fld p 8 8 + fld p 16 4 ≤ n.nsze → progOf r.mbx (fld p 4 4) s = some x → (refAt p 32).space = 1 → r.refsOpen = true → LinkFree r.mbx s →
        let o := scanRange x.code n (fld p 8 8) (fld p 16 4) (refAt p 32).len s
        (o.status = none → (o.truncated = false → o.next = fld p 8 8 + fld p 16 4) ∧
          ∃ t : State, exec (.scanRun rid) s = .next t ∧ Done rid 0 (leBytes 4 o.count ++ leBytes 4 (b2n o.truncated) ++ leBytes 8 o.next ++ leBytes 8 o.examined) t ∧
            t.host.out = s.host.out ++ [.ctlWrite r.mbx ((refAt p 32).addr + 0) (leBytes 4 o.count ++ leBytes 4 (b2n o.truncated) ++ leBytes 8 o.next ++ leBytes 8 o.examined ++ zeros 8 ++ o.body)] ∧
            t = { s with host := { s.host with out := t.host.out }, ports := t.ports, ledger := t.ledger }) ∧
        (32 ≤ (refAt p 32).len → (∀ u, unitMapped u s = false) → o.count = 0 ∧ o.body = [] ∧ o.examined = 0 ∧ o.status = none)))) ∧
  (∀ (ch unit prog u k m : Nat) (p : Prog) (x : Ns) (s : State), tget s.search.progs prog = some p → nsOfUnit unit s = some (m, x, u) → mapGet 0 unit s = some k → flashRuns s = true →
    slotCh k = ch → dirtyAt 0 unit s = none → s.search.scanOff.contains ch = false → x.attached.contains p.ctx = true → tgetD s.search.resultQ ch [] = [] →
    (s.host.held.length < 256 → tgetD s.search.disagree ch [] = [] →
      ∃ (t : State) (e : Ev), exec (.pageEvaluate ch unit prog true) s = .next t ∧ t.host.held = s.host.held ++ [e] ∧ e.code = 0x1A ∧ e.srcType = 4 ∧ e.srcIdx = ch ∧ e.payload = leBytes 4 1 ∧
        tgetD t.search.disagree ch [] = [clockNow domAon s] ∧ t.search.resultQ = s.search.resultQ ∧ t.search.scanOff = s.search.scanOff ∧
        t = { s with host := t.host, search := t.search }) ∧
    (∀ out, out = ((scanUnit p.code x u 0 (x.nsze * nsBlock x) s).filterMap (·.2)).flatMap id →
      exec (.pageEvaluate ch unit prog false) s = .next (if out.isEmpty then s else { s with search := { s.search with resultQ := tset s.search.resultQ ch [(prog, out.take 65536)] } })))

/-- Index changes, epochs and queries. The results of an exhaustive query are in order of distance, then key, are visible items, and are k or all. For a waiting request without references: CREATE with fields in range and within the quotas makes an empty index at epoch 0 with a new handle. On an unknown index DROP, MERGE and INFO end with NO_INDEX. DROP of an index with nothing waiting frees exactly it; MERGE starts a merge at the index epoch that the request waits for; INFO replies and changes only the ledger. INSERT and DELETE of distinct keys given by the control node, next in turn and within the limits and quotas, take the next epoch E and go on: what a query of an earlier epoch sees is as before, at E the inserted items are there with their codes and the deleted ones are not, and every other item is as it was; the epoch itself has not moved. QUERY with its buffers in control-node memory and no transfer of the context under way reads its code, sends its block of results and completes with its counts; with an array lost it ends with DATA_LOST. When the oldest change is all in the buffer the index epoch is its epoch and it replies; before that nothing changes. -/
def Obligations.SearchCommands : Prop :=
  (∀ (x : Index) (k beam : Nat) (code : Bytes),
    let l := (runQuery x k beam 0xFFFF true code).1
    l.length = min k (visibleKeys x x.epoch).length ∧ l.Pairwise (fun a b => a.1 < b.1 ∨ (a.1 = b.1 ∧ a.2.1 ≤ b.2.1)) ∧ ∀ h ∈ l, h.2.1 ∈ visibleKeys x x.epoch) ∧
  (∀ (rid : Nat) (data : Bytes) (r : Req) (s : State), hasRef r = false →
    let p := r.payload
    let h := fld p 0 4
    let g := r.mbx * 2 ^ 26 + s.search.nextIdx
    let others := fun (k : Nat) (t : State) => (∀ j, j ≠ k → idxGet j t = idxGet j s) ∧ t.search.progs = s.search.progs ∧ t.mem = s.mem ∧ t.ctxs = s.ctxs ∧ t.store = s.store
    let only := fun (k : Nat) (t : State) => others k t ∧ t.host.out = s.host.out
    let fetched := fun (n : Nat) => s.host.out ++ [Tx.ctlRead r.mbx (refAt p 16).addr n]
    (Waits 6 1 rid r s → (fld p 0 2 = 256 ∨ fld p 0 2 = 512 ∨ fld p 0 2 = 1024 ∨ fld p 0 2 = 2048) → (fld p 2 1 = 0 ∨ (16 ≤ fld p 2 1 ∧ fld p 2 1 ≤ 64)) → (fld p 3 1 ≤ 32 ∨ fld p 3 1 = 255) →
      fld p 4 4 ≤ 65536 → 1 ≤ fld p 8 8 → fld p 8 8 < 2 ^ 32 → s.search.idx.length < 1024 → (s.search.idx.filter fun e => decide (e.2.ctx = r.mbx)).length < 256 →
      fld p 8 8 + sumN (s.search.idx.map fun e => e.2.maxNodes) ≤ 2 ^ 33 →
      (∀ a, a = fld p 8 8 * (fld p 0 2 / 8 + 4 * (if fld p 2 1 = 0 then 32 else fld p 2 1) + 8) → quotaFits r.mbx (min (fld p 4 4 * 2 ^ 20) a) a s = true) →
      ∃ (t : State) (x : Index), exec (.searchCreate rid) s = .next t ∧ Done rid 0 (leBytes 4 g ++ zeros 4 ++ leBytes 8 0) t ∧ idxGet g t = some x ∧ x.ctx = r.mbx ∧ x.codeBits = fld p 0 2 ∧ x.epoch = 0 ∧ x.mergeEpoch = 0 ∧
        x.degree = (if fld p 2 1 = 0 then 32 else fld p 2 1) ∧ x.pfAhead = (if fld p 3 1 = 255 then 8 else fld p 3 1) ∧ x.cacheMib = fld p 4 4 ∧ x.maxNodes = fld p 8 8 ∧
        (∀ q, visibleKeys x q = []) ∧ x.pend = [] ∧ x.merge = none ∧ only g t) ∧
    (idxOf r h s = none → ∀ x ∈ [(2, Instr.searchDrop rid), (6, .searchMerge rid), (7, .searchInfo rid)], Waits 6 x.1 rid r s → Refuses x.2 rid 0x8000 s) ∧
    (∀ x, idxOf r h s = some x →
      (Waits 6 2 rid r s → x.pend = [] → x.merge = none → ∃ t : State, exec (.searchDrop rid) s = .next t ∧ Done rid 0 [] t ∧ idxGet h t = none ∧ only h t) ∧
      (Waits 6 6 rid r s → x.merge = none → ∃ t : State, exec (.searchMerge rid) s = .next t ∧ TakenUp rid t ∧ idxGet h t = some { x with merge := some ⟨x.epoch, [rid]⟩ } ∧ only h t) ∧
      (Waits 6 7 rid r s → ∃ (t : State) (b : Bytes), exec (.searchInfo rid) s = .next t ∧ Done rid 0 b t ∧ b.length = 56 ∧ fld b 0 2 = x.codeBits % 2 ^ 16 ∧ fld b 32 8 = x.epoch % 2 ^ 64 ∧ OnlyLedger s t) ∧
      (refReads (refAt p 16) = true → (refAt p 16).space = 1 →
        let n := fld p 4 4
        let E := x.epoch + x.pend.length + 1
        let settled := ∀ y ∈ x.side, y.ins < E ∧ ∀ d, y.del = some d → d < E
        let kept := fun (z : Index) => z.epoch = x.epoch ∧ z.graph = x.graph ∧ (∀ q k, q < E → (k ∈ visibleKeys z q ↔ k ∈ visibleKeys x q))
        (∀ keys : List Nat, epochTurn r h s = true → 1 ≤ n → n ≤ 2 ^ 20 → x.side.length + 2 * n < 3145728 → s.host.held.length < 128 → settled → (visibleKeys x E).Nodup →
          quotaFits x.ctx (2 * n * (24 + x.codeBits / 8)) (2 * n * (24 + x.codeBits / 8)) s = true →
          (Waits 6 3 rid r s → n * (8 + x.codeBits / 8) ≤ data.length → (visibleKeys x E).length + n ≤ x.maxNodes → n * (8 + x.codeBits / 8) ≤ (refAt p 16).len → keys = (List.range n).map (fun i => fld (sub data 0 (n * (8 + x.codeBits / 8))) (i * (8 + x.codeBits / 8)) 8) → keys.Nodup →
            ∃ (t : State) (z : Index) (e : Pend), exec (.searchInsert rid data) s = .next t ∧ TakenUp rid t ∧ idxGet h t = some z ∧ kept z ∧ z.pend = x.pend ++ [e] ∧ e.rid = rid ∧ e.epoch = E ∧ e.done = n ∧
              (∀ k, k ∈ visibleKeys z E ↔ (k ∈ keys ∨ k ∈ visibleKeys x E)) ∧ (∀ i, i < n → ∃ y ∈ z.side, y.key = keys.getD i 0 ∧ y.ins = E ∧ y.tomb = false ∧ y.del = none ∧
                y.code = sub (sub data 0 (n * (8 + x.codeBits / 8))) (i * (8 + x.codeBits / 8) + 8) (x.codeBits / 8)) ∧ others h t ∧ t.host.out = fetched (n * (8 + x.codeBits / 8))) ∧
          (Waits 6 4 rid r s → n * 8 ≤ data.length → (visibleKeys x E).length ≤ x.maxNodes → n * 8 ≤ (refAt p 16).len → keys = (List.range n).map (fun i => fld (sub data 0 (n * 8)) (i * 8) 8) → keys.Nodup →
            ∃ (t : State) (z : Index) (e : Pend), exec (.searchDelete rid data) s = .next t ∧ TakenUp rid t ∧ idxGet h t = some z ∧ kept z ∧ z.pend = x.pend ++ [e] ∧ e.rid = rid ∧ e.epoch = E ∧
              e.done = (keys.filter fun k => (visibleKeys x E).contains k).length ∧ e.done + e.other = n ∧ (∀ k, k ∈ visibleKeys z E ↔ (k ∉ keys ∧ k ∈ visibleKeys x E)) ∧ others h t ∧ t.host.out = fetched (n * 8)))) ∧
      (Waits 6 5 rid r s → 1 ≤ fld p 4 2 → fld p 4 2 ≤ 1024 → fld p 6 1 = 1 → fld p 7 1 = 1 → (fld p 10 1 ≤ 32 ∨ fld p 10 1 = 255) → refReads (refAt p 16) = true → (refAt p 16).space = 1 →
        x.codeBits / 8 ≤ (refAt p 16).len → x.codeBits / 8 ≤ data.length → refWrites (refAt p 32) = true → (refAt p 32).space = 1 → 16 + 16 * fld p 4 2 ≤ (refAt p 32).len → r.refsOpen = true → LinkFree r.mbx s →
        (arrayLost h s = true → ∃ t : State, exec (.searchQuery rid data) s = .next t ∧ Done rid 0x0400 [] t ∧ t = { s with host := { s.host with out := fetched (x.codeBits / 8) }, ledger := t.ledger }) ∧
        (arrayLost h s = false →
          let o := runQuery x (fld p 4 2) (if fld p 8 2 = 0 then max 128 (fld p 4 2) else fld p 8 2) (fld p 12 2) true (sub (sub data 0 (x.codeBits / 8)) 0 (x.codeBits / 8))
          ∃ t : State, exec (.searchQuery rid data) s = .next t ∧
            Done rid 0 (leBytes 8 x.epoch ++ leBytes 4 o.1.length ++ leBytes 4 x.graph.nodes.length ++ leBytes 4 (sideSeen x x.epoch).length ++ zeros 4) t ∧
            t.host.out = fetched (x.codeBits / 8) ++ [.ctlWrite r.mbx ((refAt p 32).addr + 0) (queryBlock 0 (fld p 4 2) o.1)] ∧ t.search = s.search ∧ t = { s with host := { s.host with out := t.host.out }, ports := t.ports, ledger := t.ledger })))) ∧
  (∀ (h : Nat) (x : Index) (e : Pend) (l : List Pend) (r : Req) (s : State), idxGet h s = some x → x.pend = e :: l →
    (e.acc = false → exec (.epochAdvance h) s = .next s) ∧
    (e.acc = true → findReq e.rid s = some r → r.svc = 6 → r.done = none → r.settled = none → r.redone = false →
    ∃ t : State, exec (.epochAdvance h) s = .next t ∧ idxGet h t = some { x with epoch := e.epoch, pend := l } ∧ Done e.rid e.st (leBytes 8 e.epoch ++ leBytes 4 e.done ++ leBytes 4 e.other) t ∧
      (∀ j, j ≠ h → idxGet j t = idxGet j s) ∧ t = { s with search := t.search, ledger := t.ledger }))

/-- The end of a merge, and EMBED. Publication of the graph of a merge at M, with a side list below its threshold, changes no query: at every epoch from M on the same keys are visible before and after, where each key stood at one place; the merge is over, its M is the published one, the index epoch and the changes still waiting are as they were, the event INDEX_MERGED is raised, other indexes are as before, and the request that waited has the reply with M. For a waiting EMBED request that asks for vectors only, with its output in control-node memory and large enough, and no transfer of the context under way: a read that the control node refuses ends it with ACCESS_DENIED; without an encoder model of the context it ends with NO_MODEL; otherwise the vectors of the records found are sent and it completes, DOCS over an attached namespace with DATA_LOST where a unit of the range is lost, with the vectors of the records before it. Nothing else changes. -/
def Obligations.MergeAndEmbed : Prop :=
  (∀ (h m : Nat) (ws : List Nat) (g : NewGraph) (x : Index) (s : State), idxGet h s = some x → x.merge = some ⟨m, ws⟩ → s.host.held.length < 128 → x.side.length < 3145728 → (visibleKeys x m).Nodup →
    (∀ y ∈ x.side, y.tomb = true → m < y.ins → ∃ n ∈ x.graph.nodes, n.key = y.key ∧ nodeDead x n.key m = false) →
    ∃ (t : State) (z : Index), exec (.mergeDone h g) s = .next t ∧ idxGet h t = some z ∧ (∀ q k, m ≤ q → (k ∈ visibleKeys z q ↔ k ∈ visibleKeys x q)) ∧
      z.merge = none ∧ z.mergeEpoch = m ∧ z.epoch = x.epoch ∧ z.pend = x.pend ∧ (∀ y ∈ z.side, m < y.ins) ∧ z.graph.nodes.length = (visibleKeys x m).length ∧ (∀ j, j ≠ h → idxGet j t = idxGet j s) ∧
      (∃ e ∈ t.host.held, e.code = 0x601 ∧ e.ctx = x.ctx) ∧ t.mem = s.mem ∧ t.ctxs = s.ctxs ∧ t.store = s.store ∧
      (∀ rid r, ws = [rid] → findReq rid s = some r → r.done = none → r.settled = none → r.redone = false →
        Done rid 0 (leBytes 8 m ++ leBytes 4 (sideSeen x m).length ++ leBytes 4 (x.graph.nodes.filter fun n => nodeDead x n.key m).length) t)) ∧
  (∀ (rid : Nat) (res : EmbedReport) (r : Req) (s : State), hasRef r = false →
    let p := r.payload
    let out := refAt p 32
    let sent := fun (c : Instr) (st : Nat) (pre : List Tx) (offs : List Nat) => ∃ t : State, exec c s = .next t ∧ Done rid st [] t ∧
      t.host.out = s.host.out ++ pre ++ [.ctlWrite r.mbx (out.addr + 0) (embedVectors res offs)] ∧ t = { s with host := { s.host with out := t.host.out }, ports := t.ports, ledger := t.ledger }
    fld p 23 1 = 0 → (fld p 24 2 = 256 ∨ fld p 24 2 = 512 ∨ fld p 24 2 = 1024 ∨ fld p 24 2 = 2048) → refWrites out = true → out.space = 1 → r.refsOpen = true → LinkFree r.mbx s →
    (Waits 8 1 rid r s → 1 ≤ fld p 16 4 → fld p 16 4 ≤ 2 ^ 24 → fld p 20 2 ≤ 16384 →
      (nsFor r.mbx (fld p 4 4) s = none → Refuses (.embedDocs rid res) rid 0x0102 s) ∧
      (∀ n offs next lost, nsFor r.mbx (fld p 4 4) s = some n → fld p 8 8 + fld p 16 4 ≤ n.nsze →
        recordsFound (fld p 20 2) (BitVec.ofNat 8 (fld p 22 1)) n (fld p 8 8) (fld p 16 4) s = (offs, next, lost) → (embedVectors res offs).length ≤ out.len →
        (encoderOf r s = false → Refuses (.embedDocs rid res) rid 0x8000 s) ∧
        (encoderOf r s = true → sent (.embedDocs rid res) (if lost then 0x0400 else 0) [] offs))) ∧
    (Waits 8 2 rid r s → refReads (refAt p 48) = true → (refAt p 48).space = 1 → (embedVectors res (List.range res.records)).length ≤ out.len →
      (res.refused = true → Refuses (.embedTokens rid res) rid 0x0102 s) ∧
      (res.refused = false → encoderOf r s = false → Refuses (.embedTokens rid res) rid 0x8000 s) ∧
      (res.refused = false → encoderOf r s = true → sent (.embedTokens rid res) 0 [.ctlRead r.mbx (refAt p 48).addr (refAt p 48).len] (List.range res.records))))

/-! ### The flash translation layer (10) -/

/-- The write path of the flash translation layer. With no mirror copy held for a peer: a waiting write of one unit of a page's copy, the next to take, paced in and within the dirty limit, enters the write buffer as its last unit and leaves the waiting writes, and the page's copy counts as accepted. A program of buffered units of one region that are no moves and no twin copies, with none accepted earlier from the same source left behind, into a superblock that takes them with channels enough, leaves what every unit of flash reads as, maps each of the units into that superblock, and takes exactly them out of the buffer; the superblock has consumed the stripes of one program. A journal page takes up to 1,020 of the oldest changes, in order, under the next sequence number. Writing a dirty map segment makes it clean and keeps of the journal the pages that some other dirty segment still needs. The size of the dynamic cache is 12,000 GB less 11,744 GB times the used part of the pool. -/
def Obligations.FlashWritePath : Prop :=
  (∀ (src pid d : Nat) (u : BufUnit) (w : FWrite) (q : Page) (s : State), flashRuns s = true → s.agents.mirrorStore = [] → s.ftl.extWait = [] → s.ftl.waiting = [w] → w.src = src → w.cmd = none → w.units = [u] →
    u.item = .page pid d → (u.space = 1 ∨ (u.space = 0 ∧ s.ftl.writeProt = false ∧ paceOk w s = true)) → s.ftl.writeThrough = false → dirtyBytes s + w.bytes ≤ s.ftl.dirtyLimit →
    dirtyAt u.space u.index s = none → pageGet pid s = some q → q.dropT1 = false → q.dropT2 = false →
    ∃ (t : State) (v : BufUnit), exec (.writeAccept src) s = .next t ∧ t.ftl.dirty = s.ftl.dirty ++ [v] ∧ v.id = u.id ∧ v.item = u.item ∧ v.space = u.space ∧ v.index = u.index ∧ v.bytes = u.bytes ∧ v.cmds = [] ∧
      t.ftl.waiting = [] ∧ t.ftl.user = s.ftl.user ∧ t.ftl.pinned = s.ftl.pinned ∧ t.ftl.media = s.ftl.media ∧ pageGet pid t = some (if d = 2 then { q with flash2 := max q.flash2 2 } else { q with flash := max q.flash 2 }) ∧
      (∀ p, p ≠ pid → pageGet p t = pageGet p s) ∧ t = { s with ftl := t.ftl, mem := t.mem, ledger := t.ledger }) ∧
  (∀ (sb : Nat) (ids : List Nat) (pin : Bool) (s : State),
    let us := s.ftl.dirty.filter fun u => ids.contains u.id
    flashRuns s = true → s.agents.mirrorStore = [] → sb < 22896 → us ≠ [] → (∀ u ∈ us, u.space = b2n pin) → (∀ u ∈ s.ftl.dirty, u.space ≤ 1 ∧ isMove u = false ∧ u.cmds = []) → (s.ftl.dirty.map fun u => (u.space, u.index)).Nodup →
    (s.ftl.dirty.map (·.id)).Nodup → sbTakes sb pin false s = true → s.ftl.deltas.length + us.length < deltaLimit → (∀ pl, us.length ≤ (stripeChans sb pl s).2.length) → FreshSb sb s →
    (∀ u ∈ us, twinOf u.item = none ∧ overtakes u (s.ftl.dirty.filter fun v => !(ids.contains v.id)) s.ftl.dirty = false) →
    ∃ t : State, exec (.stripeProgram sb ids none) s = .next t ∧ UnitsKept s t ∧ (∀ u ∈ us, ∃ k, mapGet u.space u.index t = some k ∧ slotSb k = sb) ∧
      t.ftl.dirty = s.ftl.dirty.filter (fun u => !(ids.contains u.id)) ∧ (sbOf sb t).stripes = (if (sbOf sb s).open_ then (sbOf sb s).stripes else 0) + progStripes (sbOf sb t).slc ∧ t.ctxs = s.ctxs ∧ t.eng = s.eng) ∧
  (∀ s : State, flashRuns s = true → s.ftl.deltas ≠ [] → s.ftl.journal.length < journalCap → ∃ t : State, exec .journalPageProgram s = .next t ∧ t.ftl.journal = s.ftl.journal ++ [⟨s.ftl.nextJseq, s.ftl.deltas.take 1020⟩] ∧
    t.ftl.nextJseq = s.ftl.nextJseq + 1 ∧ t.ftl.deltas = s.ftl.deltas.drop 1020 ∧ UnitsKept s t ∧ t.ftl.user = s.ftl.user ∧ t.ftl.pinned = s.ftl.pinned ∧ t = { s with ftl := t.ftl }) ∧
  (∀ (seg q : Nat) (s : State), flashRuns s = true → tget s.ftl.segDirty seg = some q → ∃ t : State, exec (.mapSegmentWrite seg) s = .next t ∧ tget t.ftl.segDirty seg = none ∧
    (∀ g, g ≠ seg → tget t.ftl.segDirty g = tget s.ftl.segDirty g) ∧
    (∀ p ∈ s.ftl.journal, p ∈ t.ftl.journal ↔ ∃ e ∈ p.entries, e.kind ≤ 3 ∧ segOf e.space e.index ≠ seg ∧ (tget s.ftl.segDirty (segOf e.space e.index)).isSome = true) ∧
    t.ftl.deltas = s.ftl.deltas ∧ t.ftl.user = s.ftl.user ∧ t.ftl.pinned = s.ftl.pinned ∧ UnitsKept s t ∧ t = { s with ftl := t.ftl }) ∧
  (∀ s : State, flashRuns s = true → exec .dynCacheRecompute s = .next { s with ftl := { s.ftl with dynC := 12000000000000 - 11744000000000 * s.ftl.user.length / 7500000000 } })

/-- Reclaiming, reads, retired blocks and failed dies. Folding, garbage collection and wear levelling never change what a unit of flash reads as, where every superblock's mapped units lie in consumed stripes. A source of garbage collection or of folding without valid units is erased: it is free again with its erase count advanced by 1, or by 0.25 in SLC mode. A page read of a die that works changes but the monitors and the drawn values where the hard decode succeeds; a retry counts and keeps its voltage set; a long retry, soft decision and parity count and queue the superblock; one that every step fails of a unit without second copy makes its slot lost and counts once. The media scan queues a superblock in use behind those queued. A block without valid units, of a die below the limit of a day, is retired once, with BLOCK_RETIRED naming channel, die, plane, block and cause. A die that stops responding, in a row where none is being rebuilt, is counted failed and being rebuilt, with its event; by the count of its retirements a die fails the same way above 64 within 24 h, and not below; the rebuild that has no unit left on the die ends with its event. -/
def Obligations.FlashReclaim : Prop :=
  (∀ s : State, (∀ sb, sb < 22896 → FreshSb sb s) → (∃ t : State, exec .fold s = .next t ∧ UnitsKept s t) ∧ (∀ dst, ∃ t : State, exec (.garbageCollection dst) s = .next t ∧ UnitsKept s t) ∧
    ∀ dst, ∃ t : State, exec (.wearLevelling dst) s = .next t ∧ UnitsKept s t) ∧
  (∀ (src dst : Nat) (s : State),
    let freed := fun (c : Instr) => ∃ (t : State) (x : Sb), exec c s = .next t ∧ x = sbOf src t ∧ sbFree src t = true ∧ x.erases = (sbOf src s).erases + (if (sbOf src s).slc then 1 else 4) ∧
      (∀ b, b ≠ src → sbOf b t = sbOf b s) ∧ t.ftl.user = s.ftl.user ∧ t.ftl.pinned = s.ftl.pinned ∧ t = { s with ftl := t.ftl, host := t.host }
    src < 22896 → flashRuns s = true → dstOk src dst s = true → validUnits src s = [] →
    (gcSource s = some src → ((sbOf dst s).open_ = true ∨ sbOpenable dst s = true) → freed (.garbageCollection dst)) ∧
    (oldestSb ((closedSbs s).filter fun e => e.2.slc && !e.2.pinned) = some src → qlcDst s = some dst → s.ftl.writeProt = false → freed .fold)) ∧
  (∀ (slot : Nat) (p : SlotPg) (s : State), tget s.ftl.media slot = some p → flashRuns s = true → dieFailed (slotCh slot) (sbDie (slotSb slot)) s = false →
    let b := blockNo (slotCh slot) (sbDie (slotSb slot)) (slotPlane slot) (sbBlock (slotSb slot))
    let timed := fun (t : State) => t = { s with ftl := t.ftl, mon := t.mon, freeCtr := t.freeCtr }
    let kept := fun (t : State) => t.ftl.user = s.ftl.user ∧ t.ftl.pinned = s.ftl.pinned ∧ t.ftl.lost = s.ftl.lost ∧ timed t
    (∃ t : State, exec (.flashRead slot 1) s = .next t ∧ t.ftl = s.ftl ∧ timed t) ∧
    (∃ (t : State) (v : Nat), exec (.flashRead slot 2) s = .next t ∧ v < 15 ∧
      t.ftl = { s.ftl with cnt := { s.ftl.cnt with retryReads := s.ftl.cnt.retryReads + 1 }, retrySet := tset s.ftl.retrySet b v } ∧ timed t) ∧
    (∃ t : State, exec (.flashRead slot 7) s = .next t ∧ t.ftl.cnt = { s.ftl.cnt with retryReads := s.ftl.cnt.retryReads + 1 } ∧ t.ftl.gcQueue.contains (slotSb slot) = true ∧ kept t) ∧
    (∃ t : State, exec (.flashRead slot 3) s = .next t ∧ t.ftl.cnt = { s.ftl.cnt with softReads := s.ftl.cnt.softReads + 1 } ∧ t.ftl.gcQueue.contains (slotSb slot) = true ∧ kept t) ∧
    (∃ t : State, exec (.flashRead slot 4) s = .next t ∧ t.ftl.cnt = { s.ftl.cnt with rebuilds := s.ftl.cnt.rebuilds + 1 } ∧ t.ftl.gcQueue.contains (slotSb slot) = true ∧ kept t) ∧
    (∀ n, p.item = .ns n → s.ftl.lost.contains slot = false → ∃ t : State, exec (.flashRead slot 6) s = .next t ∧ t.ftl.lost = s.ftl.lost ++ [slot] ∧ t.ftl.lostSince = true ∧
      t.ftl.cnt = { s.ftl.cnt with mediaErrs := s.ftl.cnt.mediaErrs + 1, lostUnits := s.ftl.cnt.lostUnits + 1 } ∧ timed t)) ∧
  (∀ (b : Nat) (s : State), flashRuns s = true → let sb := b / 1272 / 4 % 18 * 1272 + b % 1272; 0 < (sbOf sb s).stripes → s.ftl.gcQueue.contains sb = false →
    exec (.mediaScan [b]) s = .next { s with ftl := { s.ftl with gcQueue := s.ftl.gcQueue ++ [sb] } }) ∧
  (∀ (b cause : Nat) (s : State), flashRuns s = true → b < 2930688 → cause ≤ 2 → s.ftl.retired.contains b = false → blockValid b s = false → (cause = 1 → s.ftl.failing.contains b = true) → s.host.held.length < 250 →
    (s.ftl.retireAt.filter fun e => decide (e.1 = blkDie b)).length < 64 →
    ∃ (t : State) (e : Ev) (l : List Ev), exec (.blockRetired b cause) s = .next t ∧ t.ftl.retired = s.ftl.retired ++ [b] ∧ b ∉ t.ftl.failing ∧ t.host.held = s.host.held ++ e :: l ∧ e.code = 0x203 ∧
      e.payload = leBytes 1 (b / 1272 / 4 / 18) ++ leBytes 1 (b / 1272 / 4 % 18) ++ leBytes 1 (b / 1272 % 4) ++ zeros 1 ++ leBytes 2 (b % 1272) ++ leBytes 1 cause ∧ UnitsKept s t ∧ t = { s with ftl := t.ftl, host := t.host }) ∧
  (∀ (ch d : Nat) (s : State), flashRuns s = true → ch < 32 → d < 18 → s.host.held.length < 250 →
    (dieFailed ch d s = false → (∀ e ∈ s.ftl.rebuilding, e.1 % 18 ≠ d) → ∃ (t : State) (e : Ev) (l : List Ev), exec (.nandDieFailed ch d true) s = .next t ∧ t.caps.nandFailed = s.caps.nandFailed ++ [18 * ch + d] ∧ t.ftl.rebuilding = tset s.ftl.rebuilding (18 * ch + d) s.ftl.nextOrder ∧
      t.host.held = s.host.held ++ e :: l ∧ e.code = 0x204 ∧ e.payload = leBytes 1 ch ++ leBytes 1 d ++ leBytes 1 0 ∧ t.ftl.lost = s.ftl.lost ∧ UnitsKept s t ∧ t = { s with caps := t.caps, ftl := t.ftl, host := t.host }) ∧
    (let n := (s.ftl.retireAt.filter fun e => decide (e.1 = 18 * ch + d ∧ clockNow domAon s < e.2 + 8640000000000)).length;
      (n ≤ 64 → exec (.nandDieFailed ch d false) s = .next s) ∧ (64 < n → exec (.nandDieFailed ch d false) s = exec (.nandDieFailed ch d true) s)) ∧
    ((tget s.ftl.rebuilding (18 * ch + d)).isSome = true → (∀ e ∈ s.ftl.user ++ s.ftl.pinned, slotCh e.2 = ch → sbDie (slotSb e.2) ≠ d) →
      ∃ (t : State) (e : Ev), exec (.dieRebuildDone ch d) s = .next t ∧ tget t.ftl.rebuilding (18 * ch + d) = none ∧ (∀ k, k ≠ 18 * ch + d → tget t.ftl.rebuilding k = tget s.ftl.rebuilding k) ∧ t.host.held = s.host.held ++ [e] ∧ e.code = 0x204 ∧
        e.payload = leBytes 1 ch ++ leBytes 1 d ++ leBytes 1 1 ∧ t.ftl.user = s.ftl.user ∧ t = { s with ftl := t.ftl, host := t.host }))

/-! ### The STORE service (11) -/

/-- Queue pairs. For a waiting request without references: QP_CREATE with a free identifier, rings that fit, a zero doorbell word in a writable page and room makes exactly that queue pair, empty, with phase 1; QP_DELETE and QP_QUERY of an unknown queue pair end with NO_QUEUE; QP_DELETE of one with nothing fetched ends it and replies with its SQ head; QP_QUERY replies with its four indices and phase and changes only the ledger. A changed doorbell word with both fields legal moves the SQ tail and CQ head and nothing else; an SQ tail outside the ring leaves the tail and raises STORE_DB_INVALID. A fetch with an entry waiting and room in the completion ring takes the entry at the SQ head, in context memory, as the queue's last command and moves the head on. The time limit of a notification raises STORE_CQ_NOTIFY with the queue and its tail and starts the count anew. -/
def Obligations.StoreQueues : Prop :=
  (∀ (rid : Nat) (r : Req) (s : State), hasRef r = false →
    let p := r.payload
    let want := fld p 0 2
    let depth := fld p 2 2
    let k := 1024 * r.mbx + want
    (Waits 2 2 rid r s → 1 ≤ want → want ≤ 256 → qpOf k s = none → 2 ≤ depth → depth ≤ 4096 → fld p 4 1 ≤ 1 → fld p 5 1 ≤ 1 → refReads (refAt p 16) = true → refWrites (refAt p 32) = true →
      64 * depth ≤ (refAt p 16).len → 16 * depth ≤ (refAt p 32).len → fld p 8 8 % 8 = 0 → plainPage r.mbx (fld p 8 8) s = true → leNat (rdBytes r.mbx (fld p 8 8) 8 s) = 0 →
      s.store.qps.length < 256 → qpCount r.mbx s < 64 →
      ∃ t : State, exec (.storeQpCreate rid) s = .next t ∧ Done rid 0 (leBytes 2 want ++ zeros 6) t ∧
        qpOf k t = some ⟨r.mbx, depth, fld p 4 1, bit (fld p 5 1) 0, fld p 8 8, refAt p 16, refAt p 32, 0, 0, 0, 0, true, 0, none, [], 0, 0, 0⟩ ∧ (∀ j, j ≠ k → qpOf j t = qpOf j s) ∧
        t = { s with store := { s.store with qps := t.store.qps }, ledger := t.ledger }) ∧
    (qpOf k s = none → ∀ x ∈ [(3, Instr.storeQpDelete rid), (4, .storeQpQuery rid)], Waits 2 x.1 rid r s → Refuses x.2 rid 0x8000 s) ∧
    (∀ y, qpOf k s = some y → Waits 2 3 rid r s → y.deleting = none → y.fetched = [] → QuietStore s →
      ∃ t : State, exec (.storeQpDelete rid) s = .next t ∧ Done rid 0 (leBytes 2 y.sqHead ++ zeros 6) t ∧ qpOf k t = none ∧ (∀ j, j ≠ k → qpOf j t = qpOf j s) ∧
        t = { s with store := { s.store with qps := t.store.qps }, ledger := t.ledger }) ∧
    (∀ y, qpOf k s = some y → Waits 2 4 rid r s →
      ∃ t : State, exec (.storeQpQuery rid) s = .next t ∧ Done rid 0 (leBytes 2 y.sqHead ++ leBytes 2 y.sqTail ++ leBytes 2 y.cqHead ++ leBytes 2 y.cqTail ++ leBytes 1 (b2n y.phase) ++ zeros 7) t ∧ OnlyLedger s t)) ∧
  (∀ (q : Nat) (p : Qp) (s : State), qpOf q s = some p → storeRuns p.ctx s = true →
    let put := fun (p : Qp) => ({ s with store := { s.store with qps := tset s.store.qps q p } } : State)
    let w := leNat (rdBytes p.ctx p.dbVa 8 s)
    let tl := w % 65536
    let hd := w / 65536 % 65536
    (plainPage p.ctx p.dbVa s = true → BitVec.ofNat 64 w ≠ p.dbSeen → p.sq.space = 0 →
      hd < p.depth → modDist p.depth hd p.cqHead ≤ modDist p.depth p.cqTail p.cqHead →
      (tl < p.depth → modDist p.depth p.sqTail p.sqHead ≤ modDist p.depth tl p.sqHead → exec (.qpDoorbell q) s = .next (put { p with dbSeen := BitVec.ofNat 64 w, sqTail := tl, cqHead := hd })) ∧
      (p.depth ≤ tl → s.host.held.length < 256 → ∃ (t : State) (e : Ev), exec (.qpDoorbell q) s = .next t ∧ t.host.held = s.host.held ++ [e] ∧ e.code = 0x208 ∧ e.ctx = p.ctx ∧
        e.payload = leBytes 2 (q % 1024) ++ leBytes 1 0 ++ zeros 1 ++ leBytes 2 tl ∧ t = { put { p with dbSeen := BitVec.ofNat 64 w, cqHead := hd } with host := t.host })) ∧
    (∀ given, (p.ctx = 0 ∨ s.sec.sec = .admitted) → p.deleting = none → p.sqHead ≠ p.sqTail → p.fetched.length + modDist p.depth p.cqTail p.cqHead < p.depth - 1 → p.sq.space = 0 →
      let e := rdBytes p.ctx (p.sq.addr + 64 * p.sqHead) 64 s
      ioKnown (sqeOp e) = true → fld e 1 1 = 0 →
        exec (.sqFetch q given) s = .next (put { p with sqHead := (p.sqHead + 1) % p.depth, nextCmd := p.nextCmd + 1, fetched := p.fetched ++ [⟨p.nextCmd, e, (p.sqHead + 1) % p.depth, clockNow domMgmt s, nsSeen p.ctx (sqeNs e) s, false, none⟩] })) ∧
    (p.ien = true → 0 < p.unnotified → s.ledger.reqs.any timed = false → s.host.held.length < 256 → ∃ (t : State) (e : Ev), exec (.storeCqNotify q) s = .next t ∧ t.host.held = s.host.held ++ [e] ∧ e.code = 0x207 ∧ e.ctx = p.ctx ∧
      e.payload = leBytes 2 (q % 1024) ++ leBytes 2 p.cqTail ∧ t = { put { p with unnotified := 0 } with clocks := t.clocks, host := t.host }))

/-- I/O commands. For the one fetched command of a queue pair with its rings and data in control-node memory, on a namespace it may use, with one page of data: Flush completes; a namespace not attached ends it with Invalid Namespace or Format. Write of a 4 KiB block queues one write of those bytes at the block's place in its unit, and completes later. Read sends the bytes of the block to PRP 1, then completes. Compare completes with success or Compare Failure as the bytes agree. Write Zeroes of a 16 KiB block unmaps exactly that unit and completes. Dataset Management without AD completes without effect. The vendor Scan sends the scan buffer and completes with the count, or with Internal Error and NO_PROGRAM; the vendor Search sends its result block and completes with the count. But for Write Zeroes every unit of flash reads as before. -/
def Obligations.StoreIo : Prop :=
  ∀ (q : Nat) (data : Bytes) (prps : List Nat) (p : Qp) (m : Cmd) (x : Ns) (s : State),
    let e := m.sqe
    let p1 := fld e 24 8
    let lba := fld e 40 8
    let fin := fun (c : Instr) (st d0 d1 : Nat) (pre : List Tx) => ∃ t : State, exec c s = .next t ∧ CqEnd q p m st d0 d1 pre s t ∧ UnitsKept s t ∧ t.ftl.user = s.ftl.user ∧ t.ftl.waiting = s.ftl.waiting
    (NextIo q 0 p m s → (m.nsOk = false → fin (.flush q) 0x400B 0 0 []) ∧ (NsReady m x s → fin (.flush q) 0 0 0 [])) ∧
    (NsReady m x s → p1 % 4096 = 0 →
      (x.lbaf = 0 → cmdNlb e = 1 →
        (NextIo q 1 p m s → s.ftl.writeProt = false → ∃ (t : State) (w : FWrite) (u : BufUnit), exec (.write q data false) s = .next t ∧ t.ftl.waiting = s.ftl.waiting ++ [w] ∧ w.cmd = some (q, m.seq) ∧ w.units = [u] ∧ w.bytes = 4096 ∧
          u.item = .ns (sqeNs e) ∧ u.space = 0 ∧ u.index = nsUnit x (lba / 4) ∧ u.off = 4096 * (lba % 4) ∧ u.bytes = 4096 ∧ Memory.readN 0 u.data u.off 4096 = sub data 0 4096 ∧
          qpOf q t = some { p with fetched := [{ m with waiting := true }] } ∧ UnitsKept s t ∧ t = { s with ftl := t.ftl, store := t.store }) ∧
        (NextIo q 1 p m s → s.ftl.writeProt = true → fin (.write q data false) 0x4020 0 0 []) ∧
        (NextIo q 2 p m s → ∀ d, nsRead x (lba * 4096) 4096 s = some d → d.length = 4096 ∧ fin (.read q prps false) 0 0 0 [.ctlWrite p.ctx p1 d]) ∧
        (NextIo q 5 p m s → ∀ d, nsRead x (lba * 4096) 4096 s = some d → fin (.compare q data false) (if d = sub data 0 4096 then 0 else 0x4285) 0 0 [])) ∧
      (NextIo q 8 p m s → x.lbaf = 1 → cmdNlb e = 1 → s.ftl.writeProt = false → dirtyAt 0 (nsUnit x lba) s = none →
        ∃ t : State, exec (.writeZeroes q) s = .next t ∧ CqEnd q p m 0 0 0 [] s t ∧ mapGet 0 (nsUnit x lba) t = none ∧ (∀ i, i ≠ nsUnit x lba → mapGet 0 i t = mapGet 0 i s) ∧ t.ftl.pinned = s.ftl.pinned ∧
          t.ftl.dirty = s.ftl.dirty) ∧
      (NextIo q 9 p m s → bit (cdw e 11) 2 = false → fin (.datasetManagement q data false) 0 0 0 []) ∧
      (NextIo q 0x82 p m s → 32 ≤ cdw e 14 → cdw e 14 ≤ 4096 →
        (progOf p.ctx (cdw e 13) s = none → fin (.vendorScan q prps false) 0x4006 0 0x8000 []) ∧
        (∀ y, progOf p.ctx (cdw e 13) s = some y → (scanRange y.code x lba (cmdNlb e) (cdw e 14) s).status = none →
          fin (.vendorScan q prps false) 0 (scanRange y.code x lba (cmdNlb e) (cdw e 14) s).count 0 [.ctlWrite p.ctx p1 ((scanBuffer (scanRange y.code x lba (cmdNlb e) (cdw e 14) s)).take (cdw e 14))]))) ∧
    (NextIo q 0x86 p m s → p1 % 4096 = 0 → s.store.sanitize = none → sqeNs e = 0 → cdw e 13 = 0 → cdw e 14 ≤ 4096 →
      let k := cdw e 12 % 65536
      let w := cdw e 12 / 65536
      1 ≤ k → 16 + 16 * k ≤ cdw e 14 → codeLenGood w = true →
      (vendorIndex p.ctx lba s = none → fin (.vendorSearch q data prps false) 0x4006 0 0x8000 []) ∧
      (∀ y, vendorIndex p.ctx lba s = some y → y.codeBits = 8 * w → arrayLost lba s = false →
        let l := (runQuery y k (max 128 k) 0xFFFF false (sub data 0 w)).1
        fin (.vendorSearch q data prps false) 0 l.length 0 [.ctlWrite p.ctx p1 ((queryBlock 0 k l).take (cdw e 14))]))

/-- Admin commands. For a waiting admin entry at its turn: an unknown opcode ends with Invalid Command Opcode; Keep Alive completes, given as STORE.ADMIN or by name. Set Features of the interrupt coalescing sets threshold and time of that context, of the number of queues ends with Feature Not Changeable; Get Features gives the value. Identify Controller and the Media log page are sent to PRP 1. A namespace is created with the lowest free number, its size, format, extents, no attachment and a fresh key; deleted, it is gone with its key and its units are unmapped; attached to an allocated context it lists it; detached from it, it no longer does; other namespaces are as before. A sanitize with no tenant allocated is taken up; at its end nothing is mapped, the namespaces remain, and STORE_SANITIZE_DONE is raised. An expired keep-alive timer deletes the context's idle queue pairs, raises its event and sets KATO to 0. -/
def Obligations.StoreAdmin : Prop :=
  (∀ (rid : Nat) (data : Bytes) (prps : List Nat) (r : Req) (s : State),
    let e := adminSqe r
    let p1 := fld e 24 8
    let only := fun (t : State) => t = { s with store := { s.store with feat := t.store.feat }, ledger := t.ledger }
    let ends := fun (c : Instr) (st d0 : Nat) => ∃ t : State, exec c s = .next t ∧ AdminDone rid r st d0 t ∧ only t
    let sent := fun (c : Instr) (d : Bytes) => ∃ t : State, exec c s = .next t ∧ AdminDone rid r 0 0 t ∧ t.host.out = s.host.out ++ [.ctlWrite r.mbx p1 d] ∧
      t = { s with host := { s.host with out := t.host.out }, ports := t.ports, ledger := t.ledger }
    let others := fun (n : Nat) (t : State) => (∀ k, k ≠ n → tget t.store.ns k = tget s.store.ns k) ∧ t.store.qps = s.store.qps ∧ t.ctxs = s.ctxs ∧ t.mem = s.mem ∧ t.host = s.host
    (∀ o, o ∉ [2, 6, 9, 10, 13, 21, 24, 132] → AdminWaits o rid r s → ends (.storeAdmin rid data prps false) 0x4001 0) ∧
    (AdminWaits 24 rid r s → ends (.storeAdmin rid data prps false) 0 0 ∧ ends (.keepAlive rid) 0 0) ∧
    (AdminWaits 9 rid r s → bit (cdw e 10) 31 = false → (cdw e 10 % 256 = 7 → ends (.setFeatures rid) 0x410E 0) ∧
      (cdw e 10 % 256 = 8 → ∃ t : State, exec (.setFeatures rid) s = .next t ∧ AdminDone rid r 0 0 t ∧ only t ∧ featOf r.mbx t = { featOf r.mbx s with thr := cdw e 11 % 256, time := cdw e 11 / 256 % 256 } ∧
        ∀ c, c ≠ r.mbx → featOf c t = featOf c s)) ∧
    (AdminWaits 10 rid r s → cdw e 10 % 256 = 8 → cdw e 10 / 256 % 8 = 0 → ends (.getFeatures rid) 0 ((featOf r.mbx s).thr + 256 * (featOf r.mbx s).time)) ∧
    (p1 % 4096 = 0 →
      (LinkFree r.mbx s → AdminWaits 6 rid r s → cdw e 10 % 256 = 1 → ∃ d : Bytes, d.length = 4096 ∧ fld d 0 2 = 0x1A7D ∧ fld d 78 2 = r.mbx % 2 ^ 16 ∧ fld d 516 4 = 128 ∧ sent (.nvmeIdentify rid prps false) d) ∧
      (LinkFree r.mbx s → AdminWaits 2 rid r s → r.mbx = 0 → cdw e 10 % 256 = 0xC0 → cdw e 10 / 65536 = 127 → cdw e 11 % 65536 = 0 → fld e 48 8 = 0 →
        ∃ d : Bytes, d.length = 512 ∧ fld d 32 8 = s.ftl.user.length % 2 ^ 64 ∧ fld d 40 8 = s.ftl.dynC % 2 ^ 64 ∧ sent (.getLogPage rid prps false) d) ∧
      (r.mbx = 0 →
        (∀ n l, AdminWaits 13 rid r s → cdw e 10 % 16 = 0 → createBad data = false → s.store.sanitize = none → s.ftl.writeProt = false → 1 ≤ n → n ≤ 128 → tget s.store.ns n = none →
          (∀ k, 1 ≤ k → k < n → (tget s.store.ns k).isSome = true) → extentsFor (fld data 0 8 * (if fld data 26 1 = 0 then 4096 else 16384)) s = some l →
          ∃ t : State, exec (.namespaceCreate rid data false) s = .next t ∧ AdminDone rid r 0 n t ∧ tget t.store.ns n = some ⟨fld data 0 8, fld data 26 1, bit (fld data 30 1) 0, l, s.store.nextNguid, [], none⟩ ∧
            tget t.sec.doms n = some KeyDom.fresh ∧ others n t ∧ t.ftl = s.ftl) ∧
        (∀ n x, QuietStore s → n = sqeNs e → n ≠ 0xFFFFFFFF → tget s.store.ns n = some x → s.store.sanitize = none → nsBusy n (fun _ => true) s = false → AdminWaits 13 rid r s → cdw e 10 % 16 = 1 →
          ∃ t : State, exec (.namespaceDelete rid) s = .next t ∧ AdminDone rid r 0 0 t ∧ tget t.store.ns n = none ∧ tget t.sec.doms n = none ∧
            (∀ i, (∃ a ∈ x.extents, 128 * a.1 ≤ i ∧ i < 128 * (a.1 + a.2)) → mapGet 0 i t = none ∧ dirtyAt 0 i t = none) ∧ others n t ∧ t.ftl.pinned = s.ftl.pinned) ∧
        (∀ n c x, n = sqeNs e → tget s.store.ns n = some x → x.deleting = none → listCtxs data = [c] → c ≤ 63 → slotAllocated c s = true → AdminWaits 21 rid r s →
          (cdw e 10 % 16 = 0 → x.attached = [] → ∃ t : State, exec (.namespaceAttach rid data false) s = .next t ∧ AdminDone rid r 0 0 t ∧ tget t.store.ns n = some { x with attached := [c] } ∧ others n t) ∧
          (cdw e 10 % 16 = 1 → x.attached.contains c = true → QuietStore s → (∀ y ∈ s.store.qps, y.2.fetched = []) →
            ∃ t : State, exec (.namespaceDetach rid data false) s = .next t ∧ AdminDone rid r 0 0 t ∧ tget t.store.ns n = some { x with attached := x.attached.filter fun k => decide (k ≠ c) } ∧ others n t)))) ∧
    (AdminWaits 0x84 rid r s → r.mbx = 0 → bit (cdw e 10) 3 = false → tenantAllocated s = false → s.store.sanitize = none →
      (cdw e 10 % 8 = 4 → ∃ t : State, exec (.cryptoErase rid) s = .next t ∧ TakenUp rid t ∧ t = { s with store := { s.store with sanitize := some 4 }, ledger := t.ledger }) ∧
      (cdw e 10 % 8 = 2 → ∃ t : State, exec (.blockErase rid) s = .next t ∧ TakenUp rid t ∧ t = { s with store := { s.store with sanitize := some 2 }, ledger := t.ledger }))) ∧
  (∀ (act : Nat) (s : State), s.store.sanitize = some act → (s.host.ifState = .ready ∨ s.host.ifState = .scrub) → (∀ u ∈ s.ftl.dirty, u.cmds = []) → (∀ w ∈ s.ftl.waiting, w.cmd = none) → s.host.held.length < 128 →
    ∃ t : State, exec .storeSanitizeDone s = .next t ∧ (∀ sp i, mapGet sp i t = none) ∧ t.ftl.dirty = [] ∧ t.ftl.waiting = [] ∧ t.store.sanitize = none ∧ t.store.sanLast = some act ∧ t.store.ns = s.store.ns ∧
      (∃ e ∈ t.host.held, e.code = 0x20A ∧ e.payload = leBytes 1 act) ∧ t.ctxs = s.ctxs ∧ t.eng = s.eng) ∧
  (∀ (c : Nat) (s : State), QuietStore s → (s.store.qps.map (·.1)).Nodup → storeRuns c s = true → s.ledger.reqs.any timed = false → (featOf c s).kato ≠ 0 → s.host.held.length < 256 →
    ∃ (t : State) (e : Ev), exec (.storeKeepAliveExpired c) s = .next t ∧ featOf c t = { featOf c s with kato := 0 } ∧ (∀ q p, qpOf q s = some p → p.ctx = c → p.fetched = [] → qpOf q t = none) ∧
      (∀ q p, qpOf q s = some p → p.ctx ≠ c → qpOf q t = some p) ∧ t.host.held = s.host.held ++ [e] ∧ e.code = 0x209 ∧ e.ctx = c ∧ e.payload = leBytes 4 (featOf c s).kato ∧ t.store.ns = s.store.ns)

/-! ### Ports and training (13, 14) -/

/-- Flits, training, remote completions and heartbeats of a port. On an up port: a good data flit of a link class with the expected number is taken, and acknowledged where it is the 32nd; one whose header fails, of another number, is answered by one NAK; a class 3 flit that ends a mirrored snapshot of a session for this module, of which it holds no copy, puts a copy with the session's fields in the mirror store, not yet confirmed to the origin (the model's form of R249, log 181); a NAK of a number in the replay buffer sends again from it; the acknowledgement timer acknowledges what was taken; credits never pass what was advertised; light lost starts a retrain. Training from DETECT reaches ACTIVE with LINK_UP or FAILED with LINK_DOWN as it is good; a retrain in time returns to ACTIVE without LINK_UP; one out of time goes DOWN; a failed port tries again; a key phase inverts with its counter back at 1. The last completion of a remote access, of a context with none waiting, takes it from those outstanding, an earlier one counts; a refused or late one ends its request with ACCESS_DENIED; a completion's credits go back. Heartbeats go to every up ring neighbour; one received is remembered; a neighbour unheard is lost, with PEER_LOST, and a session mirrored there is in mirror state 3. -/
def Obligations.PortCommands : Prop :=
  (∀ (p : Nat) (q : Port) (f : Flit) (t0 : TrainReport) (s : State), p < 5 → tget s.ports.port p = some q →
    let put := fun (q : Port) => ({ s with ports := { s.ports with port := tset s.ports.port p q } } : State)
    let told := fun (m : Tx) (t : State) => ({ t with host := { t.host with gone := t.host.gone ++ [m] } } : State)
    let ev := fun (t : State) (code : Nat) (b : Bytes) => ∃ (e : Ev) (l : List Ev), t.host.held = s.host.held ++ e :: l ∧ e.code = code ∧ e.srcIdx = p ∧ e.payload.take b.length = b
    (portUp p s = true → f.symErr ≤ 15 → bit f.crA.toNat 3 = false → bit f.crB.toNat 3 = false → q.replay = [] → f.ftype = 1 →
      (f.tc < 2 → f.hcrcOk = true → f.tagOk = true → f.seq.toNat = q.rxSeq →
        let ok := fun (n : Nat) => { q with fecFixed := q.fecFixed + f.symErr, rxSeq := (q.rxSeq + 1) % 65536, nakOut := false, lost := 0, unacked := n }
        (q.unacked < 31 → exec (.flitReceive p f) s = .next (put (ok (q.unacked + 1)))) ∧
        (31 ≤ q.unacked → exec (.flitReceive p f) s = .next (told (.ack p q.rxSeq) (put (ok 0))))) ∧
      (f.hcrcOk = false → f.seq.toNat ≠ q.rxSeq → q.nakOut = false → q.lost < 3 →
        exec (.flitReceive p f) s = .next (told (.nak p q.rxSeq) (put { q with fecFixed := q.fecFixed + f.symErr, nakOut := true })))) ∧
    (∀ m : Mirrored, portUp p s = true → f.symErr ≤ 15 → bit f.crA.toNat 3 = false → bit f.crB.toNat 3 = false → f.ftype = 1 → f.tc = 3 → f.hcrcOk = true → f.tagOk = true → f.seq.toNat = q.rxSeq →
      flitOpens p f s = true → s.host.ifState = .ready → f.mirror = some m → m.dest = s.ports.pos → m.kind = .snap → copyOf m s = none →
      ∃ (t : State) (x : MirrorCopy), exec (.flitReceive p f) s = .next t ∧ t.agents.mirrorStore = s.agents.mirrorStore ++ [x] ∧ x.originPos = m.origin ∧ x.originSerial = serialAt m.origin s ∧ x.originCtx = m.ctx ∧
        x.sess = m.sess ∧ x.seq = m.seq ∧ x.digest = m.digest ∧ x.body.tokens = m.tokens ∧ x.body.pending = m.waiting ∧ x.body.rng = m.rng ∧ x.body.sealed.length = m.blocks.length ∧
        x.acked = false ∧ t.agents.sess = s.agents.sess ∧ t.ctxs = s.ctxs ∧ t.sec = s.sec) ∧
    (portUp p s = true →
      (∀ n, q.replay.contains n = true → exec (.nak p n) s = .next (told (.resend p n) (put { q with replay := q.replay.drop (q.replay.idxOf n), replays := (q.replays + 1) % 2 ^ 32 }))) ∧
      (0 < q.unacked → exec (.ackTimer p) s = .next (told (.ack p ((q.rxSeq + 65535) % 65536)) (put { q with unacked := 0 }))) ∧
      (∀ vc n, vc < 8 → exec (.creditReturn p vc n) s = .next (put { q with pool := q.pool.set vc (min (q.advertised.getD vc 0) (q.pool.getD vc 0 + n)), held := freeHeld vc n q.held })) ∧
      exec (.lightLost p) s = .next (put { q with train := 7, retrainCnt := if q.retrainCnt < 0xFFFF then q.retrainCnt + 1 else 0xFFFF, lost := 0 })) ∧
    (portsLit s = true → s.host.held.length < 250 →
      (q.train = 1 → trainGood p t0 = true → ∃ t : State, exec (.training p t0) s = .next t ∧ (portOf p t).train = 6 ∧ (portOf p t).lanes = widthOf p t0.locked ∧ (portOf p t).pool = t0.credits.take 8 ∧
        portUp p t = true ∧ ev t 0x20 (leBytes 1 (roleOf p t0 s) ++ leBytes 1 (widthOf p t0.locked)) ∧ t = { s with ports := t.ports, host := t.host, clocks := t.clocks }) ∧
      (q.train = 1 → trainGood p t0 = false → ∃ t : State, exec (.training p t0) s = .next t ∧ (portOf p t).train = 9 ∧ portUp p t = false ∧ ev t 0x21 (leBytes 1 2) ∧ t = { s with ports := t.ports, host := t.host }) ∧
      (q.train = 7 → t0.inTime = true → trainGood p t0 = true → ∃ t : State, exec (.retrain p t0) s = .next t ∧ (portOf p t).train = 6 ∧ (portOf p t).replay = q.replay ∧
        (∀ e ∈ t.host.held, e ∈ s.host.held ∨ e.code ≠ 0x20) ∧ (∀ n l, q.replay = n :: l → Tx.resend p n ∈ t.host.gone) ∧ t = { s with ports := t.ports, host := t.host, clocks := t.clocks }) ∧
      (q.train = 9 ∨ q.train = 10 → exec (.trainRetry p) s = .next (put { q with train := 1 }))) ∧
    (q.train = 7 → s.host.held.length < 250 → ∃ t : State, exec (.linkDown p) s = .next t ∧ (portOf p t).train = 10 ∧ ev t 0x21 (leBytes 1 0) ∧ t = { s with ports := t.ports, host := t.host }) ∧
    (∀ k, (q.tc3 = some k → exec (.keyUpdatePhase p true) s = .next { s with ports := { s.ports with port := tset s.ports.port p { q with tc3 := some ⟨!k.phase, 1, true⟩ }, ctrSeen := tdel s.ports.ctrSeen (seenKey p true (!k.phase)) } }) ∧
      (s.ports.tc2 = some k → exec (.keyUpdatePhase p false) s = .next { s with ports := { s.ports with tc2 := some ⟨!k.phase, 1, true⟩, ctrSeen := tdel s.ports.ctrSeen (seenKey p false (!k.phase)) } }))) ∧
  (∀ (pk : Packet) (data : Bytes) (x : Remote) (p : Nat) (s : State), remoteOf pk.ptag s = some x → (∀ y ∈ s.ports.remote, y.ctx = x.ctx → y.stage = .out) → pathPort s = some p → s.host.ifState ≠ .scrub →
    let back := fun (n : Nat) (t : State) => ({ t with host := { t.host with gone := t.host.gone ++ [.credits p 5 (packetCost n)] } } : State)
    let gone : State := { s with ports := { s.ports with remote := s.ports.remote.filter fun y => decide (y.ptag ≠ pk.ptag) } }
    let more := fun (n : Nat) => ({ s with ports := { s.ports with remote := s.ports.remote.map fun y => if y.ptag = pk.ptag then { y with got := y.got + n } else y } } : State)
    let refused := fun (c : Instr) (f : State → State) => ∀ rid r, x.rid = some rid → findReq rid s = some r → ∃ t : State, exec c s = .next (f t) ∧ Done rid 0x0102 [] t ∧ t = { gone with ledger := t.ledger }
    (x.write = true →
      (pk.pstatus = 0 → packetsOf x.addr x.len ≤ x.got + 1 → exec (.writeAck pk) s = .next (back 0 gone)) ∧
      (pk.pstatus = 0 → x.got + 1 < packetsOf x.addr x.len → exec (.writeAck pk) s = .next (back 0 (more 1))) ∧
      (pk.pstatus ≠ 0 → refused (.writeAck pk) (back 0))) ∧
    (x.write = false →
      (pk.pstatus = 0 → x.len ≤ x.got + data.length → exec (.readData pk data) s = .next (back data.length gone)) ∧
      (pk.pstatus = 0 → x.got + data.length < x.len → (pk.last = true → packetsOf x.addr x.len ≠ 1) → exec (.readData pk data) s = .next (back data.length (more data.length))) ∧
      (pk.pstatus ≠ 0 → refused (.readData pk data) (back data.length))) ∧
    refused (.remoteAccessTimeout pk.ptag) id) ∧
  (∀ s : State, beats s = true → exec .ropeHeartbeatSend s = .next { s with host := { s.host with out := s.host.out ++ (([1, 2, 3, 4].filter fun p => portUp p s && peerCarries p s).map fun p =>
    Tx.ropeBeat p (leBytes 1 s.ports.pos ++ leBytes 1 s.ports.hops ++ leBytes 1 s.ports.exit ++ leBytes 1 s.host.ifState.code ++ zeros 4)) } }) ∧
  (∀ (p pos hops exit st : Nat) (q : Port) (s : State), 1 ≤ p → p ≤ 4 → tget s.ports.port p = some q → portUp p s = true → neighbourPos p s = some pos → st ≠ 4 →
    ∃ t : State, exec (.ropeHeartbeatReceive p pos hops exit st) s = .next t ∧ (portOf p t).beat = some (hops, exit, st) ∧ (portOf p t).train = q.train ∧ pos ∉ t.ports.lostPeers ∧
      (∀ k, k ≠ pos → (k ∈ t.ports.lostPeers ↔ k ∈ s.ports.lostPeers)) ∧ t = { s with ports := t.ports, caps := t.caps, host := t.host }) ∧
  (∀ (pos : Nat) (s : State), let n := s.ports.serials.length; 2 ≤ n → pos = (s.ports.pos + 1) % n → s.ports.lostPeers.contains pos = false →
    ((∀ e ∈ s.agents.sess, e.2.mirror = 0 ∨ e.2.mirrorPos ≠ pos) → s.host.held.length < 250 →
      ∃ (t : State) (e : Ev) (l : List Ev), exec (.peerLost pos) s = .next t ∧ t.ports.lostPeers = s.ports.lostPeers ++ [pos] ∧ t.host.held = s.host.held ++ e :: l ∧ e.code = 0x24 ∧ e.payload = leBytes 1 pos ∧
        t = { s with ports := t.ports, caps := t.caps, host := t.host }) ∧
    (∀ id x, tget s.agents.sess id = some x → x.mirror ≠ 0 → x.mirrorPos = pos → ∃ t : State, exec (.peerLost pos) s = .next t ∧ tget t.agents.sess id = some { x with mirrorState := 3 } ∧ t.ports.lostPeers = s.ports.lostPeers ++ [pos]))

/-- Training groups, adapters, steps and the ring. Where a member adds finite values to a block that is not all zeros, every element it sends on lies within plus or minus 32,767, and the exponent lies between the one received and 254. For a waiting request without references: GROUP_SET with fields in range and two or more members, of which no HELLO came before, makes the group, not ready, sends HELLO and completes; GROUP_FREE, ADAPTER_FREE and QUERY end with NO_GROUP or NO_ADAPTER for what is not there, with BUSY for a group that adapters use, and otherwise free or report exactly it; ADAPTER_CREATE of good tensors makes the adapter with zero error terms; a STEP of a group that is not ready is taken up and waits with every tensor still to place. HELLO with the group's mask makes it ready with its event; for a group not here SLOT_GRANT, ABORT and data pass on, and so does HELLO where its mask does not name this module, else it is kept; what comes for a bucket not yet opened is kept. ABORT or a lost path breaks a closed bucket: it leaves its slot, is counted, its ABORT is sent in both directions and its event raised. -/
def Obligations.TuneCommands : Prop :=
  (∀ (h : Nat) (b : WireBlock) (xs : List U32), b.nonFinite = false → xs.any fvSpecial = false → (∃ v ∈ b.v, v ≠ 0) → b.e ≤ 254 →
    (∀ v ∈ (addBlock h b xs).1.v, v.natAbs ≤ 32767) ∧ b.e ≤ (addBlock h b xs).1.e ∧ (addBlock h b xs).1.e ≤ 254) ∧
  (∀ (rid : Nat) (data : Bytes) (r : Req) (s : State), hasRef r = false →
    let p := r.payload
    let g := fld p 0 2
    let mask := fld p 2 2
    (Waits 9 1 rid r s → 1 ≤ g → g ≤ 1023 → groupOf g s = none → bit mask s.ports.pos = true → mask < 2 ^ ropeN s → 1 ≤ fld p 4 1 → fld p 4 1 ≤ 63 → slotAllocated (fld p 4 1) s = true → s.tune.groups.length < 16 →
      (fld p 6 2 = 0 ∨ (10 ≤ fld p 6 2 ∧ fld p 6 2 ≤ 60000)) → t1Fits (fld p 4 1) 67108864 s = true → 2 ≤ (members mask).length → tget s.tune.hellos g = none →
      ∃ (t : State) (x : Group), exec (.tuneGroupSet rid) s = .next t ∧ groupOf g t = some x ∧ x.mask = mask ∧ x.owner = fld p 4 1 ∧ x.waitMs = (if fld p 6 2 = 0 then 500 else fld p 6 2) ∧ x.k = (members mask).length ∧
        x.ready = false ∧ x.slots = [] ∧ x.nextSeq = 1 ∧ (∀ k, k ≠ g → groupOf k t = groupOf k s) ∧ t.host.out = s.host.out ++ [.tune g ⟨1, 0, 0, mask, s.ports.pos, 0⟩] ∧
        Done rid 0 (leBytes 1 x.k ++ leBytes 1 x.index ++ leBytes 1 x.h ++ zeros 5) t ∧ t = { s with tune := t.tune, ledger := t.ledger, host := { s.host with out := t.host.out } }) ∧
    (Waits 9 2 rid r s → (groupOf g s = none → Refuses (.tuneGroupFree rid) rid 0x8001 s) ∧
      (∀ x, groupOf g s = some x → ((s.tune.adapters.any fun e => decide (e.2.group = g)) = true → Refuses (.tuneGroupFree rid) rid 0x8004 s) ∧
        ((s.tune.adapters.any fun e => decide (e.2.group = g)) = false → ∃ t : State, exec (.tuneGroupFree rid) s = .next t ∧ Done rid 0 [] t ∧ groupOf g t = none ∧ (∀ k, k ≠ g → groupOf k t = groupOf k s) ∧
          t = { s with tune := t.tune, ledger := t.ledger }))) ∧
    (∀ x, Waits 9 3 rid r s → groupFor r.mbx g s = some x → 1 ≤ fld p 2 1 → fld p 2 1 ≤ 64 → 1 ≤ fld p 4 2 → fld p 4 2 ≤ 1024 → refReads (refAt p 24) = true → (refAt p 24).space = 1 → 32 * fld p 4 2 ≤ (refAt p 24).len → 32 * fld p 4 2 ≤ data.length →
      (∀ e ∈ s.tune.adapters, e.2.group = g → e.2.atag ≠ fld p 8 4) → (∀ e ∈ tensorEntries (fld p 4 2) (sub data 0 (32 * fld p 4 2)), tensorBad (fld p 2 1) e = false) →
      (let a : Adapter := ⟨r.mbx, g, fld p 2 1, fld p 8 4, (tensorEntries (fld p 4 2) (sub data 0 (32 * fld p 4 2))).zipIdx.map fun e => (⟨e.1.1, e.1.2.1, e.1.2.2.1, decide (e.1.2.2.2 = 10),
          seedQ0 (BitVec.ofNat 64 (fld p 16 8)) e.2 (e.1.2.2.1 * fld p 2 1), List.replicate (e.1.2.1 * e.1.2.2.1) 0⟩ : Tensor)⟩
       let h := 2 ^ 26 * r.mbx + s.tune.nextAdapter % 2 ^ 26
       t1Fits r.mbx (adapterT1 a) s = true →
       ∃ t : State, exec (.tuneAdapterCreate rid data) s = .next t ∧ adapterOf h t = some a ∧ (∀ z ∈ a.tensors, (∀ v ∈ z.e, v = 0) ∧ z.e.length = z.m * z.n ∧ z.q0.length = z.n * a.rank) ∧
        (∀ k, k ≠ h → adapterOf k t = adapterOf k s) ∧
        Done rid 0 (leBytes 4 h ++ zeros 4 ++ leBytes 8 (adapterT1 a)) t ∧
        t = { s with tune := t.tune, ledger := t.ledger, host := { s.host with out := s.host.out ++ [.ctlRead r.mbx (refAt p 24).addr (32 * fld p 4 2)] } })) ∧
    (Waits 9 4 rid r s → (adapterFor r.mbx (fld p 0 4) s = none → Refuses (.tuneAdapterFree rid) rid 0x8000 s) ∧
      (∀ a, adapterFor r.mbx (fld p 0 4) s = some a → (∀ x ∈ s.tune.steps, x.adapter ≠ fld p 0 4) → ∃ t : State, exec (.tuneAdapterFree rid) s = .next t ∧ Done rid 0 [] t ∧ adapterOf (fld p 0 4) t = none ∧
        (∀ k, k ≠ fld p 0 4 → adapterOf k t = adapterOf k s) ∧ t = { s with tune := t.tune, ledger := t.ledger })) ∧
    (∀ a x i f ad, Waits 9 5 rid r s → adapterFor r.mbx (fld p 0 4) s = some a → stepTurn r a.group s = true → groupOf a.group s = some x → x.ready = false → x.slots = [] → s.tune.steps = [] → fld p 8 2 = 1 → 1 ≤ a.tensors.length →
      refReads (refAt p 16) = true → (refAt p 16).space = 1 → 16 ≤ (refAt p 16).len → 16 ≤ data.length → gradEntries 1 (sub data 0 16) = [(i, f, ad)] → i < a.tensors.length → (f = 8 ∨ f = 9 ∨ f = 10) → gradCheck a (i, f, ad) s = .fine →
      ∃ (t : State) (z : TStep), exec (.tuneStep rid data) s = .next t ∧ TakenUp rid t ∧ stepOf a.group (x.stepSeq + 1) t = some z ∧ z.rid = rid ∧ z.adapter = fld p 0 4 ∧ z.lr.toNat = fld p 4 4 % 2 ^ 32 ∧
        z.tensors.map (fun y => (y.idx, y.fmt, y.gAddr, y.stage)) = [(i, f, ad, TStage.wait)] ∧ groupOf a.group t = some { x with stepSeq := x.stepSeq + 1 } ∧
        t = { s with tune := t.tune, ledger := t.ledger, host := { s.host with out := s.host.out ++ [.ctlRead r.mbx (refAt p 16).addr 16] } }) ∧
    (Waits 9 6 rid r s → groupFor r.mbx g s = none → r.mbx ≠ 0 → Refuses (.tuneQuery rid) rid 0x8001 s) ∧
    (∀ x, Waits 9 6 rid r s → groupFor r.mbx g s = some x → ∃ t : State, exec (.tuneQuery rid) s = .next t ∧ Done rid 0 (groupQuery x) t ∧ OnlyLedger s t)) ∧
  (∀ (g seq mask src : Nat) (pk : TunePacket) (hp gp ac : TuneCtl) (s : State), hp.mask = mask → hp.src = src → gp.seq = seq → gp.src = src →
    let sent := fun (m : Tx) => ({ s with host := { s.host with out := s.host.out ++ [m] } } : State)
    let put := fun (x : Group) => ({ s with tune := { s.tune with groups := tset s.tune.groups g x } } : State)
    (groupOf g s = none → (bit mask s.ports.pos = false → exec (.hello g hp) s = .next (sent (.tune g ⟨1, 0, 0, mask, src, 0⟩))) ∧
      (bit mask s.ports.pos = true → exec (.hello g hp) s = .next { s with tune := { s.tune with hellos := tset s.tune.hellos g mask } }) ∧
      exec (.slotGrant g gp) s = .next (sent (.tune g ⟨2, 1, seq, 0, src, 0⟩)) ∧ exec (.abort g ac) s = .next (sent (.tune g ac)) ∧
      exec (.tuneDataPacket g pk) s = .next (sent (.tuneData g pk))) ∧
    (∀ x, groupOf g s = some x →
      (mask = x.mask → bit mask s.ports.pos = true → mask < 2 ^ ropeN s → x.ready = false → x.slots = [] → s.tune.steps = [] → s.host.held.length < 256 →
        ∃ (t : State) (e : Ev), exec (.hello g hp) s = .next t ∧ groupOf g t = some { x with ready := true, hello := some mask } ∧ t.host.held = s.host.held ++ [e] ∧ e.code = 0x901 ∧ e.ctx = x.owner ∧ e.payload = leBytes 2 g ++ leBytes 1 x.k ∧
          t = { s with tune := t.tune, host := t.host }) ∧
      (bucketOf g seq s = none → x.nextSeq ≤ seq → x.grants.contains seq = false → exec (.slotGrant g gp) s = .next (put { x with grants := x.grants ++ [seq] })) ∧
      (ac.seq = seq → bucketOf g seq s = none → x.nextSeq ≤ seq → x.aborts.contains seq = false → exec (.abort g ac) s = .next (put { x with aborts := x.aborts ++ [seq] })) ∧
      (bucketOf g pk.seq s = none → x.nextSeq ≤ pk.seq → exec (.tuneDataPacket g pk) s = .next (put { x with ahead := x.ahead ++ [pk] })) ∧
      (∀ b, x.slots = [b] → b.seq = seq → s.tune.steps = [] → s.host.held.length < 256 →
        let broke := fun (c : Instr) (cause : Nat) => ∃ (t : State) (y : Group) (e : Ev), exec c s = .next t ∧ groupOf g t = some y ∧ y.slots = [] ∧ y.broken = x.broken + 1 ∧ y.nextSeq = x.nextSeq ∧ t.host.out = s.host.out ++ [.tune g ⟨3, 0, seq, 0, s.ports.pos, cause⟩, .tune g ⟨3, 1, seq, 0, s.ports.pos, cause⟩] ∧
          t.host.held = s.host.held ++ [e] ∧ e.code = 0x900 ∧ e.ctx = x.owner ∧ e.payload = leBytes 2 g ++ zeros 2 ++ leBytes 4 seq ++ leBytes 1 cause ∧ t = { s with tune := t.tune, host := t.host }
        broke (.pathLossTimeout g seq) 0 ∧ (b.closed = true → ac.seq = seq → broke (.abort g ac) 1))))

/-! ### Security (15) -/

/-- SPDM requests of a port. On a port whose SPDM messages are answered: GET_VERSION starts the exchange anew and answers version 1.3; GET_CAPABILITIES, NEGOTIATE_ALGORITHMS, GET_DIGESTS, GET_CERTIFICATE and an unsigned GET_MEASUREMENTS are answered after the step before them, with an unexpected-request error otherwise, and measurement 5 is the digest of the security state, the debug state and the causes; CHALLENGE and KEY_EXCHANGE use up exactly one leaf, a torn CHALLENGE none; FINISH puts the session and its key in force; HEARTBEAT and KEY_UPDATE need a session; END_SESSION and a lapse on port H end session and key, and an Admitted module is Provisioned again; a third failure in a row on port H quarantines the module with ATTEST. -/
def Obligations.SpdmExchange : Prop :=
  (∀ (p : Nat) (s : State), spdmServes p s = true →
    let q := spdmOf p s
    let put := fun (x : Spdm) => ({ s with sec := { s.sec with spdm := tset s.sec.spdm p x } } : State)
    let say := fun (c : Nat) (b : Bytes) (t : State) => ({ t with host := { t.host with out := t.host.out ++ [.spdm p c b] } } : State)
    let early := fun (c : Instr) => exec c s = .next (say 0x7F (leBytes 1 4) s)
    let free := fun (c : Instr) (code n : Nat) (s : State) => ∃ b : Bytes, b.length = n ∧ ∃ t : State, exec c s = .next t ∧ t.host.out = s.host.out ++ [.spdm p code b] ∧ t = { s with host := t.host, freeCtr := t.freeCtr }
    let signed := fun (c : Instr) (code : Nat) => ∃ (t : State) (b : Bytes), exec c s = .next t ∧ t.sec.nextLeaf = s.sec.nextLeaf + 1 ∧ t.sec.sigPower = s.sec.sigPower + 1 ∧ t.sec.sec = s.sec.sec ∧ t.sec.dbg = s.sec.dbg ∧
      t.host.out = s.host.out ++ [.spdm p code b] ∧ 2820 ≤ b.length ∧ t = { s with sec := t.sec, fw := t.fw, host := t.host, freeCtr := t.freeCtr }
    exec (.getVersion p) s = .next (say 4 (leBytes 2 0x1300) (put { q with version := true, caps := false, algs := false, opening := none })) ∧
    (q.version = true → exec (.getCapabilities p) s = .next (say 0x61 (leBytes 4 65536) (put { q with caps := true }))) ∧ (q.version = false → early (.getCapabilities p)) ∧
    (q.caps = true → ∃ (b : Bytes) (t : State), exec (.negotiateAlgorithms p) s = .next t ∧ (spdmOf p t).algs = true ∧ t = { say 0x63 b (put { q with algs := true }) with freeCtr := t.freeCtr }) ∧
    (q.algs = false → early (.getDigests p) ∧ early (.getCertificate p) ∧ early (.challenge p false) ∧ early (.keyExchange p 0 true)) ∧
    (q.algs = true →
      (s.sec.sec ≠ .blank → free (.getDigests p) 1 48 s ∧ ∃ n, free (.getCertificate p) 2 n s) ∧
      (∃ t : State, exec (.getMeasurements p 5 false) s = .next t ∧ t = { say 0x60 (leBytes 1 1 ++ (leBytes 1 5 ++ shake256 (leBytes 1 s.sec.sec.code ++ leBytes 1 s.sec.dbg.code ++ leBytes 2 s.sec.causes) 48)) s with freeCtr := t.freeCtr }) ∧
      exec (.challenge p true) s = .next s ∧
      (signBar s = none → s.host.held.length < 256 → signed (.challenge p false) 3 ∧ ∀ sid, peerAllowed p s = true → signed (.keyExchange p sid true) 0x64 ∧
        ∀ t, exec (.keyExchange p sid true) s = .next t → (spdmOf p t).opening = some sid ∧ (spdmOf p t).failures = 0)) ∧
    (∀ sid, q.opening = some sid → peerAllowed p s = true →
      ∃ t : State, exec (.finish p true) s = .next t ∧ (spdmOf p t).session = some sid ∧ (spdmOf p t).opening = none ∧ (p = 0 → t.ports.tc2 = some ⟨false, 1, false⟩) ∧
        t.host.out = s.host.out ++ [.spdm p 0x65 []] ∧ t = { s with sec := { s.sec with spdm := t.sec.spdm }, ports := t.ports, host := t.host }) ∧
    (q.session.isSome = true → exec (.heartbeat p) s = .next (say 0x68 [] s) ∧ exec (.keyUpdate p) s = .next (say 0x69 [] s)) ∧
    (q.session = none → early (.heartbeat p) ∧ early (.keyUpdate p) ∧ early (.endSession p))) ∧
  (∀ s : State, (spdmOf 0 s).session.isSome = true →
    let ended := fun (c : Instr) => ∃ t : State, exec c s = .next t ∧ (spdmOf 0 t).session = none ∧ t.ports.tc2 = none ∧ t.sec.dbg = s.sec.dbg ∧ t.sec.sec = (if s.sec.sec = .admitted then .provisioned else s.sec.sec) ∧
      (s.sec.sec = .admitted → ∀ c k, c ≠ 0 → slotOf c t = some k → k.secHold = true) ∧ t = { s with sec := t.sec, ports := t.ports, ctxs := t.ctxs, host := t.host }
    (spdmServes 0 s = true → ended (.endSession 0)) ∧ (s.host.ifState = .ready → ended .sessionHeartbeatLapse)) ∧
  (∀ (sid : Nat) (s : State), spdmServes 0 s = true → (spdmOf 0 s).algs = true → s.sec.sec ≠ .blank → s.host.ifState = .ready → (spdmOf 0 s).failures = 2 →
    ∃ t : State, exec (.keyExchange 0 sid false) s = .next t ∧ t.sec.sec = .quarantined ∧ bit t.sec.causes 0 = true ∧ t.sec.dbg = s.sec.dbg ∧ t.sec.nextLeaf = s.sec.nextLeaf)

/-- SEC requests, the re-encryption walker, tamper and the start of a scrub. For a waiting request: INFO replies and changes only the ledger; ADMIT without the session ends with NO_SPDM, with it a Provisioned, Sealed module is Admitted; REJECT of a Blank module ends with WRONG_STATE, else the module is Quarantined with ATTEST and every flash key is withdrawn; FKEY_ROTATE adds the next generation as the write generation, or ends with ROTATE_BUSY; FKEY_STATUS replies; DEBUG_NONCE replies with the new nonce; a token that does not verify ends with BAD_TOKEN and uses up the nonce; one for this module with the nonce in force Quarantines with DEBUG and destroys every flash key, or in RECOVER clears TAMPER, and with the last cause the module is Provisioned. A walker pass with no unit left under the old generation retires it. A tamper while the runtime runs Quarantines with TAMPER and destroys every key, and changes no state when Blank. A scrub that is due begins now, and the covered contexts have no key. -/
def Obligations.SecurityRequests : Prop :=
  (∀ (rid : Nat) (tok : Bytes) (sigOk : Bool) (r : Req) (s : State),
    let p := r.payload
    let none_ := fun (t : State) => ∀ k d, tget t.sec.doms k = some d → d.loaded = false
    let lost := fun (t : State) => ∀ k d, tget t.sec.doms k = some d → d.loaded = false ∧ d.destroyed = true
    (hasRef r = false →
      (Waits 10 1 rid r s → ∃ t : State, exec (.secInfo rid) s = .next t ∧ Done rid 0 (secInfoReply r s) t ∧ OnlyLedger s t) ∧
      (Waits 10 2 rid r s → s.host.ifState = .ready →
        ((spdmOf 0 s).session ≠ some (fld p 0 4) → Refuses (.secAdmit rid) rid 0x8003 s) ∧
        ((spdmOf 0 s).session = some (fld p 0 4) → s.ports.tc2.isSome = true → s.sec.sec ≠ .provisioned → Refuses (.secAdmit rid) rid 0x8002 s) ∧
        ((spdmOf 0 s).session = some (fld p 0 4) → s.ports.tc2.isSome = true → s.sec.sec = .provisioned → s.sec.dbg = .sealed →
          ∃ t : State, exec (.secAdmit rid) s = .next t ∧ Done rid 0 [] t ∧ t.sec.sec = .admitted ∧ t.sec.dbg = .sealed ∧ t.sec.causes = s.sec.causes ∧ (∀ c k, slotOf c t = some k → k.secHold = false) ∧
            t.mon.injEnabled = false ∧ (∀ k d, tget t.sec.doms k = some d → d.loaded = true ∧ d.destroyed = false) ∧ t = { s with sec := t.sec, ctxs := t.ctxs, mon := t.mon, host := t.host, ledger := t.ledger })) ∧
      (Waits 10 3 rid r s → (s.sec.sec = .blank → Refuses (.secReject rid) rid 0x8002 s) ∧
        (s.sec.sec ≠ .blank → s.host.ifState = .ready → ∃ t : State, exec (.secReject rid) s = .next t ∧ t.sec.sec = .quarantined ∧ bit t.sec.causes 0 = true ∧ t.sec.dbg = s.sec.dbg ∧ none_ t)) ∧
      (Waits 10 4 rid r s → fld p 0 1 = 1 → fld p 4 4 = r.mbx → r.mbx < 64 → slotAllocated r.mbx s = true →
        let k := 2 ^ 32 + r.mbx
        let d := domGet k s
        (2 ≤ d.gens.length → Refuses (.secFkeyRotate rid) rid 0x8001 s) ∧
        (d.gens.length < 2 → ∃ t : State, exec (.secFkeyRotate rid) s = .next t ∧ Done rid 0 (leBytes 1 ((d.wgen + 1) % 4) ++ leBytes 1 d.wgen ++ zeros 6) t ∧
          t = { s with sec := { s.sec with doms := tset s.sec.doms k { d with gens := d.gens ++ [(d.wgen + 1) % 4], wgen := (d.wgen + 1) % 4, oldUnits := 0 } }, ledger := t.ledger, fw := t.fw, freeCtr := t.freeCtr })) ∧
      (Waits 10 5 rid r s → fld p 0 1 = 1 → fld p 4 4 = r.mbx → r.mbx < 64 → slotAllocated r.mbx s = true →
        let d := domGet (2 ^ 32 + r.mbx) s
        ∃ t : State, exec (.secFkeyStatus rid) s = .next t ∧ Done rid 0 (leBytes 1 (bitsMask d.gens) ++ leBytes 1 d.wgen ++ zeros 6 ++ leBytes 8 d.oldUnits ++ leBytes 4 0) t ∧ OnlyLedger s t) ∧
      (Waits 10 6 rid r s → s.sec.sec ≠ .blank → s.sec.dbg ≠ .unlocked → ∃ (t : State) (b : Bytes), exec (.secDebugNonce rid) s = .next t ∧ b.length = 32 ∧ Done rid 0 b t ∧
        t = { s with sec := { s.sec with nonce := some b }, ledger := t.ledger, freeCtr := t.freeCtr })) ∧
    (tokenRefBad r = false → (refAt p 0).space = 1 → 2756 ≤ tok.length → s.host.ifState = .ready →
      let tk := sub tok 0 2756
      let good := fun (magic : String) => tk.take 4 = ascii magic ∧ sub tk 8 16 = s.sec.serial ∧ s.sec.nonce = some (sub tk 24 32) ∧ sigOk = true
      let used : State := { s with sec := { s.sec with nonce := none }, host := { s.host with out := s.host.out ++ [.ctlRead r.mbx (refAt p 0).addr 2756] } }
      (Waits 10 7 rid r s → s.sec.sec ≠ .blank → s.sec.dbg = .sealed → s.sec.unlock = none →
        (sigOk = false ∨ s.sec.nonce ≠ some (sub tk 24 32) → ∃ t : State, exec (.secDebugUnlock rid tok sigOk) s = .next t ∧ Done rid 0x8000 [] t ∧ OnlyLedger used t) ∧
        (good "EZDU" → ∃ t : State, exec (.secDebugUnlock rid tok sigOk) s = .next t ∧ t.sec.sec = .quarantined ∧ t.sec.dbg = .sealed ∧ bit t.sec.causes 2 = true ∧ t.sec.nonce = none ∧
          t.sec.unlock = some (rid, fld tk 4 4) ∧ t.sec.scrubDue = true ∧ lost t)) ∧
      (Waits 10 8 rid r s → bit s.sec.causes 1 = true →
        (sigOk = false ∨ s.sec.nonce ≠ some (sub tk 24 32) → ∃ t : State, exec (.secRecover rid tok sigOk) s = .next t ∧ Done rid 0x8000 [] t ∧ OnlyLedger used t) ∧
        (good "EZRC" → s.sec.sec = .quarantined → ∃ t : State, exec (.secRecover rid tok sigOk) s = .next t ∧ Done rid 0 [] t ∧ t.sec.causes = s.sec.causes - 2 ∧
          t.sec.sec = (if s.sec.causes = 2 then .provisioned else .quarantined) ∧ t.sec.dbg = s.sec.dbg ∧ t = { s with sec := t.sec, fw := t.fw, host := t.host, ledger := t.ledger, freeCtr := t.freeCtr })))) ∧
  (∀ (ns : Bool) (id old new : Nat) (d : KeyDom) (s : State), let k := if ns then id else 2 ^ 32 + id; tget s.sec.doms k = some d → d.gens = [old, new] → flashRuns s = true → unitsUnder k old s = [] → s.host.held.length < 256 →
    ∃ (t : State) (e : Ev), exec (.reencryptionPass ns id) s = .next t ∧ tget t.sec.doms k = some { d with gens := [d.wgen], oldUnits := 0 } ∧ (∀ j, j ≠ k → tget t.sec.doms j = tget s.sec.doms j) ∧
      t.host.held = s.host.held ++ [e] ∧ e.code = 0xA02 ∧
      t = { s with sec := { s.sec with doms := t.sec.doms }, host := t.host, fw := t.fw, freeCtr := t.freeCtr }) ∧
  (∀ (src : Nat) (s : State), src = 0 ∨ src = 2 → s.pwr.pwr ≠ .off → s.host.ifState = .ready →
    (s.sec.sec = .blank → ∃ t : State, exec (.secTamper src) s = .next t ∧ t.sec.sec = .blank ∧ t.sec.dbg = s.sec.dbg ∧ t.sec.causes = s.sec.causes ∧ t = { s with sec := t.sec, host := t.host }) ∧
    (s.sec.sec ≠ .blank → ∃ t : State, exec (.secTamper src) s = .next t ∧ t.sec.sec = .quarantined ∧ bit t.sec.causes 1 = true ∧ t.sec.dbg = s.sec.dbg ∧
      ∀ k d, tget t.sec.doms k = some d → d.loaded = false ∧ d.destroyed = true)) ∧
  (∀ s : State, s.host.ifState = .ready → s.sec.scrubDue = true → ∃ (t : State) (b : Scrub), exec .scrub s = .next t ∧ t.host.ifState = .scrub ∧ t.sec.scrub = some b ∧ b.start = clockNow domMgmt s ∧ b.prev = .ready ∧ b.ctxs = s.sec.scrubNext ∧
    t.sec.scrubDue = false ∧ t.sec.scrubNext = [] ∧ (∀ c ∈ s.sec.scrubNext, t.mem.keySlots.contains c = false ∧ tget t.sec.doms (2 ^ 32 + c) = none) ∧ t.sec.sec = s.sec.sec ∧ t.sec.dbg = s.sec.dbg)

/-- Every step keeps the security state machine. SecOk holds of a state when its security and debug states are one of the five pairs that exist, a quarantine cause is set exactly where the module is Quarantined or is due to be after a scrub, and Unlocked or a debug unlock that waits stands on the cause DEBUG. From every state with SecOk, a step that answers a next state, of whatever command or of an empty queue, leads to a state with SecOk. -/
def Obligations.StepKeepsSecurity : Prop := ∀ s t : State, SecOk s → step s = .next t → SecOk t

/-- Only SEC.RECOVER clears TAMPER. In every state in which the quarantine cause TAMPER is set, every command but SEC.RECOVER, and a step with no command waiting, leads to a state in which it is still set; and where such a state has SecOk, in neither state is the module Admitted or Provisioned without Quarantined being due. -/
def Obligations.OnlyRecoverClearsTamper : Prop :=
  ∀ s t : State, bit s.sec.causes 1 = true → step s = .next t → (∀ rid tok ok r, s.pending ≠ .secRecover rid tok ok :: r) →
    bit t.sec.causes 1 = true ∧ (SecOk s → t.sec.sec = .quarantined ∨ t.sec.quarantineNext = true)

/-! ### Power, thermal limits and the sideband (16) -/

/-- Feeds, power states, limits and alerts. A powered module that loses a feed reports it, sets its alert bit and keeps its power state; the feed restored is reported and opens the discharge load; a third current trip within 60 s latches the stage. Both feeds lost in READY lead to Abseil, in Bivouac to Off. SET_CAP in range sets cap and Active or Capped; QUERY replies. SET_STATE to Bivouac ends with its error while another request is outstanding or in an emergency, else enters it with nothing dirty but what write-through programs; WAKE, and MOD_WAKE_N low long enough, return to READY and Idle with every domain powered but those of a lost die, and the flushed data dirty again. Idle is entered without work. A missed cap, a coolant warning, an emergency and a throttled hub are reported with their alert bits, the hub one step slower. A junction trip leads to Abseil with TRIP. The bank measured sets the dirty limit and write-through. A w1c write clears alert bits; an alert response is given while the pin is asserted. -/
def Obligations.PowerCommands : Prop :=
  (∀ (f cause : Nat) (s : State), f < 2 → powered s = true → s.host.held.length < 256 →
    let other := fun (t : State) => feedOf (1 - f) t = feedOf (1 - f) s ∧ t.pwr.pwr = s.pwr.pwr ∧ t = { s with pwr := t.pwr, host := t.host }
    let told := fun (t : State) (code : Nat) (b : Bytes) => ∃ e : Ev, t.host.held = s.host.held ++ [e] ∧ e.code = code ∧ e.payload = b
    ((feedOf f s).good = true → cause < 3 → ∃ t : State, exec (.feedLost f cause) s = .next t ∧ feedOf f t = { feedOf f s with good := false, openFuse := (feedOf f s).openFuse || decide (cause ≠ 0) } ∧
      t.pwr.alertStat = s.pwr.alertStat ||| BitVec.ofNat 16 (2 ^ f) ∧ told t 0xB00 (leBytes 1 f ++ leBytes 1 cause) ∧ other t) ∧
    ((feedOf f s).good = false → (feedOf f s).latched = false → ∃ t : State, exec (.feedRestored f) s = .next t ∧ feedOf f t = { feedOf f s with good := true, openFuse := false } ∧ t.pwr.discharge = false ∧
      told t 0xB01 (leBytes 1 f) ∧ other t) ∧
    ((feedOf f s).good = true → (feedOf f s).openFuse = false → ∃ t : State, exec (.efuseTrip f true) s = .next t ∧ (feedOf f t).good = false ∧ (feedOf f t).openFuse = true ∧
      (feedOf f t).trips = ((feedOf f s).trips.filter fun c => decide (clockNow domAon s < c + 6000000000)) ++ [clockNow domAon s] ∧
      (2 ≤ ((feedOf f s).trips.filter fun c => decide (clockNow domAon s < c + 6000000000)).length → (feedOf f t).latched = true) ∧ told t 0xB00 (leBytes 1 f ++ leBytes 1 2) ∧ other t)) ∧
  (∀ s : State, powered s = true → s.pwr.feedA.good = false → s.pwr.feedB.good = false →
    (s.host.ifState = .ready → ∃ t : State, exec .holdupTakeover s = .next t ∧ t.host.ifState = .abseil ∧ t.pwr.pwr = .abseil ∧ t.ftl = s.ftl ∧ t.mem = s.mem ∧ t.ctxs = s.ctxs ∧ t.ledger = s.ledger ∧
      (∀ d c, tget s.clocks d = some c → ∃ x : Clock, tget t.clocks d = some x ∧ x.counter = c.counter ∧ (d < 8 → x.powered = false) ∧ (d = domAon ∨ d = domMgmt ∨ d = domFab → x.powered = true))) ∧
    (s.host.ifState = .bivouac → ∃ t : State, exec .holdupTakeover s = .next t ∧ t.pwr.pwr = .off ∧ (∀ d c, tget t.clocks d = some c → c.powered = false)) ∧
    (s.pwr.pwr = .abseil → exec .dischargeLoad s = .next { s with pwr := { s.pwr with discharge := true } })) ∧
  (∀ (rid : Nat) (r : Req) (s : State), hasRef r = false → let w := fld r.payload 0 2
    (Waits 11 1 rid r s → ∃ (t : State) (b : Bytes), exec (.powerQuery rid) s = .next t ∧ Done rid 0 b t ∧ b.length = 48 ∧ fld b 20 2 = s.pwr.cap % 2 ^ 16 ∧ t = { s with pwr := t.pwr, ledger := t.ledger, freeCtr := t.freeCtr }) ∧
    (Waits 11 2 rid r s → ((w ≠ 0 ∧ w < 250) ∨ 1100 < w → Refuses (.powerSetCap rid) rid 0x0100 s) ∧
      ((w = 0 ∨ (250 ≤ w ∧ w ≤ 1100)) → ∃ t : State, exec (.powerSetCap rid) s = .next t ∧ Done rid 0 (leBytes 2 w ++ zeros 6) t ∧ t.pwr.cap = w ∧
        t.pwr.pwr = (if s.pwr.pwr = .active ∨ s.pwr.pwr = .capped then (if w = 0 then .active else .capped) else s.pwr.pwr) ∧ t = { s with pwr := t.pwr, host := t.host, ledger := t.ledger })) ∧
    (Waits 11 3 rid r s → s.host.ifState = .ready → s.pwr.wakeLatched = false →
      (fld r.payload 0 1 ≠ 3 → Refuses (.powerSetState rid) rid 0x0100 s) ∧
      (fld r.payload 0 1 = 3 → (∃ q ∈ s.ledger.reqs, q.rid ≠ rid ∧ outstanding q = true) → Refuses (.powerSetState rid) rid 0x8000 s) ∧
      (fld r.payload 0 1 = 3 → (∀ q ∈ s.ledger.reqs, q.rid ≠ rid → outstanding q = false) → emergencyNow s = true → Refuses (.powerSetState rid) rid 0x8001 s) ∧
      (fld r.payload 0 1 = 3 → (∀ q ∈ s.ledger.reqs, q.rid ≠ rid → outstanding q = false) → emergencyNow s = false → retentionBytes s ≤ t2Free s + t2WithFlash s →
        ∃ t : State, exec (.powerSetState rid) s = .next t ∧ t.host.ifState = .bivouac ∧ t.pwr.pwr = .bivouac ∧ (∀ u ∈ t.ftl.dirty, u.thru = true) ∧ t.mem.retained = true ∧ clockPowered domMgmt t = false))) ∧
  (∀ s : State,
    (s.host.ifState = .bivouac → s.sec.latch = none → ∀ c ∈ [Instr.wake, .modWakeN 10000], ∃ t : State, exec c s = .next t ∧ t.host.ifState = .ready ∧ t.pwr.pwr = .idle ∧ t.mem.retained = false ∧
      t.ftl.dirty = s.ftl.abseilArea ++ s.ftl.dirty ∧ t.ftl.abseilArea = [] ∧ (∀ d x, tget t.clocks d = some x → x.powered = !(dieDomainLost d s)) ∧ t = { s with clocks := t.clocks, ftl := t.ftl, mem := t.mem, pwr := t.pwr, host := t.host }) ∧
    (∀ n, n < 10000 → exec (.modWakeN n) s = .next s) ∧
    (s.host.ifState = .ready → (s.pwr.pwr = .active ∨ s.pwr.pwr = .capped) → (∀ e ∈ s.ctxs.slots, hasWork e.1 s = false) →
      ∃ t : State, exec .idleEntry s = .next t ∧ t.pwr = { s.pwr with pwr := .idle } ∧ t = { s with pwr := t.pwr, host := t.host }) ∧
    (∀ cUf, s.pwr.feedA.good = true → s.pwr.feedB.good = true → flashRuns s = true → ∃ t : State, exec (.holdupMeasure cUf true) s = .next t ∧ t.pwr.bankU = 1134 * cUf / 100000 ∧
      t.ftl.dirtyLimit = min 6442450944 (6442450944 * (1134 * cUf / 100000 - 540) / 760) ∧ t.ftl.writeThrough = decide (1134 * cUf / 100000 < 600) ∧ t.ftl.dirty = s.ftl.dirty ∧ t = { s with pwr := t.pwr, ftl := t.ftl, host := t.host }) ∧
    (powered s = true → s.host.ifState = .ready →
      (∀ v, ∃ t : State, exec (.sbAlertStatWrite v) s = .next t ∧ t.pwr = { s.pwr with alertStat := s.pwr.alertStat &&& ~~~v, alert := decide ((s.pwr.alertStat &&& ~~~v).toNat &&& (s.pwr.alertMask.toNat ||| 0x18) ≠ 0) } ∧
        t = { s with pwr := t.pwr, host := t.host }) ∧
      (s.pwr.alert = true → exec .alertResponse s = .next { s with host := { s.host with gone := s.host.gone ++ [.smbus (2 * (0x58 + s.pwr.addrSel))] } }) ∧
      (∃ t : State, exec (.junctionTrip true) s = .next t ∧ t.host.ifState = .abseil ∧ t.pwr.trip = true ∧ bit t.pwr.alertStat.toNat 3 = true ∧ t.ftl = s.ftl ∧ t.mem = s.mem ∧ t.ctxs = s.ctxs) ∧
      (s.host.held.length < 256 →
        (s.pwr.coolant = false → ∃ (t : State) (e : Ev), exec (.coolantWarn true) s = .next t ∧ t.pwr.coolant = true ∧ bit t.pwr.alertStat.toNat 5 = true ∧ t.host.held = s.host.held ++ [e] ∧ e.code = 0xB04 ∧ t = { s with pwr := t.pwr, host := t.host }) ∧
        (s.pwr.emergency = false → emergencyNow s = true → ∃ (t : State) (e : Ev), exec (.emergency true) s = .next t ∧ t.pwr = { s.pwr with emergency := true } ∧ t.host.held = s.host.held ++ [e] ∧ e.code = 0xB05 ∧ t = { s with pwr := t.pwr, host := t.host }) ∧
        (∀ w, s.pwr.cap ≠ 0 → 105 * s.pwr.cap < 100 * w → ∃ (t : State) (e : Ev), exec (.capMissed w) s = .next t ∧ bit t.pwr.alertStat.toNat 7 = true ∧ t.host.held = s.host.held ++ [e] ∧ e.code = 0xB03 ∧
          e.payload = leBytes 2 s.pwr.cap ++ leBytes 2 w ∧ t = { s with pwr := t.pwr, host := t.host }) ∧
        (clockPowered 8 s = true → tget s.pwr.limKhz 8 = none → tget s.pwr.setKhz 8 = none → ∃ (t : State) (e : Ev), exec (.throttle 4 false) s = .next t ∧ tget t.pwr.limKhz 8 = some 1900000 ∧ (∃ c, tget t.clocks 8 = some c ∧ c.actual = 1900000) ∧
          t.pwr.throttled.contains 4 = true ∧ bit t.pwr.alertStat.toNat 2 = true ∧ t.host.held = s.host.held ++ [e] ∧ e.code = 0xB02 ∧ t = { s with clocks := t.clocks, pwr := t.pwr, host := t.host }))))

/-! ### The firmware array, images, components and hidden faults (17, 18) -/

/-- The firmware array: keys, programs, erases and reads. While the array takes writes: each key in its turn moves the sequence on, any other key write, any command before both keys, whose address and data are taken, and any write out of sequence locks the array with RELOCK. After both keys the command is issued and SEQ returns to 0: a program starts, or is refused, or conflicts, as R502 and R503 say; an erase sets its markers and starts, or is refused; a suspend and a resume move the erase of the named bank, or are refused; read-ID loads FA_DATA; clear-status clears the flags. The end of a program leaves its word as programmed and every other word as it was; the end of an erase leaves its bytes 0xFF, without markers, and every other byte as it was; one that fails sets VFAIL and retires the sector. A word not blocked reads as it is, with its retries recorded; one under a marker or in a busy bank reads as its status word; a read that fails every retry returns KIND 4, sets UE and is reported. A read of FA_RETRY clears the count. A fetch from a bank being erased suspends the erase. The waiting erase of a record sector starts when no other operation stands. The steps an erase has completed are free (log 122). -/
def Obligations.FirmwareArray : Prop :=
  (∀ (v addr : U32) (d w : U64) (off : Nat) (s : State), faRuns s = true →
    let a := s.fw.fa
    let put := fun (f : FaArray) => (Host.Outcome.next { s with fw := { s.fw with fa := f } } : Res)
    let lock := put { a with seq := 0, cmd := 0, relock := true }
    let n : FaArray := { a with seq := 0, cmd := 0, addr := addr }
    let b := faBank addr
    let sec := faSector addr
    let at_ := faOff b (faWord addr)
    (a.seq = 0 ∧ v = 0x5A5A0F0F → exec (.faKey1 v) s = put { a with seq := 1 }) ∧ (¬ (a.seq = 0 ∧ v = 0x5A5A0F0F) → exec (.faKey1 v) s = lock) ∧
    (a.seq = 1 ∧ v = 0xA5A5F0F0 → exec (.faKey2 v) s = put { a with seq := 2 }) ∧ (¬ (a.seq = 1 ∧ v = 0xA5A5F0F0) → exec (.faKey2 v) s = lock) ∧
    (a.seq ≠ 2 → exec (.faProgram addr d) s = put { a with seq := 0, cmd := 0, relock := true, addr := addr, data := d } ∧
      ∀ c ∈ [Instr.faSectorErase addr, .faBankErase addr, .faSuspend addr, .faResume addr, .faReadId addr, .faClearStatus addr], exec c s = put { a with seq := 0, cmd := 0, relock := true, addr := addr }) ∧
    (∃ t : State, exec (.faRelock off w) s = .next t ∧ t.fw.fa.seq = 0 ∧ t.fw.fa.relock = true ∧ t.fw.fa.mem = a.mem ∧ t.fw.fa.words = a.words ∧ t.fw.fa.busy = a.busy ∧ t.fw.fa.susp = a.susp ∧
      t.fw.fa.eopen = a.eopen ∧ t = { s with fw := { s.fw with fa := t.fw.fa } }) ∧
    (a.seq = 2 →
      (a.busy = none → faOpen b sec s = false → a.vfail = false →
        (faTimes at_ s = 0 ∨ (faTimes at_ s = 1 ∧ d.toNat &&& faWordAt at_ s = d.toNat) → exec (.faProgram addr d) s = put { n with data := d, busy := some ⟨1, b, faWord addr, d, 0⟩ }) ∧
        (2 ≤ faTimes at_ s ∨ (faTimes at_ s = 1 ∧ d.toNat &&& faWordAt at_ s ≠ d.toNat) → exec (.faProgram addr d) s = put { n with data := d, conflict := true })) ∧
      (a.busy ≠ none ∨ faOpen b sec s = true ∨ a.vfail = true → exec (.faProgram addr d) s = put { n with data := d, refused := true }) ∧
      (a.busy = none → a.susp = none → a.vfail = false →
        (∃ l : List Nat, exec (.faSectorErase addr) s = put { n with busy := some ⟨2, b, sec, 0, 0⟩, eopen := l } ∧ ∀ m, m ∈ l ↔ m ∈ a.eopen ∨ m = 512 * b + sec) ∧
        (∃ l : List Nat, exec (.faBankErase addr) s = put { n with busy := some ⟨3, b, 0, 0, 0⟩, eopen := l } ∧ ∀ m, m ∈ l ↔ m ∈ a.eopen ∨ (512 * b ≤ m ∧ m < 512 * b + 512))) ∧
      (a.busy ≠ none ∨ a.susp ≠ none ∨ a.vfail = true → ∀ c ∈ [Instr.faSectorErase addr, .faBankErase addr], exec c s = put { n with refused := true }) ∧
      (∀ o, a.busy = some o → 2 ≤ o.op → o.bank = b → ∃ (t : State) (p : Nat), exec (.faSuspend addr) s = .next t ∧ o.progress ≤ p ∧
        t = { s with fw := { s.fw with fa := { n with susp := some { o with progress := p }, busy := none } }, freeCtr := t.freeCtr }) ∧
      ((∀ o, a.busy = some o → ¬ (2 ≤ o.op ∧ o.bank = b)) → exec (.faSuspend addr) s = put { n with refused := true }) ∧
      (∀ o, a.susp = some o → 2 ≤ o.op → o.bank = b → a.busy = none → exec (.faResume addr) s = put { n with busy := some o, susp := none }) ∧
      (a.busy ≠ none ∨ (∀ o, a.susp = some o → ¬ (2 ≤ o.op ∧ o.bank = b)) → exec (.faResume addr) s = put { n with refused := true }) ∧
      exec (.faReadId addr) s = put { n with data := BitVec.ofNat 64 (0x1A7D + 26 * 2 ^ 16 + a.rev % 256 * 2 ^ 24 + a.dieSerial % 2 ^ 32 * 2 ^ 32) } ∧
      exec (.faClearStatus addr) s = put { n with done := false, conflict := false, refused := false, relock := false, ue := false, vfail := false })) ∧
  (∀ (o : FaOp) (s : State), faRuns s = true → s.fw.fa.busy = some o →
    let lo := if o.op = 3 then o.bank * 0x2000000 else o.bank * 0x2000000 + o.at_ * 65536
    let len := if o.op = 3 then 0x2000000 else 65536
    let at_ := faOff o.bank o.at_
    (o.op = 1 → ∃ t : State, exec (.faOperationDone true) s = .next t ∧ faWordAt at_ t = o.data.toNat ∧ faTimes at_ t = faTimes at_ s + 1 ∧
      (∀ k, k % 8 = 0 → k ≠ at_ → faWordAt k t = faWordAt k s ∧ faTimes k t = faTimes k s) ∧
      t = { s with fw := { s.fw with fa := { s.fw.fa with mem := t.fw.fa.mem, words := t.fw.fa.words, busy := none, done := true } } }) ∧
    (2 ≤ o.op → ∃ t : State, exec (.faOperationDone true) s = .next t ∧ (∀ k, lo ≤ k → k < lo + len → Memory.read 0xFF t.fw.fa.mem k = 0xFF ∧ faTimes (k / 8 * 8) t = 0) ∧
      (∀ k, k < lo ∨ lo + len ≤ k → Memory.read 0xFF t.fw.fa.mem k = Memory.read 0xFF s.fw.fa.mem k) ∧ (∀ m, m ∈ t.fw.fa.eopen ↔ m ∈ s.fw.fa.eopen ∧ ¬ (lo ≤ 65536 * m ∧ 65536 * m < lo + len)) ∧
      t = { s with fw := { s.fw with fa := { s.fw.fa with mem := t.fw.fa.mem, words := t.fw.fa.words, eopen := t.fw.fa.eopen, busy := none, done := true } } }) ∧
    (∃ t : State, exec (.faOperationDone false) s = .next t ∧ t.fw.fa.busy = none ∧ t.fw.fa.done = true ∧ t.fw.fa.vfail = true ∧ t.fw.fa.eopen = s.fw.fa.eopen ∧
      (if o.op = 1 then at_ / 65536 else lo / 65536) ∈ t.fw.sectorsOut ∧ t = { s with fw := t.fw, freeCtr := t.freeCtr })) ∧
  (∀ (off f : Nat) (s : State), faRuns s = true → off < 0x4000000 → off % 8 = 0 →
    let bank := off / 0x2000000
    let sec := off % 0x2000000 / 65536
    (s.fw.fa.busy = none → faOpen bank sec s = false → faTimes off s ≠ 0 →
      exec (.faRead off 0) s = .next { s with host := { s.host with lastRead := BitVec.ofNat 64 (faWordAt off s) }, freeCtr := s.freeCtr + 1 } ∧
      (1 ≤ f → f < 8 → ∃ t : State, exec (.faRead off f) s = .next t ∧ t.host.lastRead = BitVec.ofNat 64 (faWordAt off s) ∧ t.fw.fa.tries = f ∧
        t.fw.fa.step = [0, 1, -1, 2, -2, 3, -3].getD (f - 1) 0 ∧ t.fw.fa.count = min (s.fw.fa.count + 1) 0xFFFF ∧ t.fw.fa.ue = s.fw.fa.ue ∧
        t = { s with host := { s.host with lastRead := t.host.lastRead }, fw := t.fw, freeCtr := t.freeCtr }) ∧
      (8 ≤ f → s.host.held.length < 256 → ∃ (t : State) (e : Ev), exec (.faRead off f) s = .next t ∧ t.host.lastRead = BitVec.ofNat 64 (4 * 2 ^ 16 + bank * 2 ^ 31 + sec * 2 ^ 32) ∧ t.fw.fa.ue = true ∧
        t.host.held = s.host.held ++ [e] ∧ e.code = 0x1E ∧ e.payload = leBytes 4 off)) ∧
    (s.fw.fa.busy = none → faOpen bank sec s = true → exec (.faRead off f) s = .next { s with host := { s.host with lastRead := BitVec.ofNat 64 (3 * 2 ^ 16 + bank * 2 ^ 31 + sec * 2 ^ 32) } }) ∧
    (∀ o, s.fw.fa.busy = some o → o.bank = bank → o.op = 1 →
      exec (.faRead off f) s = .next { s with host := { s.host with lastRead := BitVec.ofNat 64 (2 ^ 16 + bank * 2 ^ 31 + o.at_ / 8192 * 2 ^ 32) } } ∧ exec (.busyFetchTrap off) s = .next s) ∧
    (∀ o, s.fw.fa.busy = some o → o.bank = bank → 2 ≤ o.op → ∃ (t : State) (p : Nat), exec (.busyFetchTrap off) s = .next t ∧ o.progress ≤ p ∧ t.fw.fa.susp = some { o with progress := p } ∧ t.fw.fa.busy = none ∧
      t = { s with fw := { s.fw with fa := { s.fw.fa with susp := t.fw.fa.susp, busy := none } }, freeCtr := t.freeCtr }) ∧
    exec .faRetryRead s = .next { s with
      host := { s.host with lastRead := BitVec.ofNat 64 (s.fw.fa.tries + (s.fw.fa.step % 16).toNat * 16 + s.fw.fa.count * 65536) }, fw := { s.fw with fa := { s.fw.fa with count := 0 } } }) ∧
  (∀ (j : Nat) (s : State), faRuns s = true → s.fw.recErase.contains j = true → s.fw.fa.busy = none → s.fw.fa.susp = none → s.fw.fa.vfail = false →
    ∃ t : State, exec (.recordSectorErase j) s = .next t ∧ t.fw.fa.busy = some ⟨2, 1 - tgetD s.fw.recCur j 0, 384 + j, 0, 0⟩ ∧ t.fw.recErase = s.fw.recErase.erase j ∧
      (512 * (1 - tgetD s.fw.recCur j 0) + (384 + j)) ∈ t.fw.fa.eopen ∧ t.fw.fa.mem = s.fw.fa.mem ∧ t = { s with fw := t.fw })

/-- Images, activations, components and the faults that are hidden. QUERY replies. STAGE of an image in control-node memory that is good and whose version is at least the fuse's is taken up: the inactive slot is staging, with the image and what its header says; it ends with its errors otherwise, in their order. ACTIVATE of the inactive valid slot at the quiet point begins the handover; it only selects the slot with SELECT_ONLY, is deferred in an emergency, and ends with its errors, in their order. INVALIDATE marks a slot invalid. A pending activation whose image is good begins the handover when no emergency stands, else it fails with its event. The end of the handover, in a cycle in which nothing else is due, leads to READY with the image running on the other processor, the fuse raised where asked, and the reply. A component restarted is counted, its SRAM regions hold no stored error any more, its requests are redone, and it is held stopped at its fourth restart within 60 s. The standby begins to take over from a failed processor, at once during a scrub, or the module enters the safe state without one; the end of the takeover leaves it running; a standby becomes ready. A prep core retired, and a compute die lost by itself or by its rail, leave the capability tables; the die's clocks are off. The rail of the HBM takes every T1 copy, that of the hub or AON every clock. The safe state ends every request, leaves nothing dirty, and powers the management domain down. -/
def Obligations.FirmwareAndHiding : Prop :=
  (∀ (rid found us : Nat) (image : Bytes) (sigOk : Bool) (r : Req) (s : State), hasRef r = false →
    let n := fld r.payload 1 1
    let f := refAt r.payload 0
    let b := image.take f.len
    let act := Instr.fwupActivate rid found us
    let stage := Instr.fwupStage rid ⟨image, sigOk⟩
    let busy := s.fw.staging ≠ none ∨ s.fw.pending ≠ none
    let good := Waits 12 3 rid r s ∧ fld r.payload 0 1 < 4 ∧ fld r.payload 2 6 = 0 ∧ n ≤ 1
    let fine := good ∧ n = 1 - s.fw.running ∧ (imgSlotOf n s).state = 2
    (Waits 12 1 rid r s → fld r.payload 0 8 = 0 → ∃ t : State, exec (.fwupQuery rid) s = .next t ∧ Done rid 0 (fwupReply s) t ∧ OnlyLedger s t) ∧
    (Waits 12 2 rid r s → refReads f = true → f.space = 1 → 2724 ≤ f.len → f.len ≤ 25165824 → fld r.payload 16 8 = 0 →
      (image.length < f.len → Refuses stage rid 0x0102 s) ∧
      (f.len ≤ image.length →
        (busy → Refuses stage rid 0x8002 s) ∧ (¬ busy → headerGood b f.len = false ∨ sigOk = false → Refuses stage rid 0x8000 s) ∧
        (¬ busy → headerGood b f.len = true → sigOk = true → fld b 18 1 < s.fw.fuseSvn → Refuses stage rid 0x8001 s) ∧
        (¬ busy → headerGood b f.len = true → sigOk = true → s.fw.fuseSvn ≤ fld b 18 1 → ∃ t : State, exec stage s = .next t ∧ TakenUp rid t ∧
          t.fw.staging = some ⟨rid, 1 - s.fw.running, imageSlot (1 - s.fw.running) b, b, false, 0⟩ ∧ imgSlotOf (1 - s.fw.running) t = { ImgSlot.empty with state := 1 } ∧
          (s.fw.running ≤ 1 → imgSlotOf s.fw.running t = imgSlotOf s.fw.running s) ∧ t.fw.running = s.fw.running ∧ t.fw.bootSel = s.fw.bootSel ∧
          t = { s with fw := t.fw, ledger := t.ledger, freeCtr := t.freeCtr, host := { s.host with out := s.host.out ++ [.ctlRead r.mbx f.addr f.len] } }))) ∧
    (good → n ≠ 1 - s.fw.running ∨ (imgSlotOf n s).state ≠ 2 → Refuses act rid 0x8004 s) ∧
    (fine → busy → Refuses act rid 0x8002 s) ∧
    (fine → ¬ busy →
      (bit (fld r.payload 0 1) 1 = true → ∃ (t : State) (b : Bytes), exec act s = .next t ∧ Done rid 0 b t ∧ t.fw.bootSel = n ∧ t.fw.running = s.fw.running ∧ t = { s with fw := t.fw, ledger := t.ledger, freeCtr := t.freeCtr }) ∧
      (bit (fld r.payload 0 1) 1 = false → s.fw.standbyOk = false → Refuses act rid 0x8003 s) ∧
      (bit (fld r.payload 0 1) 1 = false → s.fw.standbyOk = true →
        (emergencyNow s = true → ∃ t : State, exec act s = .next t ∧ Done rid 2 [] t ∧ t.fw = { s.fw with pending := some ⟨none, bit (fld r.payload 0 1) 0, none⟩ } ∧ t = { s with fw := t.fw, ledger := t.ledger }) ∧
        (emergencyNow s = false → newImage found s ≠ 0 → ∃ t : State, exec act s = .next t ∧ Done rid 0x8000 [] t ∧ t = { s with host := t.host, ledger := t.ledger }) ∧
        (emergencyNow s = false → newImage found s = 0 → quiet s = true → ∃ t : State, exec act s = .next t ∧ TakenUp rid t ∧ t.host.ifState = .handover ∧
          t.host.hand = some (.activation (some rid) (bit (fld r.payload 0 1) 0) us) ∧ t = { s with host := t.host, ledger := t.ledger }))) ∧
    (Waits 12 4 rid r s → fld r.payload 1 7 = 0 → (fld r.payload 0 1 = s.fw.running → s.fw.running ≤ 1 → Refuses (.fwupInvalidate rid) rid 0x8004 s) ∧
      (fld r.payload 0 1 ≤ 1 → fld r.payload 0 1 ≠ s.fw.running → s.fw.pending ≠ none → Refuses (.fwupInvalidate rid) rid 0x8002 s) ∧
      (fld r.payload 0 1 ≤ 1 → fld r.payload 0 1 ≠ s.fw.running → s.fw.pending = none → ∃ t : State, exec (.fwupInvalidate rid) s = .next t ∧ Done rid 0 [] t ∧
        imgSlotOf (fld r.payload 0 1) t = { imgSlotOf (fld r.payload 0 1) s with state := 3 } ∧ t = { s with fw := t.fw, ledger := t.ledger, freeCtr := t.freeCtr }))) ∧
  (∀ (found us : Nat) (raise : Bool) (s : State), s.fw.pending = some ⟨none, raise, none⟩ → emergencyNow s = false → quiet s = true → s.fw.standbyOk = true →
    (newImage found s = 0 → ∃ t : State, exec (.pendingActivation found us) s = .next t ∧ t.fw = { s.fw with pending := none } ∧ t.host.ifState = .handover ∧ t.host.hand = some (.activation none raise us) ∧ t = { s with fw := t.fw, host := t.host }) ∧
    (newImage found s ≠ 0 → s.host.held.length < 256 → ∃ (t : State) (e : Ev), exec (.pendingActivation found us) s = .next t ∧ t.fw = { s.fw with pending := none } ∧ t.host.held = s.host.held ++ [e] ∧ e.code = 0xC01 ∧
      e.payload = leBytes 1 (newImage found s - 1) ∧ t = { s with fw := t.fw, host := t.host })) ∧
  (∀ (h : Hand) (s : State), s.pending = [] → s.host.ifState = .handover → s.host.hand = some h → Uneventful { s with host := { s.host with ifState := .ready } } →
    (∀ rid raise us, h = .activation (some rid) raise us → live rid s = true → s.fw.running ≤ 1 →
      let n := 1 - s.fw.running
      ∃ t : State, step s = .next t ∧ t.host.ifState = .ready ∧ t.fw.running = n ∧ t.fw.bootSel = n ∧ t.fw.ifver = (imgSlotOf n s).ifver ∧ t.fw.belay = 1 - s.fw.belay ∧ t.fw.standbyOk = false ∧ t.fw.compDown = [] ∧
        t.fw.fuseSvn = (if raise then max s.fw.fuseSvn (imgSlotOf n s).svn else s.fw.fuseSvn) ∧ ∃ (q : Req) (st : Nat), findReq rid t = some q ∧ st ≤ 1 ∧
        q.done = some (st, leBytes 1 n ++ leBytes 1 t.fw.fuseSvn ++ leBytes 2 t.fw.ifver ++ leBytes 4 t.fw.belayVer ++ leBytes 4 us ++ zeros 4)) ∧
    (∀ old cause ok, h = .takeover old cause ok → ∃ t : State, step s = .next t ∧ t.host.ifState = .ready ∧ t.fw.belay = 1 - old ∧ t.fw.takeovers = s.fw.takeovers + 1 ∧ t.fw.running = s.fw.running ∧ (ok = false → old ∈ t.caps.belayFailed) ∧
      t.mem = s.mem ∧ t.ftl = s.ftl)) ∧
  (∀ (c cause : Nat) (g : List (Nat × Nat)) (s : State), runtimeRuns s.host.ifState = true → s.fw.compDown.contains c = false → (1 ≤ c ∧ c ≤ 8) ∨ (0x10 ≤ c ∧ c ≤ 0x13) →
    let l := recentRestarts c s ++ [clockNow domAon s]
    ∃ t : State, exec (.componentRestart c cause g) s = .next t ∧ t.fw = { s.fw with restarts := s.fw.restarts + 1, compTimes := tset s.fw.compTimes c l, compDown := if 4 ≤ l.length then s.fw.compDown ++ [c] else s.fw.compDown } ∧
      (∀ r ∈ s.ledger.reqs, l.length < 4 → r.running = true → r.done = none → r.settled = none → svcComponent r.svc = c → { r with redone := true } ∈ t.ledger.reqs) ∧
      (∀ e ∈ (eccOf 345 t).errs, ∀ x ∈ g, ¬ (x.1 ≤ e.1 ∧ e.1 + 8 ≤ x.1 + x.2)) ∧ (∀ e ∈ (eccOf 345 s).errs, (∀ x ∈ g, e.1 + 8 ≤ x.1 ∨ x.1 + x.2 ≤ e.1) → e ∈ (eccOf 345 t).errs) ∧
      (∀ k, k ≠ 345 → eccOf k t = eccOf k s) ∧ t = { s with fw := t.fw, host := t.host, ledger := t.ledger, ecc := t.ecc }) ∧
  (∀ (cause : Nat) (ok : Bool) (s : State), runtimeRuns s.host.ifState = true → s.host.ifState ≠ .abseil → s.host.hand = none →
    (s.fw.standbyOk = true → s.host.ifState = .ready → ∃ t : State, exec (.belayTakeover cause ok) s = .next t ∧ t.host.ifState = .handover ∧ t.host.hand = some (.takeover s.fw.belay cause ok) ∧ t.fw.standbyOk = false ∧
      t.fw.fa.seq = 0 ∧ t.fw.pending = none ∧ t.fw.belay = s.fw.belay ∧ t = { s with fw := t.fw, host := t.host, ledger := t.ledger }) ∧
    (s.fw.standbyOk = true → s.host.ifState = .scrub → ∃ t : State, exec (.belayTakeover cause ok) s = .next t ∧ t.fw.belay = 1 - s.fw.belay ∧ t.fw.standbyOk = false ∧ t.fw.takeovers = s.fw.takeovers + 1 ∧ t.fw.fa.seq = 0 ∧ t.fw.pending = none ∧
      t.fw.running = s.fw.running ∧ (ok = false → s.fw.belay ∈ t.caps.belayFailed) ∧ t.host.ifState = .scrub ∧ t.mem = s.mem ∧ t.ftl = s.ftl ∧ t.ctxs = s.ctxs) ∧
    (s.fw.standbyOk = false → powered s = true → ∃ t : State, exec (.belayTakeover cause ok) s = .next t ∧ t.host.ifState = .safe) ∧
    (s.caps.belayFailed.contains (1 - s.fw.belay) = false → ∃ t : State, exec .standbyReady s = .next t ∧ t.fw = { s.fw with standbyOk := true } ∧ t = { s with fw := t.fw, host := t.host })) ∧
  (∀ (u : Nat) (bad : List Nat) (s : State), runtimeRuns s.host.ifState = true → s.caps.coreMap.contains u = true → ∃ t : State, exec (.prepCoreRetire u bad) s = .next t ∧
    t.caps.coreMap = s.caps.coreMap.filter (fun p => decide (p ≠ u)) ∧ t.caps.coreFailed = s.caps.coreFailed ++ [u] ∧ t.caps.engMap = s.caps.engMap ∧ t.caps.dieMap = s.caps.dieMap) ∧
  (∀ (d : Nat) (s : State) (c : Instr), runtimeRuns s.host.ifState = true → s.caps.dieMap.contains d = true → c = .dieLost d ∨ (c = .railFault (d + 1) ∧ d < 4 ∧ powered s = true) → ∃ t : State, exec c s = .next t ∧
    t.caps.dieMap = s.caps.dieMap.filter (fun x => decide (x ≠ d)) ∧ d ∈ t.caps.dieFailed ∧ t.caps.engMap = s.caps.engMap.filter (fun e => decide (e / 20 ≠ d)) ∧
    t.caps.coreMap = s.caps.coreMap.filter (fun u => decide (u / 64 ≠ d)) ∧ (∀ k y, k = d ∨ k = 4 + d → tget t.clocks k = some y → y.powered = false)) ∧
  (∀ s : State, powered s = true →
    (∃ t : State, exec (.railFault 6) s = .next t ∧ t.caps.hbmKhz = List.replicate 8 0 ∧ ∀ p q, pageGet p t = some q → q.kind ≠ .lost → q.t1 = none) ∧
    (∀ k, k = 5 ∨ k = 10 → ∃ t : State, exec (.railFault k) s = .next t ∧ t.pwr.pwr = .off ∧ t.ftl = s.ftl ∧ t.fw = s.fw ∧ ∀ d c, tget t.clocks d = some c → c.powered = false) ∧
    (s.host.ifState = .ready → ∃ t : State, exec .safeState s = .next t ∧ t.host.ifState = .safe ∧ t.ledger.reqs = [] ∧ t.ftl.dirty = [] ∧ t.ftl.shutdown ≠ none ∧ t.pwr.pwr = .bivouac ∧ bit t.pwr.alertStat.toNat 4 = true ∧
      clockPowered domMgmt t = false))

/-! ### Resets, boot and clock changes (01, 02, 10, 16, 17) -/

/-- Resets, the boot, the end of an Abseil, frequency changes and FIFO faults. A power-on reset starts the boot with every event, mailbox and reset register at its reset value, every counter at 0, no request, and of the quarantine causes TAMPER alone. A warm reset in READY ends every request, writes the dirty data, and leads to RESET with the same registers reset, RST_STAT busy where RST_CTRL asked for it, the counters and the retirements kept; it is held during a scrub or a handover and ignored in Abseil, Tripped and RESET. MOD_RESET_N does the same but for RST_STAT when it lasts long enough, held or not, and its release starts the boot. The boot goes on from RESET and shows its step; as a whole, with a good image, it leads to READY with that image running and the reset complete, falls back to the other slot, or ends in the safe state where neither passes. The end of an Abseil leads to Off, to Tripped after a trip, or to the boot. A frequency setting changes its domain alone, the rate table follows, and a FIFO fault is reported for its crossing, its work redone or ended. -/
def Obligations.ResetAndBoot : Prop :=
  (∀ s : State, s.pwr.pwr = .off → s.pwr.feedA.good = true ∨ s.pwr.feedB.good = true → ∃ t : State, exec .powerOnReset s = .next t ∧
    t.host = { HostIf.init with rstLast := 0, gone := t.host.gone, lastRead := t.host.lastRead, ifState := .boot, bootStep := 1 } ∧ (∀ d c, tget t.clocks d = some c → c.counter = 0) ∧ t.ledger.reqs = [] ∧
    t.sec.causes = (if bit s.sec.causes 1 then 2 else 0) ∧ t.caps = s.caps ∧ t.ports.serials = [] ∧ t.fw.takeovers = 0 ∧ t.fw.restarts = 0 ∧ t.fw.slotA = s.fw.slotA ∧ t.fw.slotB = s.fw.slotB ∧ t.pending = s.pending) ∧
  (∀ (n : Nat) (cool : Bool) (s : State), powered s = true → 10000 ≤ n →
    (s.host.ifState = .ready → ∀ c b, (c = .warmReset ∧ b = some 1) ∨ (c = .modResetN n false cool ∧ b = if s.host.rstBusy = some 1 then some 1 else none) → ∃ t : State, exec c s = .next t ∧
      t.host = { HostIf.init with rstLast := s.host.rstLast, rstBusy := b, rstWarm := true, gone := t.host.gone, lastRead := t.host.lastRead, ifState := .reset, bootStep := 0 } ∧
      (∀ d x, tget s.clocks d = some x → ∃ y : Clock, tget t.clocks d = some y ∧ y.counter = x.counter ∧ y.current = x.nominal) ∧ t.ledger.reqs = [] ∧ t.caps = s.caps ∧ t.ftl.dirty = [] ∧ t.mem.keySlots = [] ∧
      t.sec.causes = s.sec.causes ∧ t.fw.slotA = s.fw.slotA ∧ t.fw.slotB = s.fw.slotB ∧ t.pending = s.pending) ∧
    (s.host.ifState = .ready → ∃ t : State, exec (.modResetN n true cool) s = .next t ∧ t.host.ifState = .reset ∧ t.pwr.resetHeld = true ∧ t.ledger.reqs = []) ∧
    (s.host.ifState = .scrub ∨ s.host.ifState = .handover → exec .warmReset s = .next { s with host := { s.host with warmHeld := true, rstBusy := some 1, rstWarm := true } }) ∧
    (s.host.ifState = .scrub ∨ s.host.ifState = .handover → exec (.modResetN n false cool) s = .next { s with host := { s.host with warmHeld := true, rstWarm := true } }) ∧
    (s.host.ifState = .abseil ∨ s.host.ifState = .reset → ∀ c ∈ [Instr.warmReset, .modResetN n false cool], exec c s = .next s) ∧
    (s.host.ifState = .tripped → exec .warmReset s = .next s ∧ exec (.modResetN n false false) s = .next s ∧
      ∃ t : State, exec (.modResetN n false true) s = .next t ∧ t.host.ifState = .boot ∧ t.host.rstLast = s.host.rstLast ∧ t.host.rstWarm = true ∧ t.pwr.trip = false) ∧
    (s.host.ifState = .reset → s.pwr.resetHeld = true → exec .modResetNRelease s = .next { s with pwr := { s.pwr with resetHeld := false }, host := { s.host with ifState := .boot, bootStep := 1, bootFell := none } })) ∧
  (∀ (n : Nat) (h cool : Bool) (s : State), n < 10000 → exec (.modResetN n h cool) s = .next s) ∧
  (∀ (r : BootReport) (s : State), r.till = 1 → (s.host.ifState = .boot → s.host.bootStep = 1 → exec (.boot r) s = .next { s with host := { s.host with bootStep := 2 } }) ∧
    (s.host.ifState = .reset → s.pwr.resetHeld = false → exec (.boot r) s = .next { s with host := { s.host with ifState := .boot, bootStep := 2, bootFell := none } })) ∧
  (∀ (r : BootReport) (s : State), s.host.ifState = .boot → s.host.bootStep = 1 → 6 ≤ r.till → powered s = true → s.fw.bootSel ≤ 1 →
    let sel := s.fw.bootSel
    let v := fun n => if n = 0 then r.slotA else r.slotB
    let pass := fun n => v n = 0 ∧ (imgSlotOf n s).state = 2 ∧ s.fw.fuseSvn ≤ (imgSlotOf n s).svn
    let runs := r.bp0Ok = true ∧ s.caps.belayFailed = []
    let up := fun (n : Nat) (t : State) => t.host.ifState = .ready ∧ t.host.bootStep = 0 ∧ t.host.rstBusy = (if s.host.rstBusy = some 1 then none else s.host.rstBusy) ∧ t.host.rstWarm = false ∧ t.host.rstLast = (if s.host.rstWarm then 1 else s.host.rstLast) ∧
      t.fw.running = n ∧ t.fw.ifver = (imgSlotOf n s).ifver ∧ t.fw.belay = 0 ∧ t.fw.standbyOk = false ∧ t.fw.fa.eopen = [] ∧ (t.pwr.pwr = .active ∨ t.pwr.pwr = .capped)
    (pass sel → runs → ∃ t : State, exec (.boot r) s = .next t ∧ up sel t ∧ t.fw.bootSel = sel) ∧
    (¬ pass sel → pass (1 - sel) → runs → ∃ t : State, exec (.boot r) s = .next t ∧ up (1 - sel) t ∧ t.fw.bootSel = 1 - sel ∧ (imgSlotOf sel t).state = 3) ∧
    (¬ pass sel → ¬ pass (1 - sel) → ∃ t : State, exec (.boot r) s = .next t ∧ t.host.ifState = .safe)) ∧
  (∀ (ok : Bool) (ms : Nat) (s : State), s.host.ifState = .abseil → powered s = true →
    (s.pwr.feedA.good = false → s.pwr.feedB.good = false → ∃ t : State, exec (.abseil ok ms) s = .next t ∧ t.pwr.pwr = .off ∧ t.ledger.reqs = [] ∧ t.ftl.dirty = [] ∧ ∀ d c, tget t.clocks d = some c → c.powered = false) ∧
    (s.pwr.feedA.good = true ∨ s.pwr.feedB.good = true → s.pwr.trip = true → ∃ t : State, exec (.abseil ok ms) s = .next t ∧ t.host.ifState = .tripped ∧ t.pwr.pwr = .tripped ∧ t.ledger.reqs = [] ∧ t.ftl.dirty = []) ∧
    (s.pwr.feedA.good = true ∨ s.pwr.feedB.good = true → s.pwr.trip = false → ∃ t : State, exec (.abseil ok ms) s = .next t ∧ t.host.ifState = .boot ∧ rstStat t = 0 ∧ t.ledger.reqs = [] ∧ ∀ d c, tget t.clocks d = some c → c.counter = 0)) ∧
  (∀ (d khz : Nat) (c : Clock) (s : State), tget s.clocks d = some c →
    (isFreqStep d khz = true → c.powered = true → s.pwr.pwr = .active → exec (.freqChange d khz) s = .next { s with
      pwr := { s.pwr with setKhz := tset s.pwr.setKhz d khz }, clocks := tset s.clocks d { c with actual := min khz (tgetD s.pwr.limKhz d (nominalKhz d)) } }) ∧
    exec (.currentFreqUpdate d) s = .next { s with clocks := tset s.clocks d { c with current := c.actual } }) ∧
  (∀ (src dst idx : Nat) (u : Bool) (s : State), (crossingDepth src dst).isSome = true → idx < crossingFifos src dst → clockPowered src s = true → clockPowered dst s = true → s.host.held.length < 256 →
    let told := fun (t : State) => ∃ e : Ev, t.host.held = s.host.held ++ [e] ∧ e.code = 3 ∧ e.payload = leBytes 1 src ++ leBytes 1 dst ++ leBytes 2 idx ++ leBytes 1 (b2n u)
    (∀ p, ∃ t : State, exec (.syncFifoFault src dst idx u (.qorgal p)) s = .next t ∧ told t ∧ t.host.out = s.host.out ++ [.response p 2 []] ∧ t = { s with host := t.host }) ∧
    (∀ rid, ∃ t : State, exec (.syncFifoFault src dst idx u (.service rid)) s = .next t ∧ told t ∧ t = { s with host := t.host, ledger := t.ledger } ∧
      ∀ r ∈ s.ledger.reqs, r.rid = rid → r.running = true → r.done = none → r.settled = none → { r with redone := true } ∈ t.ledger.reqs) ∧
    (∀ e, engOn e s = true → ∃ t : State, exec (.syncFifoFault src dst idx u (.dma e)) s = .next t ∧ bit (engOf e t).dma.fault.toNat 0 = true ∧ ringOn (engOf e t).dma = false ∧ t = { s with eng := t.eng, host := t.host }))

/-! ### Administration and cairns (02, 13, 18) -/

/-- Administration requests and cairns. IDENTIFY, READ_COUNTERS of known domains, PORT_QUERY and NOP reply and change nothing else; the counters read rounded down to 4,096 cycles for a tenant or while one is admitted. IDENTIFY_CAPS writes the table through its reference, or ends with NO_SPACE where the buffer is too short. A CANCEL that finds no other outstanding request of its tag ends with INVALID_FIELD. A ROPE_SET out of range, without this module's serial at its position, or with a repeated serial ends with INVALID_FIELD; one of the ring in force changes nothing else (the model's choice of log 127), another one takes the ring and raises the generation by one. PORT_CTRL replies with the resulting TRAIN: a disabled port is out, an enabled one detects, and the last path cannot be disabled by what it carries. MIRROR_ADOPT of a lost module adopts its one copy of the model's digest as a paused session, or skips one of another digest, and ends with its errors. A cairn named is replied, listed in ascending order, and removed unless it is open; an unknown one ends with NO_CAIRN. -/
def Obligations.AdminAndCairns : Prop :=
  (∀ (rid : Nat) (r : Req) (s : State),
    (Waits 1 1 rid r s → ∃ t : State, exec (.adminIdentify rid) s = .next t ∧ Done rid 0 (ascii "EZQ940-F" ++ s.sec.serial ++ leBytes 2 s.fw.ifver ++ zeros 2 ++ leBytes 4 s.fw.belayVer ++ leBytes 4 s.fw.basecampVer
      ++ leBytes 4 s.caps.generation.toNat ++ zeros 24) t ∧ OnlyLedger s t) ∧
    (Waits 1 2 rid r s → hasRef r = true → r.length = 16 → refWrites (refAt r.payload 0) = true → (refAt r.payload 0).space = 1 → r.refsOpen = true → LinkFree r.mbx s →
      let f := refAt r.payload 0
      let tab := capTable s
      (f.len < tab.length → ∃ t : State, exec (.adminIdentifyCaps rid) s = .next t ∧ Done rid 0x0200 (leBytes 4 s.caps.generation.toNat ++ leBytes 4 tab.length) t ∧ OnlyLedger s t) ∧
      (tab.length ≤ f.len → ∃ t : State, exec (.adminIdentifyCaps rid) s = .next t ∧ Done rid 0 (leBytes 4 s.caps.generation.toNat ++ leBytes 4 tab.length) t ∧
        t.host.out = s.host.out ++ [.ctlWrite r.mbx f.addr tab] ∧ t = { s with host := { s.host with out := t.host.out }, ports := t.ports, ledger := t.ledger })) ∧
    (Waits 1 3 rid r s → hasRef r = false → let n := fld r.payload 0 1
      let ids := (List.range n).map fun k => fld r.payload (8 + k) 1
      (n = 0 ∨ 32 < n ∨ r.length < 8 + n ∨ (∃ d ∈ ids, d ∉ domainIds) → Refuses (.adminReadCounters rid) rid 0x0100 s) ∧
      (1 ≤ n → n ≤ 32 → 8 + n ≤ r.length → (∀ d ∈ ids, d ∈ domainIds) → ∃ t : State, exec (.adminReadCounters rid) s = .next t ∧ OnlyLedger s t ∧
        Done rid 0 (leBytes 1 n ++ zeros 3 ++ leBytes 4 (bitsMask ((List.range n).filter fun k => !(clockPowered (ids.getD k 0) s))) ++ ids.flatMap fun d =>
          leBytes 8 (if r.mbx ≠ 0 ∨ tenantAdmitted s = true then clockNow d s / 4096 * 4096 else clockNow d s)) t)) ∧
    (Waits 1 4 rid r s → (∀ q ∈ s.ledger.reqs, q.mbx = r.mbx → q.rid ≠ rid → q.tag = fld r.payload 0 2 → q.settled ≠ none ∨ q.done ≠ none) → Refuses (.adminCancel rid) rid 0x0100 s) ∧
    (Waits 1 5 rid r s → ∃ t : State, exec (.adminNop rid) s = .next t ∧ Done rid 0 [] t ∧ OnlyLedger s t) ∧
    (Waits 1 6 rid r s → hasRef r = false → let n := fld r.payload 0 1
      let pos := fld r.payload 1 1
      let ring := (List.range n).map fun i => sub r.payload (8 + 16 * i) 16
      (n = 0 ∨ 16 < n ∨ r.length < 8 + 16 * n ∨ ring.getD pos [] ≠ s.sec.serial ∨ ¬ ring.Nodup → Refuses (.adminRopeSet rid) rid 0x0100 s) ∧
      (1 ≤ n → n ≤ 16 → 8 + 16 * n ≤ r.length → ring.getD pos [] = s.sec.serial → ring.Nodup →
        (pos = s.ports.pos → ring = s.ports.serials → ∃ t : State, exec (.adminRopeSet rid) s = .next t ∧ Done rid 0 [] t ∧ OnlyLedger s t) ∧
        (¬ (pos = s.ports.pos ∧ ring = s.ports.serials) → s.tune.groups = [] → s.agents.sess = [] → ∃ t : State, exec (.adminRopeSet rid) s = .next t ∧ Done rid 0 [] t ∧ t.ports.pos = pos ∧ t.ports.serials = ring ∧
          t.caps.generation = s.caps.generation + 1 ∧ t.mem = s.mem ∧ t.ftl = s.ftl ∧ t.ctxs = s.ctxs ∧ t.sec = s.sec))) ∧
    (Waits 1 7 rid r s → hasRef r = false → (4 < fld r.payload 0 1 → Refuses (.adminPortQuery rid) rid 0x0100 s) ∧
      (fld r.payload 0 1 ≤ 4 → ∃ t : State, exec (.adminPortQuery rid) s = .next t ∧ Done rid 0 (portReply (fld r.payload 0 1) s) t ∧ OnlyLedger s t)) ∧
    (∀ (q : Port) (tr : TrainReport), Waits 1 8 rid r s → hasRef r = false → let p := fld r.payload 0 1
      (4 < p ∨ 2 < fld r.payload 1 1 ∨ (fld r.payload 1 1 = 1 ∧ lastPath p s = true) → Refuses (.adminPortCtrl rid tr) rid 0x0100 s) ∧
      (p ≤ 4 → tget s.ports.port p = some q → ∃ t : State, exec (.adminPortCtrl rid tr) s = .next t ∧
        (fld r.payload 1 1 = 1 → lastPath p s = false → Done rid 0 (zeros 8) t ∧ (portOf p t).train = 0) ∧
        (fld r.payload 1 1 = 0 → q.train = 0 → tr.inTime = false → Done rid 0 (1 :: zeros 7) t ∧ portOf p t = { q with train := 1 } ∧ t = { s with ports := t.ports, ledger := t.ledger }) ∧
        (fld r.payload 1 1 = 2 → portUp p s = false → Done rid 0 (leBytes 1 q.train ++ zeros 7) t ∧ OnlyLedger s t))) ∧
    (∀ (m : Model) (x : MirrorCopy), Waits 1 9 rid r s → hasRef r = false → let pos := fld r.payload 0 1
      let oc := fld r.payload 1 1
      let c := fld r.payload 2 1
      let h := fld r.payload 4 4
      let f := refAt r.payload 8
      let id := newSessId c s
      1 ≤ oc → oc ≤ 63 → fld r.payload 3 1 ≤ 1 → refWrites f = true → f.space = 1 → r.refsOpen = true →
      (originLost pos oc s = false → Refuses (.adminMirrorAdopt rid) rid 0x0100 s) ∧
      (originLost pos oc s = true → modelFor c h s = some m → c = 0 ∨ slotAllocated c s = false ∨ s.sec.sec ≠ .admitted → Refuses (.adminMirrorAdopt rid) rid 0x0102 s) ∧
      (originLost pos oc s = true → c ≠ 0 → slotAllocated c s = true → s.sec.sec = .admitted → modelFor c h s = some m → copiesOf pos oc s = [x] →
        (f.len < 32 → Refuses (.adminMirrorAdopt rid) rid 0x0200 s) ∧
        (32 ≤ f.len → x.digest ≠ m.digest → fld r.payload 3 1 = 0 → ∃ t : State, exec (.adminMirrorAdopt rid) s = .next t ∧ Done rid 0 (leBytes 4 0 ++ leBytes 4 1 ++ zeros 8) t ∧ t.agents = s.agents) ∧
        (32 ≤ f.len → x.digest = m.digest → fld r.payload 3 1 = 0 → (∀ z ∈ s.agents.mirrorStore.erase x, sameSess x z = false) → ∃ (t : State) (y : Sess), exec (.adminMirrorAdopt rid) s = .next t ∧ Done rid 0 (leBytes 4 1 ++ leBytes 4 0 ++ zeros 8) t ∧ sessOf id t = some y ∧ y.ctx = c ∧ y.model = h ∧
          y.state = .paused ∧ y.pauseReason = 3 ∧ y.mirrorState = 0 ∧ y.mirror = 0 ∧ y.body = x.body ∧ t.agents.mirrorStore = s.agents.mirrorStore.erase x ∧ (∀ k, k ≠ id → sessOf k t = sessOf k s))))) ∧
  (∀ (rid : Nat) (r : Req) (s : State), hasRef r = false →
    (Waits 15 1 rid r s → (∀ k, cairnNamed r s = some k → ∃ t : State, exec (.cairnQuery rid) s = .next t ∧ Done rid 0 (cairnReply k) t ∧ OnlyLedger s t) ∧
      (cairnNamed r s = none → Refuses (.cairnQuery rid) rid 0x8000 s)) ∧
    (Waits 15 2 rid r s → fld r.payload 9 1 ≤ 2 ∨ fld r.payload 9 1 = 0xFF → ∃ t : State, ∃ l : List Nat, exec (.cairnList rid) s = .next t ∧ OnlyLedger s t ∧ l.Pairwise (· ≤ ·) ∧
      (∀ i, i ∈ l ↔ ∃ k ∈ s.ledger.cairns, k.id = i ∧ k.ctx = fld r.payload 8 1 ∧ (r.mbx = 0 ∨ r.mbx = k.ctx) ∧ fld r.payload 0 8 ≤ i ∧ (fld r.payload 9 1 = 0xFF ∨ k.cstate = fld r.payload 9 1)) ∧
      Done rid 0 (leBytes 2 (min l.length 59) ++ leBytes 1 (if 59 < l.length then 1 else 0) ++ zeros 5 ++ (l.take 59).flatMap (leBytes 8)) t) ∧
    (Waits 15 3 rid r s → (cairnNamed r s = none → Refuses (.cairnRelease rid) rid 0x8000 s) ∧
      (∀ k, cairnNamed r s = some k → (k.cstate = 0 ∨ (k.cstate = 1 ∧ k.stopped = false) → Refuses (.cairnRelease rid) rid 0x8001 s) ∧
        (k.cstate ≠ 0 → (k.cstate = 1 → k.stopped = true) → ∃ t : State, exec (.cairnRelease rid) s = .next t ∧ Done rid 0 [] t ∧ OnlyLedger s t ∧
          ∀ q ∈ t.ledger.cairns, ¬ (q.ctx = k.ctx ∧ q.id = k.id)))))

/-! ### Monitors, injection and debug (19) -/

/-- What monitor requests refuse. A MON.READ request that waits for its service and names an instance above 95 is answered INVALID_FIELD and changes nothing but the ledger. So is a MON.CONFIG of an instance above 95, with a reserved bit set, with WIN_LOG2 outside 10 to 40, with a MODE that is no row of R556, with mode 2 on an instance that is no stall instance, with mode 0 or 1 on a stall instance, or with LIN_WIDTH 0. -/
def Obligations.MonitorRefusals : Prop :=
  ∀ (rid : Nat) (r : Req) (s : State),
    let p := r.payload
    let i := fld p 0 1
    let c := fld p 4 4
    let mode := bits c 1 2
    (Waits 13 2 rid r s → 95 < i → Refuses (.monRead rid) rid 0x0100 s) ∧
    (Waits 13 3 rid r s →
      95 < i ∨ fld p 1 3 ≠ 0 ∨ bits c 3 5 ≠ 0 ∨ bits c 14 2 ≠ 0 ∨ bits c 21 11 ≠ 0 ∨ bits c 8 6 < 10 ∨ 40 < bits c 8 6 ∨ mode = 3 ∨ (mode = 2 ∧ monKind i ≠ 2) ∨ (mode < 2 ∧ monKind i = 2) ∨ fld p 12 4 = 0 →
      Refuses (.monConfig rid) rid 0x0100 s)

/-- Monitor windows, injections, overrides and the DEBUG service. At its closing cycle a window moves the open accumulators of its instance into the closed registers, clears them and counts, and no other instance changes. LIST and READ reply and change nothing else; CONFIG within bounds takes effect, discards the open accumulators and makes the window partial. Injection is enabled outside Admitted, and refused there. INJECT of a point that fits is armed under a new handle, or ends with its errors; INJ_CLEAR disarms all. An armed one fires when its event can come: it is disarmed and reported; one of a DRAM or SRAM codeword leaves its symbols in it, a forced timeout answers its request TIMEOUT or, with none outstanding, only disarms, and a remote refusal, a component restart, a takeover and an array read act as the commands of those names. An override ends at its cycle of the always-on clock; a sample is stored and counted. Where the DEBUG service answers, memory reads and writes go through the key slots of their owners (a write where each page has one copy), a hart is halted, resumed and, halted, read, and hub registers are read and written; elsewhere each ends with ACCESS_DENIED. -/
def Obligations.MonitorsAndDebug : Prop :=
  (∀ (i : Nat) (s : State), i < 96 → clockPowered (monDomain i) s = true → (monDomain i ≠ domMgmt ∨ s.ledger.reqs.any timed = false) →
    let m := monGet i s
    let stop := (m.openIdx + 1) * 2 ^ m.winLog2
    clockNow (monDomain i) s ≤ stop → stop < 2 ^ 64 → ∃ t : State, exec (.windowClose i) s = .next t ∧
      monGet i t = { m with seq := m.seq + 1, partial_ := m.openPartial, winStart := m.openIdx * 2 ^ m.winLog2, winEnd := stop, closed := m.acc, openPartial := false, openIdx := m.openIdx + 1, acc := MonAcc.empty } ∧
      (∀ j, j ≠ i → monGet j t = monGet j s) ∧ clockNow (monDomain i) t = stop ∧ t = { s with mon := t.mon, clocks := t.clocks }) ∧
  (∀ (rid : Nat) (r : Req) (s : State), hasRef r = false →
    let p := r.payload
    let i := fld p 0 1
    let h := s.mon.nextHandle
    let tgt := fld p 2 2
    (Waits 13 1 rid r s → ∃ t : State, exec (.monList rid) s = .next t ∧ Done rid 0 (leBytes 2 96 ++ zeros 2 ++ (List.range 96).flatMap fun k => leBytes 4 (monDesc k)) t ∧ OnlyLedger s t) ∧
    (Waits 13 2 rid r s → i < 96 → (monBlock (decide (r.mbx ≠ 0)) i s).length = 384 ∧ ∃ t : State, exec (.monRead rid) s = .next t ∧ Done rid 0 (monBlock (decide (r.mbx ≠ 0)) i s) t ∧ OnlyLedger s t) ∧
    (Waits 13 3 rid r s → monCfgBad p = false → ∃ t : State, exec (.monConfig rid) s = .next t ∧ Done rid 0 [] t ∧ monCfg (monGet i t) = fld p 4 4 ∧ (monGet i t).linWidth = fld p 12 4 ∧ (monGet i t).acc = MonAcc.empty ∧
      (monGet i t).openPartial = true ∧ (∀ j, j ≠ i → monGet j t = monGet j s) ∧ t = { s with mon := t.mon, ledger := t.ledger }) ∧
    (Waits 13 4 rid r s → i ≤ 1 → (s.sec.sec = .admitted → Refuses (.monInjEnable rid) rid 0x0102 s) ∧
      (s.sec.sec ≠ .admitted → ∃ t : State, exec (.monInjEnable rid) s = .next t ∧ Done rid 0 [] t ∧ t = { s with mon := { s.mon with injEnabled := decide (i = 1) }, ledger := t.ledger })) ∧
    (Waits 13 5 rid r s → injGood i tgt (fld p 4 4) (fld p 8 8) s = true → fld p 1 1 ≤ 1 → r.length = 16 + injData i →
      (injectAvail 0 s = false → Refuses (.monInject rid) rid 0x0102 s) ∧
      (injectAvail 0 s = true → (∃ j ∈ s.mon.armed, j.id = i ∧ j.target = tgt) → Refuses (.monInject rid) rid 0x8000 s) ∧
      (injectAvail 0 s = true → (∀ j ∈ s.mon.armed, ¬ (j.id = i ∧ j.target = tgt)) →
        (injPermanent i = true → fld p 1 1 = 0 → Refuses (.monInject rid) rid 0x8001 s) ∧
        (injPermanent i = false ∨ fld p 1 1 = 1 → i ≠ 0x11 → ∃ t : State, exec (.monInject rid) s = .next t ∧ Done rid 0 (leBytes 4 h ++ zeros 4) t ∧
          t = { s with mon := { s.mon with nextHandle := (h + 1) % 2 ^ 32, armed := s.mon.armed ++ [⟨h, i, tgt, fld p 4 4, fld p 8 8, sub p 16 (injData i), bit (fld p 1 1) 0⟩] }, ledger := t.ledger }) ∧
        (i = 0x11 → s.host.held.length < 256 → ∃ (t : State) (e : Ev), exec (.monInject rid) s = .next t ∧ Done rid 0 (leBytes 4 h ++ zeros 4) t ∧ tget t.mon.override tgt = some (overrideValue (fld p 8 8), clockNow domAon s + fld p 4 4 * 100000) ∧
          t.mon.armed = s.mon.armed ∧ t.host.held = s.host.held ++ [e] ∧ e.code = 0x25 ∧ e.payload = leBytes 1 i ++ zeros 3 ++ leBytes 4 h))) ∧
    (Waits 13 6 rid r s → ∃ t : State, exec (.monInjClear rid) s = .next t ∧ Done rid 0 (leBytes 4 s.mon.armed.length ++ zeros 4) t ∧ t = { s with mon := { s.mon with armed := [], override := [] }, ledger := t.ledger }) ∧
    (let a := fld p 0 8
     let n := fld p 8 4
     let mem := 1 ≤ n ∧ n ≤ 448
     let hub := a % 4 = 0 ∧ a < 0x10000
     (debugDenied s = true → (Waits 14 1 rid r s → mem → Refuses (.debugMemRead rid) rid 0x0102 s) ∧ (Waits 14 2 rid r s → mem → Refuses (.debugMemWrite rid) rid 0x0102 s) ∧
        (∀ k, hartNamed r s = some k → (Waits 14 3 rid r s → Refuses (.debugHartHalt rid) rid 0x0102 s) ∧ (Waits 14 4 rid r s → Refuses (.debugHartResume rid) rid 0x0102 s) ∧ (Waits 14 5 rid r s → Refuses (.debugHartState rid) rid 0x0102 s)) ∧
        (Waits 14 6 rid r s → hub → Refuses (.debugRegRead rid) rid 0x0102 s) ∧ (Waits 14 7 rid r s → hub → Refuses (.debugRegWrite rid) rid 0x0102 s)) ∧
     (debugDenied s = false →
        (Waits 14 1 rid r s → mem → ∃ t : State, exec (.debugMemRead rid) s = .next t ∧ Done rid 0 ((rangeFrom a n).map fun k => physByte s k) t ∧ OnlyLedger s t) ∧
        (Waits 14 2 rid r s → mem → keysRise s.mem.pages = true → (∀ e ∈ s.mem.pages, (e.2.t1 = none ∨ e.2.t2 = none) ∧ (e.2.t2 ≠ none → e.2.stored = pageBytes)) → ∃ t : State, exec (.debugMemWrite rid) s = .next t ∧
          Done rid 0 [] t ∧ t = { s with mem := { s.mem with pages := t.mem.pages }, ecc := t.ecc, ledger := t.ledger } ∧
          ∀ k, physByte t k = (match physPage k s with
            | some (_, q) => if s.mem.keySlots.contains q.1.ctx = true ∧ a ≤ k ∧ k < a + n then (sub p 16 n).getD (k - a) 0 else physByte s k
            | none => 0)) ∧
        (∀ k, hartNamed r s = some k →
          (Waits 14 3 rid r s → ∃ t : State, exec (.debugHartHalt rid) s = .next t ∧ Done rid 0 [] t ∧ t = { s with task := { s.task with harts := tset s.task.harts k { hartOf k s with halted := true } }, ledger := t.ledger }) ∧
          (Waits 14 4 rid r s → ∃ t : State, exec (.debugHartResume rid) s = .next t ∧ Done rid 0 [] t ∧ t = { s with task := { s.task with harts := tset s.task.harts k { hartOf k s with halted := false } }, ledger := t.ledger }) ∧
          (Waits 14 5 rid r s → ((hartOf k s).halted = false → Refuses (.debugHartState rid) rid 0x0100 s) ∧
            ((hartOf k s).halted = true → ∃ t : State, exec (.debugHartState rid) s = .next t ∧ OnlyLedger s t ∧
              Done rid 0 (leBytes 8 (hartOf k s).pc.toNat ++ (rangeFrom 1 31).flatMap fun x => leBytes 8 (tgetD (hartOf k s).x x 0).toNat) t))) ∧
        (Waits 14 6 rid r s → hub → ∃ t : State, exec (.debugRegRead rid) s = .next t ∧ Done rid 0 (leBytes 4 (cwRead a 4 s).host.lastRead.toNat) t ∧ t = { cwRead a 4 s with ledger := t.ledger }) ∧
        (Waits 14 7 rid r s → hub → a ≠ 0x100 → ∃ t : State, exec (.debugRegWrite rid) s = .next t ∧ Done rid 0 [] t ∧ t = { cwWrite a 4 (BitVec.ofNat 64 (fld p 8 4)) s with ledger := t.ledger })))) ∧
  (∀ (h : Nat) (j : Injection) (s : State), s.mon.armed.find? (fun x => decide (x.handle = h)) = some j →
    let off : State := { s with mon := { s.mon with armed := s.mon.armed.filter fun x => decide (x.handle ≠ h) } }
    let told := fun (u t : State) => u.host.held.length < 256 → ∃ e : Ev, t.host.held = u.host.held ++ [e] ∧ e.code = 0x25 ∧ e.payload = leBytes 1 j.id ++ zeros 3 ++ leBytes 4 h
    let like := fun (c : Instr) => ∃ u t : State, exec c off = .next u ∧ exec (.injectFired h) s = .next t ∧ told u t ∧ t = { u with host := t.host }
    let hit := fun (r : Req) => decide (r.mbx = j.target ∧ r.tag = j.param) && outstanding r
    (injQualifies j s = false → exec (.injectFired h) s = .next s) ∧
    ((∀ k ∈ [1, 2, 0x0A, 0x0B, 0x0C, 0x0D, 0x10], j.id ≠ k) → ∃ t : State, exec (.injectFired h) s = .next t ∧ told s t ∧ t = { off with host := t.host }) ∧
    (injQualifies j s = true → (∀ q, j.id = 0x0B → lastRemote s = some q → like (.remoteAccessTimeout q.ptag)) ∧ (j.id = 0x0C → like (.componentRestart j.target 3 [])) ∧ (j.id = 0x0D → like (.belayTakeover 0 true)) ∧
      (j.id = 0x10 → j.value % 8 = 0 → like (.faRead j.value (j.param + 1)))) ∧
    (j.id = 1 ∨ j.id = 2 → ∃ (t : State) (a : Nat), exec (.injectFired h) s = .next t ∧ told s t ∧ aget 0 (eccOf j.target t).errs (eccUnit j.target a) = injSymbols j.target j.data ∧ (bit j.param 0 = true → a = j.value) ∧
      (∀ k, k ≠ j.target → eccOf k t = eccOf k s) ∧ t = { off with ecc := t.ecc, host := t.host, freeCtr := t.freeCtr }) ∧
    (j.id = 10 → (∀ r ∈ s.ledger.reqs, hit r = true → r.done ≠ none) → exec (.injectFired h) s = .next off) ∧
    (∀ r m, j.id = 10 → s.ledger.reqs.find? hit = some r → r.done = none → r.settled = none → accessing r.rid s = false → tget s.host.mbx j.target = some m → ∃ (t : State) (q : Mbx), exec (.injectFired h) s = .next t ∧ told s t ∧
      tget t.host.mbx j.target = some q ∧ q.rplTail = m.rplTail + 1 ∧ q.outstanding = m.outstanding - 1 ∧ q.timeoutCnt.toNat = min 0xFFFF (m.timeoutCnt.toNat + 1) ∧
      Memory.readN 0 t.host.aperture (replySlot j.target m.rplTail) 32 = replyHeader r 0x0300 0 s ∧ t.mon = { off.mon with mon := t.mon.mon })) ∧
  (∀ (i : Nat) (v : Int) (s : State),
    (tget s.mon.override i = none → exec (.sensorOverrideExpiry i) s = .next s) ∧
    (∀ o, tget s.mon.override i = some o → clockPowered domAon s = true → o.2 < 2 ^ 64 → ∃ t : State, exec (.sensorOverrideExpiry i) s = .next t ∧ clockNow domAon t = max (clockNow domAon s) o.2 ∧
      (∀ d, d ≠ domAon → tget t.clocks d = tget s.clocks d) ∧ t = { s with mon := { s.mon with override := tdel s.mon.override i }, clocks := t.clocks }) ∧
    (78 ≤ i → i ≤ 95 → clockPowered domAon s = true → ∃ t : State, exec (.sensorSample i v) s = .next t ∧ t.pwr = { s.pwr with sensors := tset s.pwr.sensors i v } ∧ (∀ j, j ≠ i → monGet j t = monGet j s) ∧
      ((monGet i s).en = true → clockNow (monDomain i) s / 2 ^ (monGet i s).winLog2 ≤ (monGet i s).openIdx →
        (monGet i t).acc.count = min ((monGet i s).acc.count + 1) (2 ^ 64 - 1) ∧ (monGet i t).acc.sum = min ((monGet i s).acc.sum + ((tget s.mon.override i).map (·.1)).getD v) (2 ^ 64 - 1)) ∧
      t = { s with pwr := t.pwr, mon := t.mon }))

/-! ### Register accesses, packets and the end of a scrub (00, 02, 13, 15, 19) -/

/-- Register writes, packets of the control node, the end of a scrub, and JTAG. A register write acts as its block's rule says. Of an engine, by firmware or by the context it is assigned to: the tail, the fault bits, the sync registers and ENG_CTRL as the commands of those names, SR by firmware alone, and nothing by another context. Of the served control window: the event registers as their commands, EVT_MASK, EVT_RING_BASE while the ring is disabled, and RST_CTRL nothing without its key; during a scrub it is held. Of a context's pages, by firmware or by the context: the stack, GP and tier tail registers; by another context nothing. SEM_CMD, the array's keys and SB_ALERT_STAT act as their commands. A hart's store to a window that it may reach acts as its context's write and advances its pc; any other is an access fault. An access of the control node is dropped without a path, held during a scrub, and else completed: aperture bytes are read and, in request slots, written; context memory is read and written as the context's own; CW_ID reads its constant; the credits of its packet return. At its end a scrub without held work gives the interface its state back, and the slots it covered are free. A JTAG access of an open module reads and writes hub registers and reads those of a hart; boundary scan answers the identification code. -/
def Obligations.RegistersAndPackets : Prop :=
  (∀ (e k : Nat) (v : U64) (who : Option Nat) (s : State), engOn e s = true →
    let w := fun (off : Nat) => exec (.registerWrite ⟨.engine, e, off, 4, v, who, none⟩) s
    let x : U32 := BitVec.ofNat 32 v.toNat
    let mine := who = none ∨ ∃ c, who = some c ∧ (engOf e s).owner = some c
    (mine → w 0x00C = exec (.engFaultClear e x) s ∧ w 0x014 = exec (.seqTailWrite e x) s ∧ w 0x040 = exec (.syncInc e x) s ∧ (k < 8 → w (0x020 + 4 * k) = exec (.syncCntWrite e k x) s) ∧
      (v.toNat % 8 = 1 → w 0x004 = exec (.run e) s) ∧ (v.toNat % 8 = 0 → w 0x004 = exec (.stopRequest e) s)) ∧
    (¬ mine → ∀ off n, exec (.registerWrite ⟨.engine, e, off, n, v, who, none⟩) s = .next s) ∧
    exec (.registerWrite ⟨.engine, e, 0x048, 8, v, none, none⟩) s = .next (setEng e { engOf e s with sav := { (engOf e s).sav with sr := v } } s) ∧
    (∀ c, exec (.registerWrite ⟨.engine, e, 0x048, 8, v, some c, none⟩) s = .next s)) ∧
  (∀ (u : Nat) (v : U64) (who : Option Nat) (s : State),
    let w := fun (off n : Nat) => exec (.registerWrite ⟨.controlWindow, u, off, n, v, who, none⟩) s
    let x : U32 := BitVec.ofNat 32 v.toNat
    (Served s → w 0x200 4 = exec (.evtCauseWrite x) s ∧ w 0x210 4 = exec (.evtRingSizeWrite x) s ∧ w 0x214 4 = exec (.evtRingConsWrite x) s ∧
      w 0x204 4 = .next { s with host := { s.host with evtMask := x &&& 0x3F } } ∧ (On s.host.ringSize 31 → w 0x208 8 = .next s) ∧
      (¬ On s.host.ringSize 31 → w 0x208 8 = .next { s with host := { s.host with ringBase := BitVec.ofNat 64 (v.toNat / 4096 * 4096) } }) ∧ (bits v.toNat 16 16 ≠ 0xC1EA → w 0x100 4 = .next s) ∧
      (∀ off, off % 4 ≠ 0 → w off 4 = .next s)) ∧
    (s.host.ifState = .scrub → ∀ off n, ∃ t : State, w off n = .next t ∧ HeldForScrub true off s t)) ∧
  (∀ (c u : Nat) (v : U64) (k : Slot) (s : State), slotOf c s = some k → clockPowered domFab s = true →
    (∀ who, who = none ∨ who = some c →
      let t := fun (off n : Nat) => exec (.registerWrite ⟨.taskletPage, c, off, n, v, who, none⟩) s
      let put := fun (q : Slot) => Host.Outcome.next (φ := Fault) (ρ := Refusal) ({ s with ctxs := { s.ctxs with slots := tset s.ctxs.slots c q } } : State)
      t 0x000 8 = put { k with stackBase := v } ∧ t 0x010 8 = put { k with gp := v } ∧ (12 ≤ v.toNat % 32 → v.toNat % 32 ≤ 24 → t 0x008 4 = put { k with stackLog2 := v.toNat % 32 }) ∧
      (v.toNat % 32 < 12 ∨ 24 < v.toNat % 32 → t 0x008 4 = .next s) ∧ exec (.registerWrite ⟨.tierPage, c, 0x10, 4, v, who, none⟩) s = exec (.tqTailWrite c (BitVec.ofNat 32 v.toNat)) s) ∧
    (u ≠ c → ∀ b ∈ [Blk.taskletPage, .tierPage, .streamPage], ∀ off n, exec (.registerWrite ⟨b, c, off, n, v, some u, none⟩) s = .next s)) ∧
  (∀ (h off n : Nat) (v : U64) (who : Option Nat) (s : State),
    let sem := exec (.registerWrite ⟨.semPage, h, 0, 8, v, who, none⟩) s
    let x : U32 := BitVec.ofNat 32 v.toNat
    (bits v.toNat 16 2 = 0 → sem = exec (.acquire h (bits v.toNat 0 14) ⟨bits v.toNat 32 32, none⟩) s) ∧ (bits v.toNat 16 2 = 1 → sem = exec (.tryAcquire h (bits v.toNat 0 14)) s) ∧
    (bits v.toNat 16 2 = 2 → sem = exec (.release h (bits v.toNat 0 14)) s) ∧ (bits v.toNat 16 2 = 3 → sem = .next s) ∧
    (faRuns s = true → exec (.registerWrite ⟨.firmwareArray, 0, 0x000, 4, v, none, none⟩) s = exec (.faKey1 x) s ∧ exec (.registerWrite ⟨.firmwareArray, 0, 0x004, 4, v, none, none⟩) s = exec (.faKey2 x) s) ∧
    (∀ c, exec (.registerWrite ⟨.firmwareArray, 0, off, n, v, some c, none⟩) s = .next s) ∧
    (powered s = true → exec (.registerWrite ⟨.smbus, 0, 0x04, 2, v, who, none⟩) s = exec (.sbAlertStatWrite (BitVec.ofNat 16 v.toNat)) s) ∧
    (powered s = false → exec (.registerWrite ⟨.smbus, 0, off, n, v, who, none⟩) s = .next s)) ∧
  (∀ (h : Nat) (k : Tasklet) (w : RegWrite) (s : State), w.hart = some h → runningOn h s = some k →
    (windowOk h k.ctx w s = true → ∀ u, exec (.registerWrite { w with onBehalf := some k.ctx, hart := none }) s = .next u → exec (.registerWrite w) s = .next (setHart h (nextPc (hartOf h u)) u)) ∧
    (windowOk h k.ctx w s = false → exec (.registerWrite w) s = .next (trapTask h 7 (windowVa w) k s))) ∧
  (∀ (pk : Packet) (data : Bytes) (s : State),
    (pathUp s = false → ∀ c ∈ [Instr.packetRead pk, .packetWrite pk data], exec c s = .next s) ∧
    (pathUp s = true → s.host.ifState = .scrub → exec (.packetRead pk) s = .next { s with sec := { s.sec with heldPortH := s.sec.heldPortH ++ [⟨pk, [], false, false⟩] } } ∧
      exec (.packetWrite pk data) s = .next { s with sec := { s.sec with heldPortH := s.sec.heldPortH ++ [⟨pk, data, true, false⟩] } }) ∧
    (∀ p, pathPort s = some p → s.host.ifState = .ready → pk.ptag < 65536 →
      let credit := fun (n : Nat) => s.host.gone ++ [.credits p 2 (packetCost n)]
      let told := fun (st : Nat) (b : Bytes) => ({ s with host := { s.host with out := s.host.out ++ [.response pk.ptag st b], gone := credit 0 } } : State)
      let answered := fun (n st : Nat) (b : Bytes) (t : State) => t.host.out = s.host.out ++ [.response pk.ptag st b] ∧ t.host.gone = credit n
      (pk.space = 1 → pk.addr + pk.len ≤ 0x200000 → (∀ a, lineErrs 344 a s ≤ eccCorrects 344) → exec (.packetRead pk) s = .next (told 0 (Memory.readN 0 s.host.aperture pk.addr pk.len))) ∧
      (pk.space = 1 → (∀ i, i < data.length → pk.addr + i < 0x200000) → ∃ t : State, exec (.packetWrite pk data) s = .next t ∧ answered data.length 0 [] t ∧
        t = { s with ecc := t.ecc, host := { s.host with aperture := t.host.aperture, out := t.host.out, gone := t.host.gone } } ∧
        ∀ a, Memory.read 0 t.host.aperture a = (if pk.addr ≤ a ∧ a < pk.addr + data.length ∧ a % 0x8000 < 0x4000 then data.getD (a - pk.addr) 0 else Memory.read 0 s.host.aperture a)) ∧
      (pk.space = 2 → checkRead pk.ctx pk.addr pk.len s = .fine → ∃ t : State, exec (.packetRead pk) s = .next t ∧ answered 0 0 (rdBytes pk.ctx pk.addr pk.len s) t ∧ SameBytes s t ∧
        t = { s with mem := t.mem, ecc := t.ecc, freeCtr := t.freeCtr, host := { s.host with out := t.host.out, gone := t.host.gone } }) ∧
      (pk.space = 2 → checkRead pk.ctx pk.addr pk.len s = .xlate → exec (.packetRead pk) s = .next (told 1 [])) ∧
      (pk.space = 2 → checkRead pk.ctx pk.addr pk.len s = .lost → exec (.packetRead pk) s = .next (told 2 [])) ∧
      (pk.space = 2 → checkRead pk.ctx pk.addr data.length s = .fine → WritableAt pk.ctx pk.addr data.length s → NoAlias pk.ctx s → ∃ t : State, exec (.packetWrite pk data) s = .next t ∧ answered data.length 0 [] t ∧
        Stored pk.ctx pk.addr data s t ∧ t = { s with mem := t.mem, ecc := t.ecc, freeCtr := t.freeCtr, host := { s.host with out := t.host.out, gone := t.host.gone } }) ∧
      (pk.space = 0 → pk.addr = 0 → pk.len = 4 → exec (.packetRead pk) s = .next { told 0 [0x7D, 0x1A, 0x40, 0x09] with
        host := { (told 0 [0x7D, 0x1A, 0x40, 0x09]).host with lastRead := 0x09401A7D } }) ∧
      (2 < pk.space → exec (.packetRead pk) s = .next (told 1 []) ∧
        exec (.packetWrite pk data) s = .next { told 1 [] with host := { (told 1 []).host with gone := credit data.length } }))) ∧
  (∀ (b : Scrub) (s : State), s.sec.scrub = some b → s.host.ifState = .scrub →
    (b.prev ≠ .scrub → s.host.warmHeld = false → s.sec.heldPortH = [] → s.ports.heldFwd = [] → s.sec.quarantineNext = false → s.sec.unlock = none → s.sec.scrubDue = false →
      (∀ r ∈ s.ledger.reqs, r.svc = 10 → r.op = 2 → r.running = false) → ∃ t : State, exec (.scrubEnd false) s = .next t ∧ t.host.ifState = b.prev ∧ t.sec.scrub = none ∧
      t.sec.scrubs = s.sec.scrubs + 1 ∧ t.sec.sec = s.sec.sec ∧ t.sec.dbg = s.sec.dbg ∧ t.sec.causes = s.sec.causes ∧
      (∀ c ∈ b.ctxs, slotState c s = .freeing → slotState c t = .free) ∧ (∀ c, slotState c s ≠ .freeing → slotOf c t = slotOf c s) ∧ t.mem = s.mem ∧ t.ftl = s.ftl) ∧
    (powered s = true → s.host.warmHeld = false → ∃ t : State, exec (.scrubEnd true) s = .next t ∧ t.host.ifState = .safe)) ∧
  (∀ (w : RegWrite) (s : State), powered s = true → s.sec.dbg = .open → let a : RegAddr := ⟨w.blk, w.unit, w.off, w.size⟩
    exec (.jtagAccess true a false w.val) s = .next { s with host := { s.host with lastRead := 0x1094077B } } ∧
    (w.blk = .controlWindow → exec (.jtagAccess false a false w.val) s = .next (cwRead w.off w.size s) ∧ exec (.jtagAccess false a true w.val) s = .next (cwWrite w.off w.size w.val s)) ∧
    (w.blk ≠ .controlWindow → exec (.jtagAccess false a true w.val) s = exec (.registerWrite { w with onBehalf := none, hart := none }) s) ∧
    (w.blk = .hart → w.size = 8 → ∀ v, hartReg w.unit w.off s = some v → exec (.jtagAccess false a false w.val) s = .next { s with host := { s.host with lastRead := BitVec.ofNat 64 v } }))
end

