-- ==== Sys2Proof/Laws/Queue.lean ====
section
/-! SUPPORT. No operation and no meaning changes the queue of waiting commands: only the step takes from it. -/
namespace Sys2Proof.Machine
open Sys2Proof

/-! ### Ops -/

@[simp] theorem foldl_pending {α : Type} (f : State → α → State) (h : ∀ t a, (f t a).pending = t.pending) (l : List α) (s : State) : (l.foldl f s).pending = s.pending := by
  induction l generalizing s with
  | nil => rfl
  | cons a r ih => simp [ih, h]
@[simp] theorem foldlTwo_pending {α β : Type} (f : β × State → α → β × State) (h : ∀ a x, (f a x).2.pending = a.2.pending) (l : List α) (a : β × State) : (l.foldl f a).2.pending = a.2.pending := by
  induction l generalizing a with
  | nil => rfl
  | cons b r ih => simp [ih, h]
@[simp] theorem bumpFree_pending (s : State) : (bumpFree s).pending = s.pending := by unfold bumpFree; simp
@[simp] theorem bumpFreeBy_pending (n : Nat) (s : State) : (bumpFreeBy n s).pending = s.pending := by unfold bumpFreeBy; simp
@[simp] theorem clockTo_pending (d : Nat) (t : Nat) (s : State) : (clockTo d t s).pending = s.pending := by unfold clockTo; simp
@[simp] theorem powerDomains_pending (keep : Nat → Bool) (s : State) : (powerDomains keep s).pending = s.pending := by unfold powerDomains; simp
@[simp] theorem tick_pending (s : State) : (tick s).pending = s.pending := by unfold tick; simp
@[simp] theorem modSlot_pending (c : Nat) (f : Slot → Slot) (s : State) : (modSlot c f s).pending = s.pending := by unfold modSlot; simp
@[simp] theorem emit_pending (m : Tx) (s : State) : (emit m s).pending = s.pending := by unfold emit; simp
@[simp] theorem setCause_pending (b : Nat) (s : State) : (setCause b s).pending = s.pending := by unfold setCause; (repeat' split) <;> simp
@[simp] theorem eventOut_pending (refused : Bool) (s : State) : (eventOut refused s).pending = s.pending := by unfold eventOut; (repeat' split) <;> simp
@[simp] theorem raiseEvent_pending (code : Nat) (srcType : Nat) (srcIdx : Nat) (ctx : Nat) (status : Nat) (payload : Bytes) (s : State) : (raiseEvent code srcType srcIdx ctx status payload s).pending = s.pending := by unfold raiseEvent; dsimp only; (repeat' split) <;> simp
@[simp] theorem devEvent_pending (code : Nat) (srcType : Nat) (srcIdx : Nat) (payload : Bytes) (s : State) : (devEvent code srcType srcIdx payload s).pending = s.pending := by unfold devEvent; simp
@[simp] theorem announce_pending (old : State) (s : State) : (announce old s).pending = s.pending := by unfold announce; (repeat' split) <;> simp
@[simp] theorem announced_pending (f : State → State) (s : State) (hf : ∀  t, (f  t).pending = t.pending) : (announced f s).pending = s.pending := by unfold announced; simp [*]
@[simp] theorem monSample_pending (i : Nat) (v : Int) (row : Nat) (s : State) : (monSample i v row s).pending = s.pending := by unfold monSample; dsimp only; (repeat' split) <;> simp
@[simp] theorem modReqs_pending (f : List Req → List Req) (s : State) : (modReqs f s).pending = s.pending := by unfold modReqs; simp
@[simp] theorem modReq_pending (rid : Nat) (f : Req → Req) (s : State) : (modReq rid f s).pending = s.pending := by unfold modReq; simp
@[simp] theorem dropReq_pending (rid : Nat) (s : State) : (dropReq rid s).pending = s.pending := by unfold dropReq; simp
@[simp] theorem modCairn_pending (r : Req) (f : Cairn → Cairn) (s : State) : (modCairn r f s).pending = s.pending := by unfold modCairn; (repeat' split) <;> simp
@[simp] theorem commitN_pending (rid : Nat) (k : Nat) (n : Nat) (body : Option Bytes) (s : State) : (commitN rid k n body s).pending = s.pending := by unfold commitN; (repeat' split) <;> simp
@[simp] theorem commit_pending (rid : Nat) (n : Nat) (body : Option Bytes) (s : State) : (commit rid n body s).pending = s.pending := by unfold commit; simp
@[simp] theorem complete_pending (rid : Nat) (st : Nat) (payload : Bytes) (s : State) : (complete rid st payload s).pending = s.pending := by unfold complete; (repeat' split) <;> simp
@[simp] theorem modMbx_pending (n : Nat) (f : Mbx → Mbx) (s : State) : (modMbx n f s).pending = s.pending := by unfold modMbx; simp
@[simp] theorem writeReply_pending (r : Req) (st : Nat) (payload : Bytes) (s : State) : (writeReply r st payload s).pending = s.pending := by unfold writeReply; (repeat' split) <;> simp
@[simp] theorem settleDone_pending (r : Req) (st : Nat) (payload : Bytes) (s : State) : (settleDone r st payload s).pending = s.pending := by unfold settleDone; simp
@[simp] theorem writeSettled_pending (r : Req) (st : Nat) (s : State) : (writeSettled r st s).pending = s.pending := by unfold writeSettled; (repeat' split) <;> simp
@[simp] theorem settleStop_pending (r : Req) (st : Nat) (s : State) : (settleStop r st s).pending = s.pending := by unfold settleStop; (repeat' split) <;> simp
@[simp] theorem expire_pending (r : Req) (s : State) : (expire r s).pending = s.pending := by unfold expire; simp
@[simp] theorem expireBefore_pending (t : Nat) (s : State) : (expireBefore t s).pending = s.pending := by unfold expireBefore; (repeat' split) <;> simp
@[simp] theorem reachMgmt_pending (t : Nat) (s : State) : (reachMgmt t s).pending = s.pending := by unfold reachMgmt; simp
@[simp] theorem serve_pending (svc : Nat) (op : Nat) (rid : Nat) (f : Req → State → State) (s : State) (hf : ∀ a0 t, (f a0 t).pending = t.pending) : (serve svc op rid f s).pending = s.pending := by unfold serve; (repeat' split) <;> simp [*]
@[simp] theorem setRunning_pending (rid : Nat) (s : State) : (setRunning rid s).pending = s.pending := by unfold setRunning; simp
@[simp] theorem fail_pending (rid : Nat) (st : Nat) (s : State) : (fail rid st s).pending = s.pending := by unfold fail; simp
@[simp] theorem checked_pending (rid : Nat) (l : List (Bool × Nat)) (ok : State → State) (s : State) (hok : ∀  t, (ok  t).pending = t.pending) : (checked rid l ok s).pending = s.pending := by unfold checked; (repeat' split) <;> simp [*]
@[simp] theorem capsChanged_pending (s : State) : (capsChanged s).pending = s.pending := by unfold capsChanged; (repeat' split) <;> simp
@[simp] theorem replayReqs_pending (sel : Req → Bool) (s : State) : (replayReqs sel s).pending = s.pending := by unfold replayReqs; simp

/-! ### Operands -/

@[simp] theorem modUsage_pending (c : Nat) (f : Usage → Usage) (s : State) : (modUsage c f s).pending = s.pending := by unfold modUsage; simp
@[simp] theorem modPage_pending (p : Nat) (f : Page → Page) (s : State) : (modPage p f s).pending = s.pending := by unfold modPage; simp
@[simp] theorem modObj_pending (h : Nat) (f : Obj → Obj) (s : State) : (modObj h f s).pending = s.pending := by unfold modObj; simp [*]
@[simp] theorem modEcc_pending (k : Nat) (f : EccBlk → EccBlk) (s : State) : (modEcc k f s).pending = s.pending := by unfold modEcc; simp
@[simp] theorem healLines_pending (k : Nat) (a : Nat) (n : Nat) (s : State) : (healLines k a n s).pending = s.pending := by unfold healLines; simp [*]
@[simp] theorem healT1_pending (f : Option Nat) (s : State) : (healT1 f s).pending = s.pending := by unfold healT1; (repeat' split) <;> simp [*]
@[simp] theorem healT2_pending (u : Nat) (n : Nat) (s : State) : (healT2 u n s).pending = s.pending := by unfold healT2; simp [*]
@[simp] theorem setKvT2_pending (b : Nat) (v : Bool) (s : State) : (setKvT2 b v s).pending = s.pending := by unfold setKvT2; simp
@[simp] theorem t2Room_pending (fuel c n : Nat) (s : State) : (t2Room fuel c n s).pending = s.pending := by
  induction fuel generalizing s with
  | zero => rfl
  | succ k ih =>
    unfold t2Room
    (repeat' split) <;> simp [ih]
@[simp] theorem addT2_pending (pid : Nat) (s : State) : (addT2 pid s).pending = s.pending := by unfold addT2; dsimp only; (repeat' split) <;> simp
@[simp] theorem fillPage_pending (hot : Bool) (pid : Nat) (s : State) : (fillPage hot pid s).pending = s.pending := by unfold fillPage; (repeat' split) <;> simp [*]
@[simp] theorem fillRange_pending (c va n : Nat) (s : State) : (fillRange c va n s).pending = s.pending := by
  unfold fillRange
  apply foldl_pending
  intro t a
  split <;> simp
@[simp] theorem newPage_pending (c : Nat) (kind : PageKind) (data : Memory) (s : State) : (newPage c kind data s).2.pending = s.pending := by unfold newPage; simp
@[simp] theorem unrefPage_pending (pid : Nat) (s : State) : (unrefPage pid s).pending = s.pending := by unfold unrefPage; (repeat' split) <;> simp
@[simp] theorem abandonMove_pending (pid : Nat) (s : State) : (abandonMove pid s).pending = s.pending := by unfold abandonMove; (repeat' split) <;> simp
theorem cowPage_pending {c : Nat} {va : Nat} {s : State} {t : State} (h : cowPage c va s = some t) : t.pending = s.pending := by unfold cowPage at h; grind (splits := 30) [newPage_pending, abandonMove_pending, fillPage_pending, modObj_pending, modUsage_pending, foldl_pending]
theorem openWrite_pending {c : Nat} {l : List Nat} {s t : State} (h : openWrite c l s = some t) : t.pending = s.pending := by
  induction l generalizing s with
  | nil => simp [openWrite] at h; rw [h]
  | cons a r ih =>
    unfold openWrite at h
    split at h
    · simp at h
    · split at h
      · exact ih h
      · split at h
        · rename_i u hu
          rw [ih h, cowPage_pending hu]
        · simp at h
@[simp] theorem wrByte_pending (c : Nat) (va : Nat) (b : Byte) (s : State) : (wrByte c va b s).pending = s.pending := by unfold wrByte; (repeat' split) <;> simp
@[simp] theorem wrBytes_pending (c : Nat) (va : Nat) (bs : Bytes) (s : State) : (wrBytes c va bs s).pending = s.pending := by
  induction bs generalizing c va s <;> first | rfl | (unfold wrBytes; simp [*]; done) | (unfold wrBytes; (repeat' split) <;> simp [*]; done) | (unfold wrBytes; dsimp only; (repeat' split) <;> simp [*])
@[simp] theorem healWrite_pending (c : Nat) (va : Nat) (n : Nat) (s : State) : (healWrite c va n s).pending = s.pending := by unfold healWrite; grind (splits := 30) [healLines_pending, foldl_pending]
@[simp] theorem wrRaw_pending (c : Nat) (va : Nat) (bs : Bytes) (s : State) : (wrRaw c va bs s).pending = s.pending := by unfold wrRaw; simp
theorem ctxWrite_pending {c va : Nat} {bs : Bytes} {s t : State} (h : ctxWrite c va bs s = .ok t) : t.pending = s.pending := by
  unfold ctxWrite at h
  split at h
  · simp at h
  · simp at h
  · split at h
    · simp at h
    · rename_i u hu
      simp at h
      rw [← h, wrRaw_pending, openWrite_pending hu]
theorem ctxRead_pending {c va n : Nat} {s t : State} {b : Bytes} (h : ctxRead c va n s = .ok (b, t)) : t.pending = s.pending := by
  unfold ctxRead at h
  split at h
  · simp at h
    rw [← h.2, fillRange_pending]
  · simp at h
@[simp] theorem startRemote_pending (q : Remote) (s : State) : (startRemote q s).pending = s.pending := by unfold startRemote; simp
@[simp] theorem pumpRemote_pending (fuel : Nat) (c : Nat) (s : State) : (pumpRemote fuel c s).pending = s.pending := by
  induction fuel generalizing c s <;> first | rfl | (unfold pumpRemote; simp [*]; done) | (unfold pumpRemote; (repeat' split) <;> simp [*]; done) | (unfold pumpRemote; dsimp only; (repeat' split) <;> simp [*])
@[simp] theorem newRemote_pending (q : Remote) (s : State) : (newRemote q s).pending = s.pending := by unfold newRemote; simp
@[simp] theorem remoteWrite_pending (c : Nat) (rid : Option Nat) (addr : Nat) (data : Bytes) (s : State) : (remoteWrite c rid addr data s).pending = s.pending := by unfold remoteWrite; simp
@[simp] theorem remoteRead_pending (c : Nat) (rid : Option Nat) (addr : Nat) (n : Nat) (s : State) : (remoteRead c rid addr n s).pending = s.pending := by unfold remoteRead; simp
@[simp] theorem cutLinks_pending (c : Nat) (s : State) : (cutLinks c s).pending = s.pending := by unfold cutLinks; simp
@[simp] theorem resumeLinks_pending (c : Nat) (s : State) : (resumeLinks c s).pending = s.pending := by unfold resumeLinks; simp
theorem refWrite_pending {q : Req} {r : Ref} {off : Nat} {d : Bytes} {s t : State} (h : refWrite q r off d s = .ok t) : t.pending = s.pending := by
  unfold refWrite at h
  split at h
  · simp at h; rw [h]
  · split at h
    · exact ctxWrite_pending h
    · simp at h; rw [← h]; simp
theorem refRead_pending {q : Req} {r : Ref} {n : Nat} {g : Bytes} {s t : State} {b : Bytes} (h : refRead q r n g s = .ok (b, t)) : t.pending = s.pending := by
  unfold refRead at h
  split at h
  · exact ctxRead_pending h
  · split at h
    · simp at h
    · simp at h; rw [← h.2]; simp
@[simp] theorem afterWrite_pending (rid : Nat) (a : Acc) (ok : State → State) (s : State) (ha : ∀ t, a = .ok t → t.pending = s.pending) (hok : ∀ t, (ok t).pending = t.pending) :
    (afterWrite rid a ok s).pending = s.pending := by
  cases a with
  | ok t => show (ok t).pending = s.pending; rw [hok, ha t rfl]
  | xlate => exact fail_pending ..
  | lost => exact fail_pending ..

/-! ### FwOps -/

@[simp] theorem modFw_pending (f : Firmware → Firmware) (s : State) : (modFw f s).pending = s.pending := by unfold modFw; simp
@[simp] theorem modFa_pending (f : FaArray → FaArray) (s : State) : (modFa f s).pending = s.pending := by unfold modFa; simp
@[simp] theorem faPut_pending (off : Nat) (v : U64) (s : State) : (faPut off v s).pending = s.pending := by unfold faPut; simp
@[simp] theorem writeRecord_pending (j : Nat) (payload : U64) (s : State) : (writeRecord j payload s).pending = s.pending := by unfold writeRecord; grind (splits := 30) [faPut_pending, modFw_pending, foldl_pending]
@[simp] theorem writeRecordFree_pending (j : Nat) (s : State) : (writeRecordFree j s).pending = s.pending := by unfold writeRecordFree; grind (splits := 30) [bumpFree_pending, writeRecord_pending, foldl_pending]
@[simp] theorem keyRecord_pending (s : State) : (keyRecord s).pending = s.pending := by unfold keyRecord; simp
@[simp] theorem setImgSlot_pending (n : Nat) (f : ImgSlot → ImgSlot) (s : State) : (setImgSlot n f s).pending = s.pending := by unfold setImgSlot; simp
@[simp] theorem bootSelector_pending (f : State → State) (s : State) (hf : ∀  t, (f  t).pending = t.pending) : (bootSelector f s).pending = s.pending := by unfold bootSelector; (repeat' split) <;> simp [*]
@[simp] theorem moveMbxBlock_pending (b : Nat) (s : State) : (moveMbxBlock b s).pending = s.pending := by unfold moveMbxBlock; (repeat' split) <;> simp

/-! ### Homes -/

@[simp] theorem renameWaits_pending (pc : List (Nat × Nat)) (c : Nat) (s : State) : (renameWaits pc c s).pending = s.pending := by unfold renameWaits; simp
@[simp] theorem rehome_pending (sub : List (Nat × Nat)) (subC : List (Nat × Nat)) (c : Nat) (k : Slot) (ne : Nat) (nc : Nat) (s : State) : (rehome sub subC c k ne nc s).pending = s.pending := by unfold rehome; dsimp only; (repeat' split) <;> simp
@[simp] theorem cutWays_pending (s : State) : (cutWays s).pending = s.pending := by unfold cutWays; simp
@[simp] theorem tellHomes_pending (oldE : List Nat) (oldC : List Nat) (c : Nat) (k : Slot) (s : State) : (tellHomes oldE oldC c k s).pending = s.pending := by unfold tellHomes; dsimp only; (repeat' split) <;> simp
@[simp] theorem rehomeAll_pending (oldE : List Nat) (oldC : List Nat) (sub : List (Nat × Nat)) (subC : Nat → List (Nat × Nat)) (s : State) : (rehomeAll oldE oldC sub subC s).pending = s.pending := by unfold rehomeAll; grind (splits := 30) [modSlot_pending, cutWays_pending, rehome_pending, tellHomes_pending, foldl_pending]

/-! ### Flags -/

@[simp] theorem modPort_pending (p : Nat) (f : Port → Port) (s : State) : (modPort p f s).pending = s.pending := by unfold modPort; simp
@[simp] theorem linkKhz_pending (p : Nat) (low : Bool) (s : State) : (linkKhz p low s).pending = s.pending := by unfold linkKhz; simp
@[simp] theorem goLowRate_pending (p : Nat) (s : State) : (goLowRate p s).pending = s.pending := by unfold goLowRate; simp
@[simp] theorem setRead_pending (v : Nat) (s : State) : (setRead v s).pending = s.pending := by unfold setRead; simp
@[simp] theorem holdCw_pending (write : Bool) (off : Nat) (len : Nat) (v : Nat) (s : State) : (holdCw write off len v s).pending = s.pending := by unfold holdCw; simp [*]
@[simp] theorem cwAccess_pending (write : Bool) (off : Nat) (len : Nat) (v : Nat) (f : State → State) (s : State) (hf : ∀  t, (f  t).pending = t.pending) : (cwAccess write off len v f s).pending = s.pending := by unfold cwAccess; (repeat' split) <;> simp [*]

/-! ### Engine -/

@[simp] theorem setEng_pending (e : Nat) (g : Eng) (s : State) : (setEng e g s).pending = s.pending := by unfold setEng; simp
@[simp] theorem modEng_pending (e : Nat) (f : Eng → Eng) (s : State) : (modEng e f s).pending = s.pending := by unfold modEng; simp
@[simp] theorem modSav_pending (e : Nat) (f : EngSt → EngSt) (s : State) : (modSav e f s).pending = s.pending := by unfold modSav; simp
@[simp] theorem engFault_pending (e : Nat) (b : Nat) (idx : U16) (s : State) : (engFault e b idx s).pending = s.pending := by unfold engFault; simp
@[simp] theorem engNext_pending (e : Nat) (f : EngSt → EngSt) (s : State) : (engNext e f s).pending = s.pending := by unfold engNext; simp
@[simp] theorem engIssue_pending (e : Nat) (cls : Nat) (op : Nat) (go : Nat → State → State) (s : State) (hgo : ∀ a0 t, (go a0 t).pending = t.pending) : (engIssue e cls op go s).pending = s.pending := by unfold engIssue; dsimp only; (repeat' split) <;> simp [*]
@[simp] theorem engSoft_pending (e : Nat) (b : Nat) (s : State) : (engSoft e b s).pending = s.pending := by unfold engSoft; dsimp only; (repeat' split) <;> simp
@[simp] theorem stallSamples_pending (e : Nat) (n : Nat) (s : State) : (stallSamples e n s).pending = s.pending := by unfold stallSamples; simp
@[simp] theorem strmRun_pending (e : Nat) (tagFault : Bool) (w : Nat) (s : State) : (strmRun e tagFault w s).pending = s.pending := by unfold strmRun; dsimp only; (repeat' split) <;> simp
@[simp] theorem epiRun_pending (e : Nat) (int : Bool) (f : EngSt → Nat → U32 → Nat → Nat → U32) (w : Nat) (s : State) : (epiRun e int f w s).pending = s.pending := by unfold epiRun; dsimp only; (repeat' split) <;> simp
@[simp] theorem scqRun_pending (e : Nat) (w : Nat) (s : State) : (scqRun e w s).pending = s.pending := by unfold scqRun; dsimp only; (repeat' split) <;> simp
@[simp] theorem applyRecord_pending (r : CountRec) (s : State) : (applyRecord r s).pending = s.pending := by unfold applyRecord; dsimp only; (repeat' split) <;> simp
@[simp] theorem engWait_pending (e : Nat) (s : State) : (engWait e s).pending = s.pending := by unfold engWait; simp
@[simp] theorem incTarget_pending (e : Nat) (w : Nat) (s : State) : (incTarget e w s).pending = s.pending := by unfold incTarget; (repeat' split) <;> simp
@[simp] theorem signalPush_pending (e : Nat) (w : Nat) (s : State) : (signalPush e w s).pending = s.pending := by unfold signalPush; simp
@[simp] theorem stopEng_pending (e : Nat) (s : State) : (stopEng e s).pending = s.pending := by unfold stopEng; simp
@[simp] theorem seqTail_pending (e : Nat) (v : U32) (g : Eng) (s : State) : (seqTail e v g s).pending = s.pending := by unfold seqTail; dsimp only; (repeat' split) <;> simp
@[simp] theorem engRunHead_pending (e : Nat) (s : State) : (engRunHead e s).pending = s.pending := by unfold engRunHead; dsimp only; (repeat' split) <;> simp
@[simp] theorem eccUe_pending (e : Nat) (busy : Bool) (onRead : Bool) (s : State) : (eccUe e busy onRead s).pending = s.pending := by unfold eccUe; dsimp only; (repeat' split) <;> simp
@[simp] theorem replayOn_pending (c : Nat) (s : State) : (replayOn c s).pending = s.pending := by unfold replayOn; simp
@[simp] theorem replayHomes_pending (c : Nat) (s : State) : (replayHomes c s).pending = s.pending := by unfold replayHomes; simp
@[simp] theorem replaceEngine_pending (e : Nat) (s : State) : (replaceEngine e s).pending = s.pending := by unfold replaceEngine; dsimp only; (repeat' split) <;> simp

/-! ### Tasklets -/

@[simp] theorem setHart_pending (h : Nat) (v : Hart) (s : State) : (setHart h v s).pending = s.pending := by unfold setHart; simp [*]
@[simp] theorem modHart_pending (h : Nat) (f : Hart → Hart) (s : State) : (modHart h f s).pending = s.pending := by unfold modHart; simp [*]
@[simp] theorem dropHarts_pending (p : Nat → Bool) (s : State) : (dropHarts p s).pending = s.pending := by unfold dropHarts; simp
@[simp] theorem putHart_pending (h : Nat) (v : Hart) (s : State) : (putHart h v s).pending = s.pending := by unfold putHart; simp [*]
@[simp] theorem onHart_pending (h : Nat) (f : Tasklet → State → State) (s : State) (hf : ∀ a0 t, (f a0 t).pending = t.pending) : (onHart h f s).pending = s.pending := by unfold onHart; (repeat' split) <;> simp [*]
@[simp] theorem l1Clear_pending (cores : List Nat) (s : State) : (l1Clear cores s).pending = s.pending := by unfold l1Clear; simp
@[simp] theorem l1Fill_pending (core : Nat) (c : Nat) (va : Nat) (s : State) : (l1Fill core c va s).pending = s.pending := by unfold l1Fill; simp
@[simp] theorem dcFill_pending (die : Nat) (c : Nat) (va : Nat) (s : State) : (dcFill die c va s).pending = s.pending := by unfold dcFill; dsimp only; (repeat' split) <;> simp
@[simp] theorem hwPrefetch_pending (die : Nat) (c : Nat) (va : Nat) (s : State) : (hwPrefetch die c va s).pending = s.pending := by unfold hwPrefetch; grind (splits := 30) [dcFill_pending, bumpFreeBy_pending, foldl_pending]
@[simp] theorem prefetch_pending (core : Nat) (target : Nat) (c : Nat) (va : Nat) (s : State) : (prefetch core target c va s).2.pending = s.pending := by unfold prefetch; (repeat' split) <;> simp
@[simp] theorem stopPf_pending (key : Nat) (s : State) : (stopPf key s).pending = s.pending := by unfold stopPf; (repeat' split) <;> simp
@[simp] theorem pfAhead_pending (key : Nat) (q : PfSlot) (c : Nat) (d : Nat) (s : State) : (pfAhead key q c d s).pending = s.pending := by unfold pfAhead; dsimp only; (repeat' split) <;> simp
@[simp] theorem pfTouch_pending (h : Nat) (c : Nat) (va : Nat) (s : State) : (pfTouch h c va s).pending = s.pending := by unfold pfTouch; grind (splits := 30) [stopPf_pending, pfAhead_pending, foldl_pending]
@[simp] theorem touchLine_pending (h : Nat) (c : Nat) (va : Nat) (s : State) : (touchLine h c va s).pending = s.pending := by unfold touchLine; dsimp only; (repeat' split) <;> simp [*]
theorem hartLoad_pending {h : Nat} {c : Nat} {va : Nat} {n : Nat} {s : State} {b : Bytes} {t : State} (h : hartLoad h c va n s = .ok (b, t)) : t.pending = s.pending := by unfold hartLoad at h; grind (splits := 30) [touchLine_pending, fillRange_pending, foldl_pending]
@[simp] theorem l1Store_pending (core : Nat) (c : Nat) (va : Nat) (bs : Bytes) (s : State) : (l1Store core c va bs s).pending = s.pending := by
  induction bs generalizing core c va s <;> first | rfl | (unfold l1Store; simp [*]; done) | (unfold l1Store; (repeat' split) <;> simp [*]; done) | (unfold l1Store; dsimp only; (repeat' split) <;> simp [*])
@[simp] theorem drainStores_pending (h : Nat) (s : State) : (drainStores h s).pending = s.pending := by unfold drainStores; grind (splits := 30) [ctxWrite_pending, l1Store_pending, modHart_pending, foldl_pending]
@[simp] theorem fencePred_pending (h : Nat) (r : Bool) (w : Bool) (s : State) : (fencePred h r w s).pending = s.pending := by unfold fencePred; (repeat' split) <;> simp [*]
@[simp] theorem taskFault_pending (c : Nat) (die : Nat) (cause : Nat) (mcause : Nat) (hart : Nat) (entry : Nat) (epc : Nat) (tval : Nat) (quiet : Bool) (s : State) : (taskFault c die cause mcause hart entry epc tval quiet s).pending = s.pending := by unfold taskFault; (repeat' split) <;> simp [*]
@[simp] theorem enqueue_pending (p : Nat) (t : Tasklet) (by_ : Spawner) (s : State) : (enqueue p t by_ s).pending = s.pending := by unfold enqueue; dsimp only; (repeat' split) <;> simp
@[simp] theorem spawnNew_pending (c : Nat) (b : Bytes) (arg4 : Option Nat) (by_ : Spawner) (s : State) : (spawnNew c b arg4 by_ s).pending = s.pending := by unfold spawnNew; simp
@[simp] theorem dropSlot_pending (p : Option Nat) (s : State) : (dropSlot p s).pending = s.pending := by unfold dropSlot; (repeat' split) <;> simp
@[simp] theorem wakeJoin_pending (c : Nat) (addr : Nat) (n : Nat) (s : State) : (wakeJoin c addr n s).pending = s.pending := by unfold wakeJoin; simp
@[simp] theorem spawnCont_pending (c : Nat) (addr : Nat) (cont : Nat) (d : Done) (s : State) : (spawnCont c addr cont d s).pending = s.pending := by unfold spawnCont; grind (splits := 30) [ctxRead_pending, enqueue_pending, spawnNew_pending, taskFault_pending, dropSlot_pending, foldl_pending]
@[simp] theorem joinDone_pending (c addr : Nat) (d : Done) (s : State) : (joinDone c addr d s).pending = s.pending := by
  unfold joinDone
  split
  · simp
  · split
    · simp
    · rename_i ht
      dsimp only
      split
      · simp [ctxRead_pending ht]
      · split
        · rename_i hu
          split <;> simp [ctxWrite_pending hu, ctxRead_pending ht]
        · simp
@[simp] theorem freeHart_pending (h : Nat) (s : State) : (freeHart h s).pending = s.pending := by unfold freeHart; simp [*]
@[simp] theorem endTask_pending (h : Nat) (t : Tasklet) (faulted : Bool) (s : State) : (endTask h t faulted s).pending = s.pending := by unfold endTask; simp [*]
@[simp] theorem trapTask_pending (h : Nat) (mcause : Nat) (tval : Nat) (t : Tasklet) (s : State) : (trapTask h mcause tval t s).pending = s.pending := by unfold trapTask; simp [*]
theorem resolveTrap_pending {c mcause tval : Nat} {s t : State} (h : resolveTrap c mcause tval s = some t) : t.pending = s.pending := by
  unfold resolveTrap at h
  split at h
  · simp at h
  · split at h
    · simp at h
    · split at h
      · exact openWrite_pending h
      · split at h <;>
        · simp at h; rw [← h.2]; exact fillRange_pending ..
@[simp] theorem tspawnBody_pending (h : Nat) (rd : Nat) (rs1 : Nat) (k : Tasklet) (s : State) : (tspawnBody h rd rs1 k s).pending = s.pending := by unfold tspawnBody; grind (splits := 30) [trapTask_pending, hartLoad_pending, fencePred_pending, modHart_pending, spawnNew_pending, foldl_pending]
@[simp] theorem tjoinBody_pending (h : Nat) (rd : Nat) (rs1 : Nat) (k : Tasklet) (s : State) : (tjoinBody h rd rs1 k s).pending = s.pending := by unfold tjoinBody; grind (splits := 30) [trapTask_pending, ctxRead_pending, modHart_pending, fencePred_pending, foldl_pending]
@[simp] theorem endTjoin_pending (h : Nat) (s : State) : (endTjoin h s).pending = s.pending := by unfold endTjoin; simp [*]
@[simp] theorem trySteal_pending (c core n : Nat) (s : State) : (trySteal c core n s).2.pending = s.pending := by
  induction n generalizing s with
  | zero => rfl
  | succ m ih =>
    unfold trySteal
    split
    · rfl
    · dsimp only
      split
      · rfl
      · split
        · simp
        · rw [ih]; simp
@[simp] theorem takeTask_pending (c : Nat) (h : Nat) (k : Slot) (s : State) : (takeTask c h k s).2.pending = s.pending := by unfold takeTask; grind (splits := 30) [trySteal_pending, foldl_pending]
@[simp] theorem unpark_pending (c : Nat) (h : Nat) (v : Hart) (s : State) : (unpark c h v s).pending = s.pending := by unfold unpark; simp [*]
@[simp] theorem startTask_pending (c : Nat) (h : Nat) (s : State) : (startTask c h s).pending = s.pending := by unfold startTask; grind (splits := 30) [unpark_pending, takeTask_pending, modHart_pending, fencePred_pending, foldl_pending]
@[simp] theorem pfstreamBody_pending (h : Nat) (rs1 : Nat) (rs2 : Nat) (c : Nat) (s : State) : (pfstreamBody h rs1 rs2 c s).pending = s.pending := by unfold pfstreamBody; dsimp only; (repeat' split) <;> simp [*]
@[simp] theorem pfindBody_pending (h : Nat) (rs1 : Nat) (rs2 : Nat) (k : Tasklet) (s : State) : (pfindBody h rs1 rs2 k s).pending = s.pending := by unfold pfindBody; grind (splits := 30) [hartLoad_pending, prefetch_pending, modHart_pending, foldl_pending]
@[simp] theorem vxBody_pending (acc : Bool) (src1 : Hart → Nat → Nat → Nat) (h : Nat) (vd : Nat) (vs2 : Nat) (regs : List Nat) (vm : Bool) (k : Tasklet) (s : State) : (vxBody acc src1 h vd vs2 regs vm k s).pending = s.pending := by unfold vxBody; (repeat' split) <;> simp [*]
@[simp] theorem dispatchSignal_pending (d : Nat) (s : State) : (dispatchSignal d s).pending = s.pending := by
  unfold dispatchSignal
  split
  · rfl
  · dsimp only
    split
    · split
      · rfl
      · split
        · rfl
        · rename_i hr
          have hq := ctxRead_pending hr
          split
          · rfl
          · split
            · rw [spawnNew_pending, hq]
            · rfl
    · rfl
@[simp] theorem badResume_pending (c : Nat) (entry : Nat) (addr : Nat) (s : State) : (badResume c entry addr s).pending = s.pending := by unfold badResume; simp
@[simp] theorem spawnResume_pending (c : Nat) (s : State) : (spawnResume c s).pending = s.pending := by unfold spawnResume; grind (splits := 30) [ctxRead_pending, badResume_pending, spawnNew_pending, modSlot_pending, foldl_pending]
@[simp] theorem retrySpawns_pending (d : Nat) (s : State) : (retrySpawns d s).pending = s.pending := by unfold retrySpawns; grind (splits := 30) [spawnResume_pending, dispatchSignal_pending, foldl_pending]

/-! ### Dma -/

@[simp] theorem modDma_pending (e : Nat) (f : Ring → Ring) (s : State) : (modDma e f s).pending = s.pending := by unfold modDma; simp
@[simp] theorem dmaFault_pending (e : Nat) (b : Nat) (s : State) : (dmaFault e b s).pending = s.pending := by unfold dmaFault; simp
theorem dmaGather_pending {c mem len pitch n : Nat} {s t : State} {b : Bytes} (h : dmaGather c mem len pitch n s = some (b, t)) : t.pending = s.pending := by
  induction n generalizing mem s t b with
  | zero => simp [dmaGather] at h; rw [h.2]
  | succ k ih =>
    unfold dmaGather at h
    split at h
    · simp at h
    · rename_i hr
      simp only [Option.map_eq_some_iff] at h
      obtain ⟨⟨b2, t2⟩, h1, h2⟩ := h
      simp at h2
      rw [← h2.2, ih h1, ctxRead_pending hr]
theorem dmaScatter_pending {c mem len pitch n : Nat} {bs : Bytes} {s t : State} (h : dmaScatter c mem len pitch n bs s = some t) : t.pending = s.pending := by
  induction n generalizing mem bs s with
  | zero => simp [dmaScatter] at h; rw [h]
  | succ k ih =>
    unfold dmaScatter at h
    split at h
    · rename_i hw
      rw [ih h, ctxWrite_pending hw]
    · simp at h
@[simp] theorem dmaDone_pending (e : Nat) (sync : Nat) (s : State) : (dmaDone e sync s).pending = s.pending := by unfold dmaDone; (repeat' split) <;> simp
@[simp] theorem dmaRun_pending (e c : Nat) (s : State) : (dmaRun e c s).pending = s.pending := by
  unfold dmaRun
  split
  · simp
  · rename_i hr
    have h0 := ctxRead_pending hr
    dsimp only
    split
    · simp [h0]
    · split
      · simp [h0]
      · split
        · split
          · rename_i hg
            simp [dmaGather_pending hg, h0]
          · simp [h0]
        · split
          · rename_i hg
            simp [dmaScatter_pending hg, h0]
          · simp [h0]
@[simp] theorem modTq_pending (c : Nat) (f : Ring → Ring) (s : State) : (modTq c f s).pending = s.pending := by unfold modTq; simp
@[simp] theorem tierDone_pending (c : Nat) (b : Bytes) (ok : Bool) (s : State) : (tierDone c b ok s).pending = s.pending := by unfold tierDone; simp
@[simp] theorem tierRun_pending (op : Nat) (c : Nat) (work : TierWork) (s : State) (hwork : ∀ a0 t, (work a0 t).2.pending = t.pending) : (tierRun op c work s).pending = s.pending := by unfold tierRun; grind (splits := 30) [ctxRead_pending, modTq_pending, tierDone_pending, foldl_pending]
@[simp] theorem tierWrite_pending (c : Nat) (va : Nat) (bs : Bytes) (s : State) : (tierWrite c va bs s).2.pending = s.pending := by unfold tierWrite; grind (splits := 30) [ctxWrite_pending, foldl_pending]
@[simp] theorem compressFrom_pending (fuel c src dst len : Nat) (s : State) : (compressFrom fuel c src dst len s).2.pending = s.pending := by
  induction fuel generalizing src dst len s with
  | zero => rfl
  | succ n ih =>
    unfold compressFrom
    split
    · rfl
    · dsimp only
      split
      · rfl
      · rename_i hr
        split
        · rename_i hw
          rw [ih, ctxWrite_pending hw, ctxRead_pending hr]
        · exact ctxRead_pending hr
@[simp] theorem decompressFrom_pending (fuel c src dst len off : Nat) (s : State) : (decompressFrom fuel c src dst len off s).2.pending = s.pending := by
  induction fuel generalizing src dst len off s with
  | zero => rfl
  | succ n ih =>
    unfold decompressFrom
    split
    · rfl
    · split
      · rfl
      · split
        · rfl
        · rename_i hr
          split
          · exact ctxRead_pending hr
          · split
            · exact ctxRead_pending hr
            · rename_i hq
              split
              · exact (ctxRead_pending hq).trans (ctxRead_pending hr)
              · split
                · rename_i hw
                  rw [ih, ctxWrite_pending hw, ctxRead_pending hq, ctxRead_pending hr]
                · exact (ctxRead_pending hq).trans (ctxRead_pending hr)

/-! ### FlashOps -/

@[simp] theorem modFtl_pending (f : Ftl → Ftl) (s : State) : (modFtl f s).pending = s.pending := by unfold modFtl; simp
@[simp] theorem modCnt_pending (f : FlashCnt → FlashCnt) (s : State) : (modCnt f s).pending = s.pending := by unfold modCnt; simp
@[simp] theorem segmentOut_pending (seg : Nat) (s : State) : (segmentOut seg s).pending = s.pending := by unfold segmentOut; simp
@[simp] theorem journalRoom_pending (s : State) : (journalRoom s).pending = s.pending := by unfold journalRoom; (repeat' split) <;> simp
@[simp] theorem journalPage_pending (s : State) : (journalPage s).pending = s.pending := by unfold journalPage; (repeat' split) <;> simp
@[simp] theorem flushDeltas_pending (fuel : Nat) (s : State) : (flushDeltas fuel s).pending = s.pending := by
  induction fuel generalizing s with
  | zero => rfl
  | succ k ih =>
    unfold flushDeltas
    split
    · rfl
    · rw [ih, journalPage_pending]
@[simp] theorem flushAllDeltas_pending (s : State) : (flushAllDeltas s).pending = s.pending := by unfold flushAllDeltas; simp
@[simp] theorem deltaRoom_pending (s : State) : (deltaRoom s).pending = s.pending := by unfold deltaRoom; (repeat' split) <;> simp
@[simp] theorem unmapIdx_pending (space : Nat) (idx : Nat) (s : State) : (unmapIdx space idx s).pending = s.pending := by unfold unmapIdx; (repeat' split) <;> simp
@[simp] theorem loseDeltas_pending (n : Nat) (s : State) : (loseDeltas n s).pending = s.pending := by unfold loseDeltas; simp
@[simp] theorem modSb_pending (sb : Nat) (f : Sb → Sb) (s : State) : (modSb sb f s).pending = s.pending := by unfold modSb; simp
@[simp] theorem queueWrite_pending (src : Nat) (units : List BufUnit) (cmd : Option (Nat × Nat)) (s : State) : (queueWrite src units cmd s).pending = s.pending := by unfold queueWrite; simp
@[simp] theorem queuePinned_pending (c : Nat) (item : FItem) (bytes : Nat) (s : State) : (queuePinned c item bytes s).pending = s.pending := by unfold queuePinned; simp
@[simp] theorem queueBulk_pending (c : Nat) (item : FItem) (bytes : Nat) (s : State) : (queueBulk c item bytes s).pending = s.pending := by unfold queueBulk; (repeat' split) <;> simp
@[simp] theorem retryExtents_pending (s : State) : (retryExtents s).pending = s.pending := by unfold retryExtents; grind (splits := 30) [modFtl_pending, queueBulk_pending, foldl_pending]
@[simp] theorem dropCopy_pending (i : FItem) (s : State) : (dropCopy i s).pending = s.pending := by unfold dropCopy; simp
@[simp] theorem copyPage_pending (pid : Nat) (durable : Bool) (s : State) : (copyPage pid durable s).pending = s.pending := by unfold copyPage; dsimp only; (repeat' split) <;> simp
@[simp] theorem copyTwin_pending (pid : Nat) (s : State) : (copyTwin pid s).pending = s.pending := by unfold copyTwin; (repeat' split) <;> simp
@[simp] theorem dropPageCopies_pending (pid : Nat) (s : State) : (dropPageCopies pid s).pending = s.pending := by unfold dropPageCopies; simp
@[simp] theorem releaseOne_pending (pid : Nat) (s : State) : (releaseOne pid s).pending = s.pending := by unfold releaseOne; (repeat' split) <;> simp
@[simp] theorem releasePage_pending (pid : Nat) (s : State) : (releasePage pid s).pending = s.pending := by unfold releasePage; (repeat' split) <;> simp
@[simp] theorem freeKv_pending (b : Nat) (s : State) : (freeKv b s).pending = s.pending := by unfold freeKv; simp

/-! ### MemoryOps -/

@[simp] theorem newObj_pending (c : Nat) (va : Nat) (aflags : Nat) (pages : List Nat) (digest : Bytes) (s : State) : (newObj c va aflags pages digest s).2.pending = s.pending := by unfold newObj; simp
@[simp] theorem newPages_pending (c n : Nat) (s : State) : (newPages c n s).2.pending = s.pending := by
  induction n generalizing s with
  | zero => rfl
  | succ k ih =>
    show (newPages c k (newPage c .writable [] s).2).2.pending = s.pending
    rw [ih, newPage_pending]
@[simp] theorem freeObj_pending (h : Nat) (s : State) : (freeObj h s).pending = s.pending := by unfold freeObj; (repeat' split) <;> simp [*]
@[simp] theorem leaveT1_pending (pid : Nat) (s : State) : (leaveT1 pid s).pending = s.pending := by unfold leaveT1; (repeat' split) <;> simp
@[simp] theorem demotePage_pending (pid : Nat) (s : State) : (demotePage pid s).pending = s.pending := by unfold demotePage; dsimp only; (repeat' split) <;> simp
@[simp] theorem promotePage_pending (pid : Nat) (s : State) : (promotePage pid s).pending = s.pending := by unfold promotePage; (repeat' split) <;> simp
@[simp] theorem leaveDram_pending (pid : Nat) (s : State) : (leaveDram pid s).pending = s.pending := by unfold leaveDram; (repeat' split) <;> simp
@[simp] theorem applyPlace_pending (flags : Nat) (pid : Nat) (s : State) : (applyPlace flags pid s).pending = s.pending := by unfold applyPlace; dsimp only; (repeat' split) <;> simp
@[simp] theorem pageAccepted_pending (pid : Nat) (s : State) : (pageAccepted pid s).pending = s.pending := by unfold pageAccepted; simp
@[simp] theorem pageDurable_pending (pid : Nat) (s : State) : (pageDurable pid s).pending = s.pending := by unfold pageDurable; simp
@[simp] theorem sealPage_pending (flags : Nat) (sflags : Nat) (pid : Nat) (s : State) : (sealPage flags sflags pid s).pending = s.pending := by unfold sealPage; (repeat' split) <;> simp
@[simp] theorem sealPages_pending (flags : Nat) (sflags : Nat) (l : List Nat) (s : State) : (sealPages flags sflags l s).pending = s.pending := by unfold sealPages; simp
@[simp] theorem sealProgress_pending (s : State) : (sealProgress s).pending = s.pending := by unfold sealProgress; grind (splits := 30) [complete_pending, foldl_pending]
@[simp] theorem losePage_pending (pid : Nat) (s : State) : (losePage pid s).pending = s.pending := by unfold losePage; (repeat' split) <;> simp
@[simp] theorem relieveT1_pending (fuel : Nat) (s : State) : (relieveT1 fuel s).pending = s.pending := by
  induction fuel generalizing s with
  | zero => rfl
  | succ k ih =>
    unfold relieveT1
    split
    · rfl
    · split
      · dsimp only
        split
        · rfl
        · rw [ih, demotePage_pending]
      · rfl
@[simp] theorem relieveT2_pending (fuel : Nat) (s : State) : (relieveT2 fuel s).pending = s.pending := by
  induction fuel generalizing s <;> first | rfl | (unfold relieveT2; simp [*]; done) | (unfold relieveT2; (repeat' split) <;> simp [*]; done) | (unfold relieveT2; dsimp only; (repeat' split) <;> simp [*])
@[simp] theorem heatSamples_pending (s : State) : (heatSamples s).pending = s.pending := by unfold heatSamples; simp [*]
@[simp] theorem addMove_pending (p : Nat) (k : MoveKind) (s : State) : (addMove p k s).pending = s.pending := by unfold addMove; simp
@[simp] theorem chooseMoves_pending (fuel n : Nat) (s : State) : (chooseMoves fuel n s).pending = s.pending := by
  induction fuel generalizing n s with
  | zero => rfl
  | succ k ih =>
    unfold chooseMoves
    split
    · rfl
    · dsimp only
      split
      · rw [ih, addMove_pending]
      · split
        · rw [ih, addMove_pending]
        · split
          · split
            · split
              · rw [ih, addMove_pending, addMove_pending]
              · rfl
            · rfl
          · rfl

/-! ### MirrorStore -/

@[simp] theorem modAgents_pending (f : Agents → Agents) (s : State) : (modAgents f s).pending = s.pending := by unfold modAgents; simp
@[simp] theorem sweepKv_pending (s : State) : (sweepKv s).pending = s.pending := by unfold sweepKv; simp
@[simp] theorem newKv_pending (c : Nat) (m : Nat) (bytes : Nat) (kv : List Nat) (code : Nat) (s : State) : (newKv c m bytes kv code s).2.pending = s.pending := by unfold newKv; simp
@[simp] theorem sendKv_pending (id : Nat) (s : State) : (sendKv id s).pending = s.pending := by unfold sendKv; (repeat' split) <;> simp
@[simp] theorem kvDurable_pending (b : Nat) (s : State) : (kvDurable b s).pending = s.pending := by unfold kvDurable; simp
@[simp] theorem storeBlocks_pending (l : List MirrorBlk) (s : State) : (storeBlocks l s).2.pending = s.pending := by unfold storeBlocks; simp
@[simp] theorem setEarly_pending (m : Mirrored) (l : List Nat) (s : State) : (setEarly m l s).pending = s.pending := by unfold setEarly; simp
@[simp] theorem dropMirror_pending (x : MirrorCopy) (s : State) : (dropMirror x s).pending = s.pending := by unfold dropMirror; simp
@[simp] theorem ackMirrors_pending (s : State) : (ackMirrors s).pending = s.pending := by unfold ackMirrors; simp
@[simp] theorem keepMirror_pending (m : Mirrored) (s : State) : (keepMirror m s).pending = s.pending := by unfold keepMirror; simp
@[simp] theorem takeMirror_pending (m : Mirrored) (s : State) : (takeMirror m s).pending = s.pending := by unfold takeMirror; dsimp only; (repeat' split) <;> simp
@[simp] theorem retagCopy_pending (a : FItem) (b : FItem) (s : State) : (retagCopy a b s).pending = s.pending := by unfold retagCopy; simp

/-! ### AgentOps -/

@[simp] theorem modModel_pending (m : Nat) (f : Model → Model) (s : State) : (modModel m f s).pending = s.pending := by unfold modModel; simp
@[simp] theorem modSess_pending (id : Nat) (f : Sess → Sess) (s : State) : (modSess id f s).pending = s.pending := by unfold modSess; simp
@[simp] theorem modBody_pending (id : Nat) (f : SessBody → SessBody) (s : State) : (modBody id f s).pending = s.pending := by unfold modBody; simp
@[simp] theorem sealOpen_pending (id : Nat) (s : State) : (sealOpen id s).pending = s.pending := by unfold sealOpen; dsimp only; (repeat' split) <;> simp
@[simp] theorem sealFull_pending (id : Nat) (s : State) : (sealFull id s).pending = s.pending := by unfold sealFull; (repeat' split) <;> simp
@[simp] theorem snapPoint_pending (id : Nat) (seq : Nat) (tot : Nat) (rid : Nat) (s : State) : (snapPoint id seq tot rid s).pending = s.pending := by unfold snapPoint; (repeat' split) <;> simp
@[simp] theorem snapAnswer_pending (id : Nat) (seq : Nat) (bytes : Nat) (tot : Nat) (pend : Nat) (st : Nat) (rid : Nat) (s : State) : (snapAnswer id seq bytes tot pend st rid s).pending = s.pending := by unfold snapAnswer; (repeat' split) <;> simp
@[simp] theorem replySnap_pending (id : Nat) (seq : Nat) (bytes : Nat) (b : SessBody) (rid : Nat) (s : State) : (replySnap id seq bytes b rid s).pending = s.pending := by unfold replySnap; (repeat' split) <;> simp
@[simp] theorem mirrorLost_pending (id : Nat) (s : State) : (mirrorLost id s).pending = s.pending := by unfold mirrorLost; (repeat' split) <;> simp
@[simp] theorem mirrorSnap_pending (id : Nat) (x : Sess) (n : Snap) (s : State) : (mirrorSnap id x n s).pending = s.pending := by unfold mirrorSnap; (repeat' split) <;> simp
@[simp] theorem leaveBatch_pending (id : Nat) (s : State) : (leaveBatch id s).pending = s.pending := by unfold leaveBatch; (repeat' split) <;> simp
@[simp] theorem leaveRuns_pending (id : Nat) (s : State) : (leaveRuns id s).pending = s.pending := by unfold leaveRuns; simp
@[simp] theorem dropSess_pending (id : Nat) (s : State) : (dropSess id s).pending = s.pending := by unfold dropSess; (repeat' split) <;> simp
@[simp] theorem undoAppend_pending (id : Nat) (n : Nat) (s : State) : (undoAppend id n s).pending = s.pending := by unfold undoAppend; (repeat' split) <;> simp
@[simp] theorem failSnap_pending (id : Nat) (s : State) : (failSnap id s).pending = s.pending := by unfold failSnap; grind (splits := 30) [leaveRuns_pending, modSess_pending, fail_pending, dropSess_pending, undoAppend_pending, foldl_pending]
@[simp] theorem startSnap_pending (id : Nat) (s : State) : (startSnap id s).pending = s.pending := by unfold startSnap; (repeat' split) <;> simp
@[simp] theorem pumpSnaps_pending (fuel : Nat) (s : State) : (pumpSnaps fuel s).pending = s.pending := by
  induction fuel generalizing s <;> first | rfl | (unfold pumpSnaps; simp [*]; done) | (unfold pumpSnaps; (repeat' split) <;> simp [*]; done) | (unfold pumpSnaps; dsimp only; (repeat' split) <;> simp [*])
@[simp] theorem takeSnap_pending (id : Nat) (b : SessBody) (mark : Nat) (waiters : List Nat) (pause : Bool) (s : State) : (takeSnap id b mark waiters pause s).pending = s.pending := by unfold takeSnap; (repeat' split) <;> simp
@[simp] theorem beginSnap_pending (id : Nat) (waiters : List Nat) (pause : Bool) (s : State) : (beginSnap id waiters pause s).pending = s.pending := by unfold beginSnap; (repeat' split) <;> simp
@[simp] theorem kvToT2_pending (l : List Nat) (s : State) : (kvToT2 l s).pending = s.pending := by unfold kvToT2; grind (splits := 30) [t2Room_pending, setKvT2_pending, foldl_pending]
@[simp] theorem commitSnap_pending (id : Nat) (s : State) : (commitSnap id s).pending = s.pending := by unfold commitSnap; (repeat' split) <;> simp
@[simp] theorem endGen_pending (id : Nat) (st : Nat) (reason : Nat) (s : State) : (endGen id st reason s).pending = s.pending := by unfold endGen; dsimp only; (repeat' split) <;> simp
@[simp] theorem pauseForMemory_pending (id : Nat) (s : State) : (pauseForMemory id s).pending = s.pending := by unfold pauseForMemory; (repeat' split) <;> simp
@[simp] theorem newJoiner_pending (id : Nat) (x : Sess) (s : State) : (newJoiner id x s).pending = s.pending := by unfold newJoiner; simp
@[simp] theorem forkSess_pending (rid : Nat) (parent : Nat) (s : State) : (forkSess rid parent s).pending = s.pending := by unfold forkSess; (repeat' split) <;> simp
@[simp] theorem closeSess_pending (rid : Nat) (id : Nat) (s : State) : (closeSess rid id s).pending = s.pending := by unfold closeSess; (repeat' split) <;> simp
@[simp] theorem newQuery_pending (id : Nat) (s : State) : (newQuery id s).pending = s.pending := by unfold newQuery; (repeat' split) <;> simp
@[simp] theorem keepCached_pending (m : Nat) (l : List Nat) (s : State) : (keepCached m l s).pending = s.pending := by unfold keepCached; grind (splits := 30) [modModel_pending, foldl_pending]
@[simp] theorem omitBlock_pending (id : Nat) (b : Nat) (s : State) : (omitBlock id b s).pending = s.pending := by unfold omitBlock; simp
@[simp] theorem deliver_pending (e : Nat × U32 × Bool) (s : State) : (deliver e s).pending = s.pending := by
  unfold deliver
  split
  · rfl
  · split
    · rfl
    · split
      · dsimp only
        split
        · rename_i t hw
          have ht : t.pending = s.pending := by
            split at hw
            · split at hw
              · rename_i u hu
                rw [refWrite_pending hw, refWrite_pending hu]
              · exact refWrite_pending hw
            · injection hw with hw; rw [hw]
          simp [ht]
        · simp
        · simp
      · rfl
@[simp] theorem fillChunk_pending (fuel : Nat) (id : Nat) (s : State) : (fillChunk fuel id s).pending = s.pending := by
  induction fuel generalizing id s <;> first | rfl | (unfold fillChunk; simp [*]; done) | (unfold fillChunk; (repeat' split) <;> simp [*]; done) | (unfold fillChunk; dsimp only; (repeat' split) <;> simp [*])
@[simp] theorem advanceChunk_pending (id : Nat) (s : State) : (advanceChunk id s).pending = s.pending := by unfold advanceChunk; dsimp only; (repeat' split) <;> simp
@[simp] theorem startChunk_pending (id : Nat) (s : State) : (startChunk id s).pending = s.pending := by unfold startChunk; (repeat' split) <;> simp
@[simp] theorem cutChunk_pending (id : Nat) (s : State) : (cutChunk id s).pending = s.pending := by unfold cutChunk; (repeat' split) <;> simp
@[simp] theorem prefillChunk_pending (id : Nat) (s : State) : (prefillChunk id s).pending = s.pending := by unfold prefillChunk; simp
@[simp] theorem boundaryReqs_pending (id : Nat) (rids : List Nat) (s : State) : (boundaryReqs id rids s).pending = s.pending := by unfold boundaryReqs; grind (splits := 30) [commit_pending, undoAppend_pending, beginSnap_pending, modSess_pending, forkSess_pending, closeSess_pending, foldl_pending]
@[simp] theorem retireOne_pending (step : StepReport) (id : Nat) (s : State) : (retireOne step id s).pending = s.pending := by unfold retireOne; (repeat' split) <;> simp
@[simp] theorem periodicSnap_pending (id : Nat) (s : State) : (periodicSnap id s).pending = s.pending := by unfold periodicSnap; dsimp only; (repeat' split) <;> simp
@[simp] theorem releaseBlocks_pending (m : Nat) (s : State) : (releaseBlocks m s).pending = s.pending := by unfold releaseBlocks; simp
@[simp] theorem makeRoom_pending (fuel : Nat) (m : Nat) (need : Nat) (out : List Nat) (s : State) : (makeRoom fuel m need out s).pending = s.pending := by
  induction fuel generalizing m need out s <;> first | rfl | (unfold makeRoom; simp [*]; done) | (unfold makeRoom; (repeat' split) <;> simp [*]; done) | (unfold makeRoom; dsimp only; (repeat' split) <;> simp [*])
@[simp] theorem extendAll_pending (m : Nat) (out : List Nat) (l : List Nat) (short : Nat) (s : State) : (extendAll m out l short s).pending = s.pending := by
  induction l generalizing m out short s <;> first | rfl | (unfold extendAll; simp [*]; done) | (unfold extendAll; (repeat' split) <;> simp [*]; done) | (unfold extendAll; dsimp only; (repeat' split) <;> simp [*])
@[simp] theorem dropCache_pending (m : Nat) (s : State) : (dropCache m s).pending = s.pending := by unfold dropCache; simp
@[simp] theorem becomeResident_pending (id : Nat) (blocks : Nat) (s : State) : (becomeResident id blocks s).pending = s.pending := by unfold becomeResident; simp
@[simp] theorem pumpResumes_pending (fuel : Nat) (s : State) : (pumpResumes fuel s).pending = s.pending := by
  induction fuel generalizing s <;> first | rfl | (unfold pumpResumes; simp [*]; done) | (unfold pumpResumes; (repeat' split) <;> simp [*]; done) | (unfold pumpResumes; dsimp only; (repeat' split) <;> simp [*])
@[simp] theorem admitOne_pending (m : Nat) (id : Nat) (x : Sess) (s : State) : (admitOne m id x s).pending = s.pending := by unfold admitOne; (repeat' split) <;> simp
@[simp] theorem dropRestore_pending (id : Nat) (s : State) : (dropRestore id s).pending = s.pending := by unfold dropRestore; simp
@[simp] theorem restoreDone_pending (id : Nat) (s : State) : (restoreDone id s).pending = s.pending := by unfold restoreDone; (repeat' split) <;> simp
@[simp] theorem dropJoiner_pending (m id : Nat) (x : Sess) (s : State) : (dropJoiner m id x s).pending = s.pending := by
  unfold dropJoiner
  dsimp only
  split
  · cases x.joinRid <;> simp
  · cases x.joinRid <;> simp
  · simp
@[simp] theorem admitClass_pending (m : Nat) (l : List Nat) (s : State) : (admitClass m l s).1.pending = s.pending := by
  induction l generalizing s with
  | nil => rfl
  | cons a r ih =>
    unfold admitClass
    split
    · split
      · rw [ih, dropJoiner_pending]
      · split
        · rw [ih, admitOne_pending]
        · rfl
    · exact ih ..
@[simp] theorem admitAll_pending (m : Nat) (s : State) : (admitAll m s).pending = s.pending := by
  unfold admitAll
  split
  · rfl
  · dsimp only
    split <;> simp
@[simp] theorem reform_pending (m : Nat) (s : State) : (reform m s).pending = s.pending := by unfold reform; (repeat' split) <;> simp
@[simp] theorem boundary_pending (m : Nat) (step : StepReport) (s : State) : (boundary m step s).pending = s.pending := by unfold boundary; dsimp only; (repeat' split) <;> simp
@[simp] theorem quietBoundary_pending (m : Nat) (s : State) : (quietBoundary m s).pending = s.pending := by unfold quietBoundary; (repeat' split) <;> simp

/-! ### Transmit -/

@[simp] theorem record_pending (m : Tx) (s : State) : (record m s).pending = s.pending := by unfold record; simp
@[simp] theorem useKey_pending (p : Nat) (vc : Nat) (n : Nat) (s : State) : (useKey p vc n s).pending = s.pending := by unfold useKey; (repeat' split) <;> simp
@[simp] theorem sendOne_pending (p : Nat) (s : State) : (sendOne p s).pending = s.pending := by unfold sendOne; (repeat' split) <;> simp
@[simp] theorem drainScan_pending (s : State) : (drainScan s).pending = s.pending := by unfold drainScan; simp

/-! ### Links -/

@[simp] theorem modPorts_pending (f : Ports → Ports) (s : State) : (modPorts f s).pending = s.pending := by unfold modPorts; simp
@[simp] theorem reroute_pending (s : State) : (reroute s).pending = s.pending := by unfold reroute; (repeat' split) <;> simp
@[simp] theorem reissue_pending (s : State) : (reissue s).pending = s.pending := by unfold reissue; grind (splits := 30) [record_pending, foldl_pending]
@[simp] theorem portActive_pending (p : Nat) (t : TrainReport) (s : State) : (portActive p t s).pending = s.pending := by unfold portActive; simp
@[simp] theorem linkUpEvent_pending (p : Nat) (s : State) : (linkUpEvent p s).pending = s.pending := by unfold linkUpEvent; simp
@[simp] theorem portStops_pending (p : Nat) (train : Nat) (cause : Nat) (s : State) : (portStops p train cause s).pending = s.pending := by unfold portStops; simp
@[simp] theorem trainPort_pending (p : Nat) (t : TrainReport) (s : State) : (trainPort p t s).pending = s.pending := by unfold trainPort; dsimp only; (repeat' split) <;> simp
@[simp] theorem startRetrain_pending (p : Nat) (s : State) : (startRetrain p s).pending = s.pending := by unfold startRetrain; simp
@[simp] theorem retrainPort_pending (p : Nat) (t : TrainReport) (s : State) : (retrainPort p t s).pending = s.pending := by unfold retrainPort; dsimp only; (repeat' split) <;> simp
@[simp] theorem disablePort_pending (p : Nat) (s : State) : (disablePort p s).pending = s.pending := by unfold disablePort; (repeat' split) <;> simp
@[simp] theorem setTcKey_pending (p : Nat) (tc3 : Bool) (k : Option TcKey) (s : State) : (setTcKey p tc3 k s).pending = s.pending := by unfold setTcKey; (repeat' split) <;> simp
@[simp] theorem nextPhase_pending (p : Nat) (tc3 : Bool) (s : State) : (nextPhase p tc3 s).pending = s.pending := by unfold nextPhase; (repeat' split) <;> simp
@[simp] theorem ackUpTo_pending (p : Nat) (ack : Nat) (s : State) : (ackUpTo p ack s).pending = s.pending := by unfold ackUpTo; simp
@[simp] theorem giveCredits_pending (p : Nat) (vc : Nat) (n : Nat) (s : State) : (giveCredits p vc n s).pending = s.pending := by unfold giveCredits; simp
@[simp] theorem creditField_pending (p : Nat) (v : U32) (s : State) : (creditField p v s).pending = s.pending := by unfold creditField; (repeat' split) <;> simp
@[simp] theorem flitLost_pending (p : Nat) (f : Flit) (bad : Bool) (s : State) : (flitLost p f bad s).pending = s.pending := by unfold flitLost; dsimp only; (repeat' split) <;> simp
@[simp] theorem takeNak_pending (p : Nat) (seq : Nat) (s : State) : (takeNak p seq s).pending = s.pending := by unfold takeNak; dsimp only; (repeat' split) <;> simp
@[simp] theorem takeFlit_pending (p : Nat) (f : Flit) (s : State) : (takeFlit p f s).pending = s.pending := by unfold takeFlit; (repeat' split) <;> simp
@[simp] theorem forwardOut_pending (p : Nat) (m : Tx) (s : State) : (forwardOut p m s).pending = s.pending := by unfold forwardOut; (repeat' split) <;> simp
@[simp] theorem releaseFwd_pending (s : State) : (releaseFwd s).pending = s.pending := by unfold releaseFwd; grind (splits := 30) [forwardOut_pending, modPorts_pending, foldl_pending]
@[simp] theorem routeFlit_pending (f : Flit) (s : State) : (routeFlit f s).pending = s.pending := by unfold routeFlit; dsimp only; (repeat' split) <;> simp
@[simp] theorem takeRope_pending (f : Flit) (s : State) : (takeRope f s).pending = s.pending := by unfold takeRope; (repeat' split) <;> simp
@[simp] theorem flitInOrder_pending (p : Nat) (f : Flit) (s : State) : (flitInOrder p f s).pending = s.pending := by unfold flitInOrder; dsimp only; (repeat' split) <;> simp
@[simp] theorem flitIn_pending (p : Nat) (f : Flit) (s : State) : (flitIn p f s).pending = s.pending := by unfold flitIn; dsimp only; (repeat' split) <;> simp
@[simp] theorem refusedFor_pending (rid : Option Nat) (s : State) : (refusedFor rid s).pending = s.pending := by unfold refusedFor; (repeat' split) <;> simp
@[simp] theorem dropRemote_pending (ptag : Nat) (s : State) : (dropRemote ptag s).pending = s.pending := by unfold dropRemote; (repeat' split) <;> simp
@[simp] theorem gotMore_pending (ptag : Nat) (n : Nat) (s : State) : (gotMore ptag n s).pending = s.pending := by unfold gotMore; simp
@[simp] theorem ackRemote_pending (pk : Packet) (s : State) : (ackRemote pk s).pending = s.pending := by unfold ackRemote; (repeat' split) <;> simp
@[simp] theorem dataRemote_pending (pk : Packet) (n : Nat) (s : State) : (dataRemote pk n s).pending = s.pending := by unfold dataRemote; (repeat' split) <;> simp
@[simp] theorem timeoutRemote_pending (ptag : Nat) (s : State) : (timeoutRemote ptag s).pending = s.pending := by unfold timeoutRemote; (repeat' split) <;> simp
@[simp] theorem sendBeats_pending (s : State) : (sendBeats s).pending = s.pending := by unfold sendBeats; grind (splits := 30) [emit_pending, foldl_pending]
@[simp] theorem takeBeat_pending (p : Nat) (pos : Nat) (hops : Nat) (exit : Nat) (st : Nat) (s : State) : (takeBeat p pos hops exit st s).pending = s.pending := by unfold takeBeat; (repeat' split) <;> simp [*]
@[simp] theorem losePeer_pending (pos : Nat) (s : State) : (losePeer pos s).pending = s.pending := by unfold losePeer; grind (splits := 30) [modPort_pending, modPorts_pending, devEvent_pending, reroute_pending, capsChanged_pending, foldl_pending]

/-! ### Models -/

@[simp] theorem readComps_pending (img : ModelImage) (r : Req) (s : State) : (readComps img r s).2.pending = s.pending := by
  unfold readComps
  apply foldlTwo_pending
  intro a e
  split
  · rename_i h; exact refRead_pending h
  · rfl
@[simp] theorem setLoad_pending (rid : Nat) (f : Load → Load) (s : State) : (setLoad rid f s).pending = s.pending := by unfold setLoad; simp
@[simp] theorem unloadModel_pending (m : Nat) (s : State) : (unloadModel m s).pending = s.pending := by unfold unloadModel; (repeat' split) <;> simp
@[simp] theorem abandonLoad_pending (l : Load) (s : State) : (abandonLoad l s).pending = s.pending := by unfold abandonLoad; simp
@[simp] theorem loadPage_pending (l : Load) (x : Model) (data : Memory) (s : State) : (loadPage l x data s).pending = s.pending := by unfold loadPage; dsimp only; (repeat' split) <;> simp
theorem loadTensor_pending {l : Load} {x : Model} {s : State} {t : State} (h : loadTensor l x s = some t) : t.pending = s.pending := by unfold loadTensor at h; grind (splits := 30) [newObj_pending, modModel_pending, commit_pending, setLoad_pending, foldl_pending]
@[simp] theorem loadRoom_pending (l : Load) (x : Model) (s : State) : (loadRoom l x s).pending = s.pending := by unfold loadRoom; dsimp only; (repeat' split) <;> simp
@[simp] theorem runLoad_pending (fuel rid : Nat) (s : State) : (runLoad fuel rid s).pending = s.pending := by
  induction fuel generalizing s with
  | zero => rfl
  | succ n ih =>
    unfold runLoad
    split
    · rfl
    · split
      · exact abandonLoad_pending ..
      · rw [complete_pending, modAgents_pending]
      · split
        · rw [commit_pending, abandonLoad_pending]
        · split
          · split
            · rename_i h; rw [ih, loadTensor_pending h]
            · rw [fail_pending, abandonLoad_pending]
          · (repeat' split)
            · rw [ih, loadPage_pending]
            · rw [ih, loadRoom_pending]
            · rfl
            · rw [fail_pending, abandonLoad_pending]
@[simp] theorem loadProgress_pending (s : State) : (loadProgress s).pending = s.pending := by unfold loadProgress; simp
@[simp] theorem loadBody_pending (img : ModelImage) (r : Req) (s : State) : (loadBody img r s).pending = s.pending := by
  unfold loadBody checked
  dsimp only
  split
  · exact fail_pending ..
  · rw [loadProgress_pending, setRunning_pending, modAgents_pending]
    rw [foldl_pending, readComps_pending]
    intro t k
    exact commit_pending ..
@[simp] theorem unloadBody_pending (r : Req) (s : State) : (unloadBody r s).pending = s.pending := by unfold unloadBody; simp
@[simp] theorem modelQueryBody_pending (r : Req) (s : State) : (modelQueryBody r s).pending = s.pending := by unfold modelQueryBody; dsimp only; (repeat' split) <;> simp
@[simp] theorem batchCfgBody_pending (r : Req) (s : State) : (batchCfgBody r s).pending = s.pending := by unfold batchCfgBody; simp
@[simp] theorem reshardDone_pending (id : Nat) (s : State) : (reshardDone id s).pending = s.pending := by unfold reshardDone; (repeat' split) <;> simp
@[simp] theorem retrievalExpired_pending (id : Nat) (blk : Nat) (s : State) : (retrievalExpired id blk s).pending = s.pending := by unfold retrievalExpired; (repeat' split) <;> simp
@[simp] theorem onSess_pending (r : Req) (errs : List (Bool × Nat)) (late : Sess → List (Bool × Nat)) (f : Nat → Sess → State → State) (s : State) (hf : ∀ a0 a1 t, (f a0 a1 t).pending = t.pending) : (onSess r errs late f s).pending = s.pending := by unfold onSess; dsimp only; (repeat' split) <;> simp [*]
@[simp] theorem createBody_pending (r : Req) (s : State) : (createBody r s).pending = s.pending := by unfold createBody; simp
theorem appendToks_pending {toks : List U32} {r : Req} {s t : State} {l : List U32} (h : appendToks toks r s = .ok (l, t)) : t.pending = s.pending := by
  unfold appendToks at h
  dsimp only at h
  split at h
  · simp at h; rw [h.2]
  · split at h
    · rename_i hr
      simp at h
      rw [← h.2, refRead_pending hr]
    · simp at h
@[simp] theorem atBoundary_pending (r : Req) (id : Nat) (x : Sess) (s : State) : (atBoundary r id x s).pending = s.pending := by unfold atBoundary; simp
@[simp] theorem appendBody_pending (toks : List U32) (r : Req) (id : Nat) (x : Sess) (s : State) : (appendBody toks r id x s).pending = s.pending := by
  unfold appendBody
  split
  · simp
  · rename_i h
    dsimp only
    (repeat' split) <;> simp [appendToks_pending h]
@[simp] theorem generateBody_pending (r : Req) (id : Nat) (x : Sess) (s : State) : (generateBody r id x s).pending = s.pending := by unfold generateBody; simp
@[simp] theorem pauseBody_pending (r : Req) (id : Nat) (x : Sess) (s : State) : (pauseBody r id x s).pending = s.pending := by unfold pauseBody; (repeat' split) <;> simp
@[simp] theorem resumeBody_pending (r : Req) (id : Nat) (x : Sess) (s : State) : (resumeBody r id x s).pending = s.pending := by unfold resumeBody; dsimp only; (repeat' split) <;> simp
@[simp] theorem forkBody_pending (r : Req) (id : Nat) (x : Sess) (s : State) : (forkBody r id x s).pending = s.pending := by unfold forkBody; (repeat' split) <;> simp
@[simp] theorem closeBody_pending (r : Req) (id : Nat) (x : Sess) (s : State) : (closeBody r id x s).pending = s.pending := by unfold closeBody; (repeat' split) <;> simp
@[simp] theorem mirrorReplies_pending (id : Nat) (st : Nat) (s : State) : (mirrorReplies id st s).pending = s.pending := by unfold mirrorReplies; (repeat' split) <;> simp
@[simp] theorem mirrorCommitted_pending (id : Nat) (seq : Nat) (s : State) : (mirrorCommitted id seq s).pending = s.pending := by unfold mirrorCommitted; (repeat' split) <;> simp
@[simp] theorem mirrorLate_pending (id : Nat) (s : State) : (mirrorLate id s).pending = s.pending := by unfold mirrorLate; dsimp only; (repeat' split) <;> simp
@[simp] theorem mirrorsLost_pending (pos : Nat) (s : State) : (mirrorsLost pos s).pending = s.pending := by unfold mirrorsLost; grind (splits := 30) [mirrorLost_pending, foldl_pending]

/-! ### StoreOps -/

@[simp] theorem modQp_pending (q : Nat) (f : Qp → Qp) (s : State) : (modQp q f s).pending = s.pending := by unfold modQp; simp
@[simp] theorem modStore_pending (f : Store → Store) (s : State) : (modStore f s).pending = s.pending := by unfold modStore; simp
@[simp] theorem modFeat_pending (c : Nat) (f : Feat → Feat) (s : State) : (modFeat c f s).pending = s.pending := by unfold modFeat; simp
@[simp] theorem logErr_pending (c : Nat) (sqid : Nat) (cid : Nat) (st : Nat) (lba : Nat) (ns : Nat) (s : State) : (logErr c sqid cid st lba ns s).pending = s.pending := by unfold logErr; (repeat' split) <;> simp
@[simp] theorem cqNotify_pending (q : Nat) (s : State) : (cqNotify q s).pending = s.pending := by unfold cqNotify; (repeat' split) <;> simp
@[simp] theorem cqCount_pending (q : Nat) (s : State) : (cqCount q s).pending = s.pending := by unfold cqCount; (repeat' split) <;> simp
@[simp] theorem putCqe_pending (p : Qp) (q : Nat) (entry : Bytes) (s : State) : (putCqe p q entry s).pending = s.pending := by unfold putCqe; grind (splits := 30) [ctxWrite_pending, remoteWrite_pending, record_pending, foldl_pending]
@[simp] theorem postCqe_pending (q : Nat) (p : Qp) (m : Cmd) (r : Nat × Nat × Nat) (s : State) : (postCqe q p m r s).pending = s.pending := by unfold postCqe; (repeat' split) <;> simp
@[simp] theorem drainCq_pending (fuel q : Nat) (s : State) : (drainCq fuel q s).pending = s.pending := by
  induction fuel generalizing s with
  | zero => rfl
  | succ k ih =>
    unfold drainCq
    split
    · rfl
    · split
      · rfl
      · split
        · rfl
        · rw [ih, postCqe_pending]
@[simp] theorem endQp_pending (q : Nat) (s : State) : (endQp q s).pending = s.pending := by unfold endQp; (repeat' split) <;> simp
@[simp] theorem adminDone_pending (r : Req) (st : Nat) (d0 : Nat) (s : State) : (adminDone r st d0 s).pending = s.pending := by unfold adminDone; simp
@[simp] theorem nsGone_pending (n : Nat) (s : State) : (nsGone n s).pending = s.pending := by unfold nsGone; (repeat' split) <;> simp
@[simp] theorem endDeletes_pending (s : State) : (endDeletes s).pending = s.pending := by unfold endDeletes; grind (splits := 30) [nsGone_pending, adminDone_pending, foldl_pending]
@[simp] theorem endDetaches_pending (s : State) : (endDetaches s).pending = s.pending := by unfold endDetaches; grind (splits := 30) [adminDone_pending, foldl_pending]
@[simp] theorem storeSettle_pending (q : Nat) (s : State) : (storeSettle q s).pending = s.pending := by unfold storeSettle; simp
@[simp] theorem countCmd_pending (e : Bytes) (st : Nat) (s : State) : (countCmd e st s).pending = s.pending := by unfold countCmd; (repeat' split) <;> simp
@[simp] theorem finishCmd_pending (q : Nat) (seq : Nat) (st : Nat) (d0 : Nat) (d1 : Nat) (s : State) : (finishCmd q seq st d0 d1 s).pending = s.pending := by unfold finishCmd; dsimp only; (repeat' split) <;> simp

/-! ### SearchOps -/

@[simp] theorem modSearch_pending (f : Search → Search) (s : State) : (modSearch f s).pending = s.pending := by unfold modSearch; simp
@[simp] theorem modIdx_pending (h : Nat) (f : Index → Index) (s : State) : (modIdx h f s).pending = s.pending := by unfold modIdx; simp [*]
@[simp] theorem beginMerge_pending (h : Nat) (waiters : List Nat) (s : State) : (beginMerge h waiters s).pending = s.pending := by unfold beginMerge; simp [*]
@[simp] theorem searchEvent_pending (code : Nat) (x : Index) (payload : Bytes) (s : State) : (searchEvent code x payload s).pending = s.pending := by unfold searchEvent; simp
@[simp] theorem checkSide_pending (h : Nat) (s : State) : (checkSide h s).pending = s.pending := by unfold checkSide; (repeat' split) <;> simp [*]
@[simp] theorem storeSide_pending (h : Nat) (e : Nat) (n : Nat) (s : State) : (storeSide h e n s).pending = s.pending := by unfold storeSide; (repeat' split) <;> simp [*]
@[simp] theorem applyEpoch_pending (rid : Nat) (h : Nat) (old : Index) (x : Index) (done : Nat) (other : Nat) (st : Nat) (s : State) : (applyEpoch rid h old x done other st s).pending = s.pending := by unfold applyEpoch; dsimp only; (repeat' split) <;> simp [*]
@[simp] theorem applyInsert_pending (rid : Nat) (h : Nat) (items : List (Nat × Bytes)) (st : Nat) (s : State) : (applyInsert rid h items st s).pending = s.pending := by unfold applyInsert; (repeat' split) <;> simp [*]
@[simp] theorem applyDelete_pending (rid : Nat) (h : Nat) (keys : List Nat) (s : State) : (applyDelete rid h keys s).pending = s.pending := by unfold applyDelete; (repeat' split) <;> simp [*]
@[simp] theorem storeArrays_pending (h : Nat) (s : State) : (storeArrays h s).pending = s.pending := by unfold storeArrays; grind (splits := 30) [dropCopy_pending, queueBulk_pending, foldl_pending]
@[simp] theorem publish_pending (h : Nat) (g : NewGraph) (s : State) : (publish h g s).pending = s.pending := by unfold publish; (repeat' split) <;> simp [*]
@[simp] theorem freeIndex_pending (h : Nat) (s : State) : (freeIndex h s).pending = s.pending := by unfold freeIndex; (repeat' split) <;> simp [*]
@[simp] theorem searchReset_pending (s : State) : (searchReset s).pending = s.pending := by unfold searchReset; simp

/-! ### TuneOps -/

@[simp] theorem drawF32_pending (n : Nat) (s : State) : (drawF32 n s).2.pending = s.pending := by unfold drawF32; simp
@[simp] theorem modGroup_pending (g : Nat) (f : Group → Group) (s : State) : (modGroup g f s).pending = s.pending := by unfold modGroup; simp
@[simp] theorem modBucket_pending (g : Nat) (seq : Nat) (f : Bucket → Bucket) (s : State) : (modBucket g seq f s).pending = s.pending := by unfold modBucket; simp
@[simp] theorem modRec_pending (g : Nat) (seq : Nat) (f : BucketRec → BucketRec) (s : State) : (modRec g seq f s).pending = s.pending := by unfold modRec; simp
@[simp] theorem modStep_pending (g : Nat) (n : Nat) (f : TStep → TStep) (s : State) : (modStep g n f s).pending = s.pending := by unfold modStep; simp
@[simp] theorem modTensor_pending (a : Nat) (i : Nat) (f : Tensor → Tensor) (s : State) : (modTensor a i f s).pending = s.pending := by unfold modTensor; simp
@[simp] theorem tuneEvent_pending (code : Nat) (ctx : Nat) (payload : Bytes) (s : State) : (tuneEvent code ctx payload s).pending = s.pending := by unfold tuneEvent; simp
@[simp] theorem sendCtl_pending (g : Nat) (kind : Nat) (dir : Nat) (seq : Nat) (mask : Nat) (cause : Nat) (s : State) : (sendCtl g kind dir seq mask cause s).pending = s.pending := by unfold sendCtl; simp
@[simp] theorem stepCommit_pending (g : Nat) (n : Nat) (units : Nat) (s : State) : (stepCommit g n units s).pending = s.pending := by unfold stepCommit; (repeat' split) <;> simp
@[simp] theorem stepFinish_pending (g : Nat) (n : Nat) (s : State) : (stepFinish g n s).pending = s.pending := by unfold stepFinish; dsimp only; (repeat' split) <;> simp
@[simp] theorem stageTensor_pending (g : Nat) (n : Nat) (i : Nat) (st : TStage) (s : State) : (stageTensor g n i st s).pending = s.pending := by unfold stageTensor; simp
@[simp] theorem breakTensor_pending (g : Nat) (n : Nat) (i : Nat) (s : State) : (breakTensor g n i s).pending = s.pending := by unfold breakTensor; (repeat' split) <;> simp
@[simp] theorem applyTensor_pending (g : Nat) (n : Nat) (i : Nat) (k : Nat) (qr : List U32) (s : State) : (applyTensor g n i k qr s).pending = s.pending := by unfold applyTensor; grind (splits := 30) [drawF32_pending, ctxWrite_pending, stageTensor_pending, modTensor_pending, breakTensor_pending, modStep_pending, foldl_pending]
@[simp] theorem gotFactor_pending (g : Nat) (n : Nat) (i : Nat) (k : Nat) (isQ : Bool) (vals : List U32) (nonFinite : Bool) (s : State) : (gotFactor g n i k isQ vals nonFinite s).pending = s.pending := by unfold gotFactor; (repeat' split) <;> simp
@[simp] theorem sendBlocks_pending (fuel g : Nat) (allGather : Bool) (step seq first origin digest : Nat) (l : List WireBlock) (s : State) : (sendBlocks fuel g allGather step seq first origin digest l s).pending = s.pending := by
  induction fuel generalizing first l s with
  | zero => exact emit_pending ..
  | succ k ih =>
    unfold sendBlocks
    dsimp only
    split
    · exact emit_pending ..
    · rw [ih, emit_pending]
@[simp] theorem sendOwn_pending (g : Nat) (seq : Nat) (s : State) : (sendOwn g seq s).pending = s.pending := by unfold sendOwn; (repeat' split) <;> simp
@[simp] theorem putFinal_pending (g : Nat) (seq : Nat) (first : Nat) (l : List WireBlock) (s : State) : (putFinal g seq first l s).pending = s.pending := by unfold putFinal; simp
@[simp] theorem ringPacket_pending (g : Nat) (x : Group) (b : Bucket) (pk : TunePacket) (s : State) : (ringPacket g x b pk s).pending = s.pending := by unfold ringPacket; (repeat' split) <;> simp
@[simp] theorem breakOne_pending (g : Nat) (seq : Nat) (cause : Nat) (s : State) : (breakOne g seq cause s).pending = s.pending := by unfold breakOne; (repeat' split) <;> simp
@[simp] theorem breakBucket_pending (g : Nat) (seq : Nat) (cause : Nat) (s : State) : (breakBucket g seq cause s).pending = s.pending := by unfold breakBucket; grind (splits := 30) [breakOne_pending, foldl_pending]
@[simp] theorem applyBucket_pending (g : Nat) (seq : Nat) (s : State) : (applyBucket g seq s).pending = s.pending := by unfold applyBucket; (repeat' split) <;> simp
@[simp] theorem drainEarly_pending (fuel g seq : Nat) (s : State) : (drainEarly fuel g seq s).pending = s.pending := by
  induction fuel generalizing s with
  | zero => rfl
  | succ k ih =>
    unfold drainEarly
    split
    · split
      · rfl
      · split
        · dsimp only
          split
          · rw [breakBucket_pending, modBucket_pending]
          · rw [ih, applyBucket_pending, ringPacket_pending, modBucket_pending]
        · rfl
    · rfl
@[simp] theorem closeOpen_pending (g : Nat) (s : State) : (closeOpen g s).pending = s.pending := by unfold closeOpen; dsimp only; (repeat' split) <;> simp
@[simp] theorem openBucket_pending (g : Nat) (s : State) : (openBucket g s).pending = s.pending := by unfold openBucket; (repeat' split) <;> simp
theorem placeFactor_pending {g n i atag : Nat} {isQ : Bool} {vals : List U32} {s t : State} (h : placeFactor g n i atag isQ vals s = some t) : t.pending = s.pending := by
  unfold placeFactor at h
  split at h
  · simp at h
  · dsimp only at h
    split at h
    · split at h
      · simp at h; rw [← h]; simp
      · split at h
        · split at h
          · simp at h; rw [← h]; simp
          · simp at h
        · simp at h
    · split at h
      · simp at h; rw [← h]; simp
      · simp at h
theorem placeNext_pending {x : TStep} {s t : State} (h : placeNext x s = some t) : t.pending = s.pending := by
  unfold placeNext at h
  split at h
  · dsimp only at h
    split at h
    · split at h
      · simp at h; rw [← h]; simp
      · split at h
        · simp at h
        · split at h
          · simp at h; rw [← h]; simp
          · simp only [Option.map_eq_some_iff] at h
            obtain ⟨u, hu, h⟩ := h
            rw [← h, modStep_pending, placeFactor_pending hu]; simp
    · split at h
      · simp at h; rw [← h]; simp
      · simp at h
    · split at h
      · simp at h; rw [← h]; simp
      · split at h
        · simp at h
        · split at h
          · simp at h; rw [← h]; simp
          · simp only [Option.map_eq_some_iff] at h
            obtain ⟨u, hu, h⟩ := h
            rw [← h, modStep_pending, placeFactor_pending hu]; simp
    · simp at h
  · simp at h
@[simp] theorem placeAll_pending (fuel g : Nat) (s : State) : (placeAll fuel g s).pending = s.pending := by
  induction fuel generalizing s with
  | zero => rfl
  | succ k ih =>
    unfold placeAll
    split
    · split
      · split
        · rename_i hp
          rw [ih, placeNext_pending hp]
        · rfl
      · rfl
    · rfl
@[simp] theorem endDead_pending (g : Nat) (s : State) : (endDead g s).pending = s.pending := by unfold endDead; grind (splits := 30) [modStep_pending, breakBucket_pending, breakTensor_pending, stepFinish_pending, commit_pending, foldl_pending]
@[simp] theorem pumpGroup_pending (g : Nat) (s : State) : (pumpGroup g s).pending = s.pending := by unfold pumpGroup; grind (splits := 30) [endDead_pending, drainEarly_pending, sendOwn_pending, placeAll_pending, foldl_pending]
@[simp] theorem pumpAll_pending (s : State) : (pumpAll s).pending = s.pending := by unfold pumpAll; simp
@[simp] theorem groupReady_pending (g : Nat) (s : State) : (groupReady g s).pending = s.pending := by unfold groupReady; (repeat' split) <;> simp
@[simp] theorem sayHello_pending (g : Nat) (s : State) : (sayHello g s).pending = s.pending := by unfold sayHello; dsimp only; (repeat' split) <;> simp
@[simp] theorem ringChanged_pending (s : State) : (ringChanged s).pending = s.pending := by unfold ringChanged; simp
@[simp] theorem freeTune_pending (c : Nat) (s : State) : (freeTune c s).pending = s.pending := by unfold freeTune; simp

/-! ### Interrupt -/

@[simp] theorem endEntry_pending (cause : Nat) (r : Req) (s : State) : (endEntry cause r s).pending = s.pending := by unfold endEntry; simp
@[simp] theorem dropProg_pending (id : Nat) (s : State) : (dropProg id s).pending = s.pending := by unfold dropProg; (repeat' split) <;> simp
@[simp] theorem rewindSess_pending (blocks : Sess → Nat) (id : Nat) (s : State) : (rewindSess blocks id s).pending = s.pending := by unfold rewindSess; (repeat' split) <;> simp
@[simp] theorem interruptAgent_pending (r : Req) (id : Nat) (x : Sess) (s : State) : (interruptAgent r id x s).pending = s.pending := by unfold interruptAgent; dsimp only; (repeat' split) <;> simp
@[simp] theorem interruptStep_pending (r : Req) (s : State) : (interruptStep r s).pending = s.pending := by unfold interruptStep; grind (splits := 30) [breakBucket_pending, foldl_pending]
@[simp] theorem interruptMerge_pending (r : Req) (s : State) : (interruptMerge r s).pending = s.pending := by unfold interruptMerge; simp
@[simp] theorem interruptReq_pending (cause : Nat) (r : Req) (s : State) : (interruptReq cause r s).pending = s.pending := by unfold interruptReq; (repeat' split) <;> simp
@[simp] theorem interruptMbx_pending (cause : Nat) (n : Nat) (s : State) : (interruptMbx cause n s).pending = s.pending := by unfold interruptMbx; simp
@[simp] theorem mailboxReset_pending (n : Nat) (s : State) : (mailboxReset n s).pending = s.pending := by unfold mailboxReset; (repeat' split) <;> simp
@[simp] theorem mailboxResetDone_pending (n : Nat) (s : State) : (mailboxResetDone n s).pending = s.pending := by unfold mailboxResetDone; (repeat' split) <;> simp
@[simp] theorem eventRingReset_pending (s : State) : (eventRingReset s).pending = s.pending := by unfold eventRingReset; (repeat' split) <;> simp

/-! ### Switch -/

@[simp] theorem modCtxs_pending (f : Contexts → Contexts) (s : State) : (modCtxs f s).pending = s.pending := by unfold modCtxs; simp
@[simp] theorem ctxEvent_pending (c : Nat) (old : CtxState) (new : CtxState) (cause : Nat) (us : Nat) (s : State) : (ctxEvent c old new cause us s).pending = s.pending := by unfold ctxEvent; simp
@[simp] theorem setWays_pending (s : State) : (setWays s).pending = s.pending := by unfold setWays; simp
@[simp] theorem setSemResult_pending (c : Nat) (h : Nat) (w : U64) (s : State) : (setSemResult c h w s).pending = s.pending := by unfold setSemResult; simp [*]
@[simp] theorem answerSem_pending (c : Nat) (h : Nat) (w : U64) (s : State) : (answerSem c h w s).pending = s.pending := by unfold answerSem; (repeat' split) <;> simp [*]
@[simp] theorem deliverSems_pending (c : Nat) (s : State) : (deliverSems c s).pending = s.pending := by unfold deliverSems; simp
@[simp] theorem modSem_pending (n : Nat) (f : Sem → Sem) (s : State) : (modSem n f s).pending = s.pending := by unfold modSem; simp
@[simp] theorem passSem_pending (n : Nat) (abandoned : Bool) (idle : Sem → Sem) (s : State) : (passSem n abandoned idle s).pending = s.pending := by unfold passSem; (repeat' split) <;> simp
@[simp] theorem dropWaits_pending (sel : Waiter → Bool) (s : State) : (dropWaits sel s).pending = s.pending := by unfold dropWaits; simp
@[simp] theorem stopPfs_pending (cores : List Nat) (s : State) : (stopPfs cores s).pending = s.pending := by unfold stopPfs; simp
@[simp] theorem clearUnits_pending (k : Slot) (s : State) : (clearUnits k s).pending = s.pending := by unfold clearUnits; grind (splits := 30) [setEng_pending, l1Clear_pending, dropHarts_pending, foldl_pending]
@[simp] theorem settleSuspends_pending (c : Nat) (s : State) : (settleSuspends c s).pending = s.pending := by unfold settleSuspends; simp
@[simp] theorem switchOut_pending (c : Nat) (cause : Nat) (s : State) : (switchOut c cause s).pending = s.pending := by unfold switchOut; grind (splits := 30) [drainStores_pending, endTjoin_pending, cutLinks_pending, stopPfs_pending, clearUnits_pending, modSlot_pending, modCtxs_pending, settleSuspends_pending, setWays_pending, ctxEvent_pending, foldl_pending]
@[simp] theorem discardTask_pending (c : Nat) (h : Nat) (v : Hart) (s : State) : (discardTask c h v s).pending = s.pending := by unfold discardTask; dsimp only; (repeat' split) <;> simp [*]
@[simp] theorem streamResume_pending (c : Nat) (rcd : Bytes) (s : State) : (streamResume c rcd s).pending = s.pending := by unfold streamResume; grind (splits := 30) [ctxWrite_pending, spawnResume_pending, badResume_pending, foldl_pending]
@[simp] theorem switchIn_pending (c : Nat) (cause : Nat) (us : Nat) (s : State) : (switchIn c cause us s).pending = s.pending := by unfold switchIn; grind (splits := 30) [discardTask_pending, setEng_pending, putHart_pending, dropHarts_pending, modSlot_pending, modCtxs_pending, raiseEvent_pending, resumeLinks_pending, deliverSems_pending, ctxEvent_pending, setWays_pending, pumpAll_pending, streamResume_pending, foldl_pending]

/-! ### StoreCmd -/

@[simp] theorem pagesWrite_pending (space c : Nat) (l : List (Nat × Nat)) (data : Bytes) (s : State) : (pagesWrite space c l data s).2.pending = s.pending := by
  induction l generalizing data s with
  | nil => rfl
  | cons a r ih =>
    obtain ⟨a, n⟩ := a
    unfold pagesWrite
    split
    · rfl
    · split
      · split
        · rename_i hw
          rw [ih, ctxWrite_pending hw]
        · rfl
        · rfl
      · rw [ih, remoteWrite_pending]
@[simp] theorem qpCreate_pending (r : Req) (s : State) : (qpCreate r s).pending = s.pending := by unfold qpCreate; simp
@[simp] theorem deleteQp_pending (q : Nat) (rid : Option Nat) (s : State) : (deleteQp q rid s).pending = s.pending := by unfold deleteQp; simp
@[simp] theorem qpDelete_pending (r : Req) (s : State) : (qpDelete r s).pending = s.pending := by unfold qpDelete; simp
@[simp] theorem qpQuery_pending (r : Req) (s : State) : (qpQuery r s).pending = s.pending := by unfold qpQuery; (repeat' split) <;> simp
@[simp] theorem badDb_pending (q : Nat) (which : Nat) (v : Nat) (p : Qp) (s : State) : (badDb q which v p s).pending = s.pending := by unfold badDb; simp
@[simp] theorem askEntries_pending (p : Qp) (old : Nat) (new : Nat) (s : State) : (askEntries p old new s).pending = s.pending := by unfold askEntries; (repeat' split) <;> simp
@[simp] theorem qpDoorbell_pending (q : Nat) (s : State) : (qpDoorbell q s).pending = s.pending := by unfold qpDoorbell; dsimp only; (repeat' split) <;> simp
@[simp] theorem sqFetch_pending (q : Nat) (given : Bytes) (s : State) : (sqFetch q given s).pending = s.pending := by unfold sqFetch; dsimp only; (repeat' split) <;> simp
@[simp] theorem ioCmd_pending (q : Nat) (op : Nat) (f : Qp → Cmd → State → State) (s : State) (hf : ∀ a0 a1 t, (f a0 a1 t).pending = t.pending) : (ioCmd q op f s).pending = s.pending := by unfold ioCmd; (repeat' split) <;> simp [*]
@[simp] theorem ioCheck_pending (q : Nat) (m : Cmd) (l : List (Bool × Nat)) (ok : State → State) (s : State) (hok : ∀  t, (ok  t).pending = t.pending) : (ioCheck q m l ok s).pending = s.pending := by unfold ioCheck; (repeat' split) <;> simp [*]
@[simp] theorem dataCmd_pending (q : Nat) (p : Qp) (m : Cmd) (write : Bool) (refused : Bool) (prps : List Nat) (f : Ns → List (Nat × Nat) → State → State) (s : State) (hf : ∀ a0 a1 t, (f a0 a1 t).pending = t.pending) : (dataCmd q p m write refused prps f s).pending = s.pending := by unfold dataCmd; grind (splits := 30) [ioCheck_pending, foldl_pending]
@[simp] theorem waitCmd_pending (q : Nat) (seq : Nat) (s : State) : (waitCmd q seq s).pending = s.pending := by unfold waitCmd; simp
@[simp] theorem queueData_pending (q : Nat) (m : Cmd) (us : List BufUnit) (s : State) : (queueData q m us s).pending = s.pending := by unfold queueData; simp
@[simp] theorem writeCmd_pending (q : Nat) (data : Bytes) (refused : Bool) (p : Qp) (m : Cmd) (s : State) : (writeCmd q data refused p m s).pending = s.pending := by unfold writeCmd; grind (splits := 30) [dataCmd_pending, queueData_pending, foldl_pending]
@[simp] theorem flushCmd_pending (q : Nat) (_p : Qp) (m : Cmd) (s : State) : (flushCmd q _p m s).pending = s.pending := by unfold flushCmd; simp
@[simp] theorem readCmd_pending (q : Nat) (prps : List Nat) (refused : Bool) (p : Qp) (m : Cmd) (s : State) : (readCmd q prps refused p m s).pending = s.pending := by unfold readCmd; grind (splits := 30) [dataCmd_pending, finishCmd_pending, pagesWrite_pending, foldl_pending]
@[simp] theorem compareCmd_pending (q : Nat) (data : Bytes) (refused : Bool) (p : Qp) (m : Cmd) (s : State) : (compareCmd q data refused p m s).pending = s.pending := by unfold compareCmd; grind (splits := 30) [dataCmd_pending, finishCmd_pending, foldl_pending]
@[simp] theorem dropDirty_pending (idx : Nat) (s : State) : (dropDirty idx s).pending = s.pending := by unfold dropDirty; (repeat' split) <;> simp
@[simp] theorem deallocate_pending (q : Nat) (m : Cmd) (x : Ns) (ranges : List (Nat × Nat)) (s : State) : (deallocate q m x ranges s).pending = s.pending := by unfold deallocate; dsimp only; (repeat' split) <;> simp
@[simp] theorem zeroesCmd_pending (q : Nat) (_p : Qp) (m : Cmd) (s : State) : (zeroesCmd q _p m s).pending = s.pending := by unfold zeroesCmd; grind (splits := 30) [ioCheck_pending, deallocate_pending, foldl_pending]
@[simp] theorem dsmCmd_pending (q : Nat) (data : Bytes) (refused : Bool) (p : Qp) (m : Cmd) (s : State) : (dsmCmd q data refused p m s).pending = s.pending := by unfold dsmCmd; grind (splits := 30) [ioCheck_pending, deallocate_pending, finishCmd_pending, foldl_pending]
@[simp] theorem vendorEnd_pending (q : Nat) (m : Cmd) (d0 : Nat) (st : Nat) (s : State) : (vendorEnd q m d0 st s).pending = s.pending := by unfold vendorEnd; simp
@[simp] theorem vendorWrite_pending (q : Nat) (p : Qp) (m : Cmd) (l : List (Nat × Nat)) (data : Bytes) (d0 : Nat) (st : Nat) (s : State) : (vendorWrite q p m l data d0 st s).pending = s.pending := by unfold vendorWrite; dsimp only; (repeat' split) <;> simp
@[simp] theorem vendorScan_pending (q : Nat) (prps : List Nat) (refused : Bool) (p : Qp) (m : Cmd) (s : State) : (vendorScan q prps refused p m s).pending = s.pending := by unfold vendorScan; grind (splits := 30) [ioCheck_pending, vendorEnd_pending, vendorWrite_pending, foldl_pending]
@[simp] theorem vendorSearch_pending (q : Nat) (code : Bytes) (prps : List Nat) (refused : Bool) (p : Qp) (m : Cmd) (s : State) : (vendorSearch q code prps refused p m s).pending = s.pending := by unfold vendorSearch; grind (splits := 30) [ioCheck_pending, vendorEnd_pending, vendorWrite_pending, foldl_pending]
@[simp] theorem cqTimeLimit_pending (q : Nat) (s : State) : (cqTimeLimit q s).pending = s.pending := by unfold cqTimeLimit; (repeat' split) <;> simp
@[simp] theorem abortQp_pending (q : Nat) (s : State) : (abortQp q s).pending = s.pending := by unfold abortQp; (repeat' split) <;> simp

/-! ### Flash -/

@[simp] theorem flashEvent_pending (code : Nat) (payload : Bytes) (s : State) : (flashEvent code payload s).pending = s.pending := by unfold flashEvent; simp
@[simp] theorem wearCheck_pending (s : State) : (wearCheck s).pending = s.pending := by unfold wearCheck; grind (splits := 30) [flashEvent_pending, modFtl_pending, foldl_pending]
@[simp] theorem spareCheck_pending (s : State) : (spareCheck s).pending = s.pending := by unfold spareCheck; dsimp only; (repeat' split) <;> simp
@[simp] theorem takeUnit_pending (thru : Bool) (cmd : Option (Nat × Nat)) (u : BufUnit) (s : State) : (takeUnit thru cmd u s).pending = s.pending := by unfold takeUnit; dsimp only; (repeat' split) <;> simp
@[simp] theorem sideAccepted_pending (h : Nat) (e : Nat) (s : State) : (sideAccepted h e s).pending = s.pending := by unfold sideAccepted; simp [*]
@[simp] theorem itemAccepted_pending (i : FItem) (s : State) : (itemAccepted i s).pending = s.pending := by unfold itemAccepted; (repeat' split) <;> simp
@[simp] theorem itemDurable_pending (i : FItem) (s : State) : (itemDurable i s).pending = s.pending := by unfold itemDurable; (repeat' split) <;> simp
@[simp] theorem acceptItems_pending (w : FWrite) (s : State) : (acceptItems w s).pending = s.pending := by unfold acceptItems; simp
@[simp] theorem takeWrite_pending (w : FWrite) (s : State) : (takeWrite w s).pending = s.pending := by unfold takeWrite; dsimp only; (repeat' split) <;> simp
@[simp] theorem writeSegment_pending (seg : Nat) (s : State) : (writeSegment seg s).pending = s.pending := by unfold writeSegment; (repeat' split) <;> simp
@[simp] theorem openSb_pending (sb : Nat) (slc : Bool) (pinned : Bool) (s : State) : (openSb sb slc pinned s).pending = s.pending := by unfold openSb; simp
@[simp] theorem stripeDone_pending (sb : Nat) (n : Nat) (s : State) : (stripeDone sb n s).pending = s.pending := by unfold stripeDone; simp
@[simp] theorem putSlot_pending (slot : Nat) (space : Nat) (idx : Nat) (dom : Nat) (item : FItem) (data : Memory) (s : State) : (putSlot slot space idx dom item data s).pending = s.pending := by unfold putSlot; simp
@[simp] theorem commitMap_pending (space : Nat) (idx : Nat) (slot : Nat) (cond : Option Nat) (s : State) : (commitMap space idx slot cond s).pending = s.pending := by unfold commitMap; (repeat' split) <;> simp
@[simp] theorem commitUnit_pending (slot : Nat) (u : BufUnit) (s : State) : (commitUnit slot u s).pending = s.pending := by unfold commitUnit; (repeat' split) <;> simp
@[simp] theorem afterCommit_pending (us : List BufUnit) (s : State) : (afterCommit us s).pending = s.pending := by unfold afterCommit; simp
@[simp] theorem commitAll_pending (l : List (BufUnit × Nat)) (s : State) : (commitAll l s).pending = s.pending := by unfold commitAll; simp
@[simp] theorem readySb_pending (sb : Nat) (pinned : Bool) (moves : Bool) (s : State) : (readySb sb pinned moves s).pending = s.pending := by unfold readySb; (repeat' split) <;> simp
@[simp] theorem programStripe_pending (sb : Nat) (ids : List Nat) (failBlock : Option Nat) (s : State) : (programStripe sb ids failBlock s).pending = s.pending := by unfold programStripe; dsimp only; (repeat' split) <;> simp
@[simp] theorem moveUnit_pending (slot : Nat) (e : Nat × Nat × Nat) (s : State) : (moveUnit slot e s).pending = s.pending := by unfold moveUnit; (repeat' split) <;> simp
@[simp] theorem copyInto_pending (fuel dst : Nat) (l : List (Nat × Nat × Nat)) (s : State) : (copyInto fuel dst l s).pending = s.pending := by
  induction fuel generalizing l s with
  | zero => unfold copyInto; rfl
  | succ k ih =>
    cases l with
    | nil => rfl
    | cons a r =>
      unfold copyInto
      dsimp only
      split
      · rfl
      · rw [ih]; simp
@[simp] theorem eraseSb_pending (sb : Nat) (s : State) : (eraseSb sb s).pending = s.pending := by unfold eraseSb; simp
@[simp] theorem addCredit_pending (n : Nat) (s : State) : (addCredit n s).pending = s.pending := by unfold addCredit; simp
@[simp] theorem reclaim_pending (src : Nat) (dst : Nat) (s : State) : (reclaim src dst s).pending = s.pending := by unfold reclaim; dsimp only; (repeat' split) <;> simp
@[simp] theorem foldCache_pending (s : State) : (foldCache s).pending = s.pending := by unfold foldCache; (repeat' split) <;> simp
@[simp] theorem collect_pending (dst : Nat) (s : State) : (collect dst s).pending = s.pending := by unfold collect; (repeat' split) <;> simp
@[simp] theorem wearLevel_pending (dst : Nat) (s : State) : (wearLevel dst s).pending = s.pending := by unfold wearLevel; dsimp only; (repeat' split) <;> simp
@[simp] theorem rewriteUnit_pending (slot : Nat) (p : SlotPg) (s : State) : (rewriteUnit slot p s).pending = s.pending := by unfold rewriteUnit; (repeat' split) <;> simp
@[simp] theorem pageGone_pending (i : FItem) (s : State) : (pageGone i s).pending = s.pending := by unfold pageGone; (repeat' split) <;> simp
@[simp] theorem loseUnit_pending (slot : Nat) (p : SlotPg) (s : State) : (loseUnit slot p s).pending = s.pending := by unfold loseUnit; dsimp only; (repeat' split) <;> simp
@[simp] theorem keepRetry_pending (slot : Nat) (s : State) : (keepRetry slot s).pending = s.pending := by unfold keepRetry; simp
@[simp] theorem readSlot_pending (slot : Nat) (step : Nat) (s : State) : (readSlot slot step s).pending = s.pending := by unfold readSlot; (repeat' split) <;> simp
@[simp] theorem flashSample_pending (slot : Nat) (s : State) : (flashSample slot s).pending = s.pending := by unfold flashSample; (repeat' split) <;> simp
@[simp] theorem scanMedia_pending (blocks : List Nat) (s : State) : (scanMedia blocks s).pending = s.pending := by unfold scanMedia; grind (splits := 30) [modFtl_pending, foldl_pending]
@[simp] theorem dieEvent_pending (ch : Nat) (d : Nat) (what : Nat) (s : State) : (dieEvent ch d what s).pending = s.pending := by unfold dieEvent; simp
@[simp] theorem failDie_pending (ch : Nat) (d : Nat) (s : State) : (failDie ch d s).pending = s.pending := by unfold failDie; grind (splits := 30) [modFtl_pending, modCnt_pending, dieEvent_pending, spareCheck_pending, capsChanged_pending, pageGone_pending, foldl_pending]
@[simp] theorem countRetired_pending (die : Nat) (s : State) : (countRetired die s).pending = s.pending := by unfold countRetired; dsimp only; (repeat' split) <;> simp
@[simp] theorem retireBlock_pending (b : Nat) (cause : Nat) (s : State) : (retireBlock b cause s).pending = s.pending := by unfold retireBlock; (repeat' split) <;> simp
@[simp] theorem dieRebuilt_pending (ch : Nat) (d : Nat) (s : State) : (dieRebuilt ch d s).pending = s.pending := by unfold dieRebuilt; dsimp only; (repeat' split) <;> simp
@[simp] theorem setLimit_pending (u : Nat) (s : State) : (setLimit u s).pending = s.pending := by unfold setLimit; dsimp only; (repeat' split) <;> simp
@[simp] theorem putRecord_pending (cause : Nat) (complete : Bool) (us : List BufUnit) (deltas : Nat) (s : State) : (putRecord cause complete us deltas s).pending = s.pending := by unfold putRecord; simp
@[simp] theorem flushJournal_pending (complete : Bool) (s : State) : (flushJournal complete s).pending = s.pending := by unfold flushJournal; (repeat' split) <;> simp
@[simp] theorem flushSteps_pending (cause : Nat) (complete : Bool) (s : State) : (flushSteps cause complete s).pending = s.pending := by unfold flushSteps; (repeat' split) <;> simp
@[simp] theorem restoreFlush_pending (s : State) : (restoreFlush s).pending = s.pending := by unfold restoreFlush; dsimp only; (repeat' split) <;> simp

/-! ### StoreAdmin -/

@[simp] theorem adminCheck_pending (r : Req) (l : List (Bool × Nat)) (ok : State → State) (s : State) (hok : ∀  t, (ok  t).pending = t.pending) : (adminCheck r l ok s).pending = s.pending := by unfold adminCheck; (repeat' split) <;> simp [*]
@[simp] theorem adminData_pending (r : Req) (data : Bytes) (prps : List Nat) (s : State) : (adminData r data prps s).pending = s.pending := by unfold adminData; dsimp only; (repeat' split) <;> simp
@[simp] theorem identifyBody_pending (prps : List Nat) (refused : Bool) (r : Req) (s : State) : (identifyBody prps refused r s).pending = s.pending := by unfold identifyBody; simp
@[simp] theorem logBody_pending (prps : List Nat) (refused : Bool) (r : Req) (s : State) : (logBody prps refused r s).pending = s.pending := by unfold logBody; dsimp only; (repeat' split) <;> simp
@[simp] theorem setFeatBody_pending (r : Req) (s : State) : (setFeatBody r s).pending = s.pending := by unfold setFeatBody; simp
@[simp] theorem getFeatBody_pending (r : Req) (s : State) : (getFeatBody r s).pending = s.pending := by unfold getFeatBody; simp
@[simp] theorem createNs_pending (d : Bytes) (r : Req) (s : State) : (createNs d r s).pending = s.pending := by unfold createNs; grind (splits := 30) [adminCheck_pending, modStore_pending, adminDone_pending, keyRecord_pending, foldl_pending]
@[simp] theorem deleteNs_pending (r : Req) (s : State) : (deleteNs r s).pending = s.pending := by unfold deleteNs; dsimp only; (repeat' split) <;> simp
@[simp] theorem mgmtBody_pending (data : Bytes) (refused : Bool) (r : Req) (s : State) : (mgmtBody data refused r s).pending = s.pending := by unfold mgmtBody; dsimp only; (repeat' split) <;> simp
@[simp] theorem attachBody_pending (data : Bytes) (refused : Bool) (r : Req) (s : State) : (attachBody data refused r s).pending = s.pending := by unfold attachBody; dsimp only; (repeat' split) <;> simp
@[simp] theorem sanitizeBody_pending (r : Req) (s : State) : (sanitizeBody r s).pending = s.pending := by unfold sanitizeBody; grind (splits := 30) [adminCheck_pending, setRunning_pending, modStore_pending, foldl_pending]
@[simp] theorem wipeFlash_pending (s : State) : (wipeFlash s).pending = s.pending := by unfold wipeFlash; simp
@[simp] theorem eraseAll_pending (s : State) : (eraseAll s).pending = s.pending := by unfold eraseAll; simp
@[simp] theorem sanitizeDone_pending (s : State) : (sanitizeDone s).pending = s.pending := by unfold sanitizeDone; dsimp only; (repeat' split) <;> simp
@[simp] theorem serveAdmin_pending (rid : Nat) (sel : Bytes → Bool) (f : Req → State → State) (s : State) (hf : ∀ a0 t, (f a0 t).pending = t.pending) : (serveAdmin rid sel f s).pending = s.pending := by unfold serveAdmin; grind (splits := 30) [serve_pending, fail_pending, foldl_pending]
@[simp] theorem adminAny_pending (data : Bytes) (prps : List Nat) (refused : Bool) (r : Req) (s : State) : (adminAny data prps refused r s).pending = s.pending := by unfold adminAny; (repeat' split) <;> simp
@[simp] theorem keepAliveExpired_pending (c : Nat) (s : State) : (keepAliveExpired c s).pending = s.pending := by unfold keepAliveExpired; dsimp only; (repeat' split) <;> simp

/-! ### Contexts -/

@[simp] theorem resetPages_pending (c : Nat) (s : State) : (resetPages c s).pending = s.pending := by unfold resetPages; simp
@[simp] theorem allocSlot_pending (c : Nat) (p : Bytes) (s : State) : (allocSlot c p s).pending = s.pending := by unfold allocSlot; (repeat' split) <;> simp
@[simp] theorem ctxAllocBody_pending (r : Req) (s : State) : (ctxAllocBody r s).pending = s.pending := by unfold ctxAllocBody; simp
@[simp] theorem configSlot_pending (c : Nat) (n : CtxCfg) (k : Slot) (s : State) : (configSlot c n k s).pending = s.pending := by unfold configSlot; simp
@[simp] theorem ctxConfigBody_pending (r : Req) (s : State) : (ctxConfigBody r s).pending = s.pending := by unfold ctxConfigBody; dsimp only; (repeat' split) <;> simp
@[simp] theorem freeSem_pending (n : Nat) (s : State) : (freeSem n s).pending = s.pending := by unfold freeSem; (repeat' split) <;> simp
@[simp] theorem abandonSem_pending (n : Nat) (s : State) : (abandonSem n s).pending = s.pending := by unfold abandonSem; simp
@[simp] theorem freeCtxSems_pending (c : Nat) (s : State) : (freeCtxSems c s).pending = s.pending := by unfold freeCtxSems; simp
@[simp] theorem freeCtxWork_pending (c : Nat) (s : State) : (freeCtxWork c s).pending = s.pending := by unfold freeCtxWork; simp
@[simp] theorem freeCtxTasks_pending (c : Nat) (s : State) : (freeCtxTasks c s).pending = s.pending := by unfold freeCtxTasks; simp
@[simp] theorem discardUnits_pending (c : Nat) (s : State) : (discardUnits c s).pending = s.pending := by unfold discardUnits; (repeat' split) <;> simp
@[simp] theorem freeCtx_pending (cause : Nat) (c : Nat) (s : State) : (freeCtx cause c s).pending = s.pending := by unfold freeCtx; (repeat' split) <;> simp
@[simp] theorem ctxFreeBody_pending (r : Req) (s : State) : (ctxFreeBody r s).pending = s.pending := by unfold ctxFreeBody; simp
@[simp] theorem ctxQueryBody_pending (r : Req) (s : State) : (ctxQueryBody r s).pending = s.pending := by unfold ctxQueryBody; simp
@[simp] theorem ctxSuspendBody_pending (r : Req) (s : State) : (ctxSuspendBody r s).pending = s.pending := by unfold ctxSuspendBody; grind (splits := 30) [checked_pending, modSlot_pending, setRunning_pending, complete_pending, foldl_pending]
@[simp] theorem ctxResumeBody_pending (r : Req) (s : State) : (ctxResumeBody r s).pending = s.pending := by unfold ctxResumeBody; simp
@[simp] theorem schedSetBody_pending (r : Req) (s : State) : (schedSetBody r s).pending = s.pending := by unfold schedSetBody; simp
@[simp] theorem semAllocBody_pending (r : Req) (s : State) : (semAllocBody r s).pending = s.pending := by unfold semAllocBody; simp
@[simp] theorem semFreeBody_pending (r : Req) (s : State) : (semFreeBody r s).pending = s.pending := by unfold semFreeBody; simp
@[simp] theorem onSem_pending (h : Nat) (n : Nat) (f : Nat → Sem → State → State) (s : State) (hf : ∀ a0 a1 t, (f a0 a1 t).pending = t.pending) : (onSem h n f s).pending = s.pending := by unfold onSem; grind (splits := 30) [onHart_pending, setSemResult_pending, foldl_pending]
@[simp] theorem takeSem_pending (c : Nat) (h : Nat) (n : Nat) (m : Sem) (s : State) : (takeSem c h n m s).pending = s.pending := by unfold takeSem; simp [*]
@[simp] theorem acquireSem_pending (h : Nat) (n : Nat) (timeout : Nat) (rid : Option Nat) (c : Nat) (m : Sem) (s : State) : (acquireSem h n timeout rid c m s).pending = s.pending := by unfold acquireSem; (repeat' split) <;> simp [*]
@[simp] theorem trySem_pending (h : Nat) (n : Nat) (c : Nat) (m : Sem) (s : State) : (trySem h n c m s).pending = s.pending := by unfold trySem; (repeat' split) <;> simp [*]
@[simp] theorem releaseSem_pending (h : Nat) (n : Nat) (c : Nat) (m : Sem) (s : State) : (releaseSem h n c m s).pending = s.pending := by unfold releaseSem; dsimp only; (repeat' split) <;> simp [*]
@[simp] theorem semTimeoutAt_pending (h : Nat) (n : Nat) (s : State) : (semTimeoutAt h n s).pending = s.pending := by unfold semTimeoutAt; (repeat' split) <;> simp [*]
@[simp] theorem observeWork_pending (c : Nat) (s : State) : (observeWork c s).pending = s.pending := by unfold observeWork; (repeat' split) <;> simp
@[simp] theorem doSwitch_pending (out : List Nat) (inn : Option Nat) (us : Nat) (s : State) : (doSwitch out inn us s).pending = s.pending := by unfold doSwitch; (repeat' split) <;> simp
@[simp] theorem tellStarved_pending (n : Nat) (d : Nat) (c : Nat) (s : State) : (tellStarved n d c s).pending = s.pending := by unfold tellStarved; simp
@[simp] theorem donateTo_pending (w : Nat) (d : Nat) (n : Nat) (s : State) : (donateTo w d n s).pending = s.pending := by unfold donateTo; (repeat' split) <;> simp
@[simp] theorem donatedRun_pending (h : Nat) (n : Nat) (s : State) : (donatedRun h n s).pending = s.pending := by unfold donatedRun; dsimp only; (repeat' split) <;> simp [*]
@[simp] theorem starveReqs_pending (n : Nat) (m : Sem) (s : State) : (starveReqs n m s).pending = s.pending := by unfold starveReqs; grind (splits := 30) [fail_pending, answerSem_pending, modSem_pending, foldl_pending]
@[simp] theorem holderStarved_pending (n : Nat) (s : State) : (holderStarved n s).pending = s.pending := by unfold holderStarved; (repeat' split) <;> simp [*]

/-! ### PowerOps -/

@[simp] theorem modPwr_pending (f : Power → Power) (s : State) : (modPwr f s).pending = s.pending := by unfold modPwr; simp
@[simp] theorem measure_pending (s : State) : (measure s).pending = s.pending := by unfold measure; simp
@[simp] theorem syncAlert_pending (limit : Bool) (s : State) : (syncAlert limit s).pending = s.pending := by unfold syncAlert; dsimp only; (repeat' split) <;> simp
@[simp] theorem alertBit_pending (b : Nat) (limit : Bool) (s : State) : (alertBit b limit s).pending = s.pending := by unfold alertBit; simp
@[simp] theorem standingAlerts_pending (s : State) : (standingAlerts s).pending = s.pending := by unfold standingAlerts; dsimp only; (repeat' split) <;> simp
@[simp] theorem powerEvent_pending (code : Nat) (payload : Bytes) (s : State) : (powerEvent code payload s).pending = s.pending := by unfold powerEvent; simp
@[simp] theorem applyKhz_pending (d : Nat) (s : State) : (applyKhz d s).pending = s.pending := by unfold applyKhz; simp

/-! ### Security -/

@[simp] theorem modSec_pending (f : Sec → Sec) (s : State) : (modSec f s).pending = s.pending := by unfold modSec; simp
@[simp] theorem secEvent_pending (code : Nat) (ctx : Nat) (payload : Bytes) (s : State) : (secEvent code ctx payload s).pending = s.pending := by unfold secEvent; simp
@[simp] theorem destroyDataKeys_pending (s : State) : (destroyDataKeys s).pending = s.pending := by unfold destroyDataKeys; simp
@[simp] theorem withdrawKeys_pending (s : State) : (withdrawKeys s).pending = s.pending := by unfold withdrawKeys; simp
@[simp] theorem keysFor_pending (mask : Nat) (s : State) : (keysFor mask s).pending = s.pending := by unfold keysFor; (repeat' split) <;> simp
@[simp] theorem enterQuarantine_pending (s : State) : (enterQuarantine s).pending = s.pending := by unfold enterQuarantine; simp
@[simp] theorem quarantine_pending (cause : Nat) (s : State) : (quarantine cause s).pending = s.pending := by unfold quarantine; (repeat' split) <;> simp
@[simp] theorem leaveAdmitted_pending (s : State) : (leaveAdmitted s).pending = s.pending := by unfold leaveAdmitted; grind (splits := 30) [announced_pending, modCtxs_pending, modSec_pending, foldl_pending]
@[simp] theorem modSpdm_pending (p : Nat) (f : Spdm → Spdm) (s : State) : (modSpdm p f s).pending = s.pending := by unfold modSpdm; simp
@[simp] theorem onSpdm_pending (p : Nat) (f : State → State) (s : State) (hf : ∀  t, (f  t).pending = t.pending) : (onSpdm p f s).pending = s.pending := by unfold onSpdm; (repeat' split) <;> simp [*]
@[simp] theorem spdmReply_pending (p : Nat) (code : Nat) (payload : Bytes) (s : State) : (spdmReply p code payload s).pending = s.pending := by unfold spdmReply; simp
@[simp] theorem spdmError_pending (p : Nat) (e : Nat) (s : State) : (spdmError p e s).pending = s.pending := by unfold spdmError; simp
@[simp] theorem spdmFree_pending (p : Nat) (code : Nat) (n : Nat) (s : State) : (spdmFree p code n s).pending = s.pending := by unfold spdmFree; simp
@[simp] theorem useLeaf_pending (s : State) : (useLeaf s).pending = s.pending := by unfold useLeaf; dsimp only; (repeat' split) <;> simp
@[simp] theorem spdmSigned_pending (p : Nat) (f : State → State) (s : State) (hf : ∀  t, (f  t).pending = t.pending) : (spdmSigned p f s).pending = s.pending := by unfold spdmSigned; (repeat' split) <;> simp [*]
@[simp] theorem getVersion_pending (p : Nat) (s : State) : (getVersion p s).pending = s.pending := by unfold getVersion; simp
@[simp] theorem afterStep_pending (p : Nat) (ok : Bool) (f : State → State) (s : State) (hf : ∀  t, (f  t).pending = t.pending) : (afterStep p ok f s).pending = s.pending := by unfold afterStep; (repeat' split) <;> simp [*]
@[simp] theorem getCapabilities_pending (p : Nat) (s : State) : (getCapabilities p s).pending = s.pending := by unfold getCapabilities; simp
@[simp] theorem negotiateAlgorithms_pending (p : Nat) (s : State) : (negotiateAlgorithms p s).pending = s.pending := by unfold negotiateAlgorithms; simp
@[simp] theorem getDigests_pending (p : Nat) (s : State) : (getDigests p s).pending = s.pending := by unfold getDigests; grind (splits := 30) [afterStep_pending, spdmError_pending, spdmFree_pending, foldl_pending]
@[simp] theorem getCertificate_pending (p : Nat) (s : State) : (getCertificate p s).pending = s.pending := by unfold getCertificate; grind (splits := 30) [afterStep_pending, spdmError_pending, spdmFree_pending, bumpFree_pending, foldl_pending]
@[simp] theorem challenge_pending (p : Nat) (torn : Bool) (s : State) : (challenge p torn s).pending = s.pending := by unfold challenge; (repeat' split) <;> simp
@[simp] theorem getMeasurements_pending (p : Nat) (index : Nat) (sig : Bool) (s : State) : (getMeasurements p index sig s).pending = s.pending := by unfold getMeasurements; (repeat' split) <;> simp
@[simp] theorem verifyFailed_pending (p : Nat) (s : State) : (verifyFailed p s).pending = s.pending := by unfold verifyFailed; dsimp only; (repeat' split) <;> simp
@[simp] theorem keyExchange_pending (p : Nat) (sid : Nat) (ok : Bool) (s : State) : (keyExchange p sid ok s).pending = s.pending := by unfold keyExchange; (repeat' split) <;> simp
@[simp] theorem installKeys_pending (p : Nat) (s : State) : (installKeys p s).pending = s.pending := by unfold installKeys; simp
@[simp] theorem finishSession_pending (p : Nat) (ok : Bool) (s : State) : (finishSession p ok s).pending = s.pending := by unfold finishSession; (repeat' split) <;> simp
@[simp] theorem dropSession_pending (p : Nat) (s : State) : (dropSession p s).pending = s.pending := by unfold dropSession; (repeat' split) <;> simp
@[simp] theorem sessionLapse_pending (s : State) : (sessionLapse s).pending = s.pending := by unfold sessionLapse; (repeat' split) <;> simp
@[simp] theorem modDom_pending (k : Nat) (f : KeyDom → KeyDom) (s : State) : (modDom k f s).pending = s.pending := by unfold modDom; simp
@[simp] theorem secInfoBody_pending (r : Req) (s : State) : (secInfoBody r s).pending = s.pending := by unfold secInfoBody; simp
@[simp] theorem disarmAll_pending (s : State) : (disarmAll s).pending = s.pending := by unfold disarmAll; simp
@[simp] theorem admitModule_pending (s : State) : (admitModule s).pending = s.pending := by unfold admitModule; grind (splits := 30) [announced_pending, modSec_pending, disarmAll_pending, modCtxs_pending, foldl_pending]
@[simp] theorem admitBody_pending (r : Req) (s : State) : (admitBody r s).pending = s.pending := by unfold admitBody; grind (splits := 30) [checked_pending, setRunning_pending, complete_pending, admitModule_pending, foldl_pending]
@[simp] theorem rejectBody_pending (r : Req) (s : State) : (rejectBody r s).pending = s.pending := by unfold rejectBody; simp
@[simp] theorem rotateBody_pending (r : Req) (s : State) : (rotateBody r s).pending = s.pending := by unfold rotateBody; simp
@[simp] theorem fkeyStatusBody_pending (r : Req) (s : State) : (fkeyStatusBody r s).pending = s.pending := by unfold fkeyStatusBody; simp
@[simp] theorem nonceBody_pending (r : Req) (s : State) : (nonceBody r s).pending = s.pending := by unfold nonceBody; simp
@[simp] theorem withToken_pending (magic : String) (r : Req) (given : Bytes) (sigOk : Bool) (ok : Bytes → State → State) (s : State) (hok : ∀ a0 t, (ok a0 t).pending = t.pending) : (withToken magic r given sigOk ok s).pending = s.pending := by unfold withToken; grind (splits := 30) [refRead_pending, fail_pending, modSec_pending, foldl_pending]
@[simp] theorem unlockBody_pending (given : Bytes) (sigOk : Bool) (r : Req) (s : State) : (unlockBody given sigOk r s).pending = s.pending := by unfold unlockBody; (repeat' split) <;> simp
@[simp] theorem recoverBody_pending (given : Bytes) (sigOk : Bool) (r : Req) (s : State) : (recoverBody given sigOk r s).pending = s.pending := by unfold recoverBody; grind (splits := 30) [checked_pending, withToken_pending, announced_pending, writeRecordFree_pending, modSec_pending, complete_pending, foldl_pending]
@[simp] theorem queueMove_pending (s : State) (e : Nat × SlotPg) : (queueMove s e).pending = s.pending := by unfold queueMove; (repeat' split) <;> simp
@[simp] theorem walkerPass_pending (ns : Bool) (id : Nat) (s : State) : (walkerPass ns id s).pending = s.pending := by unfold walkerPass; dsimp only; (repeat' split) <;> simp
@[simp] theorem basecampTamper_pending (s : State) : (basecampTamper s).pending = s.pending := by unfold basecampTamper; (repeat' split) <;> simp
@[simp] theorem bootTamper_pending (s : State) : (bootTamper s).pending = s.pending := by unfold bootTamper; (repeat' split) <;> simp
@[simp] theorem recordTamper_pending (s : State) : (recordTamper s).pending = s.pending := by unfold recordTamper; (repeat' split) <;> simp
@[simp] theorem tamper_pending (src : Nat) (s : State) : (tamper src s).pending = s.pending := by unfold tamper; (repeat' split) <;> simp
@[simp] theorem scrubCtx_pending (s : State) (c : Nat) : (scrubCtx s c).pending = s.pending := by unfold scrubCtx; simp
@[simp] theorem startScrub_pending (s : State) : (startScrub s).pending = s.pending := by unfold startScrub; (repeat' split) <;> simp

/-! ### Mailbox -/

@[simp] theorem causeWrite_pending (v : U32) (s : State) : (causeWrite v s).pending = s.pending := by unfold causeWrite; simp
@[simp] theorem ringSizeWrite_pending (v : U32) (s : State) : (ringSizeWrite v s).pending = s.pending := by unfold ringSizeWrite; dsimp only; (repeat' split) <;> simp
@[simp] theorem ringConsWrite_pending (v : U32) (s : State) : (ringConsWrite v s).pending = s.pending := by unfold ringConsWrite; dsimp only; (repeat' split) <;> simp
@[simp] theorem badDoorbell_pending (n : Nat) (s : State) : (badDoorbell n s).pending = s.pending := by unfold badDoorbell; simp
@[simp] theorem doorbell_pending (n : Nat) (v : U32) (s : State) : (doorbell n v s).pending = s.pending := by unfold doorbell; (repeat' split) <;> simp
@[simp] theorem mbxStatRead_pending (n : Nat) (h : Half) (s : State) : (mbxStatRead n h s).pending = s.pending := by unfold mbxStatRead; (repeat' split) <;> simp [*]
@[simp] theorem linkStatRead_pending (p : Nat) (s : State) : (linkStatRead p s).pending = s.pending := by unfold linkStatRead; simp
@[simp] theorem keepAlive_pending (r : Req) (s : State) : (keepAlive r s).pending = s.pending := by unfold keepAlive; (repeat' split) <;> simp
@[simp] theorem acceptRequest_pending (n : Nat) (ue : Option Bool) (s : State) : (acceptRequest n ue s).pending = s.pending := by unfold acceptRequest; dsimp only; (repeat' split) <;> simp
@[simp] theorem lateCompletion_pending (r : Req) (st : Nat) (s : State) : (lateCompletion r st s).pending = s.pending := by unfold lateCompletion; simp
@[simp] theorem replyReq_pending (rid : Nat) (s : State) : (replyReq rid s).pending = s.pending := by unfold replyReq; (repeat' split) <;> simp
@[simp] theorem timeoutReq_pending (rid : Nat) (s : State) : (timeoutReq rid s).pending = s.pending := by unfold timeoutReq; (repeat' split) <;> simp

/-! ### Power -/

@[simp] theorem modFeed_pending (f : Nat) (g : Feed → Feed) (s : State) : (modFeed f g s).pending = s.pending := by unfold modFeed; simp
@[simp] theorem loseFeed_pending (f : Nat) (cause : Nat) (s : State) : (loseFeed f cause s).pending = s.pending := by unfold loseFeed; (repeat' split) <;> simp
@[simp] theorem restoreFeed_pending (f : Nat) (s : State) : (restoreFeed f s).pending = s.pending := by unfold restoreFeed; (repeat' split) <;> simp
@[simp] theorem tripFuse_pending (f : Nat) (current : Bool) (s : State) : (tripFuse f current s).pending = s.pending := by unfold tripFuse; (repeat' split) <;> simp
@[simp] theorem darkPort_pending (s : State) (p : Nat) : (darkPort s p).pending = s.pending := by unfold darkPort; simp
@[simp] theorem enterAbseil_pending (s : State) : (enterAbseil s).pending = s.pending := by unfold enterAbseil; simp
@[simp] theorem powerOff_pending (s : State) : (powerOff s).pending = s.pending := by unfold powerOff; simp
@[simp] theorem takeover_pending (s : State) : (takeover s).pending = s.pending := by unfold takeover; (repeat' split) <;> simp
@[simp] theorem powerQueryBody_pending (r : Req) (s : State) : (powerQueryBody r s).pending = s.pending := by unfold powerQueryBody; simp
@[simp] theorem syncWorking_pending (s : State) : (syncWorking s).pending = s.pending := by unfold syncWorking; (repeat' split) <;> simp
@[simp] theorem setCapBody_pending (r : Req) (s : State) : (setCapBody r s).pending = s.pending := by unfold setCapBody; simp
@[simp] theorem bivRoom_pending (fuel : Nat) (s : State) : (bivRoom fuel s).pending = s.pending := by
  induction fuel generalizing s with
  | zero => rfl
  | succ k ih =>
    unfold bivRoom
    split
    · rfl
    · split
      · rw [ih, modPage_pending]
      · rfl
@[simp] theorem bivFlush_pending (s : State) : (bivFlush s).pending = s.pending := by unfold bivFlush; simp
@[simp] theorem lowRate_pending (s : State) (p : Nat) : (lowRate s p).pending = s.pending := by unfold lowRate; (repeat' split) <;> simp
@[simp] theorem enterBivouac_pending (rid : Nat) (s : State) : (enterBivouac rid s).pending = s.pending := by unfold enterBivouac; grind (splits := 30) [replyReq_pending, complete_pending, switchOut_pending, bivRoom_pending, bivFlush_pending, lowRate_pending, announced_pending, modPwr_pending, powerDomains_pending, foldl_pending]
@[simp] theorem wakeUp_pending (s : State) : (wakeUp s).pending = s.pending := by unfold wakeUp; grind (splits := 30) [powerDomains_pending, modFtl_pending, announced_pending, modPwr_pending, recordTamper_pending, foldl_pending]
@[simp] theorem wakeAsk_pending (s : State) : (wakeAsk s).pending = s.pending := by unfold wakeAsk; (repeat' split) <;> simp
@[simp] theorem wakeAfter_pending (s : State) : (wakeAfter s).pending = s.pending := by unfold wakeAfter; (repeat' split) <;> simp
@[simp] theorem setStateBody_pending (r : Req) (s : State) : (setStateBody r s).pending = s.pending := by unfold setStateBody; (repeat' split) <;> simp
@[simp] theorem enterIdle_pending (s : State) : (enterIdle s).pending = s.pending := by unfold enterIdle; grind (splits := 30) [announced_pending, modPwr_pending, foldl_pending]
@[simp] theorem capMissed_pending (w : Nat) (s : State) : (capMissed w s).pending = s.pending := by unfold capMissed; (repeat' split) <;> simp
@[simp] theorem syncThrottled_pending (u : Nat) (s : State) : (syncThrottled u s).pending = s.pending := by unfold syncThrottled; simp
@[simp] theorem throttleEvent_pending (d : Nat) (on : Bool) (s : State) : (throttleEvent d on s).pending = s.pending := by unfold throttleEvent; simp
@[simp] theorem throttleDown_pending (s : State) (d : Nat) : (throttleDown s d).pending = s.pending := by unfold throttleDown; (repeat' split) <;> simp
@[simp] theorem throttleUp_pending (s : State) (d : Nat) : (throttleUp s d).pending = s.pending := by unfold throttleUp; (repeat' split) <;> simp
@[simp] theorem throttleUnit_pending (u : Nat) (up : Bool) (s : State) : (throttleUnit u up s).pending = s.pending := by unfold throttleUnit; (repeat' split) <;> simp
@[simp] theorem tripJunction_pending (sensorHot : Bool) (s : State) : (tripJunction sensorHot s).pending = s.pending := by unfold tripJunction; (repeat' split) <;> simp
@[simp] theorem coolantWarn_pending (start : Bool) (s : State) : (coolantWarn start s).pending = s.pending := by unfold coolantWarn; (repeat' split) <;> simp
@[simp] theorem emergencyEdge_pending (start : Bool) (s : State) : (emergencyEdge start s).pending = s.pending := by unfold emergencyEdge; (repeat' split) <;> simp
@[simp] theorem takeU_pending (cUf : Nat) (reached : Bool) (s : State) : (takeU cUf reached s).pending = s.pending := by unfold takeU; dsimp only; (repeat' split) <;> simp
@[simp] theorem alertStatWrite_pending (v : U16) (s : State) : (alertStatWrite v s).pending = s.pending := by unfold alertStatWrite; (repeat' split) <;> simp

/-! ### MemorySvc -/

@[simp] theorem onObj_pending (r : Req) (errs : List (Bool × Nat)) (late : Obj → List (Bool × Nat)) (f : Nat → Obj → State → State) (s : State) (hf : ∀ a0 a1 t, (f a0 a1 t).pending = t.pending) : (onObj r errs late f s).pending = s.pending := by unfold onObj; dsimp only; (repeat' split) <;> simp [*]
@[simp] theorem allocBody_pending (r : Req) (s : State) : (allocBody r s).pending = s.pending := by
  unfold allocBody
  dsimp only
  rw [checked_pending]
  intro t
  show (complete _ _ _ (newObj _ _ _ _ _ (newPages _ _ t).2).2).pending = t.pending
  rw [complete_pending, newObj_pending, newPages_pending]
@[simp] theorem sealBody_pending (h : Nat) (r : Req) (o : Obj) (s : State) : (sealBody h r o s).pending = s.pending := by unfold sealBody; dsimp only; (repeat' split) <;> simp [*]
@[simp] theorem cloneBody_pending (r : Req) (o : Obj) (s : State) : (cloneBody r o s).pending = s.pending := by unfold cloneBody; grind (splits := 30) [modPage_pending, newObj_pending, complete_pending, foldl_pending]
@[simp] theorem placeBody_pending (h : Nat) (r : Req) (o : Obj) (s : State) : (placeBody h r o s).pending = s.pending := by unfold placeBody; grind (splits := 30) [modObj_pending, applyPlace_pending, commit_pending, fail_pending, complete_pending, setRunning_pending, foldl_pending]
@[simp] theorem sealWrites_pending (rid : Nat) (l : List (Nat × Bytes)) (s : State) : (sealWrites rid l s).pending = s.pending := by
  unfold sealWrites
  split
  · rfl
  · split
    · rfl
    · refine foldl_pending _ (fun t e => ?_) l s
      split
      · cases h : ctxWrite _ e.1 e.2 t with
        | ok u => exact ctxWrite_pending h
        | xlate => rfl
        | lost => rfl
      · rfl
@[simp] theorem placeReads_pending (fl : Nat) (o : Obj) (l : List (Nat × Nat)) (s : State) : (placeReads fl o l s).pending = s.pending := by
  unfold placeReads
  split
  · rfl
  · refine foldl_pending _ (fun t e => ?_) l s
    (repeat' split) <;> simp
@[simp] theorem shrinkT1_pending (fuel c : Nat) (s : State) : (shrinkT1 fuel c s).pending = s.pending := by
  induction fuel generalizing s with
  | zero => rfl
  | succ k ih =>
    unfold shrinkT1
    dsimp only
    split
    · rfl
    · split
      · split
        · rfl
        · rw [ih, demotePage_pending]
      · rfl
@[simp] theorem quotaBody_pending (r : Req) (s : State) : (quotaBody r s).pending = s.pending := by unfold quotaBody; simp
@[simp] theorem migCfgBody_pending (r : Req) (s : State) : (migCfgBody r s).pending = s.pending := by unfold migCfgBody; simp
@[simp] theorem fillEvent_pending (c : Nat) (va : Nat) (ok : Bool) (s : State) : (fillEvent c va ok s).pending = s.pending := by unfold fillEvent; (repeat' split) <;> simp
@[simp] theorem epochEnd_pending (s : State) : (epochEnd s).pending = s.pending := by unfold epochEnd; (repeat' split) <;> simp
@[simp] theorem pageMoveBody_pending (pid : Nat) (s : State) : (pageMoveBody pid s).pending = s.pending := by unfold pageMoveBody; (repeat' split) <;> simp

/-! ### Ecc -/

@[simp] theorem countCorrection_pending (k : Nat) (a : Nat) (s : State) : (countCorrection k a s).pending = s.pending := by unfold countCorrection; simp
@[simp] theorem recoverPage_pending (k : Nat) (pid : Nat) (s : State) : (recoverPage k pid s).pending = s.pending := by unfold recoverPage; dsimp only; (repeat' split) <;> simp
@[simp] theorem storePoison_pending (k : Nat) (a : Nat) (s : State) : (storePoison k a s).pending = s.pending := by unfold storePoison; simp
@[simp] theorem loseLine_pending (pid : Nat) (line : Nat) (s : State) : (loseLine pid line s).pending = s.pending := by unfold loseLine; (repeat' split) <;> simp
@[simp] theorem cacheUe_pending (k : Nat) (a : Nat) (s : State) : (cacheUe k a s).pending = s.pending := by unfold cacheUe; dsimp only; (repeat' split) <;> simp
@[simp] theorem uncorrectable_pending (k : Nat) (a : Nat) (how : Nat) (s : State) : (uncorrectable k a how s).pending = s.pending := by unfold uncorrectable; dsimp only; (repeat' split) <;> simp [*]
@[simp] theorem eccRead_pending (k : Nat) (a : Nat) (how : Nat) (met : Nat) (s : State) : (eccRead k a how met s).pending = s.pending := by unfold eccRead; (repeat' split) <;> simp [*]
@[simp] theorem failElement_pending (k : Nat) (e : Option Nat) (s : State) : (failElement k e s).pending = s.pending := by unfold failElement; (repeat' split) <;> simp
@[simp] theorem latencySample_pending (k : Nat) (s : State) : (latencySample k s).pending = s.pending := by unfold latencySample; (repeat' split) <;> simp
@[simp] theorem remapFull_pending (k : Nat) (a : Nat) (s : State) : (remapFull k a s).pending = s.pending := by unfold remapFull; (repeat' split) <;> simp
@[simp] theorem installRemap_pending (k : Nat) (a : Nat) (s : State) : (installRemap k a s).pending = s.pending := by unfold installRemap; dsimp only; (repeat' split) <;> simp
@[simp] theorem leaveFrame_pending (t2 : Bool) (pid : Nat) (s : State) : (leaveFrame t2 pid s).pending = s.pending := by unfold leaveFrame; dsimp only; (repeat' split) <;> simp
@[simp] theorem retireFrame_pending (t2 : Bool) (f : Nat) (s : State) : (retireFrame t2 f s).pending = s.pending := by unfold retireFrame; dsimp only; (repeat' split) <;> simp
@[simp] theorem losePackage_pending (p : Nat) (s : State) : (losePackage p s).pending = s.pending := by unfold losePackage; simp
@[simp] theorem flipCtrlWrite_pending (k : Nat) (v : U32) (s : State) : (flipCtrlWrite k v s).pending = s.pending := by unfold flipCtrlWrite; (repeat' split) <;> simp
@[simp] theorem applyFlip_pending (k : Nat) (a : Nat) (s : State) : (applyFlip k a s).pending = s.pending := by unfold applyFlip; dsimp only; (repeat' split) <;> simp

/-! ### Hidden -/

@[simp] theorem takeUnits_pending (old : State) (c : Nat) (s : State) : (takeUnits old c s).pending = s.pending := by unfold takeUnits; grind (splits := 30) [setEng_pending, l1Clear_pending, dropHarts_pending, modSlot_pending, foldl_pending]
@[simp] theorem withSeats_pending (f : State → State) (s : State) (hf : ∀  t, (f  t).pending = t.pending) : (withSeats f s).pending = s.pending := by unfold withSeats; simp [*]
@[simp] theorem moveWait_pending (c : Nat) (h : Nat) (n : Nat) (s : State) : (moveWait c h n s).pending = s.pending := by unfold moveWait; simp [*]
@[simp] theorem moveHart_pending (h : Nat) (v : Hart) (c : Nat) (s : State) : (moveHart h v c s).pending = s.pending := by unfold moveHart; (repeat' split) <;> simp [*]
@[simp] theorem replaceTasks_pending (d : Nat) (ps : List Nat) (s : State) : (replaceTasks d ps s).pending = s.pending := by unfold replaceTasks; grind (splits := 30) [enqueue_pending, foldl_pending]
@[simp] theorem dropQueues_pending (isReady : Nat → Bool) (isDeque : Nat → Bool) (s : State) : (dropQueues isReady isDeque s).2.pending = s.pending := by unfold dropQueues; simp
@[simp] theorem retireCore_pending (u : Nat) (bad : List Nat) (s : State) : (retireCore u bad s).pending = s.pending := by unfold retireCore; grind (splits := 30) [trapTask_pending, stopPfs_pending, l1Clear_pending, dropQueues_pending, rehomeAll_pending, withSeats_pending, moveHart_pending, replayHomes_pending, capsChanged_pending, replaceTasks_pending, foldl_pending]
@[simp] theorem dieLostEvent_pending (d : Nat) (c : Nat) (tasks : Nat) (mask : Nat) (s : State) : (dieLostEvent d c tasks mask s).pending = s.pending := by unfold dieLostEvent; simp
@[simp] theorem cutDie_pending (d : Nat) (s : State) : (cutDie d s).pending = s.pending := by unfold cutDie; simp
@[simp] theorem loseDie_pending (d : Nat) (s : State) : (loseDie d s).pending = s.pending := by unfold loseDie; grind (splits := 30) [trapTask_pending, discardTask_pending, dropQueues_pending, stopPfs_pending, l1Clear_pending, setEng_pending, replaceTasks_pending, withSeats_pending, cutDie_pending, dieLostEvent_pending, replayHomes_pending, writeRecordFree_pending, capsChanged_pending, foldl_pending]
@[simp] theorem cutT1Res_pending (s : State) : (cutT1Res s).pending = s.pending := by unfold cutT1Res; simp
@[simp] theorem loseHbm_pending (s : State) : (loseHbm s).pending = s.pending := by unfold loseHbm; simp
@[simp] theorem railFault_pending (rail : Nat) (s : State) : (railFault rail s).pending = s.pending := by unfold railFault; grind (splits := 30) [takeover_pending, loseFeed_pending, loseDie_pending, loseHbm_pending, losePackage_pending, failDie_pending, startRetrain_pending, powerOff_pending, foldl_pending]
@[simp] theorem interruptAll_pending (cause : Nat) (s : State) : (interruptAll cause s).pending = s.pending := by unfold interruptAll; simp
@[simp] theorem enterSafe_pending (s : State) : (enterSafe s).pending = s.pending := by unfold enterSafe; grind (splits := 30) [modFtl_pending, flushSteps_pending, interruptAll_pending, lowRate_pending, announced_pending, modSec_pending, modPwr_pending, alertBit_pending, powerDomains_pending, foldl_pending]

/-! ### Firmware -/

@[simp] theorem onFa_pending (f : State → State) (s : State) (hf : ∀  t, (f  t).pending = t.pending) : (onFa f s).pending = s.pending := by unfold onFa; (repeat' split) <;> simp [*]
@[simp] theorem relock_pending (s : State) : (relock s).pending = s.pending := by unfold relock; simp
@[simp] theorem faKey_pending (at_ : Nat) (key : U32) (v : U32) (s : State) : (faKey at_ key v s).pending = s.pending := by unfold faKey; (repeat' split) <;> simp
@[simp] theorem faCommand_pending (addr : U32) (f : State → State) (s : State) (hf : ∀  t, (f  t).pending = t.pending) : (faCommand addr f s).pending = s.pending := by unfold faCommand; (repeat' split) <;> simp [*]
@[simp] theorem faRefuse_pending (s : State) : (faRefuse s).pending = s.pending := by unfold faRefuse; simp
@[simp] theorem faStartProgram_pending (addr : U32) (v : U64) (s : State) : (faStartProgram addr v s).pending = s.pending := by unfold faStartProgram; (repeat' split) <;> simp
@[simp] theorem faStartErase_pending (op : Nat) (bank : Nat) (sector : Nat) (s : State) : (faStartErase op bank sector s).pending = s.pending := by unfold faStartErase; (repeat' split) <;> simp
@[simp] theorem eraseSteps_pending (s : State) : (eraseSteps s).pending = s.pending := by unfold eraseSteps; (repeat' split) <;> simp
@[simp] theorem faSuspend_pending (bank : Nat) (s : State) : (faSuspend bank s).pending = s.pending := by unfold faSuspend; (repeat' split) <;> simp
@[simp] theorem faResume_pending (bank : Nat) (s : State) : (faResume bank s).pending = s.pending := by unfold faResume; (repeat' split) <;> simp
@[simp] theorem faClear_pending (s : State) : (faClear s).pending = s.pending := by unfold faClear; simp
@[simp] theorem faStray_pending (off : Nat) (v : U64) (s : State) : (faStray off v s).pending = s.pending := by unfold faStray; (repeat' split) <;> simp
@[simp] theorem retireSector_pending (k : Nat) (s : State) : (retireSector k s).pending = s.pending := by unfold retireSector; simp
@[simp] theorem programDone_pending (o : FaOp) (ok : Bool) (s : State) : (programDone o ok s).pending = s.pending := by unfold programDone; (repeat' split) <;> simp
@[simp] theorem eraseDone_pending (o : FaOp) (ok : Bool) (s : State) : (eraseDone o ok s).pending = s.pending := by unfold eraseDone; (repeat' split) <;> simp
@[simp] theorem operationDone_pending (ok : Bool) (s : State) : (operationDone ok s).pending = s.pending := by unfold operationDone; (repeat' split) <;> simp
@[simp] theorem wornSector_pending (k : Nat) (s : State) : (wornSector k s).pending = s.pending := by unfold wornSector; grind (splits := 30) [bootSelector_pending, setImgSlot_pending, writeRecord_pending, modFw_pending, foldl_pending]
@[simp] theorem countRetry_pending (off : Nat) (s : State) : (countRetry off s).pending = s.pending := by unfold countRetry; dsimp only; (repeat' split) <;> simp
@[simp] theorem faRead_pending (off : Nat) (fails : Nat) (s : State) : (faRead off fails s).pending = s.pending := by unfold faRead; grind (splits := 30) [eraseSteps_pending, setRead_pending, bumpFree_pending, countRetry_pending, modFa_pending, devEvent_pending, foldl_pending]
@[simp] theorem busyFetch_pending (off : Nat) (s : State) : (busyFetch off s).pending = s.pending := by unfold busyFetch; (repeat' split) <;> simp
@[simp] theorem eraseRecordSector_pending (j : Nat) (s : State) : (eraseRecordSector j s).pending = s.pending := by unfold eraseRecordSector; (repeat' split) <;> simp
@[simp] theorem fwupQueryBody_pending (r : Req) (s : State) : (fwupQueryBody r s).pending = s.pending := by unfold fwupQueryBody; simp
@[simp] theorem eraseSlot_pending (n : Nat) (s : State) : (eraseSlot n s).pending = s.pending := by unfold eraseSlot; simp
@[simp] theorem faPutBytes_pending (off : Nat) (b : Bytes) (s : State) : (faPutBytes off b s).pending = s.pending := by unfold faPutBytes; simp
@[simp] theorem stageStep_pending (s : State) : (stageStep s).pending = s.pending := by unfold stageStep; dsimp only; (repeat' split) <;> simp
@[simp] theorem stageBody_pending (given : Bytes) (sigOk : Bool) (r : Req) (s : State) : (stageBody given sigOk r s).pending = s.pending := by unfold stageBody; grind (splits := 30) [checked_pending, refRead_pending, modFw_pending, bootSelector_pending, setImgSlot_pending, setRunning_pending, foldl_pending]
@[simp] theorem beginHand_pending (h : Hand) (s : State) : (beginHand h s).pending = s.pending := by unfold beginHand; simp [*]
@[simp] theorem leaveHand_pending (f : State → State) (s : State) (hf : ∀  t, (f  t).pending = t.pending) : (leaveHand f s).pending = s.pending := by unfold leaveHand; simp [*]
@[simp] theorem restartAll_pending (s : State) : (restartAll s).pending = s.pending := by unfold restartAll; simp
@[simp] theorem activate_pending (raise : Bool) (s : State) : (activate raise s).pending = s.pending := by unfold activate; grind (splits := 30) [leaveHand_pending, restartAll_pending, bootSelector_pending, modFw_pending, setImgSlot_pending, devEvent_pending, foldl_pending]
@[simp] theorem activationFailed_pending (cause : Nat) (s : State) : (activationFailed cause s).pending = s.pending := by unfold activationFailed; simp
@[simp] theorem setPending_pending (a : Option Activation) (s : State) : (setPending a s).pending = s.pending := by unfold setPending; simp
@[simp] theorem activationStep_pending (s : State) : (activationStep s).pending = s.pending := by unfold activationStep; (repeat' split) <;> simp
@[simp] theorem activateBody_pending (found : Nat) (us : Nat) (r : Req) (s : State) : (activateBody found us r s).pending = s.pending := by unfold activateBody; grind (splits := 30) [checked_pending, bootSelector_pending, modFw_pending, complete_pending, setPending_pending, activationFailed_pending, fail_pending, activationStep_pending, setRunning_pending, foldl_pending]
@[simp] theorem invalidateBody_pending (r : Req) (s : State) : (invalidateBody r s).pending = s.pending := by unfold invalidateBody; grind (splits := 30) [checked_pending, complete_pending, bootSelector_pending, setImgSlot_pending, foldl_pending]
@[simp] theorem runPending_pending (found : Nat) (us : Nat) (s : State) : (runPending found us s).pending = s.pending := by unfold runPending; dsimp only; (repeat' split) <;> simp
@[simp] theorem restartComponent_pending (c : Nat) (cause : Nat) (regions : List (Nat × Nat)) (s : State) : (restartComponent c cause regions s).pending = s.pending := by unfold restartComponent; dsimp only; (repeat' split) <;> simp
@[simp] theorem processorFailed_pending (b : Nat) (selfTest : Bool) (s : State) : (processorFailed b selfTest s).pending = s.pending := by unfold processorFailed; dsimp only; (repeat' split) <;> simp
@[simp] theorem takeOver_pending (old : Nat) (cause : Nat) (selfTest : Bool) (s : State) : (takeOver old cause selfTest s).pending = s.pending := by unfold takeOver; simp
@[simp] theorem endHand_pending (s : State) : (endHand s).pending = s.pending := by unfold endHand; (repeat' split) <;> simp
@[simp] theorem abandonActivation_pending (s : State) : (abandonActivation s).pending = s.pending := by
  unfold abandonActivation
  split
  · rename_i rid _ _ _
    cases rid <;> simp
  · split
    · rename_i a _
      cases a.rid <;> simp
    · rfl
@[simp] theorem belayTakeover_pending (cause : Nat) (selfTest : Bool) (s : State) : (belayTakeover cause selfTest s).pending = s.pending := by unfold belayTakeover; dsimp only; (repeat' split) <;> simp
@[simp] theorem standbyReady_pending (s : State) : (standbyReady s).pending = s.pending := by unfold standbyReady; grind (splits := 30) [announced_pending, modFw_pending, foldl_pending]

/-! ### Reset -/

@[simp] theorem freqChange_pending (d : Nat) (khz : Nat) (s : State) : (freqChange d khz s).pending = s.pending := by unfold freqChange; (repeat' split) <;> simp
@[simp] theorem currentKhz_pending (d : Nat) (s : State) : (currentKhz d s).pending = s.pending := by unfold currentKhz; simp
@[simp] theorem tierFails_pending (c : Nat) (s : State) : (tierFails c s).pending = s.pending := by unfold tierFails; grind (splits := 30) [ctxRead_pending, tierDone_pending, modTq_pending, foldl_pending]
@[simp] theorem fifoWork_pending (w : FifoWork) (s : State) : (fifoWork w s).pending = s.pending := by unfold fifoWork; (repeat' split) <;> simp
@[simp] theorem fifoFault_pending (src : Nat) (dst : Nat) (idx : Nat) (under : Bool) (w : FifoWork) (s : State) : (fifoFault src dst idx under w s).pending = s.pending := by unfold fifoFault; (repeat' split) <;> simp
@[simp] theorem settleObj_pending (h : Nat) (s : State) : (settleObj h s).pending = s.pending := by unfold settleObj; (repeat' split) <;> simp [*]
@[simp] theorem settleMem_pending (s : State) : (settleMem s).pending = s.pending := by unfold settleMem; simp
@[simp] theorem loseUnits_pending (us : List BufUnit) (s : State) : (loseUnits us s).pending = s.pending := by unfold loseUnits; grind (splits := 30) [modPage_pending, losePage_pending, foldl_pending]
@[simp] theorem flushAll_pending (cause : Nat) (complete : Bool) (s : State) : (flushAll cause complete s).pending = s.pending := by unfold flushAll; simp
@[simp] theorem settleAgents_pending (s : State) : (settleAgents s).pending = s.pending := by unfold settleAgents; simp
@[simp] theorem allocPool_pending (s : State) (m : Nat) : (allocPool s m).pending = s.pending := by unfold allocPool; dsimp only; (repeat' split) <;> simp
@[simp] theorem dropOrphans_pending (s : State) : (dropOrphans s).pending = s.pending := by unfold dropOrphans; simp
@[simp] theorem settleWork_pending (cause : Nat) (s : State) : (settleWork cause s).pending = s.pending := by unfold settleWork; simp
@[simp] theorem resetHost_pending (last : Nat) (s : State) : (resetHost last s).pending = s.pending := by unfold resetHost; simp
@[simp] theorem resetCtxs_pending (s : State) : (resetCtxs s).pending = s.pending := by unfold resetCtxs; simp
@[simp] theorem resetEcc_pending (s : State) : (resetEcc s).pending = s.pending := by unfold resetEcc; simp
@[simp] theorem resetMem_pending (s : State) : (resetMem s).pending = s.pending := by unfold resetMem; simp
@[simp] theorem resetFtl_pending (s : State) : (resetFtl s).pending = s.pending := by unfold resetFtl; simp
@[simp] theorem resetStore_pending (s : State) : (resetStore s).pending = s.pending := by unfold resetStore; simp
@[simp] theorem resetPorts_pending (s : State) : (resetPorts s).pending = s.pending := by unfold resetPorts; simp
@[simp] theorem resetSec_pending (s : State) : (resetSec s).pending = s.pending := by unfold resetSec; simp
@[simp] theorem resetFw_pending (s : State) : (resetFw s).pending = s.pending := by unfold resetFw; dsimp only; (repeat' split) <;> simp
@[simp] theorem resetMon_pending (s : State) : (resetMon s).pending = s.pending := by unfold resetMon; simp
@[simp] theorem resetClocks_pending (s : State) : (resetClocks s).pending = s.pending := by unfold resetClocks; simp
@[simp] theorem resetPwr_pending (s : State) : (resetPwr s).pending = s.pending := by unfold resetPwr; simp
@[simp] theorem resetDomains_pending (last : Nat) (s : State) : (resetDomains last s).pending = s.pending := by unfold resetDomains; simp
@[simp] theorem startBoot_pending (s : State) : (startBoot s).pending = s.pending := by unfold startBoot; simp
@[simp] theorem powerOn_pending (s : State) : (powerOn s).pending = s.pending := by unfold powerOn; simp
@[simp] theorem abseilEnd_pending (complete : Bool) (ms : Nat) (s : State) : (abseilEnd complete ms s).pending = s.pending := by unfold abseilEnd; dsimp only; (repeat' split) <;> simp
@[simp] theorem resetNow_pending (s : State) : (resetNow s).pending = s.pending := by unfold resetNow; (repeat' split) <;> simp
@[simp] theorem askReset_pending (pin : Bool) (hold : Bool) (s : State) : (askReset pin hold s).pending = s.pending := by unfold askReset; simp [*]
@[simp] theorem warmReset_pending (pin : Bool) (hold : Bool) (s : State) : (warmReset pin hold s).pending = s.pending := by unfold warmReset; (repeat' split) <;> simp [*]
@[simp] theorem carryReset_pending (s : State) : (carryReset s).pending = s.pending := by unfold carryReset; (repeat' split) <;> simp
@[simp] theorem handoverEnd_pending (s : State) : (handoverEnd s).pending = s.pending := by unfold handoverEnd; simp [*]
@[simp] theorem resetPin_pending (cycles : Nat) (hold : Bool) (cool : Bool) (s : State) : (resetPin cycles hold cool s).pending = s.pending := by unfold resetPin; (repeat' split) <;> simp [*]
@[simp] theorem recoverErases_pending (s : State) : (recoverErases s).pending = s.pending := by unfold recoverErases; simp
@[simp] theorem runImage_pending (n : Nat) (bp0 : Bool) (s : State) : (runImage n bp0 s).pending = s.pending := by unfold runImage; simp
@[simp] theorem trainMem_pending (r : BootReport) (s : State) : (trainMem r s).pending = s.pending := by unfold trainMem; dsimp only; (repeat' split) <;> simp
@[simp] theorem drawKeys_pending (s : State) : (drawKeys s).pending = s.pending := by unfold drawKeys; simp
@[simp] theorem commitRestored_pending (fuel : Nat) (s : State) : (commitRestored fuel s).pending = s.pending := by
  induction fuel generalizing s with
  | zero => unfold commitRestored; rfl
  | succ k ih =>
    unfold commitRestored
    dsimp only
    split
    · rfl
    · split
      · rw [ih, programStripe_pending]
      · rfl
@[simp] theorem applyShutdown_pending (s : State) : (applyShutdown s).pending = s.pending := by unfold applyShutdown; simp
@[simp] theorem bootPortH_pending (t : Option TrainReport) (s : State) : (bootPortH t s).pending = s.pending := by unfold bootPortH; (repeat' split) <;> simp
@[simp] theorem failSpares_pending (l : List Nat) (s : State) : (failSpares l s).pending = s.pending := by unfold failSpares; simp
@[simp] theorem lateQuarantine_pending (s : State) : (lateQuarantine s).pending = s.pending := by unfold lateQuarantine; (repeat' split) <;> simp
@[simp] theorem freeLeft_pending (s : State) : (freeLeft s).pending = s.pending := by unfold freeLeft; simp
@[simp] theorem compareCaps_pending (s : State) : (compareCaps s).pending = s.pending := by unfold compareCaps; (repeat' split) <;> simp
@[simp] theorem seedAdmin_pending (s : State) : (seedAdmin s).pending = s.pending := by unfold seedAdmin; (repeat' split) <;> simp
@[simp] theorem enterReady_pending (s : State) : (enterReady s).pending = s.pending := by unfold enterReady; grind (splits := 30) [announced_pending, modPwr_pending, devEvent_pending, foldl_pending]
@[simp] theorem slotFallback_pending (n : Nat) (cause : Nat) (s : State) : (slotFallback n cause s).pending = s.pending := by unfold slotFallback; grind (splits := 30) [devEvent_pending, bootSelector_pending, modFw_pending, setImgSlot_pending, foldl_pending]
@[simp] theorem setStep_pending (n : Nat) (s : State) : (setStep n s).pending = s.pending := by unfold setStep; simp
@[simp] theorem bootImage_pending (r : BootReport) (s : State) : (bootImage r s).pending = s.pending := by unfold bootImage; dsimp only; (repeat' split) <;> simp
@[simp] theorem bootMem_pending (r : BootReport) (s : State) : (bootMem r s).pending = s.pending := by unfold bootMem; dsimp only; (repeat' split) <;> simp
@[simp] theorem bootReady_pending (r : BootReport) (s : State) : (bootReady r s).pending = s.pending := by unfold bootReady; dsimp only; (repeat' split) <;> simp
@[simp] theorem bootStepEnd_pending (n : Nat) (r : BootReport) (s : State) : (bootStepEnd n r s).pending = s.pending := by unfold bootStepEnd; (repeat' split) <;> simp
@[simp] theorem boot_pending (r : BootReport) (s : State) : (boot r s).pending = s.pending := by unfold boot; grind (splits := 30) [startBoot_pending, bootStepEnd_pending, foldl_pending]

/-! ### Admin -/

@[simp] theorem adminIdentifyBody_pending (r : Req) (s : State) : (adminIdentifyBody r s).pending = s.pending := by unfold adminIdentifyBody; simp
@[simp] theorem identifyCapsBody_pending (r : Req) (s : State) : (identifyCapsBody r s).pending = s.pending := by unfold identifyCapsBody; grind (splits := 30) [checked_pending, complete_pending, afterWrite_pending, refWrite_pending, foldl_pending]
@[simp] theorem readCountersBody_pending (r : Req) (s : State) : (readCountersBody r s).pending = s.pending := by unfold readCountersBody; simp
@[simp] theorem cancelReq_pending (r : Req) (s : State) : (cancelReq r s).pending = s.pending := by unfold cancelReq; (repeat' split) <;> simp
@[simp] theorem remirror_pending (old : List Bytes) (s : State) (e : Nat × Sess) : (remirror old s e).pending = s.pending := by unfold remirror; dsimp only; (repeat' split) <;> simp
@[simp] theorem ropeCaps_pending (s : State) : (ropeCaps s).pending = s.pending := by unfold ropeCaps; simp
@[simp] theorem setRing_pending (pos : Nat) (ring : List Bytes) (s : State) : (setRing pos ring s).pending = s.pending := by unfold setRing; dsimp only; (repeat' split) <;> simp
@[simp] theorem ropeSetBody_pending (r : Req) (s : State) : (ropeSetBody r s).pending = s.pending := by unfold ropeSetBody; simp
@[simp] theorem portQueryBody_pending (r : Req) (s : State) : (portQueryBody r s).pending = s.pending := by unfold portQueryBody; simp
@[simp] theorem portAction_pending (p : Nat) (a : Nat) (t : TrainReport) (s : State) : (portAction p a t s).pending = s.pending := by unfold portAction; dsimp only; (repeat' split) <;> simp
@[simp] theorem portCtrlBody_pending (t : TrainReport) (r : Req) (s : State) : (portCtrlBody t r s).pending = s.pending := by unfold portCtrlBody; simp
@[simp] theorem adoptOne_pending (c m digest : Nat) (resume : Bool) (a : Bytes × State) (x : MirrorCopy) : (adoptOne c m digest resume a x).2.pending = a.2.pending := by
  unfold adoptOne
  split
  · rfl
  · dsimp only
    split
    · rw [modModel_pending, foldl_pending, retagCopy_pending, modAgents_pending]; intro t y; exact dropMirror_pending ..
    · rw [foldl_pending, retagCopy_pending, modAgents_pending]; intro t y; exact dropMirror_pending ..
@[simp] theorem adoptAll_pending (c m digest : Nat) (resume : Bool) (l : List MirrorCopy) (a : Bytes × State) :
    (l.foldl (adoptOne c m digest resume) a).2.pending = a.2.pending := foldlTwo_pending _ (fun _ _ => adoptOne_pending ..) _ _
@[simp] theorem mirrorAdoptBody_pending (r : Req) (s : State) : (mirrorAdoptBody r s).pending = s.pending := by
  unfold mirrorAdoptBody
  apply checked_pending
  intro t
  dsimp only
  rw [afterWrite_pending]
  · intro u hu
    rw [refWrite_pending hu]
    split
    · rw [quietBoundary_pending, adoptAll_pending]
    · rw [adoptAll_pending]
  · intro u; simp

/-! ### Cairns -/

@[simp] theorem cairnQueryBody_pending (r : Req) (s : State) : (cairnQueryBody r s).pending = s.pending := by unfold cairnQueryBody; (repeat' split) <;> simp
@[simp] theorem cairnListBody_pending (r : Req) (s : State) : (cairnListBody r s).pending = s.pending := by unfold cairnListBody; simp
@[simp] theorem cairnReleaseBody_pending (r : Req) (s : State) : (cairnReleaseBody r s).pending = s.pending := by unfold cairnReleaseBody; (repeat' split) <;> simp

/-! ### Monitors -/

@[simp] theorem setMon_pending (i : Nat) (m : Mon) (s : State) : (setMon i m s).pending = s.pending := by unfold setMon; simp
@[simp] theorem closeWindow_pending (i : Nat) (s : State) : (closeWindow i s).pending = s.pending := by unfold closeWindow; (repeat' split) <;> simp
@[simp] theorem monListBody_pending (r : Req) (s : State) : (monListBody r s).pending = s.pending := by unfold monListBody; simp
@[simp] theorem monReadBody_pending (r : Req) (s : State) : (monReadBody r s).pending = s.pending := by unfold monReadBody; simp
@[simp] theorem monConfigure_pending (p : Bytes) (s : State) : (monConfigure p s).pending = s.pending := by unfold monConfigure; simp
@[simp] theorem monConfigBody_pending (r : Req) (s : State) : (monConfigBody r s).pending = s.pending := by unfold monConfigBody; simp
@[simp] theorem modMons_pending (f : Mons → Mons) (s : State) : (modMons f s).pending = s.pending := by unfold modMons; simp
@[simp] theorem injEnableBody_pending (r : Req) (s : State) : (injEnableBody r s).pending = s.pending := by unfold injEnableBody; simp
@[simp] theorem firedEvent_pending (id : Nat) (handle : Nat) (s : State) : (firedEvent id handle s).pending = s.pending := by unfold firedEvent; simp [*]
@[simp] theorem injectBody_pending (r : Req) (s : State) : (injectBody r s).pending = s.pending := by unfold injectBody; dsimp only; (repeat' split) <;> simp
@[simp] theorem injClearBody_pending (r : Req) (s : State) : (injClearBody r s).pending = s.pending := by unfold injClearBody; simp
@[simp] theorem endOverride_pending (i : Nat) (s : State) : (endOverride i s).pending = s.pending := by unfold endOverride; (repeat' split) <;> simp
@[simp] theorem overridesDue_pending (s : State) : (overridesDue s).pending = s.pending := by unfold overridesDue; simp
@[simp] theorem sampleSensor_pending (i : Nat) (v : Int) (s : State) : (sampleSensor i v s).pending = s.pending := by unfold sampleSensor; (repeat' split) <;> simp
@[simp] theorem healPhys_pending (a : Nat) (n : Nat) (s : State) : (healPhys a n s).pending = s.pending := by unfold healPhys; dsimp only; (repeat' split) <;> simp [*]
@[simp] theorem physBytes_pending (fuel : Nat) (bs : Bytes) (a : Nat) (s : State) : (physBytes fuel bs a s).pending = s.pending := by
  induction fuel generalizing bs a s with
  | zero => rfl
  | succ n ih =>
    cases bs with
    | nil => rfl
    | cons b r =>
      unfold physBytes
      dsimp only
      (repeat' split) <;> simp [ih]
@[simp] theorem physWrite_pending (fuel : Nat) (bs : Bytes) (a : Nat) (s : State) : (physWrite fuel bs a s).pending = s.pending := by unfold physWrite; simp
@[simp] theorem debugReadBody_pending (r : Req) (s : State) : (debugReadBody r s).pending = s.pending := by unfold debugReadBody; simp
@[simp] theorem debugWriteBody_pending (r : Req) (s : State) : (debugWriteBody r s).pending = s.pending := by unfold debugWriteBody; (repeat' split) <;> simp
@[simp] theorem debugHart_pending (f : Nat → Req → State → State) (r : Req) (s : State) (hf : ∀ a0 a1 t, (f a0 a1 t).pending = t.pending) : (debugHart f r s).pending = s.pending := by unfold debugHart; simp [*]
@[simp] theorem haltBody_pending (v : Bool) (h : Nat) (r : Req) (s : State) : (haltBody v h r s).pending = s.pending := by unfold haltBody; simp [*]
@[simp] theorem hartStateBody_pending (h : Nat) (r : Req) (s : State) : (hartStateBody h r s).pending = s.pending := by unfold hartStateBody; simp [*]

/-! ### Inject -/

@[simp] theorem injEffect_pending (j : Injection) (s : State) : (injEffect j s).pending = s.pending := by unfold injEffect; (repeat' split) <;> simp
@[simp] theorem fireInjection_pending (h : Nat) (s : State) : (fireInjection h s).pending = s.pending := by unfold fireInjection; (repeat' split) <;> simp [*]

/-! ### Registers -/

@[simp] theorem after_pending (r : Res) (s : State) (h : ∀ t, r = .next t → t.pending = s.pending) : (after r s).pending = s.pending := by
  cases r with
  | next t => exact h t rfl
  | fault _ => rfl
  | refused _ => rfl
@[simp] theorem after_execRun_pending (e : Nat) (s : State) (u : State) : (after (execRun e s) u).pending = s.pending := by
  unfold execRun after
  dsimp only
  (repeat' split) <;> simp
@[simp] theorem after_execStopRequest_pending (e : Nat) (s : State) (u : State) : (after (execStopRequest e s) u).pending = s.pending := by
  unfold execStopRequest after
  dsimp only
  (repeat' split) <;> simp
@[simp] theorem after_execSkip_pending (e : Nat) (s : State) (u : State) : (after (execSkip e s) u).pending = s.pending := by
  unfold execSkip after
  dsimp only
  (repeat' split) <;> simp
@[simp] theorem after_execClr_pending (e : Nat) (s : State) (u : State) : (after (execClr e s) u).pending = s.pending := by
  unfold execClr after
  dsimp only
  (repeat' split) <;> simp
@[simp] theorem after_execSeqTailWrite_pending (e : Nat) (v : U32) (s : State) (u : State) : (after (execSeqTailWrite e v s) u).pending = s.pending := by
  unfold execSeqTailWrite after
  dsimp only
  (repeat' split) <;> simp
@[simp] theorem after_execSyncInc_pending (e : Nat) (v : U32) (s : State) (u : State) : (after (execSyncInc e v s) u).pending = s.pending := by
  unfold execSyncInc after
  dsimp only
  (repeat' split) <;> simp
@[simp] theorem after_execSyncCntWrite_pending (e : Nat) (k : Nat) (v : U32) (s : State) (u : State) : (after (execSyncCntWrite e k v s) u).pending = s.pending := by
  unfold execSyncCntWrite after
  dsimp only
  (repeat' split) <;> simp
@[simp] theorem after_execEngFaultClear_pending (e : Nat) (v : U32) (s : State) (u : State) : (after (execEngFaultClear e v s) u).pending = s.pending := by
  unfold execEngFaultClear after
  dsimp only
  (repeat' split) <;> simp
@[simp] theorem after_execTdFaultsRead_pending (c : Nat) (s : State) (u : State) : (after (execTdFaultsRead c s) u).pending = s.pending := by
  unfold execTdFaultsRead after
  dsimp only
  (repeat' split) <;> simp
@[simp] theorem after_execDmaTailWrite_pending (e : Nat) (v : U32) (s : State) (u : State) : (after (execDmaTailWrite e v s) u).pending = s.pending := by
  unfold execDmaTailWrite after
  dsimp only
  (repeat' split) <;> simp
@[simp] theorem after_execTqTailWrite_pending (c : Nat) (v : U32) (s : State) (u : State) : (after (execTqTailWrite c v s) u).pending = s.pending := by
  unfold execTqTailWrite after
  dsimp only
  (repeat' split) <;> simp
@[simp] theorem after_execAcquire_pending (h : Nat) (sem : Nat) (wait : SemWait) (s : State) (u : State) : (after (execAcquire h sem wait s) u).pending = s.pending := by
  unfold execAcquire after
  dsimp only
  (repeat' split) <;> simp
@[simp] theorem after_execTryAcquire_pending (h : Nat) (sem : Nat) (s : State) (u : State) : (after (execTryAcquire h sem s) u).pending = s.pending := by
  unfold execTryAcquire after
  dsimp only
  (repeat' split) <;> simp
@[simp] theorem after_execRelease_pending (h : Nat) (sem : Nat) (s : State) (u : State) : (after (execRelease h sem s) u).pending = s.pending := by
  unfold execRelease after
  dsimp only
  (repeat' split) <;> simp
@[simp] theorem after_execSbAlertStatWrite_pending (v : U16) (s : State) (u : State) : (after (execSbAlertStatWrite v s) u).pending = s.pending := by
  unfold execSbAlertStatWrite after
  dsimp only
  (repeat' split) <;> simp
@[simp] theorem after_execMigFailRead_pending (s : State) (u : State) : (after (execMigFailRead s) u).pending = s.pending := by
  unfold execMigFailRead after
  dsimp only
  (repeat' split) <;> simp
@[simp] theorem after_execEccCeCntRead_pending (k : Nat) (ue : Bool) (s : State) (u : State) : (after (execEccCeCntRead k ue s) u).pending = s.pending := by
  unfold execEccCeCntRead after
  dsimp only
  (repeat' split) <;> simp
@[simp] theorem after_execFaKey1_pending (v : U32) (s : State) (u : State) : (after (execFaKey1 v s) u).pending = s.pending := by
  unfold execFaKey1 after
  dsimp only
  (repeat' split) <;> simp
@[simp] theorem after_execFaKey2_pending (v : U32) (s : State) (u : State) : (after (execFaKey2 v s) u).pending = s.pending := by
  unfold execFaKey2 after
  dsimp only
  (repeat' split) <;> simp
@[simp] theorem after_execFaProgram_pending (addr : U32) (data : U64) (s : State) (u : State) : (after (execFaProgram addr data s) u).pending = s.pending := by
  unfold execFaProgram after
  dsimp only
  (repeat' split) <;> simp
@[simp] theorem after_execFaSectorErase_pending (addr : U32) (s : State) (u : State) : (after (execFaSectorErase addr s) u).pending = s.pending := by
  unfold execFaSectorErase after
  dsimp only
  (repeat' split) <;> simp
@[simp] theorem after_execFaBankErase_pending (addr : U32) (s : State) (u : State) : (after (execFaBankErase addr s) u).pending = s.pending := by
  unfold execFaBankErase after
  dsimp only
  (repeat' split) <;> simp
@[simp] theorem after_execFaSuspend_pending (addr : U32) (s : State) (u : State) : (after (execFaSuspend addr s) u).pending = s.pending := by
  unfold execFaSuspend after
  dsimp only
  (repeat' split) <;> simp
@[simp] theorem after_execFaResume_pending (addr : U32) (s : State) (u : State) : (after (execFaResume addr s) u).pending = s.pending := by
  unfold execFaResume after
  dsimp only
  (repeat' split) <;> simp
@[simp] theorem after_execFaReadId_pending (addr : U32) (s : State) (u : State) : (after (execFaReadId addr s) u).pending = s.pending := by
  unfold execFaReadId after
  dsimp only
  (repeat' split) <;> simp
@[simp] theorem after_execFaClearStatus_pending (addr : U32) (s : State) (u : State) : (after (execFaClearStatus addr s) u).pending = s.pending := by
  unfold execFaClearStatus after
  dsimp only
  (repeat' split) <;> simp
@[simp] theorem after_execFaRelock_pending (off : Nat) (v : U64) (s : State) (u : State) : (after (execFaRelock off v s) u).pending = s.pending := by
  unfold execFaRelock after
  dsimp only
  (repeat' split) <;> simp
@[simp] theorem after_execFaRetryRead_pending (s : State) (u : State) : (after (execFaRetryRead s) u).pending = s.pending := by
  unfold execFaRetryRead after
  dsimp only
  (repeat' split) <;> simp
@[simp] theorem after_execWarmReset_pending (s : State) (u : State) : (after (execWarmReset s) u).pending = s.pending := by
  unfold execWarmReset after
  dsimp only
  (repeat' split) <;> simp
@[simp] theorem ctrlWrite_pending (e : Nat) (fw : Bool) (v : U32) (s : State) : (ctrlWrite e fw v s).pending = s.pending := by unfold ctrlWrite; (repeat' split) <;> simp
@[simp] theorem engWrite_pending (e : Nat) (off : Nat) (size : Nat) (fw : Bool) (v : U64) (s : State) : (engWrite e off size fw v s).pending = s.pending := by unfold engWrite; (repeat' split) <;> simp
@[simp] theorem engMemWrite_pending (e : Nat) (off : Nat) (size : Nat) (v : U64) (s : State) : (engMemWrite e off size v s).pending = s.pending := by unfold engMemWrite; (repeat' split) <;> simp
@[simp] theorem dmaWrite_pending (e : Nat) (off : Nat) (size : Nat) (v : U64) (s : State) : (dmaWrite e off size v s).pending = s.pending := by unfold dmaWrite; (repeat' split) <;> simp
@[simp] theorem tdWrite_pending (c : Nat) (off : Nat) (size : Nat) (v : U64) (k : Slot) (s : State) : (tdWrite c off size v k s).pending = s.pending := by unfold tdWrite; dsimp only; (repeat' split) <;> simp
@[simp] theorem tqWrite_pending (c : Nat) (off : Nat) (size : Nat) (v : U64) (k : Slot) (s : State) : (tqWrite c off size v k s).pending = s.pending := by unfold tqWrite; (repeat' split) <;> simp
@[simp] theorem semWrite_pending (h : Nat) (off : Nat) (size : Nat) (v : U64) (s : State) : (semWrite h off size v s).pending = s.pending := by unfold semWrite; (repeat' split) <;> simp [*]
@[simp] theorem sqWrite_pending (c : Nat) (off : Nat) (size : Nat) (v : U64) (s : State) : (sqWrite c off size v s).pending = s.pending := by unfold sqWrite; (repeat' split) <;> simp
@[simp] theorem migWrite_pending (off : Nat) (size : Nat) (v : U64) (s : State) : (migWrite off size v s).pending = s.pending := by unfold migWrite; dsimp only; (repeat' split) <;> simp
@[simp] theorem eccWrite_pending (k : Nat) (off : Nat) (size : Nat) (who : Option Nat) (v : U64) (s : State) : (eccWrite k off size who v s).pending = s.pending := by unfold eccWrite; dsimp only; (repeat' split) <;> simp
@[simp] theorem flashEccWrite_pending (ch : Nat) (off : Nat) (size : Nat) (who : Option Nat) (v : U64) (s : State) : (flashEccWrite ch off size who v s).pending = s.pending := by unfold flashEccWrite; (repeat' split) <;> simp
@[simp] theorem faIssue_pending (op : Nat) (addr : U32) (data : U64) (s : State) : (faIssue op addr data s).pending = s.pending := by unfold faIssue; (repeat' split) <;> simp
@[simp] theorem faWrite_pending (off : Nat) (size : Nat) (v : U64) (s : State) : (faWrite off size v s).pending = s.pending := by unfold faWrite; dsimp only; (repeat' split) <;> simp
@[simp] theorem smbusWrite_pending (off : Nat) (size : Nat) (v : U64) (s : State) : (smbusWrite off size v s).pending = s.pending := by unfold smbusWrite; (repeat' split) <;> simp
@[simp] theorem rstWrite_pending (v : U32) (s : State) : (rstWrite v s).pending = s.pending := by unfold rstWrite; (repeat' split) <;> simp
@[simp] theorem ringBaseWrite_pending (x : U64) (s : State) : (ringBaseWrite x s).pending = s.pending := by unfold ringBaseWrite; (repeat' split) <;> simp
@[simp] theorem cwWrite_pending (off : Nat) (size : Nat) (v : U64) (s : State) : (cwWrite off size v s).pending = s.pending := by unfold cwWrite; (repeat' split) <;> simp
@[simp] theorem cwRead_pending (off : Nat) (size : Nat) (s : State) : (cwRead off size s).pending = s.pending := by unfold cwRead; grind (splits := 30) [setRead_pending, mbxStatRead_pending, linkStatRead_pending, foldl_pending]
@[simp] theorem onPage_pending (c : Nat) (who : Option Nat) (f : Slot → State → State) (s : State) (hf : ∀ a0 t, (f a0 t).pending = t.pending) : (onPage c who f s).pending = s.pending := by unfold onPage; (repeat' split) <;> simp [*]
@[simp] theorem hartWrite_pending (h : Nat) (n : Nat) (v : U64) (s : State) : (hartWrite h n v s).pending = s.pending := by unfold hartWrite; (repeat' split) <;> simp [*]
@[simp] theorem regWrite_pending (w : RegWrite) (s : State) : (regWrite w s).pending = s.pending := by unfold regWrite; (repeat' split) <;> simp
@[simp] theorem regRead_pending (w : RegWrite) (s : State) : (regRead w s).pending = s.pending := by
  unfold regRead
  (repeat' split) <;> first | rfl | (simp; done) | (dsimp only; simp; done)
@[simp] theorem windowStore_pending (h : Nat) (w : RegWrite) (s : State) : (windowStore h w s).pending = s.pending := by unfold windowStore; grind (splits := 30) [onHart_pending, modHart_pending, regWrite_pending, trapTask_pending, foldl_pending]
@[simp] theorem answer_pending (pk : Packet) (st : Nat) (data : Bytes) (s : State) : (answer pk st data s).pending = s.pending := by unfold answer; (repeat' split) <;> simp
@[simp] theorem apertureWrite_pending (a : Nat) (bs : Bytes) (s : State) : (apertureWrite a bs s).pending = s.pending := by
  induction bs generalizing a s with
  | nil => rfl
  | cons b r ih =>
    unfold apertureWrite
    rw [ih]
    split <;> rfl
@[simp] theorem readNow_pending (pk : Packet) (s : State) : (readNow pk s).pending = s.pending := by unfold readNow; grind (splits := 30) [cwRead_pending, setRead_pending, answer_pending, uncorrectable_pending, ctxRead_pending, foldl_pending]
@[simp] theorem writeNow_pending (pk : Packet) (data : Bytes) (s : State) : (writeNow pk data s).pending = s.pending := by unfold writeNow; grind (splits := 30) [answer_pending, cwWrite_pending, apertureWrite_pending, healLines_pending, ctxWrite_pending, foldl_pending]
@[simp] theorem returnRx_pending (vc : Nat) (len : Nat) (s : State) : (returnRx vc len s).pending = s.pending := by unfold returnRx; (repeat' split) <;> simp
@[simp] theorem accessNow_pending (h : HeldAccess) (s : State) : (accessNow h s).pending = s.pending := by unfold accessNow; (repeat' split) <;> simp [*]
@[simp] theorem arrive_pending (h : HeldAccess) (s : State) : (arrive h s).pending = s.pending := by unfold arrive; (repeat' split) <;> simp [*]
@[simp] theorem scrubbed_pending (cs : List Nat) (s : State) : (scrubbed cs s).pending = s.pending := by unfold scrubbed; grind (splits := 30) [ctxEvent_pending, complete_pending, foldl_pending]
@[simp] theorem finishUnlock_pending (s : State) : (finishUnlock s).pending = s.pending := by unfold finishUnlock; grind (splits := 30) [complete_pending, announced_pending, modSec_pending, foldl_pending]
@[simp] theorem finishAdmit_pending (s : State) : (finishAdmit s).pending = s.pending := by unfold finishAdmit; simp
@[simp] theorem releaseHeld_pending (s : State) : (releaseHeld s).pending = s.pending := by unfold releaseHeld; grind (splits := 30) [releaseFwd_pending, accessNow_pending, modSec_pending, finishAdmit_pending, enterQuarantine_pending, finishUnlock_pending, startScrub_pending, foldl_pending]
@[simp] theorem scrubDone_pending (b : Scrub) (s : State) : (scrubDone b s).pending = s.pending := by unfold scrubDone; grind (splits := 30) [syncAlert_pending, scrubbed_pending, announced_pending, modPwr_pending, modSec_pending, reachMgmt_pending, foldl_pending]
@[simp] theorem scrubEnd_pending (overrun : Bool) (s : State) : (scrubEnd overrun s).pending = s.pending := by unfold scrubEnd; (repeat' split) <;> simp
@[simp] theorem debugRegReadBody_pending (r : Req) (s : State) : (debugRegReadBody r s).pending = s.pending := by unfold debugRegReadBody; simp
@[simp] theorem debugRegWriteBody_pending (r : Req) (s : State) : (debugRegWriteBody r s).pending = s.pending := by unfold debugRegWriteBody; simp
@[simp] theorem jtagWrite_pending (w : RegWrite) (s : State) : (jtagWrite w s).pending = s.pending := by unfold jtagWrite; (repeat' split) <;> simp
@[simp] theorem jtag_pending (boundary : Bool) (w : RegWrite) (write : Bool) (s : State) : (jtag boundary w write s).pending = s.pending := by unfold jtag; dsimp only; (repeat' split) <;> simp

/-! ### Search -/

@[simp] theorem refFill_pending (r : Req) (x : Ref) (n : Nat) (s : State) : (refFill r x n s).pending = s.pending := by unfold refFill; (repeat' split) <;> simp
@[simp] theorem progLoad_pending (given : Bytes) (r : Req) (s : State) : (progLoad given r s).pending = s.pending := by unfold progLoad; simp
@[simp] theorem progFree_pending (r : Req) (s : State) : (progFree r s).pending = s.pending := by unfold progFree; simp
@[simp] theorem scanReply_pending (r : Req) (x : Ref) (slba : Nat) (o : ScanOut) (s : State) : (scanReply r x slba o s).pending = s.pending := by unfold scanReply; grind (splits := 30) [fail_pending, afterWrite_pending, refWrite_pending, commitN_pending, complete_pending, foldl_pending]
@[simp] theorem scanRun_pending (r : Req) (s : State) : (scanRun r s).pending = s.pending := by unfold scanRun; (repeat' split) <;> simp
@[simp] theorem disagreement_pending (ch : Nat) (s : State) : (disagreement ch s).pending = s.pending := by unfold disagreement; dsimp only; (repeat' split) <;> simp
@[simp] theorem pageEvaluate_pending (ch : Nat) (unit : Nat) (prog : Nat) (disagree : Bool) (s : State) : (pageEvaluate ch unit prog disagree s).pending = s.pending := by unfold pageEvaluate; dsimp only; (repeat' split) <;> simp
@[simp] theorem searchCreate_pending (r : Req) (s : State) : (searchCreate r s).pending = s.pending := by unfold searchCreate; simp
@[simp] theorem onIndex_pending (r : Req) (f : Nat → Index → State → State) (s : State) (hf : ∀ a0 a1 t, (f a0 a1 t).pending = t.pending) : (onIndex r f s).pending = s.pending := by unfold onIndex; dsimp only; (repeat' split) <;> simp [*]
@[simp] theorem changeItems_pending (ins : Bool) (given : Bytes) (r : Req) (s : State) : (changeItems ins given r s).pending = s.pending := by unfold changeItems; dsimp only; (repeat' split) <;> simp
@[simp] theorem queryBody_pending (r : Req) (h : Nat) (x : Index) (codes : List Bytes) (s : State) : (queryBody r h x codes s).pending = s.pending := by unfold queryBody; grind (splits := 30) [fail_pending, afterWrite_pending, refWrite_pending, commitN_pending, complete_pending, foldl_pending]
@[simp] theorem searchQuery_pending (given : Bytes) (r : Req) (s : State) : (searchQuery given r s).pending = s.pending := by unfold searchQuery; dsimp only; (repeat' split) <;> simp
@[simp] theorem searchMerge_pending (r : Req) (h : Nat) (x : Index) (s : State) : (searchMerge r h x s).pending = s.pending := by unfold searchMerge; (repeat' split) <;> simp [*]
@[simp] theorem epochAdvance_pending (h : Nat) (s : State) : (epochAdvance h s).pending = s.pending := by unfold epochAdvance; dsimp only; (repeat' split) <;> simp [*]
@[simp] theorem embedFinish_pending (res : EmbedReport) (next : Nat) (offs : List Nat) (st : Nat) (r : Req) (s : State) : (embedFinish res next offs st r s).pending = s.pending := by unfold embedFinish; grind (splits := 30) [commitN_pending, complete_pending, applyInsert_pending, afterWrite_pending, refWrite_pending, foldl_pending]
@[simp] theorem embedDocs_pending (res : EmbedReport) (r : Req) (s : State) : (embedDocs res r s).pending = s.pending := by unfold embedDocs; dsimp only; (repeat' split) <;> simp
@[simp] theorem embedTokens_pending (res : EmbedReport) (r : Req) (s : State) : (embedTokens res r s).pending = s.pending := by unfold embedTokens; dsimp only; (repeat' split) <;> simp

/-! ### Tune -/

@[simp] theorem takeHello_pending (g : Nat) (mask : Nat) (s : State) : (takeHello g mask s).pending = s.pending := by unfold takeHello; (repeat' split) <;> simp
@[simp] theorem modHellos_pending (f : Tbl Nat → Tbl Nat) (s : State) : (modHellos f s).pending = s.pending := by unfold modHellos; simp
@[simp] theorem groupSetBody_pending (r : Req) (s : State) : (groupSetBody r s).pending = s.pending := by unfold groupSetBody; grind (splits := 30) [checked_pending, complete_pending, sayHello_pending, takeHello_pending, modHellos_pending, foldl_pending]
@[simp] theorem groupFreeBody_pending (r : Req) (s : State) : (groupFreeBody r s).pending = s.pending := by unfold groupFreeBody; simp
@[simp] theorem adapterCreateBody_pending (data : Bytes) (r : Req) (s : State) : (adapterCreateBody data r s).pending = s.pending := by unfold adapterCreateBody; grind (splits := 30) [checked_pending, refRead_pending, fail_pending, complete_pending, foldl_pending]
@[simp] theorem adapterFreeBody_pending (r : Req) (s : State) : (adapterFreeBody r s).pending = s.pending := by unfold adapterFreeBody; simp
@[simp] theorem stepStart_pending (r : Req) (h : Nat) (a : Adapter) (es : List (Nat × Nat × Nat)) (s : State) : (stepStart r h a es s).pending = s.pending := by unfold stepStart; dsimp only; (repeat' split) <;> simp [*]
@[simp] theorem tuneStepBody_pending (data : Bytes) (r : Req) (s : State) : (tuneStepBody data r s).pending = s.pending := by unfold tuneStepBody; grind (splits := 30) [checked_pending, refRead_pending, fail_pending, stepStart_pending, foldl_pending]
@[simp] theorem tuneQueryBody_pending (r : Req) (s : State) : (tuneQueryBody r s).pending = s.pending := by unfold tuneQueryBody; dsimp only; (repeat' split) <;> simp
@[simp] theorem helloIn_pending (g : Nat) (mask : Nat) (src : Nat) (s : State) : (helloIn g mask src s).pending = s.pending := by unfold helloIn; (repeat' split) <;> simp [*]
@[simp] theorem takeGrant_pending (g : Nat) (seq : Nat) (src : Nat) (s : State) : (takeGrant g seq src s).pending = s.pending := by unfold takeGrant; (repeat' split) <;> simp
@[simp] theorem takeAbort_pending (g : Nat) (pk : TuneCtl) (s : State) : (takeAbort g pk s).pending = s.pending := by unfold takeAbort; dsimp only; (repeat' split) <;> simp
@[simp] theorem takeTuneData_pending (g : Nat) (pk : TunePacket) (s : State) : (takeTuneData g pk s).pending = s.pending := by unfold takeTuneData; (repeat' split) <;> simp

/-! ### Idle -/

@[simp] theorem expireDue_pending (s : State) : (expireDue s).pending = s.pending := by unfold expireDue; dsimp only; (repeat' split) <;> simp
@[simp] theorem storeTimers_pending (s : State) : (storeTimers s).pending = s.pending := by unfold storeTimers; simp
@[simp] theorem endStates_pending (s : State) : (endStates s).pending = s.pending := by unfold endStates; (repeat' split) <;> simp
@[simp] theorem scrubTimes_pending (s : State) : (scrubTimes s).pending = s.pending := by unfold scrubTimes; (repeat' split) <;> simp
@[simp] theorem agentWork_pending (s : State) : (agentWork s).pending = s.pending := by unfold agentWork; dsimp only; (repeat' split) <;> simp
@[simp] theorem continueWork_pending (s : State) : (continueWork s).pending = s.pending := by unfold continueWork; (repeat' split) <;> simp
@[simp] theorem goOnForward_pending (s : State) : (goOnForward s).pending = s.pending := by unfold goOnForward; (repeat' split) <;> simp
@[simp] theorem idle_pending (s : State) : (idle s).pending = s.pending := by unfold idle; simp

/-! ### The meanings -/

def res_pending (r : Res) (s : State) : Prop := match r with | .next t => t.pending = s.pending | .fault _ => True | .refused _ => True
@[simp] theorem res_pending_next (t s : State) : res_pending (.next t) s = (t.pending = s.pending) := rfl
theorem execPowerOnReset_pending (s : State) : res_pending (execPowerOnReset s) s := by unfold execPowerOnReset; dsimp only [res_pending]; (repeat' split) <;> simp
theorem execBoot_pending (r : BootReport) (s : State) : res_pending (execBoot r s) s := by unfold execBoot; simp
theorem execFreqChange_pending (dom : Nat) (khz : Nat) (s : State) : res_pending (execFreqChange dom khz s) s := by unfold execFreqChange; simp
theorem execCurrentFreqUpdate_pending (dom : Nat) (s : State) : res_pending (execCurrentFreqUpdate dom s) s := by unfold execCurrentFreqUpdate; simp
theorem execSyncFifoFault_pending (src : Nat) (dst : Nat) (idx : Nat) (under : Bool) (work : FifoWork) (s : State) : res_pending (execSyncFifoFault src dst idx under work s) s := by unfold execSyncFifoFault; simp
theorem execWarmReset_pending (s : State) : res_pending (execWarmReset s) s := by unfold execWarmReset; dsimp only [res_pending]; (repeat' split) <;> simp
theorem execMailboxReset_pending (n : Nat) (s : State) : res_pending (execMailboxReset n s) s := by unfold execMailboxReset; simp
theorem execMailboxResetDone_pending (n : Nat) (s : State) : res_pending (execMailboxResetDone n s) s := by unfold execMailboxResetDone; simp
theorem execEventRingReset_pending (s : State) : res_pending (execEventRingReset s) s := by unfold execEventRingReset; simp
theorem execEvtCauseWrite_pending (v : U32) (s : State) : res_pending (execEvtCauseWrite v s) s := by unfold execEvtCauseWrite; simp
theorem execEvtRingSizeWrite_pending (v : U32) (s : State) : res_pending (execEvtRingSizeWrite v s) s := by unfold execEvtRingSizeWrite; simp
theorem execEvtRingConsWrite_pending (v : U32) (s : State) : res_pending (execEvtRingConsWrite v s) s := by unfold execEvtRingConsWrite; simp
theorem execEventWrite_pending (refused : Bool) (s : State) : res_pending (execEventWrite refused s) s := by unfold execEventWrite; simp
theorem execReqTailWrite_pending (n : Nat) (v : U32) (s : State) : res_pending (execReqTailWrite n v s) s := by unfold execReqTailWrite; simp
theorem execRplHeadWrite_pending (n : Nat) (v : U32) (s : State) : res_pending (execRplHeadWrite n v s) s := by unfold execRplHeadWrite; simp
theorem execMbxStatRead_pending (n : Nat) (half : Half) (s : State) : res_pending (execMbxStatRead n half s) s := by unfold execMbxStatRead; dsimp only [res_pending]; (repeat' split) <;> simp
theorem execLinkStatRead_pending (p : Nat) (s : State) : res_pending (execLinkStatRead p s) s := by unfold execLinkStatRead; dsimp only [res_pending]; (repeat' split) <;> simp
theorem execRegisterWrite_pending (w : RegWrite) (s : State) : res_pending (execRegisterWrite w s) s := by unfold execRegisterWrite; dsimp only [res_pending]; (repeat' split) <;> simp
theorem execRequestAccept_pending (n : Nat) (ue : Option Bool) (s : State) : res_pending (execRequestAccept n ue s) s := by unfold execRequestAccept; simp
theorem execReply_pending (rid : Nat) (s : State) : res_pending (execReply rid s) s := by unfold execReply; simp
theorem execTimeout_pending (rid : Nat) (s : State) : res_pending (execTimeout rid s) s := by unfold execTimeout; simp
theorem execAdminIdentify_pending (rid : Nat) (s : State) : res_pending (execAdminIdentify rid s) s := by unfold execAdminIdentify; simp
theorem execAdminIdentifyCaps_pending (rid : Nat) (s : State) : res_pending (execAdminIdentifyCaps rid s) s := by unfold execAdminIdentifyCaps; simp
theorem execAdminReadCounters_pending (rid : Nat) (s : State) : res_pending (execAdminReadCounters rid s) s := by unfold execAdminReadCounters; simp
theorem execAdminCancel_pending (rid : Nat) (s : State) : res_pending (execAdminCancel rid s) s := by unfold execAdminCancel; dsimp only [res_pending]; (repeat' split) <;> simp
theorem execAdminNop_pending (rid : Nat) (s : State) : res_pending (execAdminNop rid s) s := by unfold execAdminNop; simp
theorem execAdminRopeSet_pending (rid : Nat) (s : State) : res_pending (execAdminRopeSet rid s) s := by unfold execAdminRopeSet; simp
theorem execAdminPortQuery_pending (rid : Nat) (s : State) : res_pending (execAdminPortQuery rid s) s := by unfold execAdminPortQuery; simp
theorem execAdminPortCtrl_pending (rid : Nat) (t : TrainReport) (s : State) : res_pending (execAdminPortCtrl rid t s) s := by unfold execAdminPortCtrl; simp
theorem execAdminMirrorAdopt_pending (rid : Nat) (s : State) : res_pending (execAdminMirrorAdopt rid s) s := by unfold execAdminMirrorAdopt; simp
theorem execCtxAlloc_pending (rid : Nat) (s : State) : res_pending (execCtxAlloc rid s) s := by unfold execCtxAlloc; simp
theorem execCtxConfig_pending (rid : Nat) (s : State) : res_pending (execCtxConfig rid s) s := by unfold execCtxConfig; simp
theorem execCtxFree_pending (rid : Nat) (s : State) : res_pending (execCtxFree rid s) s := by unfold execCtxFree; simp
theorem execCtxQuery_pending (rid : Nat) (s : State) : res_pending (execCtxQuery rid s) s := by unfold execCtxQuery; simp
theorem execCtxSuspend_pending (rid : Nat) (s : State) : res_pending (execCtxSuspend rid s) s := by unfold execCtxSuspend; simp
theorem execCtxResume_pending (rid : Nat) (s : State) : res_pending (execCtxResume rid s) s := by unfold execCtxResume; simp
theorem execSemAlloc_pending (rid : Nat) (s : State) : res_pending (execSemAlloc rid s) s := by unfold execSemAlloc; simp
theorem execSemFree_pending (rid : Nat) (s : State) : res_pending (execSemFree rid s) s := by unfold execSemFree; simp
theorem execSchedSet_pending (rid : Nat) (s : State) : res_pending (execSchedSet rid s) s := by unfold execSchedSet; simp
theorem execLdw_pending (e : Nat) (s : State) : res_pending (execLdw e s) s := by unfold execLdw; simp
theorem execStrm_pending (e : Nat) (tagFault : Bool) (s : State) : res_pending (execStrm e tagFault s) s := by unfold execStrm; simp
theorem execDrn_pending (e : Nat) (s : State) : res_pending (execDrn e s) s := by unfold execDrn; simp
theorem execAddVec_pending (e : Nat) (s : State) : res_pending (execAddVec e s) s := by unfold execAddVec; simp
theorem execMulVec_pending (e : Nat) (s : State) : res_pending (execMulVec e s) s := by unfold execMulVec; simp
theorem execAddImm_pending (e : Nat) (s : State) : res_pending (execAddImm e s) s := by unfold execAddImm; simp
theorem execMulImm_pending (e : Nat) (s : State) : res_pending (execMulImm e s) s := by unfold execMulImm; simp
theorem execRelu_pending (e : Nat) (s : State) : res_pending (execRelu e s) s := by unfold execRelu; simp
theorem execGelu_pending (e : Nat) (s : State) : res_pending (execGelu e s) s := by unfold execGelu; simp
theorem execSilu_pending (e : Nat) (s : State) : res_pending (execSilu e s) s := by unfold execSilu; simp
theorem execClamp_pending (e : Nat) (s : State) : res_pending (execClamp e s) s := by unfold execClamp; simp
theorem execDeq_pending (e : Nat) (s : State) : res_pending (execDeq e s) s := by unfold execDeq; simp
theorem execAddRows_pending (e : Nat) (s : State) : res_pending (execAddRows e s) s := by unfold execAddRows; simp
theorem execScq_pending (e : Nat) (s : State) : res_pending (execScq e s) s := by unfold execScq; simp
theorem execStreamRecordApply_pending (e : Nat) (s : State) : res_pending (execStreamRecordApply e s) s := by unfold execStreamRecordApply; dsimp only; (repeat' split) <;> simp
theorem execFence_pending (e : Nat) (s : State) : res_pending (execFence e s) s := by unfold execFence; simp
theorem execWait_pending (e : Nat) (s : State) : res_pending (execWait e s) s := by
  show (engIssue _ _ _ _ _).pending = s.pending
  rw [engIssue_pending]
  intro w t
  split <;> simp
theorem execInc_pending (e : Nat) (s : State) : res_pending (execInc e s) s := by unfold execInc; simp
theorem execSignal_pending (e : Nat) (s : State) : res_pending (execSignal e s) s := by
  show (engIssue _ _ _ _ _).pending = s.pending
  rw [engIssue_pending]
  intro w t
  split <;> simp
theorem execRun_pending (e : Nat) (s : State) : res_pending (execRun e s) s := by unfold execRun; dsimp only; (repeat' split) <;> simp
theorem execStopRequest_pending (e : Nat) (s : State) : res_pending (execStopRequest e s) s := by unfold execStopRequest; dsimp only [res_pending]; (repeat' split) <;> simp
theorem execEngineStopped_pending (e : Nat) (s : State) : res_pending (execEngineStopped e s) s := by unfold execEngineStopped; dsimp only; (repeat' split) <;> simp
theorem execSkip_pending (e : Nat) (s : State) : res_pending (execSkip e s) s := by unfold execSkip; dsimp only; (repeat' split) <;> simp
theorem execClr_pending (e : Nat) (s : State) : res_pending (execClr e s) s := by unfold execClr; dsimp only; (repeat' split) <;> simp
theorem execClearDone_pending (e : Nat) (s : State) : res_pending (execClearDone e s) s := by unfold execClearDone; dsimp only; (repeat' split) <;> simp
theorem execSeqTailWrite_pending (e : Nat) (v : U32) (s : State) : res_pending (execSeqTailWrite e v s) s := by unfold execSeqTailWrite; dsimp only [res_pending]; (repeat' split) <;> simp
theorem execSyncInc_pending (e : Nat) (v : U32) (s : State) : res_pending (execSyncInc e v s) s := by unfold execSyncInc; dsimp only [res_pending]; (repeat' split) <;> simp
theorem execSyncCntWrite_pending (e : Nat) (k : Nat) (v : U32) (s : State) : res_pending (execSyncCntWrite e k v s) s := by unfold execSyncCntWrite; dsimp only [res_pending]; (repeat' split) <;> simp
theorem execEngFaultClear_pending (e : Nat) (v : U32) (s : State) : res_pending (execEngFaultClear e v s) s := by unfold execEngFaultClear; dsimp only; (repeat' split) <;> simp
theorem execEccUe_pending (e : Nat) (busy : Bool) (onRead : Bool) (s : State) : res_pending (execEccUe e busy onRead s) s := by unfold execEccUe; dsimp only [res_pending]; (repeat' split) <;> simp
theorem execSpareReplace_pending (e : Nat) (s : State) : res_pending (execSpareReplace e s) s := by unfold execSpareReplace; dsimp only [res_pending]; (repeat' split) <;> simp
theorem execTspawn_pending (h : Nat) (rd : Nat) (rs1 : Nat) (s : State) : res_pending (execTspawn h rd rs1 s) s := by unfold execTspawn; simp
theorem execTjoin_pending (h : Nat) (rd : Nat) (rs1 : Nat) (s : State) : res_pending (execTjoin h rd rs1 s) s := by unfold execTjoin; simp
theorem execTjoinTimeout_pending (h : Nat) (s : State) : res_pending (execTjoinTimeout h s) s := by unfold execTjoinTimeout; dsimp only [res_pending]; (repeat' split) <;> simp
theorem execTend_pending (h : Nat) (s : State) : res_pending (execTend h s) s := by unfold execTend; simp
theorem execTaskletFault_pending (h : Nat) (mcause : Nat) (tval : U64) (s : State) : res_pending (execTaskletFault h mcause tval s) s := by
  show (onHart _ _ _).pending = s.pending
  rw [onHart_pending]
  intro k t
  split
  · rfl
  split
  · rename_i h; exact resolveTrap_pending h
  · simp
theorem execTaskletStart_pending (c : Nat) (h : Nat) (s : State) : res_pending (execTaskletStart c h s) s := by unfold execTaskletStart; simp
theorem execPfstream_pending (h : Nat) (rs1 : Nat) (rs2 : Nat) (s : State) : res_pending (execPfstream h rs1 rs2 s) s := by unfold execPfstream; simp
theorem execPfstop_pending (h : Nat) (rs1 : Nat) (s : State) : res_pending (execPfstop h rs1 s) s := by unfold execPfstop; simp
theorem execPfind_pending (h : Nat) (rs1 : Nat) (rs2 : Nat) (s : State) : res_pending (execPfind h rs1 rs2 s) s := by unfold execPfind; simp
theorem execVxpopcVv_pending (h : Nat) (vd : Nat) (vs2 : Nat) (s1 : Nat) (vm : Bool) (s : State) : res_pending (execVxpopcVv h vd vs2 s1 vm s) s := by unfold execVxpopcVv; simp
theorem execVxpopcVx_pending (h : Nat) (vd : Nat) (vs2 : Nat) (s1 : Nat) (vm : Bool) (s : State) : res_pending (execVxpopcVx h vd vs2 s1 vm s) s := by unfold execVxpopcVx; simp
theorem execVxpopcaccVv_pending (h : Nat) (vd : Nat) (vs2 : Nat) (s1 : Nat) (vm : Bool) (s : State) : res_pending (execVxpopcaccVv h vd vs2 s1 vm s) s := by unfold execVxpopcaccVv; simp
theorem execVxpopcaccVx_pending (h : Nat) (vd : Nat) (vs2 : Nat) (s1 : Nat) (vm : Bool) (s : State) : res_pending (execVxpopcaccVx h vd vs2 s1 vm s) s := by unfold execVxpopcaccVx; simp
theorem execCoreFence_pending (h : Nat) (pred : Nat) (_succ : Nat) (s : State) : res_pending (execCoreFence h pred _succ s) s := by unfold execCoreFence; simp
theorem execTdFaultsRead_pending (c : Nat) (s : State) : res_pending (execTdFaultsRead c s) s := by unfold execTdFaultsRead; dsimp only [res_pending]; (repeat' split) <;> simp
theorem execSignalDispatch_pending (d : Nat) (s : State) : res_pending (execSignalDispatch d s) s := by unfold execSignalDispatch; dsimp only [res_pending]; (repeat' split) <;> simp
theorem execSignalRetry_pending (d : Nat) (s : State) : res_pending (execSignalRetry d s) s := by unfold execSignalRetry; simp
theorem execDmaTailWrite_pending (e : Nat) (v : U32) (s : State) : res_pending (execDmaTailWrite e v s) s := by unfold execDmaTailWrite; dsimp only; (repeat' split) <;> simp
theorem execDmaDescriptor_pending (e : Nat) (s : State) : res_pending (execDmaDescriptor e s) s := by unfold execDmaDescriptor; dsimp only; (repeat' split) <;> simp
theorem execTqTailWrite_pending (c : Nat) (v : U32) (s : State) : res_pending (execTqTailWrite c v s) s := by unfold execTqTailWrite; dsimp only [res_pending]; (repeat' split) <;> simp
theorem execTierCopy_pending (c : Nat) (s : State) : res_pending (execTierCopy c s) s := by
  show (tierRun _ _ _ _).pending = s.pending
  rw [tierRun_pending]
  intro b t
  unfold copyWork
  grind (splits := 30) [ctxRead_pending, ctxWrite_pending, tierWrite_pending, decompressFrom_pending, compressFrom_pending]
theorem execTierDecompress_pending (c : Nat) (s : State) : res_pending (execTierDecompress c s) s := by
  show (tierRun _ _ _ _).pending = s.pending
  rw [tierRun_pending]
  intro b t
  unfold decompressWork
  grind (splits := 30) [ctxRead_pending, ctxWrite_pending, tierWrite_pending, decompressFrom_pending, compressFrom_pending]
theorem execTierCompress_pending (c : Nat) (s : State) : res_pending (execTierCompress c s) s := by
  show (tierRun _ _ _ _).pending = s.pending
  rw [tierRun_pending]
  intro b t
  unfold compressWork
  grind (splits := 30) [ctxRead_pending, ctxWrite_pending, tierWrite_pending, decompressFrom_pending, compressFrom_pending]
theorem execTierZero_pending (c : Nat) (s : State) : res_pending (execTierZero c s) s := by
  show (tierRun _ _ _ _).pending = s.pending
  rw [tierRun_pending]
  intro b t
  unfold zeroWork
  grind (splits := 30) [ctxRead_pending, ctxWrite_pending, tierWrite_pending, decompressFrom_pending, compressFrom_pending]
theorem execWorkObserved_pending (c : Nat) (s : State) : res_pending (execWorkObserved c s) s := by unfold execWorkObserved; simp
theorem execSwitch_pending (out : List Nat) (inn : Option Nat) (us : Nat) (s : State) : res_pending (execSwitch out inn us s) s := by unfold execSwitch; simp
theorem execBeSliceExpiry_pending (c : Nat) (s : State) : res_pending (execBeSliceExpiry c s) s := by unfold execBeSliceExpiry; dsimp only [res_pending]; (repeat' split) <;> simp
theorem execLcIdleExpiry_pending (c : Nat) (s : State) : res_pending (execLcIdleExpiry c s) s := by unfold execLcIdleExpiry; dsimp only [res_pending]; (repeat' split) <;> simp
theorem execAcquire_pending (h : Nat) (sem : Nat) (wait : SemWait) (s : State) : res_pending (execAcquire h sem wait s) s := by unfold execAcquire; simp
theorem execTryAcquire_pending (h : Nat) (sem : Nat) (s : State) : res_pending (execTryAcquire h sem s) s := by unfold execTryAcquire; simp
theorem execRelease_pending (h : Nat) (sem : Nat) (s : State) : res_pending (execRelease h sem s) s := by unfold execRelease; simp
theorem execSemTimeout_pending (h : Nat) (sem : Nat) (s : State) : res_pending (execSemTimeout h sem s) s := by unfold execSemTimeout; simp
theorem execDonatedRun_pending (h : Nat) (sem : Nat) (s : State) : res_pending (execDonatedRun h sem s) s := by unfold execDonatedRun; simp
theorem execSemHolderStarved_pending (sem : Nat) (s : State) : res_pending (execSemHolderStarved sem s) s := by unfold execSemHolderStarved; simp
theorem execModelLoad_pending (rid : Nat) (img : ModelImage) (s : State) : res_pending (execModelLoad rid img s) s := by unfold execModelLoad; simp
theorem execModelUnload_pending (rid : Nat) (s : State) : res_pending (execModelUnload rid s) s := by unfold execModelUnload; simp
theorem execModelQuery_pending (rid : Nat) (s : State) : res_pending (execModelQuery rid s) s := by unfold execModelQuery; simp
theorem execModelBatchCfg_pending (rid : Nat) (s : State) : res_pending (execModelBatchCfg rid s) s := by unfold execModelBatchCfg; simp
theorem execStepBoundary_pending (m : Nat) (step : StepReport) (s : State) : res_pending (execStepBoundary m step s) s := by unfold execStepBoundary; simp
theorem execReshard_pending (sess : Nat) (s : State) : res_pending (execReshard sess s) s := by unfold execReshard; simp
theorem execRetrievalWaitExpiry_pending (sess : Nat) (block : Nat) (s : State) : res_pending (execRetrievalWaitExpiry sess block s) s := by unfold execRetrievalWaitExpiry; simp
theorem execAgentCreate_pending (rid : Nat) (s : State) : res_pending (execAgentCreate rid s) s := by unfold execAgentCreate; simp
theorem execAgentAppend_pending (rid : Nat) (toks : List U32) (s : State) : res_pending (execAgentAppend rid toks s) s := by unfold execAgentAppend; simp
theorem execAgentGenerate_pending (rid : Nat) (s : State) : res_pending (execAgentGenerate rid s) s := by unfold execAgentGenerate; simp
theorem execAgentPause_pending (rid : Nat) (s : State) : res_pending (execAgentPause rid s) s := by unfold execAgentPause; simp
theorem execAgentResume_pending (rid : Nat) (s : State) : res_pending (execAgentResume rid s) s := by unfold execAgentResume; simp
theorem execAgentSnapshot_pending (rid : Nat) (s : State) : res_pending (execAgentSnapshot rid s) s := by unfold execAgentSnapshot; simp
theorem execAgentFork_pending (rid : Nat) (s : State) : res_pending (execAgentFork rid s) s := by unfold execAgentFork; simp
theorem execAgentClose_pending (rid : Nat) (s : State) : res_pending (execAgentClose rid s) s := by unfold execAgentClose; simp
theorem execAgentQuery_pending (rid : Nat) (s : State) : res_pending (execAgentQuery rid s) s := by unfold execAgentQuery; simp
theorem execSnapshotCommit_pending (sess : Nat) (s : State) : res_pending (execSnapshotCommit sess s) s := by unfold execSnapshotCommit; simp
theorem execMirrorDone_pending (sess : Nat) (seq : Nat) (s : State) : res_pending (execMirrorDone sess seq s) s := by unfold execMirrorDone; simp
theorem execMirrorUnavailable_pending (sess : Nat) (s : State) : res_pending (execMirrorUnavailable sess s) s := by unfold execMirrorUnavailable; simp
theorem execEmbedDocs_pending (rid : Nat) (res : EmbedReport) (s : State) : res_pending (execEmbedDocs rid res s) s := by unfold execEmbedDocs; simp
theorem execEmbedTokens_pending (rid : Nat) (res : EmbedReport) (s : State) : res_pending (execEmbedTokens rid res s) s := by unfold execEmbedTokens; simp
theorem execMemoryAlloc_pending (rid : Nat) (s : State) : res_pending (execMemoryAlloc rid s) s := by unfold execMemoryAlloc; simp
theorem execMemoryFree_pending (rid : Nat) (s : State) : res_pending (execMemoryFree rid s) s := by unfold execMemoryFree; simp
theorem execMemorySeal_pending (rid : Nat) (racing : List (Nat × Bytes)) (s : State) : res_pending (execMemorySeal rid racing s) s := by unfold execMemorySeal; simp
theorem execMemoryClone_pending (rid : Nat) (s : State) : res_pending (execMemoryClone rid s) s := by unfold execMemoryClone; simp
theorem execMemoryPlace_pending (rid : Nat) (reads : List (Nat × Nat)) (s : State) : res_pending (execMemoryPlace rid reads s) s := by unfold execMemoryPlace; simp
theorem execMemoryQuery_pending (rid : Nat) (s : State) : res_pending (execMemoryQuery rid s) s := by unfold execMemoryQuery; simp
theorem execMemoryUsage_pending (rid : Nat) (s : State) : res_pending (execMemoryUsage rid s) s := by unfold execMemoryUsage; simp
theorem execMemoryQuota_pending (rid : Nat) (s : State) : res_pending (execMemoryQuota rid s) s := by unfold execMemoryQuota; simp
theorem execMemoryMigCfg_pending (rid : Nat) (s : State) : res_pending (execMemoryMigCfg rid s) s := by unfold execMemoryMigCfg; simp
theorem execCowPromotion_pending (c : Nat) (va : Nat) (s : State) : res_pending (execCowPromotion c va s) s := by
  show ((cowPage c va s).getD s).pending = s.pending
  cases h : cowPage c va s with
  | none => rfl
  | some t => exact cowPage_pending h
theorem execFill_pending (c : Nat) (va : Nat) (ok : Bool) (s : State) : res_pending (execFill c va ok s) s := by unfold execFill; simp
theorem execMigrationEpoch_pending (s : State) : res_pending (execMigrationEpoch s) s := by unfold execMigrationEpoch; dsimp only [res_pending]; (repeat' split) <;> simp
theorem execPageMove_pending (pid : Nat) (s : State) : res_pending (execPageMove pid s) s := by unfold execPageMove; simp
theorem execMigFailRead_pending (s : State) : res_pending (execMigFailRead s) s := by unfold execMigFailRead; simp
theorem execT1Pressure_pending (s : State) : res_pending (execT1Pressure s) s := by unfold execT1Pressure; dsimp only [res_pending]; (repeat' split) <;> simp
theorem execT2Pressure_pending (s : State) : res_pending (execT2Pressure s) s := by unfold execT2Pressure; dsimp only [res_pending]; (repeat' split) <;> simp
theorem execDramRead_pending (k : Nat) (addr : Nat) (_c : Nat) (heal : DramHeal) (s : State) : res_pending (execDramRead k addr _c heal s) s := by unfold execDramRead; dsimp only; (repeat' split) <;> simp
theorem execPatrolRead_pending (k : Nat) (heal : DramHeal) (s : State) : res_pending (execPatrolRead k heal s) s := by unfold execPatrolRead; dsimp only; (repeat' split) <;> simp
theorem execRemapInstall_pending (k : Nat) (addr : Nat) (s : State) : res_pending (execRemapInstall k addr s) s := by unfold execRemapInstall; dsimp only [res_pending]; (repeat' split) <;> simp
theorem execPageRetired_pending (t2 : Bool) (page : Nat) (_pid : Nat) (s : State) : res_pending (execPageRetired t2 page _pid s) s := by unfold execPageRetired; simp
theorem execLpddrPackageLoss_pending (p : Nat) (s : State) : res_pending (execLpddrPackageLoss p s) s := by unfold execLpddrPackageLoss; dsimp only [res_pending]; (repeat' split) <;> simp
theorem execEccCeCntRead_pending (k : Nat) (ue : Bool) (s : State) : res_pending (execEccCeCntRead k ue s) s := by unfold execEccCeCntRead; dsimp only; (repeat' split) <;> simp
theorem execEccFlipCtrlWrite_pending (k : Nat) (v : U32) (c : Nat) (s : State) : res_pending (execEccFlipCtrlWrite k v c s) s := by unfold execEccFlipCtrlWrite; dsimp only [res_pending]; (repeat' split) <;> simp
theorem execFlipApply_pending (k : Nat) (addr : Nat) (s : State) : res_pending (execFlipApply k addr s) s := by unfold execFlipApply; dsimp only [res_pending]; (repeat' split) <;> simp
theorem execWriteAccept_pending (src : Nat) (s : State) : res_pending (execWriteAccept src s) s := by unfold execWriteAccept; dsimp only; (repeat' split) <;> simp
theorem execStripeProgram_pending (sb : Nat) (units : List Nat) (failBlock : Option Nat) (s : State) : res_pending (execStripeProgram sb units failBlock s) s := by unfold execStripeProgram; simp
theorem execFold_pending (s : State) : res_pending (execFold s) s := by unfold execFold; simp
theorem execGarbageCollection_pending (dst : Nat) (s : State) : res_pending (execGarbageCollection dst s) s := by unfold execGarbageCollection; simp
theorem execWearLevelling_pending (dst : Nat) (s : State) : res_pending (execWearLevelling dst s) s := by unfold execWearLevelling; simp
theorem execJournalPageProgram_pending (s : State) : res_pending (execJournalPageProgram s) s := by unfold execJournalPageProgram; dsimp only [res_pending]; (repeat' split) <;> simp
theorem execMapSegmentWrite_pending (seg : Nat) (s : State) : res_pending (execMapSegmentWrite seg s) s := by unfold execMapSegmentWrite; simp
theorem execDynCacheRecompute_pending (s : State) : res_pending (execDynCacheRecompute s) s := by unfold execDynCacheRecompute; dsimp only [res_pending]; (repeat' split) <;> simp
theorem execFlashRead_pending (unit : Nat) (step : Nat) (s : State) : res_pending (execFlashRead unit step s) s := by unfold execFlashRead; simp
theorem execMediaScan_pending (blocks : List Nat) (s : State) : res_pending (execMediaScan blocks s) s := by unfold execMediaScan; dsimp only [res_pending]; (repeat' split) <;> simp
theorem execBlockRetired_pending (blk : Nat) (cause : Nat) (s : State) : res_pending (execBlockRetired blk cause s) s := by unfold execBlockRetired; simp
theorem execNandDieFailed_pending (ch : Nat) (d : Nat) (silent : Bool) (s : State) : res_pending (execNandDieFailed ch d silent s) s := by unfold execNandDieFailed; dsimp only [res_pending]; (repeat' split) <;> simp
theorem execDieRebuildDone_pending (ch : Nat) (d : Nat) (s : State) : res_pending (execDieRebuildDone ch d s) s := by unfold execDieRebuildDone; simp
theorem execAbseil_pending (complete : Bool) (ms : Nat) (s : State) : res_pending (execAbseil complete ms s) s := by unfold execAbseil; simp
theorem execHoldupMeasure_pending (cUf : Nat) (reached : Bool) (s : State) : res_pending (execHoldupMeasure cUf reached s) s := by unfold execHoldupMeasure; dsimp only [res_pending]; (repeat' split) <;> simp
theorem execStoreAdmin_pending (rid : Nat) (data : Bytes) (prps : List Nat) (refused : Bool) (s : State) : res_pending (execStoreAdmin rid data prps refused s) s := by unfold execStoreAdmin; simp
theorem execStoreQpCreate_pending (rid : Nat) (s : State) : res_pending (execStoreQpCreate rid s) s := by unfold execStoreQpCreate; simp
theorem execStoreQpDelete_pending (rid : Nat) (s : State) : res_pending (execStoreQpDelete rid s) s := by unfold execStoreQpDelete; simp
theorem execStoreQpQuery_pending (rid : Nat) (s : State) : res_pending (execStoreQpQuery rid s) s := by unfold execStoreQpQuery; simp
theorem execQpDoorbell_pending (q : Nat) (s : State) : res_pending (execQpDoorbell q s) s := by unfold execQpDoorbell; simp
theorem execSqFetch_pending (q : Nat) (sqe : Bytes) (s : State) : res_pending (execSqFetch q sqe s) s := by unfold execSqFetch; simp
theorem execFlush_pending (q : Nat) (s : State) : res_pending (execFlush q s) s := by unfold execFlush; simp
theorem execWrite_pending (q : Nat) (data : Bytes) (refused : Bool) (s : State) : res_pending (execWrite q data refused s) s := by unfold execWrite; simp
theorem execRead_pending (q : Nat) (prps : List Nat) (refused : Bool) (s : State) : res_pending (execRead q prps refused s) s := by unfold execRead; simp
theorem execCompare_pending (q : Nat) (data : Bytes) (refused : Bool) (s : State) : res_pending (execCompare q data refused s) s := by unfold execCompare; simp
theorem execWriteZeroes_pending (q : Nat) (s : State) : res_pending (execWriteZeroes q s) s := by unfold execWriteZeroes; simp
theorem execDatasetManagement_pending (q : Nat) (data : Bytes) (refused : Bool) (s : State) : res_pending (execDatasetManagement q data refused s) s := by unfold execDatasetManagement; simp
theorem execVendorScan_pending (q : Nat) (prps : List Nat) (refused : Bool) (s : State) : res_pending (execVendorScan q prps refused s) s := by unfold execVendorScan; simp
theorem execVendorSearch_pending (q : Nat) (code : Bytes) (prps : List Nat) (refused : Bool) (s : State) : res_pending (execVendorSearch q code prps refused s) s := by unfold execVendorSearch; simp
theorem execGetLogPage_pending (rid : Nat) (prps : List Nat) (refused : Bool) (s : State) : res_pending (execGetLogPage rid prps refused s) s := by unfold execGetLogPage; simp
theorem execNvmeIdentify_pending (rid : Nat) (prps : List Nat) (refused : Bool) (s : State) : res_pending (execNvmeIdentify rid prps refused s) s := by unfold execNvmeIdentify; simp
theorem execSetFeatures_pending (rid : Nat) (s : State) : res_pending (execSetFeatures rid s) s := by unfold execSetFeatures; simp
theorem execGetFeatures_pending (rid : Nat) (s : State) : res_pending (execGetFeatures rid s) s := by unfold execGetFeatures; simp
theorem execNamespaceCreate_pending (rid : Nat) (data : Bytes) (refused : Bool) (s : State) : res_pending (execNamespaceCreate rid data refused s) s := by unfold execNamespaceCreate; simp
theorem execNamespaceDelete_pending (rid : Nat) (s : State) : res_pending (execNamespaceDelete rid s) s := by unfold execNamespaceDelete; simp
theorem execNamespaceAttach_pending (rid : Nat) (data : Bytes) (refused : Bool) (s : State) : res_pending (execNamespaceAttach rid data refused s) s := by unfold execNamespaceAttach; simp
theorem execNamespaceDetach_pending (rid : Nat) (data : Bytes) (refused : Bool) (s : State) : res_pending (execNamespaceDetach rid data refused s) s := by unfold execNamespaceDetach; simp
theorem execKeepAlive_pending (rid : Nat) (s : State) : res_pending (execKeepAlive rid s) s := by unfold execKeepAlive; simp
theorem execStoreKeepAliveExpired_pending (c : Nat) (s : State) : res_pending (execStoreKeepAliveExpired c s) s := by unfold execStoreKeepAliveExpired; simp
theorem execCryptoErase_pending (rid : Nat) (s : State) : res_pending (execCryptoErase rid s) s := by unfold execCryptoErase; simp
theorem execBlockErase_pending (rid : Nat) (s : State) : res_pending (execBlockErase rid s) s := by unfold execBlockErase; simp
theorem execStoreSanitizeDone_pending (s : State) : res_pending (execStoreSanitizeDone s) s := by unfold execStoreSanitizeDone; simp
theorem execStoreCqNotify_pending (q : Nat) (s : State) : res_pending (execStoreCqNotify q s) s := by unfold execStoreCqNotify; simp
theorem execScanProgLoad_pending (rid : Nat) (prog : Bytes) (s : State) : res_pending (execScanProgLoad rid prog s) s := by unfold execScanProgLoad; simp
theorem execScanProgFree_pending (rid : Nat) (s : State) : res_pending (execScanProgFree rid s) s := by unfold execScanProgFree; simp
theorem execScanRun_pending (rid : Nat) (s : State) : res_pending (execScanRun rid s) s := by unfold execScanRun; simp
theorem execPageEvaluate_pending (ch : Nat) (unit : Nat) (prog : Nat) (disagree : Bool) (s : State) : res_pending (execPageEvaluate ch unit prog disagree s) s := by unfold execPageEvaluate; simp
theorem execSearchCreate_pending (rid : Nat) (s : State) : res_pending (execSearchCreate rid s) s := by unfold execSearchCreate; simp
theorem execSearchDrop_pending (rid : Nat) (s : State) : res_pending (execSearchDrop rid s) s := by unfold execSearchDrop; simp
theorem execSearchInsert_pending (rid : Nat) (data : Bytes) (s : State) : res_pending (execSearchInsert rid data s) s := by unfold execSearchInsert; simp
theorem execSearchDelete_pending (rid : Nat) (data : Bytes) (s : State) : res_pending (execSearchDelete rid data s) s := by unfold execSearchDelete; simp
theorem execSearchQuery_pending (rid : Nat) (data : Bytes) (s : State) : res_pending (execSearchQuery rid data s) s := by unfold execSearchQuery; simp
theorem execSearchMerge_pending (rid : Nat) (s : State) : res_pending (execSearchMerge rid s) s := by unfold execSearchMerge; simp
theorem execSearchInfo_pending (rid : Nat) (s : State) : res_pending (execSearchInfo rid s) s := by unfold execSearchInfo; simp
theorem execEpochAdvance_pending (idx : Nat) (s : State) : res_pending (execEpochAdvance idx s) s := by unfold execEpochAdvance; simp
theorem execMergeDone_pending (idx : Nat) (g : NewGraph) (s : State) : res_pending (execMergeDone idx g s) s := by unfold execMergeDone; simp
theorem execFlitReceive_pending (p : Nat) (f : Flit) (s : State) : res_pending (execFlitReceive p f s) s := by unfold execFlitReceive; simp
theorem execNak_pending (p : Nat) (seq : Nat) (s : State) : res_pending (execNak p seq s) s := by unfold execNak; dsimp only [res_pending]; (repeat' split) <;> simp
theorem execAckTimer_pending (p : Nat) (s : State) : res_pending (execAckTimer p s) s := by unfold execAckTimer; dsimp only [res_pending]; (repeat' split) <;> simp
theorem execRetrain_pending (p : Nat) (t : TrainReport) (s : State) : res_pending (execRetrain p t s) s := by unfold execRetrain; simp
theorem execTraining_pending (p : Nat) (t : TrainReport) (s : State) : res_pending (execTraining p t s) s := by unfold execTraining; simp
theorem execLinkDown_pending (p : Nat) (s : State) : res_pending (execLinkDown p s) s := by unfold execLinkDown; dsimp only [res_pending]; (repeat' split) <;> simp
theorem execTrainRetry_pending (p : Nat) (s : State) : res_pending (execTrainRetry p s) s := by unfold execTrainRetry; dsimp only [res_pending]; (repeat' split) <;> simp
theorem execKeyUpdatePhase_pending (p : Nat) (tc3 : Bool) (s : State) : res_pending (execKeyUpdatePhase p tc3 s) s := by unfold execKeyUpdatePhase; dsimp only [res_pending]; (repeat' split) <;> simp
theorem execPacketRead_pending (pk : Packet) (s : State) : res_pending (execPacketRead pk s) s := by unfold execPacketRead; simp
theorem execPacketWrite_pending (pk : Packet) (data : Bytes) (s : State) : res_pending (execPacketWrite pk data s) s := by unfold execPacketWrite; simp
theorem execReadData_pending (pk : Packet) (data : Bytes) (s : State) : res_pending (execReadData pk data s) s := by unfold execReadData; simp
theorem execWriteAck_pending (pk : Packet) (s : State) : res_pending (execWriteAck pk s) s := by unfold execWriteAck; simp
theorem execRemoteAccessTimeout_pending (ptag : Nat) (s : State) : res_pending (execRemoteAccessTimeout ptag s) s := by unfold execRemoteAccessTimeout; simp
theorem execCreditReturn_pending (p : Nat) (vc : Nat) (n : Nat) (s : State) : res_pending (execCreditReturn p vc n s) s := by unfold execCreditReturn; dsimp only [res_pending]; (repeat' split) <;> simp
theorem execRopeHeartbeatSend_pending (s : State) : res_pending (execRopeHeartbeatSend s) s := by unfold execRopeHeartbeatSend; simp
theorem execRopeHeartbeatReceive_pending (p : Nat) (pos : Nat) (hops : Nat) (exit : Nat) (st : Nat) (s : State) : res_pending (execRopeHeartbeatReceive p pos hops exit st s) s := by unfold execRopeHeartbeatReceive; simp
theorem execPeerLost_pending (pos : Nat) (s : State) : res_pending (execPeerLost pos s) s := by unfold execPeerLost; dsimp only; (repeat' split) <;> simp
theorem execTuneGroupSet_pending (rid : Nat) (s : State) : res_pending (execTuneGroupSet rid s) s := by unfold execTuneGroupSet; simp
theorem execTuneGroupFree_pending (rid : Nat) (s : State) : res_pending (execTuneGroupFree rid s) s := by unfold execTuneGroupFree; simp
theorem execTuneAdapterCreate_pending (rid : Nat) (data : Bytes) (s : State) : res_pending (execTuneAdapterCreate rid data s) s := by unfold execTuneAdapterCreate; simp
theorem execTuneAdapterFree_pending (rid : Nat) (s : State) : res_pending (execTuneAdapterFree rid s) s := by unfold execTuneAdapterFree; simp
theorem execTuneStep_pending (rid : Nat) (data : Bytes) (s : State) : res_pending (execTuneStep rid data s) s := by unfold execTuneStep; simp
theorem execTuneQuery_pending (rid : Nat) (s : State) : res_pending (execTuneQuery rid s) s := by unfold execTuneQuery; simp
theorem execHello_pending (g : Nat) (pk : TuneCtl) (s : State) : res_pending (execHello g pk s) s := by unfold execHello; simp
theorem execSlotGrant_pending (g : Nat) (pk : TuneCtl) (s : State) : res_pending (execSlotGrant g pk s) s := by unfold execSlotGrant; simp
theorem execAbort_pending (g : Nat) (pk : TuneCtl) (s : State) : res_pending (execAbort g pk s) s := by unfold execAbort; simp
theorem execTuneDataPacket_pending (g : Nat) (pk : TunePacket) (s : State) : res_pending (execTuneDataPacket g pk s) s := by unfold execTuneDataPacket; simp
theorem execPathLossTimeout_pending (g : Nat) (seq : Nat) (s : State) : res_pending (execPathLossTimeout g seq s) s := by unfold execPathLossTimeout; dsimp only [res_pending]; (repeat' split) <;> simp
theorem execGetVersion_pending (p : Nat) (s : State) : res_pending (execGetVersion p s) s := by unfold execGetVersion; simp
theorem execGetCapabilities_pending (p : Nat) (s : State) : res_pending (execGetCapabilities p s) s := by unfold execGetCapabilities; simp
theorem execNegotiateAlgorithms_pending (p : Nat) (s : State) : res_pending (execNegotiateAlgorithms p s) s := by unfold execNegotiateAlgorithms; simp
theorem execGetDigests_pending (p : Nat) (s : State) : res_pending (execGetDigests p s) s := by unfold execGetDigests; simp
theorem execGetCertificate_pending (p : Nat) (s : State) : res_pending (execGetCertificate p s) s := by unfold execGetCertificate; simp
theorem execChallenge_pending (p : Nat) (torn : Bool) (s : State) : res_pending (execChallenge p torn s) s := by unfold execChallenge; simp
theorem execGetMeasurements_pending (p : Nat) (index : Nat) (signed : Bool) (s : State) : res_pending (execGetMeasurements p index signed s) s := by unfold execGetMeasurements; simp
theorem execKeyExchange_pending (p : Nat) (sid : Nat) (ok : Bool) (s : State) : res_pending (execKeyExchange p sid ok s) s := by unfold execKeyExchange; simp
theorem execFinish_pending (p : Nat) (ok : Bool) (s : State) : res_pending (execFinish p ok s) s := by unfold execFinish; simp
theorem execHeartbeat_pending (p : Nat) (s : State) : res_pending (execHeartbeat p s) s := by unfold execHeartbeat; simp
theorem execKeyUpdate_pending (p : Nat) (s : State) : res_pending (execKeyUpdate p s) s := by unfold execKeyUpdate; simp
theorem execEndSession_pending (p : Nat) (s : State) : res_pending (execEndSession p s) s := by unfold execEndSession; simp
theorem execSessionHeartbeatLapse_pending (s : State) : res_pending (execSessionHeartbeatLapse s) s := by unfold execSessionHeartbeatLapse; simp
theorem execSecInfo_pending (rid : Nat) (s : State) : res_pending (execSecInfo rid s) s := by unfold execSecInfo; simp
theorem execSecAdmit_pending (rid : Nat) (s : State) : res_pending (execSecAdmit rid s) s := by unfold execSecAdmit; simp
theorem execSecReject_pending (rid : Nat) (s : State) : res_pending (execSecReject rid s) s := by unfold execSecReject; simp
theorem execSecFkeyRotate_pending (rid : Nat) (s : State) : res_pending (execSecFkeyRotate rid s) s := by unfold execSecFkeyRotate; simp
theorem execSecFkeyStatus_pending (rid : Nat) (s : State) : res_pending (execSecFkeyStatus rid s) s := by unfold execSecFkeyStatus; simp
theorem execSecDebugNonce_pending (rid : Nat) (s : State) : res_pending (execSecDebugNonce rid s) s := by unfold execSecDebugNonce; simp
theorem execSecDebugUnlock_pending (rid : Nat) (tok : Bytes) (sigOk : Bool) (s : State) : res_pending (execSecDebugUnlock rid tok sigOk s) s := by unfold execSecDebugUnlock; simp
theorem execSecRecover_pending (rid : Nat) (tok : Bytes) (sigOk : Bool) (s : State) : res_pending (execSecRecover rid tok sigOk s) s := by unfold execSecRecover; simp
theorem execReencryptionPass_pending (ns : Bool) (id : Nat) (s : State) : res_pending (execReencryptionPass ns id s) s := by unfold execReencryptionPass; simp
theorem execSecTamper_pending (src : Nat) (s : State) : res_pending (execSecTamper src s) s := by unfold execSecTamper; simp
theorem execScrub_pending (s : State) : res_pending (execScrub s) s := by unfold execScrub; simp
theorem execScrubEnd_pending (overrun : Bool) (s : State) : res_pending (execScrubEnd overrun s) s := by unfold execScrubEnd; simp
theorem execFeedLost_pending (f : Nat) (cause : Nat) (s : State) : res_pending (execFeedLost f cause s) s := by unfold execFeedLost; dsimp only [res_pending]; (repeat' split) <;> simp
theorem execFeedRestored_pending (f : Nat) (s : State) : res_pending (execFeedRestored f s) s := by unfold execFeedRestored; simp
theorem execEfuseTrip_pending (f : Nat) (current : Bool) (s : State) : res_pending (execEfuseTrip f current s) s := by unfold execEfuseTrip; simp
theorem execHoldupTakeover_pending (s : State) : res_pending (execHoldupTakeover s) s := by unfold execHoldupTakeover; simp
theorem execDischargeLoad_pending (s : State) : res_pending (execDischargeLoad s) s := by unfold execDischargeLoad; dsimp only [res_pending]; (repeat' split) <;> simp
theorem execPowerQuery_pending (rid : Nat) (s : State) : res_pending (execPowerQuery rid s) s := by unfold execPowerQuery; simp
theorem execPowerSetCap_pending (rid : Nat) (s : State) : res_pending (execPowerSetCap rid s) s := by unfold execPowerSetCap; simp
theorem execPowerSetState_pending (rid : Nat) (s : State) : res_pending (execPowerSetState rid s) s := by unfold execPowerSetState; simp
theorem execWake_pending (s : State) : res_pending (execWake s) s := by unfold execWake; simp
theorem execIdleEntry_pending (s : State) : res_pending (execIdleEntry s) s := by unfold execIdleEntry; simp
theorem execCapMissed_pending (meanW : Nat) (s : State) : res_pending (execCapMissed meanW s) s := by unfold execCapMissed; simp
theorem execThrottle_pending (unit : Nat) (up : Bool) (s : State) : res_pending (execThrottle unit up s) s := by unfold execThrottle; simp
theorem execJunctionTrip_pending (sensorHot : Bool) (s : State) : res_pending (execJunctionTrip sensorHot s) s := by unfold execJunctionTrip; simp
theorem execRailFault_pending (rail : Nat) (s : State) : res_pending (execRailFault rail s) s := by unfold execRailFault; simp
theorem execCoolantWarn_pending (start : Bool) (s : State) : res_pending (execCoolantWarn start s) s := by unfold execCoolantWarn; simp
theorem execEmergency_pending (start : Bool) (s : State) : res_pending (execEmergency start s) s := by unfold execEmergency; simp
theorem execModResetN_pending (cycles : Nat) (hold : Bool) (cool : Bool) (s : State) : res_pending (execModResetN cycles hold cool s) s := by unfold execModResetN; simp
theorem execModWakeN_pending (cycles : Nat) (s : State) : res_pending (execModWakeN cycles s) s := by unfold execModWakeN; dsimp only [res_pending]; (repeat' split) <;> simp
theorem execSbAlertStatWrite_pending (v : U16) (s : State) : res_pending (execSbAlertStatWrite v s) s := by unfold execSbAlertStatWrite; simp
theorem execAlertResponse_pending (s : State) : res_pending (execAlertResponse s) s := by unfold execAlertResponse; dsimp only [res_pending]; (repeat' split) <;> simp
theorem execFaKey1_pending (v : U32) (s : State) : res_pending (execFaKey1 v s) s := by unfold execFaKey1; simp
theorem execFaKey2_pending (v : U32) (s : State) : res_pending (execFaKey2 v s) s := by unfold execFaKey2; simp
theorem execFaProgram_pending (addr : U32) (data : U64) (s : State) : res_pending (execFaProgram addr data s) s := by unfold execFaProgram; simp
theorem execFaSectorErase_pending (addr : U32) (s : State) : res_pending (execFaSectorErase addr s) s := by unfold execFaSectorErase; simp
theorem execFaBankErase_pending (addr : U32) (s : State) : res_pending (execFaBankErase addr s) s := by unfold execFaBankErase; simp
theorem execFaSuspend_pending (addr : U32) (s : State) : res_pending (execFaSuspend addr s) s := by unfold execFaSuspend; simp
theorem execFaResume_pending (addr : U32) (s : State) : res_pending (execFaResume addr s) s := by unfold execFaResume; simp
theorem execFaReadId_pending (addr : U32) (s : State) : res_pending (execFaReadId addr s) s := by unfold execFaReadId; simp
theorem execFaClearStatus_pending (addr : U32) (s : State) : res_pending (execFaClearStatus addr s) s := by unfold execFaClearStatus; simp
theorem execFaRelock_pending (off : Nat) (v : U64) (s : State) : res_pending (execFaRelock off v s) s := by unfold execFaRelock; simp
theorem execFaOperationDone_pending (ok : Bool) (s : State) : res_pending (execFaOperationDone ok s) s := by unfold execFaOperationDone; simp
theorem execFaRead_pending (addr : Nat) (fails : Nat) (s : State) : res_pending (execFaRead addr fails s) s := by unfold execFaRead; simp
theorem execFaRetryRead_pending (s : State) : res_pending (execFaRetryRead s) s := by unfold execFaRetryRead; simp
theorem execBusyFetchTrap_pending (addr : Nat) (s : State) : res_pending (execBusyFetchTrap addr s) s := by unfold execBusyFetchTrap; simp
theorem execRecordSectorErase_pending (j : Nat) (s : State) : res_pending (execRecordSectorErase j s) s := by unfold execRecordSectorErase; simp
theorem execFwupQuery_pending (rid : Nat) (s : State) : res_pending (execFwupQuery rid s) s := by unfold execFwupQuery; simp
theorem execFwupStage_pending (rid : Nat) (img : StageImage) (s : State) : res_pending (execFwupStage rid img s) s := by unfold execFwupStage; simp
theorem execFwupActivate_pending (rid : Nat) (found : Nat) (us : Nat) (s : State) : res_pending (execFwupActivate rid found us s) s := by unfold execFwupActivate; simp
theorem execFwupInvalidate_pending (rid : Nat) (s : State) : res_pending (execFwupInvalidate rid s) s := by unfold execFwupInvalidate; simp
theorem execPendingActivation_pending (found : Nat) (us : Nat) (s : State) : res_pending (execPendingActivation found us s) s := by unfold execPendingActivation; simp
theorem execComponentRestart_pending (comp : Nat) (cause : Nat) (regions : List (Nat × Nat)) (s : State) : res_pending (execComponentRestart comp cause regions s) s := by unfold execComponentRestart; simp
theorem execBelayTakeover_pending (cause : Nat) (selfTest : Bool) (s : State) : res_pending (execBelayTakeover cause selfTest s) s := by unfold execBelayTakeover; simp
theorem execPrepCoreRetire_pending (core : Nat) (badHarts : List Nat) (s : State) : res_pending (execPrepCoreRetire core badHarts s) s := by unfold execPrepCoreRetire; dsimp only [res_pending]; (repeat' split) <;> simp
theorem execDieLost_pending (d : Nat) (s : State) : res_pending (execDieLost d s) s := by unfold execDieLost; dsimp only [res_pending]; (repeat' split) <;> simp
theorem execSafeState_pending (s : State) : res_pending (execSafeState s) s := by unfold execSafeState; simp
theorem execCairnQuery_pending (rid : Nat) (s : State) : res_pending (execCairnQuery rid s) s := by unfold execCairnQuery; simp
theorem execCairnList_pending (rid : Nat) (s : State) : res_pending (execCairnList rid s) s := by unfold execCairnList; simp
theorem execCairnRelease_pending (rid : Nat) (s : State) : res_pending (execCairnRelease rid s) s := by unfold execCairnRelease; simp
theorem execWindowClose_pending (i : Nat) (s : State) : res_pending (execWindowClose i s) s := by unfold execWindowClose; simp
theorem execMonList_pending (rid : Nat) (s : State) : res_pending (execMonList rid s) s := by unfold execMonList; simp
theorem execMonRead_pending (rid : Nat) (s : State) : res_pending (execMonRead rid s) s := by unfold execMonRead; simp
theorem execMonConfig_pending (rid : Nat) (s : State) : res_pending (execMonConfig rid s) s := by unfold execMonConfig; simp
theorem execMonInjEnable_pending (rid : Nat) (s : State) : res_pending (execMonInjEnable rid s) s := by unfold execMonInjEnable; simp
theorem execMonInject_pending (rid : Nat) (s : State) : res_pending (execMonInject rid s) s := by unfold execMonInject; simp
theorem execMonInjClear_pending (rid : Nat) (s : State) : res_pending (execMonInjClear rid s) s := by unfold execMonInjClear; simp
theorem execInjectFired_pending (handle : Nat) (s : State) : res_pending (execInjectFired handle s) s := by unfold execInjectFired; simp
theorem execSensorOverrideExpiry_pending (i : Nat) (s : State) : res_pending (execSensorOverrideExpiry i s) s := by unfold execSensorOverrideExpiry; simp
theorem execDebugMemRead_pending (rid : Nat) (s : State) : res_pending (execDebugMemRead rid s) s := by unfold execDebugMemRead; simp
theorem execDebugMemWrite_pending (rid : Nat) (s : State) : res_pending (execDebugMemWrite rid s) s := by unfold execDebugMemWrite; simp
theorem execDebugHartHalt_pending (rid : Nat) (s : State) : res_pending (execDebugHartHalt rid s) s := by unfold execDebugHartHalt; simp
theorem execDebugHartResume_pending (rid : Nat) (s : State) : res_pending (execDebugHartResume rid s) s := by unfold execDebugHartResume; simp
theorem execDebugHartState_pending (rid : Nat) (s : State) : res_pending (execDebugHartState rid s) s := by unfold execDebugHartState; simp
theorem execDebugRegRead_pending (rid : Nat) (s : State) : res_pending (execDebugRegRead rid s) s := by unfold execDebugRegRead; simp
theorem execDebugRegWrite_pending (rid : Nat) (s : State) : res_pending (execDebugRegWrite rid s) s := by unfold execDebugRegWrite; simp
theorem execJtagAccess_pending (boundary : Bool) (reg : RegAddr) (write : Bool) (val : U64) (s : State) : res_pending (execJtagAccess boundary reg write val s) s := by unfold execJtagAccess; simp
theorem execModResetNRelease_pending (s : State) : res_pending (execModResetNRelease s) s := by unfold execModResetNRelease; dsimp only; (repeat' split) <;> simp
theorem execStandbyReady_pending (s : State) : res_pending (execStandbyReady s) s := by unfold execStandbyReady; simp
theorem execLightLost_pending (p : Nat) (s : State) : res_pending (execLightLost p s) s := by unfold execLightLost; dsimp only [res_pending]; (repeat' split) <;> simp
theorem execSensorSample_pending (i : Nat) (v : Int) (s : State) : res_pending (execSensorSample i v s) s := by unfold execSensorSample; simp
theorem execTrackerEntryExpiry_pending (k : Nat) (t : Nat) (s : State) : res_pending (execTrackerEntryExpiry k t s) s := by unfold execTrackerEntryExpiry; dsimp only [res_pending]; (repeat' split) <;> simp
theorem exec_pending (i : Instr) (s : State) : res_pending (exec i s) s := by
  cases i with
  | powerOnReset => exact execPowerOnReset_pending  s
  | boot a0 => exact execBoot_pending a0 s
  | freqChange a0 a1 => exact execFreqChange_pending a0 a1 s
  | currentFreqUpdate a0 => exact execCurrentFreqUpdate_pending a0 s
  | syncFifoFault a0 a1 a2 a3 a4 => exact execSyncFifoFault_pending a0 a1 a2 a3 a4 s
  | warmReset => exact execWarmReset_pending  s
  | mailboxReset a0 => exact execMailboxReset_pending a0 s
  | mailboxResetDone a0 => exact execMailboxResetDone_pending a0 s
  | eventRingReset => exact execEventRingReset_pending  s
  | evtCauseWrite a0 => exact execEvtCauseWrite_pending a0 s
  | evtRingSizeWrite a0 => exact execEvtRingSizeWrite_pending a0 s
  | evtRingConsWrite a0 => exact execEvtRingConsWrite_pending a0 s
  | eventWrite a0 => exact execEventWrite_pending a0 s
  | reqTailWrite a0 a1 => exact execReqTailWrite_pending a0 a1 s
  | rplHeadWrite a0 a1 => exact execRplHeadWrite_pending a0 a1 s
  | mbxStatRead a0 a1 => exact execMbxStatRead_pending a0 a1 s
  | linkStatRead a0 => exact execLinkStatRead_pending a0 s
  | registerWrite a0 => exact execRegisterWrite_pending a0 s
  | requestAccept a0 a1 => exact execRequestAccept_pending a0 a1 s
  | reply a0 => exact execReply_pending a0 s
  | timeout a0 => exact execTimeout_pending a0 s
  | adminIdentify a0 => exact execAdminIdentify_pending a0 s
  | adminIdentifyCaps a0 => exact execAdminIdentifyCaps_pending a0 s
  | adminReadCounters a0 => exact execAdminReadCounters_pending a0 s
  | adminCancel a0 => exact execAdminCancel_pending a0 s
  | adminNop a0 => exact execAdminNop_pending a0 s
  | adminRopeSet a0 => exact execAdminRopeSet_pending a0 s
  | adminPortQuery a0 => exact execAdminPortQuery_pending a0 s
  | adminPortCtrl a0 a1 => exact execAdminPortCtrl_pending a0 a1 s
  | adminMirrorAdopt a0 => exact execAdminMirrorAdopt_pending a0 s
  | ctxAlloc a0 => exact execCtxAlloc_pending a0 s
  | ctxConfig a0 => exact execCtxConfig_pending a0 s
  | ctxFree a0 => exact execCtxFree_pending a0 s
  | ctxQuery a0 => exact execCtxQuery_pending a0 s
  | ctxSuspend a0 => exact execCtxSuspend_pending a0 s
  | ctxResume a0 => exact execCtxResume_pending a0 s
  | semAlloc a0 => exact execSemAlloc_pending a0 s
  | semFree a0 => exact execSemFree_pending a0 s
  | schedSet a0 => exact execSchedSet_pending a0 s
  | ldw a0 => exact execLdw_pending a0 s
  | strm a0 a1 => exact execStrm_pending a0 a1 s
  | drn a0 => exact execDrn_pending a0 s
  | addVec a0 => exact execAddVec_pending a0 s
  | mulVec a0 => exact execMulVec_pending a0 s
  | addImm a0 => exact execAddImm_pending a0 s
  | mulImm a0 => exact execMulImm_pending a0 s
  | relu a0 => exact execRelu_pending a0 s
  | gelu a0 => exact execGelu_pending a0 s
  | silu a0 => exact execSilu_pending a0 s
  | clamp a0 => exact execClamp_pending a0 s
  | deq a0 => exact execDeq_pending a0 s
  | addRows a0 => exact execAddRows_pending a0 s
  | scq a0 => exact execScq_pending a0 s
  | streamRecordApply a0 => exact execStreamRecordApply_pending a0 s
  | fence a0 => exact execFence_pending a0 s
  | wait a0 => exact execWait_pending a0 s
  | inc a0 => exact execInc_pending a0 s
  | signal a0 => exact execSignal_pending a0 s
  | run a0 => exact execRun_pending a0 s
  | stopRequest a0 => exact execStopRequest_pending a0 s
  | engineStopped a0 => exact execEngineStopped_pending a0 s
  | skip a0 => exact execSkip_pending a0 s
  | clr a0 => exact execClr_pending a0 s
  | clearDone a0 => exact execClearDone_pending a0 s
  | seqTailWrite a0 a1 => exact execSeqTailWrite_pending a0 a1 s
  | syncInc a0 a1 => exact execSyncInc_pending a0 a1 s
  | syncCntWrite a0 a1 a2 => exact execSyncCntWrite_pending a0 a1 a2 s
  | engFaultClear a0 a1 => exact execEngFaultClear_pending a0 a1 s
  | eccUe a0 a1 a2 => exact execEccUe_pending a0 a1 a2 s
  | spareReplace a0 => exact execSpareReplace_pending a0 s
  | tspawn a0 a1 a2 => exact execTspawn_pending a0 a1 a2 s
  | tjoin a0 a1 a2 => exact execTjoin_pending a0 a1 a2 s
  | tjoinTimeout a0 => exact execTjoinTimeout_pending a0 s
  | tend a0 => exact execTend_pending a0 s
  | taskletFault a0 a1 a2 => exact execTaskletFault_pending a0 a1 a2 s
  | taskletStart a0 a1 => exact execTaskletStart_pending a0 a1 s
  | pfstream a0 a1 a2 => exact execPfstream_pending a0 a1 a2 s
  | pfstop a0 a1 => exact execPfstop_pending a0 a1 s
  | pfind a0 a1 a2 => exact execPfind_pending a0 a1 a2 s
  | vxpopcVv a0 a1 a2 a3 a4 => exact execVxpopcVv_pending a0 a1 a2 a3 a4 s
  | vxpopcVx a0 a1 a2 a3 a4 => exact execVxpopcVx_pending a0 a1 a2 a3 a4 s
  | vxpopcaccVv a0 a1 a2 a3 a4 => exact execVxpopcaccVv_pending a0 a1 a2 a3 a4 s
  | vxpopcaccVx a0 a1 a2 a3 a4 => exact execVxpopcaccVx_pending a0 a1 a2 a3 a4 s
  | coreFence a0 a1 a2 => exact execCoreFence_pending a0 a1 a2 s
  | tdFaultsRead a0 => exact execTdFaultsRead_pending a0 s
  | signalDispatch a0 => exact execSignalDispatch_pending a0 s
  | signalRetry a0 => exact execSignalRetry_pending a0 s
  | dmaTailWrite a0 a1 => exact execDmaTailWrite_pending a0 a1 s
  | dmaDescriptor a0 => exact execDmaDescriptor_pending a0 s
  | tqTailWrite a0 a1 => exact execTqTailWrite_pending a0 a1 s
  | tierCopy a0 => exact execTierCopy_pending a0 s
  | tierDecompress a0 => exact execTierDecompress_pending a0 s
  | tierCompress a0 => exact execTierCompress_pending a0 s
  | tierZero a0 => exact execTierZero_pending a0 s
  | workObserved a0 => exact execWorkObserved_pending a0 s
  | switch a0 a1 a2 => exact execSwitch_pending a0 a1 a2 s
  | beSliceExpiry a0 => exact execBeSliceExpiry_pending a0 s
  | lcIdleExpiry a0 => exact execLcIdleExpiry_pending a0 s
  | acquire a0 a1 a2 => exact execAcquire_pending a0 a1 a2 s
  | tryAcquire a0 a1 => exact execTryAcquire_pending a0 a1 s
  | release a0 a1 => exact execRelease_pending a0 a1 s
  | semTimeout a0 a1 => exact execSemTimeout_pending a0 a1 s
  | donatedRun a0 a1 => exact execDonatedRun_pending a0 a1 s
  | semHolderStarved a0 => exact execSemHolderStarved_pending a0 s
  | modelLoad a0 a1 => exact execModelLoad_pending a0 a1 s
  | modelUnload a0 => exact execModelUnload_pending a0 s
  | modelQuery a0 => exact execModelQuery_pending a0 s
  | modelBatchCfg a0 => exact execModelBatchCfg_pending a0 s
  | stepBoundary a0 a1 => exact execStepBoundary_pending a0 a1 s
  | reshard a0 => exact execReshard_pending a0 s
  | retrievalWaitExpiry a0 a1 => exact execRetrievalWaitExpiry_pending a0 a1 s
  | agentCreate a0 => exact execAgentCreate_pending a0 s
  | agentAppend a0 a1 => exact execAgentAppend_pending a0 a1 s
  | agentGenerate a0 => exact execAgentGenerate_pending a0 s
  | agentPause a0 => exact execAgentPause_pending a0 s
  | agentResume a0 => exact execAgentResume_pending a0 s
  | agentSnapshot a0 => exact execAgentSnapshot_pending a0 s
  | agentFork a0 => exact execAgentFork_pending a0 s
  | agentClose a0 => exact execAgentClose_pending a0 s
  | agentQuery a0 => exact execAgentQuery_pending a0 s
  | snapshotCommit a0 => exact execSnapshotCommit_pending a0 s
  | mirrorDone a0 a1 => exact execMirrorDone_pending a0 a1 s
  | mirrorUnavailable a0 => exact execMirrorUnavailable_pending a0 s
  | embedDocs a0 a1 => exact execEmbedDocs_pending a0 a1 s
  | embedTokens a0 a1 => exact execEmbedTokens_pending a0 a1 s
  | memoryAlloc a0 => exact execMemoryAlloc_pending a0 s
  | memoryFree a0 => exact execMemoryFree_pending a0 s
  | memorySeal a0 a1 => exact execMemorySeal_pending a0 a1 s
  | memoryClone a0 => exact execMemoryClone_pending a0 s
  | memoryPlace a0 a1 => exact execMemoryPlace_pending a0 a1 s
  | memoryQuery a0 => exact execMemoryQuery_pending a0 s
  | memoryUsage a0 => exact execMemoryUsage_pending a0 s
  | memoryQuota a0 => exact execMemoryQuota_pending a0 s
  | memoryMigCfg a0 => exact execMemoryMigCfg_pending a0 s
  | cowPromotion a0 a1 => exact execCowPromotion_pending a0 a1 s
  | fill a0 a1 a2 => exact execFill_pending a0 a1 a2 s
  | migrationEpoch => exact execMigrationEpoch_pending  s
  | pageMove a0 => exact execPageMove_pending a0 s
  | migFailRead => exact execMigFailRead_pending  s
  | t1Pressure => exact execT1Pressure_pending  s
  | t2Pressure => exact execT2Pressure_pending  s
  | dramRead a0 a1 a2 a3 => exact execDramRead_pending a0 a1 a2 a3 s
  | patrolRead a0 a1 => exact execPatrolRead_pending a0 a1 s
  | remapInstall a0 a1 => exact execRemapInstall_pending a0 a1 s
  | pageRetired a0 a1 a2 => exact execPageRetired_pending a0 a1 a2 s
  | lpddrPackageLoss a0 => exact execLpddrPackageLoss_pending a0 s
  | eccCeCntRead a0 a1 => exact execEccCeCntRead_pending a0 a1 s
  | eccFlipCtrlWrite a0 a1 a2 => exact execEccFlipCtrlWrite_pending a0 a1 a2 s
  | flipApply a0 a1 => exact execFlipApply_pending a0 a1 s
  | writeAccept a0 => exact execWriteAccept_pending a0 s
  | stripeProgram a0 a1 a2 => exact execStripeProgram_pending a0 a1 a2 s
  | fold => exact execFold_pending  s
  | garbageCollection a0 => exact execGarbageCollection_pending a0 s
  | wearLevelling a0 => exact execWearLevelling_pending a0 s
  | journalPageProgram => exact execJournalPageProgram_pending  s
  | mapSegmentWrite a0 => exact execMapSegmentWrite_pending a0 s
  | dynCacheRecompute => exact execDynCacheRecompute_pending  s
  | flashRead a0 a1 => exact execFlashRead_pending a0 a1 s
  | mediaScan a0 => exact execMediaScan_pending a0 s
  | blockRetired a0 a1 => exact execBlockRetired_pending a0 a1 s
  | nandDieFailed a0 a1 a2 => exact execNandDieFailed_pending a0 a1 a2 s
  | dieRebuildDone a0 a1 => exact execDieRebuildDone_pending a0 a1 s
  | abseil a0 a1 => exact execAbseil_pending a0 a1 s
  | holdupMeasure a0 a1 => exact execHoldupMeasure_pending a0 a1 s
  | storeAdmin a0 a1 a2 a3 => exact execStoreAdmin_pending a0 a1 a2 a3 s
  | storeQpCreate a0 => exact execStoreQpCreate_pending a0 s
  | storeQpDelete a0 => exact execStoreQpDelete_pending a0 s
  | storeQpQuery a0 => exact execStoreQpQuery_pending a0 s
  | qpDoorbell a0 => exact execQpDoorbell_pending a0 s
  | sqFetch a0 a1 => exact execSqFetch_pending a0 a1 s
  | flush a0 => exact execFlush_pending a0 s
  | write a0 a1 a2 => exact execWrite_pending a0 a1 a2 s
  | read a0 a1 a2 => exact execRead_pending a0 a1 a2 s
  | compare a0 a1 a2 => exact execCompare_pending a0 a1 a2 s
  | writeZeroes a0 => exact execWriteZeroes_pending a0 s
  | datasetManagement a0 a1 a2 => exact execDatasetManagement_pending a0 a1 a2 s
  | vendorScan a0 a1 a2 => exact execVendorScan_pending a0 a1 a2 s
  | vendorSearch a0 a1 a2 a3 => exact execVendorSearch_pending a0 a1 a2 a3 s
  | getLogPage a0 a1 a2 => exact execGetLogPage_pending a0 a1 a2 s
  | nvmeIdentify a0 a1 a2 => exact execNvmeIdentify_pending a0 a1 a2 s
  | setFeatures a0 => exact execSetFeatures_pending a0 s
  | getFeatures a0 => exact execGetFeatures_pending a0 s
  | namespaceCreate a0 a1 a2 => exact execNamespaceCreate_pending a0 a1 a2 s
  | namespaceDelete a0 => exact execNamespaceDelete_pending a0 s
  | namespaceAttach a0 a1 a2 => exact execNamespaceAttach_pending a0 a1 a2 s
  | namespaceDetach a0 a1 a2 => exact execNamespaceDetach_pending a0 a1 a2 s
  | keepAlive a0 => exact execKeepAlive_pending a0 s
  | storeKeepAliveExpired a0 => exact execStoreKeepAliveExpired_pending a0 s
  | cryptoErase a0 => exact execCryptoErase_pending a0 s
  | blockErase a0 => exact execBlockErase_pending a0 s
  | storeSanitizeDone => exact execStoreSanitizeDone_pending  s
  | storeCqNotify a0 => exact execStoreCqNotify_pending a0 s
  | scanProgLoad a0 a1 => exact execScanProgLoad_pending a0 a1 s
  | scanProgFree a0 => exact execScanProgFree_pending a0 s
  | scanRun a0 => exact execScanRun_pending a0 s
  | pageEvaluate a0 a1 a2 a3 => exact execPageEvaluate_pending a0 a1 a2 a3 s
  | searchCreate a0 => exact execSearchCreate_pending a0 s
  | searchDrop a0 => exact execSearchDrop_pending a0 s
  | searchInsert a0 a1 => exact execSearchInsert_pending a0 a1 s
  | searchDelete a0 a1 => exact execSearchDelete_pending a0 a1 s
  | searchQuery a0 a1 => exact execSearchQuery_pending a0 a1 s
  | searchMerge a0 => exact execSearchMerge_pending a0 s
  | searchInfo a0 => exact execSearchInfo_pending a0 s
  | epochAdvance a0 => exact execEpochAdvance_pending a0 s
  | mergeDone a0 a1 => exact execMergeDone_pending a0 a1 s
  | flitReceive a0 a1 => exact execFlitReceive_pending a0 a1 s
  | nak a0 a1 => exact execNak_pending a0 a1 s
  | ackTimer a0 => exact execAckTimer_pending a0 s
  | retrain a0 a1 => exact execRetrain_pending a0 a1 s
  | training a0 a1 => exact execTraining_pending a0 a1 s
  | linkDown a0 => exact execLinkDown_pending a0 s
  | trainRetry a0 => exact execTrainRetry_pending a0 s
  | keyUpdatePhase a0 a1 => exact execKeyUpdatePhase_pending a0 a1 s
  | packetRead a0 => exact execPacketRead_pending a0 s
  | packetWrite a0 a1 => exact execPacketWrite_pending a0 a1 s
  | readData a0 a1 => exact execReadData_pending a0 a1 s
  | writeAck a0 => exact execWriteAck_pending a0 s
  | remoteAccessTimeout a0 => exact execRemoteAccessTimeout_pending a0 s
  | creditReturn a0 a1 a2 => exact execCreditReturn_pending a0 a1 a2 s
  | ropeHeartbeatSend => exact execRopeHeartbeatSend_pending  s
  | ropeHeartbeatReceive a0 a1 a2 a3 a4 => exact execRopeHeartbeatReceive_pending a0 a1 a2 a3 a4 s
  | peerLost a0 => exact execPeerLost_pending a0 s
  | tuneGroupSet a0 => exact execTuneGroupSet_pending a0 s
  | tuneGroupFree a0 => exact execTuneGroupFree_pending a0 s
  | tuneAdapterCreate a0 a1 => exact execTuneAdapterCreate_pending a0 a1 s
  | tuneAdapterFree a0 => exact execTuneAdapterFree_pending a0 s
  | tuneStep a0 a1 => exact execTuneStep_pending a0 a1 s
  | tuneQuery a0 => exact execTuneQuery_pending a0 s
  | hello a0 a1 => exact execHello_pending a0 a1 s
  | slotGrant a0 a1 => exact execSlotGrant_pending a0 a1 s
  | abort a0 a1 => exact execAbort_pending a0 a1 s
  | tuneDataPacket a0 a1 => exact execTuneDataPacket_pending a0 a1 s
  | pathLossTimeout a0 a1 => exact execPathLossTimeout_pending a0 a1 s
  | getVersion a0 => exact execGetVersion_pending a0 s
  | getCapabilities a0 => exact execGetCapabilities_pending a0 s
  | negotiateAlgorithms a0 => exact execNegotiateAlgorithms_pending a0 s
  | getDigests a0 => exact execGetDigests_pending a0 s
  | getCertificate a0 => exact execGetCertificate_pending a0 s
  | challenge a0 a1 => exact execChallenge_pending a0 a1 s
  | getMeasurements a0 a1 a2 => exact execGetMeasurements_pending a0 a1 a2 s
  | keyExchange a0 a1 a2 => exact execKeyExchange_pending a0 a1 a2 s
  | finish a0 a1 => exact execFinish_pending a0 a1 s
  | heartbeat a0 => exact execHeartbeat_pending a0 s
  | keyUpdate a0 => exact execKeyUpdate_pending a0 s
  | endSession a0 => exact execEndSession_pending a0 s
  | sessionHeartbeatLapse => exact execSessionHeartbeatLapse_pending  s
  | secInfo a0 => exact execSecInfo_pending a0 s
  | secAdmit a0 => exact execSecAdmit_pending a0 s
  | secReject a0 => exact execSecReject_pending a0 s
  | secFkeyRotate a0 => exact execSecFkeyRotate_pending a0 s
  | secFkeyStatus a0 => exact execSecFkeyStatus_pending a0 s
  | secDebugNonce a0 => exact execSecDebugNonce_pending a0 s
  | secDebugUnlock a0 a1 a2 => exact execSecDebugUnlock_pending a0 a1 a2 s
  | secRecover a0 a1 a2 => exact execSecRecover_pending a0 a1 a2 s
  | reencryptionPass a0 a1 => exact execReencryptionPass_pending a0 a1 s
  | secTamper a0 => exact execSecTamper_pending a0 s
  | scrub => exact execScrub_pending  s
  | scrubEnd a0 => exact execScrubEnd_pending a0 s
  | feedLost a0 a1 => exact execFeedLost_pending a0 a1 s
  | feedRestored a0 => exact execFeedRestored_pending a0 s
  | efuseTrip a0 a1 => exact execEfuseTrip_pending a0 a1 s
  | holdupTakeover => exact execHoldupTakeover_pending  s
  | dischargeLoad => exact execDischargeLoad_pending  s
  | powerQuery a0 => exact execPowerQuery_pending a0 s
  | powerSetCap a0 => exact execPowerSetCap_pending a0 s
  | powerSetState a0 => exact execPowerSetState_pending a0 s
  | wake => exact execWake_pending  s
  | idleEntry => exact execIdleEntry_pending  s
  | capMissed a0 => exact execCapMissed_pending a0 s
  | throttle a0 a1 => exact execThrottle_pending a0 a1 s
  | junctionTrip a0 => exact execJunctionTrip_pending a0 s
  | railFault a0 => exact execRailFault_pending a0 s
  | coolantWarn a0 => exact execCoolantWarn_pending a0 s
  | emergency a0 => exact execEmergency_pending a0 s
  | modResetN a0 a1 a2 => exact execModResetN_pending a0 a1 a2 s
  | modWakeN a0 => exact execModWakeN_pending a0 s
  | sbAlertStatWrite a0 => exact execSbAlertStatWrite_pending a0 s
  | alertResponse => exact execAlertResponse_pending  s
  | faKey1 a0 => exact execFaKey1_pending a0 s
  | faKey2 a0 => exact execFaKey2_pending a0 s
  | faProgram a0 a1 => exact execFaProgram_pending a0 a1 s
  | faSectorErase a0 => exact execFaSectorErase_pending a0 s
  | faBankErase a0 => exact execFaBankErase_pending a0 s
  | faSuspend a0 => exact execFaSuspend_pending a0 s
  | faResume a0 => exact execFaResume_pending a0 s
  | faReadId a0 => exact execFaReadId_pending a0 s
  | faClearStatus a0 => exact execFaClearStatus_pending a0 s
  | faRelock a0 a1 => exact execFaRelock_pending a0 a1 s
  | faOperationDone a0 => exact execFaOperationDone_pending a0 s
  | faRead a0 a1 => exact execFaRead_pending a0 a1 s
  | faRetryRead => exact execFaRetryRead_pending  s
  | busyFetchTrap a0 => exact execBusyFetchTrap_pending a0 s
  | recordSectorErase a0 => exact execRecordSectorErase_pending a0 s
  | fwupQuery a0 => exact execFwupQuery_pending a0 s
  | fwupStage a0 a1 => exact execFwupStage_pending a0 a1 s
  | fwupActivate a0 a1 a2 => exact execFwupActivate_pending a0 a1 a2 s
  | fwupInvalidate a0 => exact execFwupInvalidate_pending a0 s
  | pendingActivation a0 a1 => exact execPendingActivation_pending a0 a1 s
  | componentRestart a0 a1 a2 => exact execComponentRestart_pending a0 a1 a2 s
  | belayTakeover a0 a1 => exact execBelayTakeover_pending a0 a1 s
  | prepCoreRetire a0 a1 => exact execPrepCoreRetire_pending a0 a1 s
  | dieLost a0 => exact execDieLost_pending a0 s
  | safeState => exact execSafeState_pending  s
  | cairnQuery a0 => exact execCairnQuery_pending a0 s
  | cairnList a0 => exact execCairnList_pending a0 s
  | cairnRelease a0 => exact execCairnRelease_pending a0 s
  | windowClose a0 => exact execWindowClose_pending a0 s
  | monList a0 => exact execMonList_pending a0 s
  | monRead a0 => exact execMonRead_pending a0 s
  | monConfig a0 => exact execMonConfig_pending a0 s
  | monInjEnable a0 => exact execMonInjEnable_pending a0 s
  | monInject a0 => exact execMonInject_pending a0 s
  | monInjClear a0 => exact execMonInjClear_pending a0 s
  | injectFired a0 => exact execInjectFired_pending a0 s
  | sensorOverrideExpiry a0 => exact execSensorOverrideExpiry_pending a0 s
  | debugMemRead a0 => exact execDebugMemRead_pending a0 s
  | debugMemWrite a0 => exact execDebugMemWrite_pending a0 s
  | debugHartHalt a0 => exact execDebugHartHalt_pending a0 s
  | debugHartResume a0 => exact execDebugHartResume_pending a0 s
  | debugHartState a0 => exact execDebugHartState_pending a0 s
  | debugRegRead a0 => exact execDebugRegRead_pending a0 s
  | debugRegWrite a0 => exact execDebugRegWrite_pending a0 s
  | jtagAccess a0 a1 a2 a3 => exact execJtagAccess_pending a0 a1 a2 a3 s
  | modResetNRelease => exact execModResetNRelease_pending  s
  | standbyReady => exact execStandbyReady_pending  s
  | lightLost a0 => exact execLightLost_pending a0 s
  | sensorSample a0 a1 => exact execSensorSample_pending a0 a1 s
  | trackerEntryExpiry a0 a1 => exact execTrackerEntryExpiry_pending a0 a1 s

end Sys2Proof.Machine
end

