-- ==== Sys2Proof/Laws/SecFrame.lean ====
section
/-! SUPPORT. Every operation but those of chapter 15 leaves the state machine of security alone: security state, debug state, causes, quarantine due, unlock that waits. -/
namespace Sys2Proof.Machine
open Sys2Proof

/-! ### Ops -/

/-- What the state machine of security holds. -/
def Sec.key (x : Sec) : SecState × DbgState × Nat × Bool × Option (Nat × Nat) := (x.sec, x.dbg, x.causes, x.quarantineNext, x.unlock)
@[simp] theorem Sec.key_fold (x : Sec) : (x.sec, x.dbg, x.causes, x.quarantineNext, x.unlock) = x.key := rfl
@[simp] theorem Sec.key_mk x0 x1 x2 x3 x4 x5 x6 x7 x8 x9 x10 x11 x12 x13 x14 x15 x16 x17 x18 x19 x20 : Sec.key ⟨x0, x1, x2, x3, x4, x5, x6, x7, x8, x9, x10, x11, x12, x13, x14, x15, x16, x17, x18, x19, x20⟩ = (x0, x1, x2, x3, x17) := rfl
@[simp] theorem foldl_key {α : Type} (f : State → α → State) (h : ∀ t a, (f t a).sec.key = t.sec.key) (l : List α) (s : State) : (l.foldl f s).sec.key = s.sec.key := by
  induction l generalizing s with
  | nil => rfl
  | cons a r ih => simp [ih, h]
@[simp] theorem foldlTwo_key {α β : Type} (f : β × State → α → β × State) (h : ∀ a x, (f a x).2.sec.key = a.2.sec.key) (l : List α) (a : β × State) : (l.foldl f a).2.sec.key = a.2.sec.key := by
  induction l generalizing a with
  | nil => rfl
  | cons b r ih => simp [ih, h]
@[simp] theorem bumpFree_key (s : State) : (bumpFree s).sec.key = s.sec.key := by unfold bumpFree; simp
@[simp] theorem bumpFreeBy_key (n : Nat) (s : State) : (bumpFreeBy n s).sec.key = s.sec.key := by unfold bumpFreeBy; simp
@[simp] theorem clockTo_key (d : Nat) (t : Nat) (s : State) : (clockTo d t s).sec.key = s.sec.key := by unfold clockTo; simp
@[simp] theorem powerDomains_key (keep : Nat → Bool) (s : State) : (powerDomains keep s).sec.key = s.sec.key := by unfold powerDomains; simp
@[simp] theorem tick_key (s : State) : (tick s).sec.key = s.sec.key := by unfold tick; simp
@[simp] theorem modSlot_key (c : Nat) (f : Slot → Slot) (s : State) : (modSlot c f s).sec.key = s.sec.key := by unfold modSlot; simp
@[simp] theorem emit_key (m : Tx) (s : State) : (emit m s).sec.key = s.sec.key := by unfold emit; simp
@[simp] theorem setCause_key (b : Nat) (s : State) : (setCause b s).sec.key = s.sec.key := by unfold setCause; (repeat' split) <;> simp
@[simp] theorem eventOut_key (refused : Bool) (s : State) : (eventOut refused s).sec.key = s.sec.key := by unfold eventOut; (repeat' split) <;> simp
@[simp] theorem raiseEvent_key (code : Nat) (srcType : Nat) (srcIdx : Nat) (ctx : Nat) (status : Nat) (payload : Bytes) (s : State) : (raiseEvent code srcType srcIdx ctx status payload s).sec.key = s.sec.key := by unfold raiseEvent; dsimp only; (repeat' split) <;> simp
@[simp] theorem devEvent_key (code : Nat) (srcType : Nat) (srcIdx : Nat) (payload : Bytes) (s : State) : (devEvent code srcType srcIdx payload s).sec.key = s.sec.key := by unfold devEvent; simp
@[simp] theorem announce_key (old : State) (s : State) : (announce old s).sec.key = s.sec.key := by unfold announce; (repeat' split) <;> simp
@[simp] theorem announced_key (f : State → State) (s : State) (hf : ∀  t, (f  t).sec.key = t.sec.key) : (announced f s).sec.key = s.sec.key := by unfold announced; simp [*]
@[simp] theorem monSample_key (i : Nat) (v : Int) (row : Nat) (s : State) : (monSample i v row s).sec.key = s.sec.key := by unfold monSample; dsimp only; (repeat' split) <;> simp
@[simp] theorem modReqs_key (f : List Req → List Req) (s : State) : (modReqs f s).sec.key = s.sec.key := by unfold modReqs; simp
@[simp] theorem modReq_key (rid : Nat) (f : Req → Req) (s : State) : (modReq rid f s).sec.key = s.sec.key := by unfold modReq; simp
@[simp] theorem dropReq_key (rid : Nat) (s : State) : (dropReq rid s).sec.key = s.sec.key := by unfold dropReq; simp
@[simp] theorem modCairn_key (r : Req) (f : Cairn → Cairn) (s : State) : (modCairn r f s).sec.key = s.sec.key := by unfold modCairn; (repeat' split) <;> simp
@[simp] theorem commitN_key (rid : Nat) (k : Nat) (n : Nat) (body : Option Bytes) (s : State) : (commitN rid k n body s).sec.key = s.sec.key := by unfold commitN; (repeat' split) <;> simp
@[simp] theorem commit_key (rid : Nat) (n : Nat) (body : Option Bytes) (s : State) : (commit rid n body s).sec.key = s.sec.key := by unfold commit; simp
@[simp] theorem complete_key (rid : Nat) (st : Nat) (payload : Bytes) (s : State) : (complete rid st payload s).sec.key = s.sec.key := by unfold complete; (repeat' split) <;> simp
@[simp] theorem modMbx_key (n : Nat) (f : Mbx → Mbx) (s : State) : (modMbx n f s).sec.key = s.sec.key := by unfold modMbx; simp
@[simp] theorem writeReply_key (r : Req) (st : Nat) (payload : Bytes) (s : State) : (writeReply r st payload s).sec.key = s.sec.key := by unfold writeReply; (repeat' split) <;> simp
@[simp] theorem settleDone_key (r : Req) (st : Nat) (payload : Bytes) (s : State) : (settleDone r st payload s).sec.key = s.sec.key := by unfold settleDone; simp
@[simp] theorem writeSettled_key (r : Req) (st : Nat) (s : State) : (writeSettled r st s).sec.key = s.sec.key := by unfold writeSettled; (repeat' split) <;> simp
@[simp] theorem settleStop_key (r : Req) (st : Nat) (s : State) : (settleStop r st s).sec.key = s.sec.key := by unfold settleStop; (repeat' split) <;> simp
@[simp] theorem expire_key (r : Req) (s : State) : (expire r s).sec.key = s.sec.key := by unfold expire; simp
@[simp] theorem expireBefore_key (t : Nat) (s : State) : (expireBefore t s).sec.key = s.sec.key := by unfold expireBefore; (repeat' split) <;> simp
@[simp] theorem reachMgmt_key (t : Nat) (s : State) : (reachMgmt t s).sec.key = s.sec.key := by unfold reachMgmt; simp
@[simp] theorem serve_key (svc : Nat) (op : Nat) (rid : Nat) (f : Req → State → State) (s : State) (hf : ∀ a0 t, (f a0 t).sec.key = t.sec.key) : (serve svc op rid f s).sec.key = s.sec.key := by unfold serve; (repeat' split) <;> simp [*]
@[simp] theorem setRunning_key (rid : Nat) (s : State) : (setRunning rid s).sec.key = s.sec.key := by unfold setRunning; simp
@[simp] theorem fail_key (rid : Nat) (st : Nat) (s : State) : (fail rid st s).sec.key = s.sec.key := by unfold fail; simp
@[simp] theorem checked_key (rid : Nat) (l : List (Bool × Nat)) (ok : State → State) (s : State) (hok : ∀  t, (ok  t).sec.key = t.sec.key) : (checked rid l ok s).sec.key = s.sec.key := by unfold checked; (repeat' split) <;> simp [*]
@[simp] theorem capsChanged_key (s : State) : (capsChanged s).sec.key = s.sec.key := by unfold capsChanged; (repeat' split) <;> simp
@[simp] theorem replayReqs_key (sel : Req → Bool) (s : State) : (replayReqs sel s).sec.key = s.sec.key := by unfold replayReqs; simp

/-! ### Operands -/

@[simp] theorem modUsage_key (c : Nat) (f : Usage → Usage) (s : State) : (modUsage c f s).sec.key = s.sec.key := by unfold modUsage; simp
@[simp] theorem modPage_key (p : Nat) (f : Page → Page) (s : State) : (modPage p f s).sec.key = s.sec.key := by unfold modPage; simp
@[simp] theorem modObj_key (h : Nat) (f : Obj → Obj) (s : State) : (modObj h f s).sec.key = s.sec.key := by unfold modObj; simp [*]
@[simp] theorem modEcc_key (k : Nat) (f : EccBlk → EccBlk) (s : State) : (modEcc k f s).sec.key = s.sec.key := by unfold modEcc; simp
@[simp] theorem healLines_key (k : Nat) (a : Nat) (n : Nat) (s : State) : (healLines k a n s).sec.key = s.sec.key := by unfold healLines; simp [*]
@[simp] theorem healT1_key (f : Option Nat) (s : State) : (healT1 f s).sec.key = s.sec.key := by unfold healT1; (repeat' split) <;> simp [*]
@[simp] theorem healT2_key (u : Nat) (n : Nat) (s : State) : (healT2 u n s).sec.key = s.sec.key := by unfold healT2; simp [*]
@[simp] theorem setKvT2_key (b : Nat) (v : Bool) (s : State) : (setKvT2 b v s).sec.key = s.sec.key := by unfold setKvT2; simp
@[simp] theorem t2Room_key (fuel c n : Nat) (s : State) : (t2Room fuel c n s).sec.key = s.sec.key := by
  induction fuel generalizing s with
  | zero => rfl
  | succ k ih =>
    unfold t2Room
    (repeat' split) <;> simp [ih]
@[simp] theorem addT2_key (pid : Nat) (s : State) : (addT2 pid s).sec.key = s.sec.key := by unfold addT2; dsimp only; (repeat' split) <;> simp
@[simp] theorem fillPage_key (hot : Bool) (pid : Nat) (s : State) : (fillPage hot pid s).sec.key = s.sec.key := by unfold fillPage; (repeat' split) <;> simp [*]
@[simp] theorem fillRange_key (c va n : Nat) (s : State) : (fillRange c va n s).sec.key = s.sec.key := by
  unfold fillRange
  apply foldl_key
  intro t a
  split <;> simp
@[simp] theorem newPage_key (c : Nat) (kind : PageKind) (data : Memory) (s : State) : (newPage c kind data s).2.sec.key = s.sec.key := by unfold newPage; simp
@[simp] theorem unrefPage_key (pid : Nat) (s : State) : (unrefPage pid s).sec.key = s.sec.key := by unfold unrefPage; (repeat' split) <;> simp
@[simp] theorem abandonMove_key (pid : Nat) (s : State) : (abandonMove pid s).sec.key = s.sec.key := by unfold abandonMove; (repeat' split) <;> simp
theorem cowPage_key {c : Nat} {va : Nat} {s : State} {t : State} (h : cowPage c va s = some t) : t.sec.key = s.sec.key := by unfold cowPage at h; grind (splits := 30) [newPage_key, abandonMove_key, fillPage_key, modObj_key, modUsage_key, foldl_key]
theorem openWrite_key {c : Nat} {l : List Nat} {s t : State} (h : openWrite c l s = some t) : t.sec.key = s.sec.key := by
  induction l generalizing s with
  | nil => simp [openWrite] at h; rw [h]
  | cons a r ih =>
    unfold openWrite at h
    split at h
    · simp at h
    · split at h
      · exact ih h
      · split at h
        · rename_i u hu
          rw [ih h, cowPage_key hu]
        · simp at h
@[simp] theorem wrByte_key (c : Nat) (va : Nat) (b : Byte) (s : State) : (wrByte c va b s).sec.key = s.sec.key := by unfold wrByte; (repeat' split) <;> simp
@[simp] theorem wrBytes_key (c : Nat) (va : Nat) (bs : Bytes) (s : State) : (wrBytes c va bs s).sec.key = s.sec.key := by
  induction bs generalizing c va s <;> first | rfl | (unfold wrBytes; simp [*]; done) | (unfold wrBytes; (repeat' split) <;> simp [*]; done) | (unfold wrBytes; dsimp only; (repeat' split) <;> simp [*])
@[simp] theorem healWrite_key (c : Nat) (va : Nat) (n : Nat) (s : State) : (healWrite c va n s).sec.key = s.sec.key := by unfold healWrite; grind (splits := 30) [healLines_key, foldl_key]
@[simp] theorem wrRaw_key (c : Nat) (va : Nat) (bs : Bytes) (s : State) : (wrRaw c va bs s).sec.key = s.sec.key := by unfold wrRaw; simp
theorem ctxWrite_key {c va : Nat} {bs : Bytes} {s t : State} (h : ctxWrite c va bs s = .ok t) : t.sec.key = s.sec.key := by
  unfold ctxWrite at h
  split at h
  · simp at h
  · simp at h
  · split at h
    · simp at h
    · rename_i u hu
      simp at h
      rw [← h, wrRaw_key, openWrite_key hu]
theorem ctxRead_key {c va n : Nat} {s t : State} {b : Bytes} (h : ctxRead c va n s = .ok (b, t)) : t.sec.key = s.sec.key := by
  unfold ctxRead at h
  split at h
  · simp at h
    rw [← h.2, fillRange_key]
  · simp at h
@[simp] theorem startRemote_key (q : Remote) (s : State) : (startRemote q s).sec.key = s.sec.key := by unfold startRemote; simp
@[simp] theorem pumpRemote_key (fuel : Nat) (c : Nat) (s : State) : (pumpRemote fuel c s).sec.key = s.sec.key := by
  induction fuel generalizing c s <;> first | rfl | (unfold pumpRemote; simp [*]; done) | (unfold pumpRemote; (repeat' split) <;> simp [*]; done) | (unfold pumpRemote; dsimp only; (repeat' split) <;> simp [*])
@[simp] theorem newRemote_key (q : Remote) (s : State) : (newRemote q s).sec.key = s.sec.key := by unfold newRemote; simp
@[simp] theorem remoteWrite_key (c : Nat) (rid : Option Nat) (addr : Nat) (data : Bytes) (s : State) : (remoteWrite c rid addr data s).sec.key = s.sec.key := by unfold remoteWrite; simp
@[simp] theorem remoteRead_key (c : Nat) (rid : Option Nat) (addr : Nat) (n : Nat) (s : State) : (remoteRead c rid addr n s).sec.key = s.sec.key := by unfold remoteRead; simp
@[simp] theorem cutLinks_key (c : Nat) (s : State) : (cutLinks c s).sec.key = s.sec.key := by unfold cutLinks; simp
@[simp] theorem resumeLinks_key (c : Nat) (s : State) : (resumeLinks c s).sec.key = s.sec.key := by unfold resumeLinks; simp
theorem refWrite_key {q : Req} {r : Ref} {off : Nat} {d : Bytes} {s t : State} (h : refWrite q r off d s = .ok t) : t.sec.key = s.sec.key := by
  unfold refWrite at h
  split at h
  · simp at h; rw [h]
  · split at h
    · exact ctxWrite_key h
    · simp at h; rw [← h]; simp
theorem refRead_key {q : Req} {r : Ref} {n : Nat} {g : Bytes} {s t : State} {b : Bytes} (h : refRead q r n g s = .ok (b, t)) : t.sec.key = s.sec.key := by
  unfold refRead at h
  split at h
  · exact ctxRead_key h
  · split at h
    · simp at h
    · simp at h; rw [← h.2]; simp
@[simp] theorem afterWrite_key (rid : Nat) (a : Acc) (ok : State → State) (s : State) (ha : ∀ t, a = .ok t → t.sec.key = s.sec.key) (hok : ∀ t, (ok t).sec.key = t.sec.key) :
    (afterWrite rid a ok s).sec.key = s.sec.key := by
  cases a with
  | ok t => show (ok t).sec.key = s.sec.key; rw [hok, ha t rfl]
  | xlate => exact fail_key ..
  | lost => exact fail_key ..

/-! ### FwOps -/

@[simp] theorem modFw_key (f : Firmware → Firmware) (s : State) : (modFw f s).sec.key = s.sec.key := by unfold modFw; simp
@[simp] theorem modFa_key (f : FaArray → FaArray) (s : State) : (modFa f s).sec.key = s.sec.key := by unfold modFa; simp
@[simp] theorem faPut_key (off : Nat) (v : U64) (s : State) : (faPut off v s).sec.key = s.sec.key := by unfold faPut; simp
@[simp] theorem writeRecord_key (j : Nat) (payload : U64) (s : State) : (writeRecord j payload s).sec.key = s.sec.key := by unfold writeRecord; grind (splits := 30) [faPut_key, modFw_key, foldl_key]
@[simp] theorem writeRecordFree_key (j : Nat) (s : State) : (writeRecordFree j s).sec.key = s.sec.key := by unfold writeRecordFree; grind (splits := 30) [bumpFree_key, writeRecord_key, foldl_key]
@[simp] theorem keyRecord_key (s : State) : (keyRecord s).sec.key = s.sec.key := by unfold keyRecord; simp
@[simp] theorem setImgSlot_key (n : Nat) (f : ImgSlot → ImgSlot) (s : State) : (setImgSlot n f s).sec.key = s.sec.key := by unfold setImgSlot; simp
@[simp] theorem bootSelector_key (f : State → State) (s : State) (hf : ∀  t, (f  t).sec.key = t.sec.key) : (bootSelector f s).sec.key = s.sec.key := by unfold bootSelector; (repeat' split) <;> simp [*]
@[simp] theorem moveMbxBlock_key (b : Nat) (s : State) : (moveMbxBlock b s).sec.key = s.sec.key := by unfold moveMbxBlock; (repeat' split) <;> simp

/-! ### Homes -/

@[simp] theorem renameWaits_key (pc : List (Nat × Nat)) (c : Nat) (s : State) : (renameWaits pc c s).sec.key = s.sec.key := by unfold renameWaits; simp
@[simp] theorem rehome_key (sub : List (Nat × Nat)) (subC : List (Nat × Nat)) (c : Nat) (k : Slot) (ne : Nat) (nc : Nat) (s : State) : (rehome sub subC c k ne nc s).sec.key = s.sec.key := by unfold rehome; dsimp only; (repeat' split) <;> simp
@[simp] theorem cutWays_key (s : State) : (cutWays s).sec.key = s.sec.key := by unfold cutWays; simp
@[simp] theorem tellHomes_key (oldE : List Nat) (oldC : List Nat) (c : Nat) (k : Slot) (s : State) : (tellHomes oldE oldC c k s).sec.key = s.sec.key := by unfold tellHomes; dsimp only; (repeat' split) <;> simp
@[simp] theorem rehomeAll_key (oldE : List Nat) (oldC : List Nat) (sub : List (Nat × Nat)) (subC : Nat → List (Nat × Nat)) (s : State) : (rehomeAll oldE oldC sub subC s).sec.key = s.sec.key := by unfold rehomeAll; grind (splits := 30) [modSlot_key, cutWays_key, rehome_key, tellHomes_key, foldl_key]

/-! ### Flags -/

@[simp] theorem modPort_key (p : Nat) (f : Port → Port) (s : State) : (modPort p f s).sec.key = s.sec.key := by unfold modPort; simp
@[simp] theorem linkKhz_key (p : Nat) (low : Bool) (s : State) : (linkKhz p low s).sec.key = s.sec.key := by unfold linkKhz; simp
@[simp] theorem goLowRate_key (p : Nat) (s : State) : (goLowRate p s).sec.key = s.sec.key := by unfold goLowRate; simp
@[simp] theorem setRead_key (v : Nat) (s : State) : (setRead v s).sec.key = s.sec.key := by unfold setRead; simp
@[simp] theorem holdCw_key (write : Bool) (off : Nat) (len : Nat) (v : Nat) (s : State) : (holdCw write off len v s).sec.key = s.sec.key := by unfold holdCw; simp [*]
@[simp] theorem cwAccess_key (write : Bool) (off : Nat) (len : Nat) (v : Nat) (f : State → State) (s : State) (hf : ∀  t, (f  t).sec.key = t.sec.key) : (cwAccess write off len v f s).sec.key = s.sec.key := by unfold cwAccess; (repeat' split) <;> simp [*]

/-! ### Engine -/

@[simp] theorem setEng_key (e : Nat) (g : Eng) (s : State) : (setEng e g s).sec.key = s.sec.key := by unfold setEng; simp
@[simp] theorem modEng_key (e : Nat) (f : Eng → Eng) (s : State) : (modEng e f s).sec.key = s.sec.key := by unfold modEng; simp
@[simp] theorem modSav_key (e : Nat) (f : EngSt → EngSt) (s : State) : (modSav e f s).sec.key = s.sec.key := by unfold modSav; simp
@[simp] theorem engFault_key (e : Nat) (b : Nat) (idx : U16) (s : State) : (engFault e b idx s).sec.key = s.sec.key := by unfold engFault; simp
@[simp] theorem engNext_key (e : Nat) (f : EngSt → EngSt) (s : State) : (engNext e f s).sec.key = s.sec.key := by unfold engNext; simp
@[simp] theorem engIssue_key (e : Nat) (cls : Nat) (op : Nat) (go : Nat → State → State) (s : State) (hgo : ∀ a0 t, (go a0 t).sec.key = t.sec.key) : (engIssue e cls op go s).sec.key = s.sec.key := by unfold engIssue; dsimp only; (repeat' split) <;> simp [*]
@[simp] theorem engSoft_key (e : Nat) (b : Nat) (s : State) : (engSoft e b s).sec.key = s.sec.key := by unfold engSoft; dsimp only; (repeat' split) <;> simp
@[simp] theorem stallSamples_key (e : Nat) (n : Nat) (s : State) : (stallSamples e n s).sec.key = s.sec.key := by unfold stallSamples; simp
@[simp] theorem strmRun_key (e : Nat) (tagFault : Bool) (w : Nat) (s : State) : (strmRun e tagFault w s).sec.key = s.sec.key := by unfold strmRun; grind (splits := 30) [engNext_key, engFault_key, stallSamples_key, bumpFreeBy_key, engSoft_key, foldl_key]
@[simp] theorem epiRun_key (e : Nat) (int : Bool) (f : EngSt → Nat → U32 → Nat → Nat → U32) (w : Nat) (s : State) : (epiRun e int f w s).sec.key = s.sec.key := by unfold epiRun; grind (splits := 30) [engNext_key, engSoft_key, foldl_key]
@[simp] theorem scqRun_key (e : Nat) (w : Nat) (s : State) : (scqRun e w s).sec.key = s.sec.key := by unfold scqRun; grind (splits := 30) [engNext_key, monSample_key, engSoft_key, foldl_key]
@[simp] theorem applyRecord_key (r : CountRec) (s : State) : (applyRecord r s).sec.key = s.sec.key := by unfold applyRecord; dsimp only; (repeat' split) <;> simp
@[simp] theorem engWait_key (e : Nat) (s : State) : (engWait e s).sec.key = s.sec.key := by unfold engWait; simp
@[simp] theorem incTarget_key (e : Nat) (w : Nat) (s : State) : (incTarget e w s).sec.key = s.sec.key := by unfold incTarget; (repeat' split) <;> simp
@[simp] theorem signalPush_key (e : Nat) (w : Nat) (s : State) : (signalPush e w s).sec.key = s.sec.key := by unfold signalPush; simp
@[simp] theorem stopEng_key (e : Nat) (s : State) : (stopEng e s).sec.key = s.sec.key := by unfold stopEng; simp
@[simp] theorem seqTail_key (e : Nat) (v : U32) (g : Eng) (s : State) : (seqTail e v g s).sec.key = s.sec.key := by unfold seqTail; dsimp only; (repeat' split) <;> simp
@[simp] theorem engRunHead_key (e : Nat) (s : State) : (engRunHead e s).sec.key = s.sec.key := by unfold engRunHead; dsimp only; (repeat' split) <;> simp
@[simp] theorem eccUe_key (e : Nat) (busy : Bool) (onRead : Bool) (s : State) : (eccUe e busy onRead s).sec.key = s.sec.key := by unfold eccUe; dsimp only; (repeat' split) <;> simp
@[simp] theorem replayOn_key (c : Nat) (s : State) : (replayOn c s).sec.key = s.sec.key := by unfold replayOn; simp
@[simp] theorem replayHomes_key (c : Nat) (s : State) : (replayHomes c s).sec.key = s.sec.key := by unfold replayHomes; simp
@[simp] theorem replaceEngine_key (e : Nat) (s : State) : (replaceEngine e s).sec.key = s.sec.key := by unfold replaceEngine; dsimp only; (repeat' split) <;> simp

/-! ### Tasklets -/

@[simp] theorem setHart_key (h : Nat) (v : Hart) (s : State) : (setHart h v s).sec.key = s.sec.key := by unfold setHart; simp [*]
@[simp] theorem modHart_key (h : Nat) (f : Hart → Hart) (s : State) : (modHart h f s).sec.key = s.sec.key := by unfold modHart; simp [*]
@[simp] theorem dropHarts_key (p : Nat → Bool) (s : State) : (dropHarts p s).sec.key = s.sec.key := by unfold dropHarts; simp
@[simp] theorem putHart_key (h : Nat) (v : Hart) (s : State) : (putHart h v s).sec.key = s.sec.key := by unfold putHart; simp [*]
@[simp] theorem onHart_key (h : Nat) (f : Tasklet → State → State) (s : State) (hf : ∀ a0 t, (f a0 t).sec.key = t.sec.key) : (onHart h f s).sec.key = s.sec.key := by unfold onHart; (repeat' split) <;> simp [*]
@[simp] theorem l1Clear_key (cores : List Nat) (s : State) : (l1Clear cores s).sec.key = s.sec.key := by unfold l1Clear; simp
@[simp] theorem l1Fill_key (core : Nat) (c : Nat) (va : Nat) (s : State) : (l1Fill core c va s).sec.key = s.sec.key := by unfold l1Fill; simp
@[simp] theorem dcFill_key (die : Nat) (c : Nat) (va : Nat) (s : State) : (dcFill die c va s).sec.key = s.sec.key := by unfold dcFill; dsimp only; (repeat' split) <;> simp
@[simp] theorem hwPrefetch_key (die : Nat) (c : Nat) (va : Nat) (s : State) : (hwPrefetch die c va s).sec.key = s.sec.key := by unfold hwPrefetch; grind (splits := 30) [dcFill_key, bumpFreeBy_key, foldl_key]
@[simp] theorem prefetch_key (core : Nat) (target : Nat) (c : Nat) (va : Nat) (s : State) : (prefetch core target c va s).2.sec.key = s.sec.key := by unfold prefetch; (repeat' split) <;> simp
@[simp] theorem stopPf_key (key : Nat) (s : State) : (stopPf key s).sec.key = s.sec.key := by unfold stopPf; (repeat' split) <;> simp
@[simp] theorem pfAhead_key (key : Nat) (q : PfSlot) (c : Nat) (d : Nat) (s : State) : (pfAhead key q c d s).sec.key = s.sec.key := by unfold pfAhead; dsimp only; (repeat' split) <;> simp
@[simp] theorem pfTouch_key (h : Nat) (c : Nat) (va : Nat) (s : State) : (pfTouch h c va s).sec.key = s.sec.key := by unfold pfTouch; grind (splits := 30) [stopPf_key, pfAhead_key, foldl_key]
@[simp] theorem touchLine_key (h : Nat) (c : Nat) (va : Nat) (s : State) : (touchLine h c va s).sec.key = s.sec.key := by unfold touchLine; dsimp only; (repeat' split) <;> simp [*]
theorem hartLoad_key {h : Nat} {c : Nat} {va : Nat} {n : Nat} {s : State} {b : Bytes} {t : State} (h : hartLoad h c va n s = .ok (b, t)) : t.sec.key = s.sec.key := by unfold hartLoad at h; grind (splits := 30) [touchLine_key, fillRange_key, foldl_key]
@[simp] theorem l1Store_key (core : Nat) (c : Nat) (va : Nat) (bs : Bytes) (s : State) : (l1Store core c va bs s).sec.key = s.sec.key := by
  induction bs generalizing core c va s <;> first | rfl | (unfold l1Store; simp [*]; done) | (unfold l1Store; (repeat' split) <;> simp [*]; done) | (unfold l1Store; dsimp only; (repeat' split) <;> simp [*])
@[simp] theorem drainStores_key (h : Nat) (s : State) : (drainStores h s).sec.key = s.sec.key := by unfold drainStores; grind (splits := 30) [ctxWrite_key, l1Store_key, modHart_key, foldl_key]
@[simp] theorem fencePred_key (h : Nat) (r : Bool) (w : Bool) (s : State) : (fencePred h r w s).sec.key = s.sec.key := by unfold fencePred; (repeat' split) <;> simp [*]
@[simp] theorem taskFault_key (c : Nat) (die : Nat) (cause : Nat) (mcause : Nat) (hart : Nat) (entry : Nat) (epc : Nat) (tval : Nat) (quiet : Bool) (s : State) : (taskFault c die cause mcause hart entry epc tval quiet s).sec.key = s.sec.key := by unfold taskFault; (repeat' split) <;> simp [*]
@[simp] theorem enqueue_key (p : Nat) (t : Tasklet) (by_ : Spawner) (s : State) : (enqueue p t by_ s).sec.key = s.sec.key := by unfold enqueue; dsimp only; (repeat' split) <;> simp
@[simp] theorem spawnNew_key (c : Nat) (b : Bytes) (arg4 : Option Nat) (by_ : Spawner) (s : State) : (spawnNew c b arg4 by_ s).sec.key = s.sec.key := by unfold spawnNew; simp
@[simp] theorem dropSlot_key (p : Option Nat) (s : State) : (dropSlot p s).sec.key = s.sec.key := by unfold dropSlot; (repeat' split) <;> simp
@[simp] theorem wakeJoin_key (c : Nat) (addr : Nat) (n : Nat) (s : State) : (wakeJoin c addr n s).sec.key = s.sec.key := by unfold wakeJoin; simp
@[simp] theorem spawnCont_key (c : Nat) (addr : Nat) (cont : Nat) (d : Done) (s : State) : (spawnCont c addr cont d s).sec.key = s.sec.key := by unfold spawnCont; grind (splits := 30) [ctxRead_key, enqueue_key, spawnNew_key, taskFault_key, dropSlot_key, foldl_key]
@[simp] theorem joinDone_key (c addr : Nat) (d : Done) (s : State) : (joinDone c addr d s).sec.key = s.sec.key := by
  unfold joinDone
  split
  · simp
  · split
    · simp
    · rename_i ht
      dsimp only
      split
      · simp [ctxRead_key ht]
      · split
        · rename_i hu
          split <;> simp [ctxWrite_key hu, ctxRead_key ht]
        · simp
@[simp] theorem freeHart_key (h : Nat) (s : State) : (freeHart h s).sec.key = s.sec.key := by unfold freeHart; simp [*]
@[simp] theorem endTask_key (h : Nat) (t : Tasklet) (faulted : Bool) (s : State) : (endTask h t faulted s).sec.key = s.sec.key := by unfold endTask; simp [*]
@[simp] theorem trapTask_key (h : Nat) (mcause : Nat) (tval : Nat) (t : Tasklet) (s : State) : (trapTask h mcause tval t s).sec.key = s.sec.key := by unfold trapTask; simp [*]
theorem resolveTrap_key {c mcause tval : Nat} {s t : State} (h : resolveTrap c mcause tval s = some t) : t.sec.key = s.sec.key := by
  unfold resolveTrap at h
  split at h
  · simp at h
  · split at h
    · simp at h
    · split at h
      · exact openWrite_key h
      · split at h <;>
        · simp at h; rw [← h.2]; exact fillRange_key ..
@[simp] theorem tspawnBody_key (h : Nat) (rd : Nat) (rs1 : Nat) (k : Tasklet) (s : State) : (tspawnBody h rd rs1 k s).sec.key = s.sec.key := by unfold tspawnBody; grind (splits := 30) [trapTask_key, hartLoad_key, fencePred_key, modHart_key, spawnNew_key, foldl_key]
@[simp] theorem tjoinBody_key (h : Nat) (rd : Nat) (rs1 : Nat) (k : Tasklet) (s : State) : (tjoinBody h rd rs1 k s).sec.key = s.sec.key := by unfold tjoinBody; grind (splits := 30) [trapTask_key, ctxRead_key, modHart_key, fencePred_key, foldl_key]
@[simp] theorem endTjoin_key (h : Nat) (s : State) : (endTjoin h s).sec.key = s.sec.key := by unfold endTjoin; simp [*]
@[simp] theorem trySteal_key (c core n : Nat) (s : State) : (trySteal c core n s).2.sec.key = s.sec.key := by
  induction n generalizing s with
  | zero => rfl
  | succ m ih =>
    unfold trySteal
    split
    · rfl
    · dsimp only
      split
      · rfl
      · split
        · simp
        · rw [ih]; simp
@[simp] theorem takeTask_key (c : Nat) (h : Nat) (k : Slot) (s : State) : (takeTask c h k s).2.sec.key = s.sec.key := by unfold takeTask; grind (splits := 30) [trySteal_key, foldl_key]
@[simp] theorem unpark_key (c : Nat) (h : Nat) (v : Hart) (s : State) : (unpark c h v s).sec.key = s.sec.key := by unfold unpark; simp [*]
@[simp] theorem startTask_key (c : Nat) (h : Nat) (s : State) : (startTask c h s).sec.key = s.sec.key := by unfold startTask; grind (splits := 30) [unpark_key, takeTask_key, modHart_key, fencePred_key, foldl_key]
@[simp] theorem pfstreamBody_key (h : Nat) (rs1 : Nat) (rs2 : Nat) (c : Nat) (s : State) : (pfstreamBody h rs1 rs2 c s).sec.key = s.sec.key := by unfold pfstreamBody; dsimp only; (repeat' split) <;> simp [*]
@[simp] theorem pfindBody_key (h : Nat) (rs1 : Nat) (rs2 : Nat) (k : Tasklet) (s : State) : (pfindBody h rs1 rs2 k s).sec.key = s.sec.key := by unfold pfindBody; grind (splits := 30) [hartLoad_key, prefetch_key, modHart_key, foldl_key]
@[simp] theorem vxBody_key (acc : Bool) (src1 : Hart → Nat → Nat → Nat) (h : Nat) (vd : Nat) (vs2 : Nat) (regs : List Nat) (vm : Bool) (k : Tasklet) (s : State) : (vxBody acc src1 h vd vs2 regs vm k s).sec.key = s.sec.key := by unfold vxBody; (repeat' split) <;> simp [*]
@[simp] theorem dispatchSignal_key (d : Nat) (s : State) : (dispatchSignal d s).sec.key = s.sec.key := by
  unfold dispatchSignal
  split
  · rfl
  · dsimp only
    split
    · split
      · rfl
      · split
        · rfl
        · rename_i hr
          have hq := ctxRead_key hr
          split
          · rfl
          · split
            · rw [spawnNew_key, hq]
            · rfl
    · rfl
@[simp] theorem badResume_key (c : Nat) (entry : Nat) (addr : Nat) (s : State) : (badResume c entry addr s).sec.key = s.sec.key := by unfold badResume; simp
@[simp] theorem spawnResume_key (c : Nat) (s : State) : (spawnResume c s).sec.key = s.sec.key := by unfold spawnResume; grind (splits := 30) [ctxRead_key, badResume_key, spawnNew_key, modSlot_key, foldl_key]
@[simp] theorem retrySpawns_key (d : Nat) (s : State) : (retrySpawns d s).sec.key = s.sec.key := by unfold retrySpawns; grind (splits := 30) [spawnResume_key, dispatchSignal_key, foldl_key]

/-! ### Dma -/

@[simp] theorem modDma_key (e : Nat) (f : Ring → Ring) (s : State) : (modDma e f s).sec.key = s.sec.key := by unfold modDma; simp
@[simp] theorem dmaFault_key (e : Nat) (b : Nat) (s : State) : (dmaFault e b s).sec.key = s.sec.key := by unfold dmaFault; simp
theorem dmaGather_key {c mem len pitch n : Nat} {s t : State} {b : Bytes} (h : dmaGather c mem len pitch n s = some (b, t)) : t.sec.key = s.sec.key := by
  induction n generalizing mem s t b with
  | zero => simp [dmaGather] at h; rw [h.2]
  | succ k ih =>
    unfold dmaGather at h
    split at h
    · simp at h
    · rename_i hr
      simp only [Option.map_eq_some_iff] at h
      obtain ⟨⟨b2, t2⟩, h1, h2⟩ := h
      simp at h2
      rw [← h2.2, ih h1, ctxRead_key hr]
theorem dmaScatter_key {c mem len pitch n : Nat} {bs : Bytes} {s t : State} (h : dmaScatter c mem len pitch n bs s = some t) : t.sec.key = s.sec.key := by
  induction n generalizing mem bs s with
  | zero => simp [dmaScatter] at h; rw [h]
  | succ k ih =>
    unfold dmaScatter at h
    split at h
    · rename_i hw
      rw [ih h, ctxWrite_key hw]
    · simp at h
@[simp] theorem dmaDone_key (e : Nat) (sync : Nat) (s : State) : (dmaDone e sync s).sec.key = s.sec.key := by unfold dmaDone; (repeat' split) <;> simp
@[simp] theorem dmaRun_key (e c : Nat) (s : State) : (dmaRun e c s).sec.key = s.sec.key := by
  unfold dmaRun
  split
  · simp
  · rename_i hr
    have h0 := ctxRead_key hr
    dsimp only
    split
    · simp [h0]
    · split
      · simp [h0]
      · split
        · split
          · rename_i hg
            simp [dmaGather_key hg, h0]
          · simp [h0]
        · split
          · rename_i hg
            simp [dmaScatter_key hg, h0]
          · simp [h0]
@[simp] theorem modTq_key (c : Nat) (f : Ring → Ring) (s : State) : (modTq c f s).sec.key = s.sec.key := by unfold modTq; simp
@[simp] theorem tierDone_key (c : Nat) (b : Bytes) (ok : Bool) (s : State) : (tierDone c b ok s).sec.key = s.sec.key := by unfold tierDone; simp
@[simp] theorem tierRun_key (op : Nat) (c : Nat) (work : TierWork) (s : State) (hwork : ∀ a0 t, (work a0 t).2.sec.key = t.sec.key) : (tierRun op c work s).sec.key = s.sec.key := by unfold tierRun; grind (splits := 30) [ctxRead_key, modTq_key, tierDone_key, foldl_key]
@[simp] theorem tierWrite_key (c : Nat) (va : Nat) (bs : Bytes) (s : State) : (tierWrite c va bs s).2.sec.key = s.sec.key := by unfold tierWrite; grind (splits := 30) [ctxWrite_key, foldl_key]
@[simp] theorem compressFrom_key (fuel c src dst len : Nat) (s : State) : (compressFrom fuel c src dst len s).2.sec.key = s.sec.key := by
  induction fuel generalizing src dst len s with
  | zero => rfl
  | succ n ih =>
    unfold compressFrom
    split
    · rfl
    · dsimp only
      split
      · rfl
      · rename_i hr
        split
        · rename_i hw
          rw [ih, ctxWrite_key hw, ctxRead_key hr]
        · exact ctxRead_key hr
@[simp] theorem decompressFrom_key (fuel c src dst len off : Nat) (s : State) : (decompressFrom fuel c src dst len off s).2.sec.key = s.sec.key := by
  induction fuel generalizing src dst len off s with
  | zero => rfl
  | succ n ih =>
    unfold decompressFrom
    split
    · rfl
    · split
      · rfl
      · split
        · rfl
        · rename_i hr
          split
          · exact ctxRead_key hr
          · split
            · exact ctxRead_key hr
            · rename_i hq
              split
              · exact (ctxRead_key hq).trans (ctxRead_key hr)
              · split
                · rename_i hw
                  rw [ih, ctxWrite_key hw, ctxRead_key hq, ctxRead_key hr]
                · exact (ctxRead_key hq).trans (ctxRead_key hr)

/-! ### FlashOps -/

@[simp] theorem modFtl_key (f : Ftl → Ftl) (s : State) : (modFtl f s).sec.key = s.sec.key := by unfold modFtl; simp
@[simp] theorem modCnt_key (f : FlashCnt → FlashCnt) (s : State) : (modCnt f s).sec.key = s.sec.key := by unfold modCnt; simp
@[simp] theorem segmentOut_key (seg : Nat) (s : State) : (segmentOut seg s).sec.key = s.sec.key := by unfold segmentOut; simp
@[simp] theorem journalRoom_key (s : State) : (journalRoom s).sec.key = s.sec.key := by unfold journalRoom; (repeat' split) <;> simp
@[simp] theorem journalPage_key (s : State) : (journalPage s).sec.key = s.sec.key := by unfold journalPage; (repeat' split) <;> simp
@[simp] theorem flushDeltas_key (fuel : Nat) (s : State) : (flushDeltas fuel s).sec.key = s.sec.key := by
  induction fuel generalizing s with
  | zero => rfl
  | succ k ih =>
    unfold flushDeltas
    split
    · rfl
    · rw [ih, journalPage_key]
@[simp] theorem flushAllDeltas_key (s : State) : (flushAllDeltas s).sec.key = s.sec.key := by unfold flushAllDeltas; simp
@[simp] theorem deltaRoom_key (s : State) : (deltaRoom s).sec.key = s.sec.key := by unfold deltaRoom; (repeat' split) <;> simp
@[simp] theorem unmapIdx_key (space : Nat) (idx : Nat) (s : State) : (unmapIdx space idx s).sec.key = s.sec.key := by unfold unmapIdx; (repeat' split) <;> simp
@[simp] theorem loseDeltas_key (n : Nat) (s : State) : (loseDeltas n s).sec.key = s.sec.key := by unfold loseDeltas; simp
@[simp] theorem modSb_key (sb : Nat) (f : Sb → Sb) (s : State) : (modSb sb f s).sec.key = s.sec.key := by unfold modSb; simp
@[simp] theorem queueWrite_key (src : Nat) (units : List BufUnit) (cmd : Option (Nat × Nat)) (s : State) : (queueWrite src units cmd s).sec.key = s.sec.key := by unfold queueWrite; simp
@[simp] theorem queuePinned_key (c : Nat) (item : FItem) (bytes : Nat) (s : State) : (queuePinned c item bytes s).sec.key = s.sec.key := by unfold queuePinned; simp
@[simp] theorem queueBulk_key (c : Nat) (item : FItem) (bytes : Nat) (s : State) : (queueBulk c item bytes s).sec.key = s.sec.key := by unfold queueBulk; (repeat' split) <;> simp
@[simp] theorem retryExtents_key (s : State) : (retryExtents s).sec.key = s.sec.key := by unfold retryExtents; grind (splits := 30) [modFtl_key, queueBulk_key, foldl_key]
@[simp] theorem dropCopy_key (i : FItem) (s : State) : (dropCopy i s).sec.key = s.sec.key := by unfold dropCopy; simp
@[simp] theorem copyPage_key (pid : Nat) (durable : Bool) (s : State) : (copyPage pid durable s).sec.key = s.sec.key := by unfold copyPage; dsimp only; (repeat' split) <;> simp
@[simp] theorem copyTwin_key (pid : Nat) (s : State) : (copyTwin pid s).sec.key = s.sec.key := by unfold copyTwin; (repeat' split) <;> simp
@[simp] theorem dropPageCopies_key (pid : Nat) (s : State) : (dropPageCopies pid s).sec.key = s.sec.key := by unfold dropPageCopies; simp
@[simp] theorem releaseOne_key (pid : Nat) (s : State) : (releaseOne pid s).sec.key = s.sec.key := by unfold releaseOne; (repeat' split) <;> simp
@[simp] theorem releasePage_key (pid : Nat) (s : State) : (releasePage pid s).sec.key = s.sec.key := by unfold releasePage; (repeat' split) <;> simp
@[simp] theorem freeKv_key (b : Nat) (s : State) : (freeKv b s).sec.key = s.sec.key := by unfold freeKv; simp

/-! ### MemoryOps -/

@[simp] theorem newObj_key (c : Nat) (va : Nat) (aflags : Nat) (pages : List Nat) (digest : Bytes) (s : State) : (newObj c va aflags pages digest s).2.sec.key = s.sec.key := by unfold newObj; simp
@[simp] theorem newPages_key (c n : Nat) (s : State) : (newPages c n s).2.sec.key = s.sec.key := by
  induction n generalizing s with
  | zero => rfl
  | succ k ih =>
    show (newPages c k (newPage c .writable [] s).2).2.sec.key = s.sec.key
    rw [ih, newPage_key]
@[simp] theorem freeObj_key (h : Nat) (s : State) : (freeObj h s).sec.key = s.sec.key := by unfold freeObj; (repeat' split) <;> simp [*]
@[simp] theorem leaveT1_key (pid : Nat) (s : State) : (leaveT1 pid s).sec.key = s.sec.key := by unfold leaveT1; (repeat' split) <;> simp
@[simp] theorem demotePage_key (pid : Nat) (s : State) : (demotePage pid s).sec.key = s.sec.key := by unfold demotePage; dsimp only; (repeat' split) <;> simp
@[simp] theorem promotePage_key (pid : Nat) (s : State) : (promotePage pid s).sec.key = s.sec.key := by unfold promotePage; (repeat' split) <;> simp
@[simp] theorem leaveDram_key (pid : Nat) (s : State) : (leaveDram pid s).sec.key = s.sec.key := by unfold leaveDram; (repeat' split) <;> simp
@[simp] theorem applyPlace_key (flags : Nat) (pid : Nat) (s : State) : (applyPlace flags pid s).sec.key = s.sec.key := by unfold applyPlace; dsimp only; (repeat' split) <;> simp
@[simp] theorem pageAccepted_key (pid : Nat) (s : State) : (pageAccepted pid s).sec.key = s.sec.key := by unfold pageAccepted; simp
@[simp] theorem pageDurable_key (pid : Nat) (s : State) : (pageDurable pid s).sec.key = s.sec.key := by unfold pageDurable; simp
@[simp] theorem sealPage_key (flags : Nat) (sflags : Nat) (pid : Nat) (s : State) : (sealPage flags sflags pid s).sec.key = s.sec.key := by unfold sealPage; (repeat' split) <;> simp
@[simp] theorem sealPages_key (flags : Nat) (sflags : Nat) (l : List Nat) (s : State) : (sealPages flags sflags l s).sec.key = s.sec.key := by unfold sealPages; simp
@[simp] theorem sealProgress_key (s : State) : (sealProgress s).sec.key = s.sec.key := by unfold sealProgress; grind (splits := 30) [complete_key, foldl_key]
@[simp] theorem losePage_key (pid : Nat) (s : State) : (losePage pid s).sec.key = s.sec.key := by unfold losePage; (repeat' split) <;> simp
@[simp] theorem relieveT1_key (fuel : Nat) (s : State) : (relieveT1 fuel s).sec.key = s.sec.key := by
  induction fuel generalizing s with
  | zero => rfl
  | succ k ih =>
    unfold relieveT1
    split
    · rfl
    · split
      · dsimp only
        split
        · rfl
        · rw [ih, demotePage_key]
      · rfl
@[simp] theorem relieveT2_key (fuel : Nat) (s : State) : (relieveT2 fuel s).sec.key = s.sec.key := by
  induction fuel generalizing s <;> first | rfl | (unfold relieveT2; simp [*]; done) | (unfold relieveT2; (repeat' split) <;> simp [*]; done) | (unfold relieveT2; dsimp only; (repeat' split) <;> simp [*])
@[simp] theorem heatSamples_key (s : State) : (heatSamples s).sec.key = s.sec.key := by unfold heatSamples; simp [*]
@[simp] theorem addMove_key (p : Nat) (k : MoveKind) (s : State) : (addMove p k s).sec.key = s.sec.key := by unfold addMove; simp
@[simp] theorem chooseMoves_key (fuel n : Nat) (s : State) : (chooseMoves fuel n s).sec.key = s.sec.key := by
  induction fuel generalizing n s with
  | zero => rfl
  | succ k ih =>
    unfold chooseMoves
    split
    · rfl
    · dsimp only
      split
      · rw [ih, addMove_key]
      · split
        · rw [ih, addMove_key]
        · split
          · split
            · split
              · rw [ih, addMove_key, addMove_key]
              · rfl
            · rfl
          · rfl

/-! ### MirrorStore -/

@[simp] theorem modAgents_key (f : Agents → Agents) (s : State) : (modAgents f s).sec.key = s.sec.key := by unfold modAgents; simp
@[simp] theorem sweepKv_key (s : State) : (sweepKv s).sec.key = s.sec.key := by unfold sweepKv; simp
@[simp] theorem newKv_key (c : Nat) (m : Nat) (bytes : Nat) (kv : List Nat) (code : Nat) (s : State) : (newKv c m bytes kv code s).2.sec.key = s.sec.key := by unfold newKv; simp
@[simp] theorem sendKv_key (id : Nat) (s : State) : (sendKv id s).sec.key = s.sec.key := by unfold sendKv; (repeat' split) <;> simp
@[simp] theorem kvDurable_key (b : Nat) (s : State) : (kvDurable b s).sec.key = s.sec.key := by unfold kvDurable; simp
@[simp] theorem storeBlocks_key (l : List MirrorBlk) (s : State) : (storeBlocks l s).2.sec.key = s.sec.key := by unfold storeBlocks; simp
@[simp] theorem setEarly_key (m : Mirrored) (l : List Nat) (s : State) : (setEarly m l s).sec.key = s.sec.key := by unfold setEarly; simp
@[simp] theorem dropMirror_key (x : MirrorCopy) (s : State) : (dropMirror x s).sec.key = s.sec.key := by unfold dropMirror; simp
@[simp] theorem ackMirrors_key (s : State) : (ackMirrors s).sec.key = s.sec.key := by unfold ackMirrors; simp
@[simp] theorem keepMirror_key (m : Mirrored) (s : State) : (keepMirror m s).sec.key = s.sec.key := by unfold keepMirror; simp
@[simp] theorem takeMirror_key (m : Mirrored) (s : State) : (takeMirror m s).sec.key = s.sec.key := by unfold takeMirror; dsimp only; (repeat' split) <;> simp
@[simp] theorem retagCopy_key (a : FItem) (b : FItem) (s : State) : (retagCopy a b s).sec.key = s.sec.key := by unfold retagCopy; simp

/-! ### AgentOps -/

@[simp] theorem modModel_key (m : Nat) (f : Model → Model) (s : State) : (modModel m f s).sec.key = s.sec.key := by unfold modModel; simp
@[simp] theorem modSess_key (id : Nat) (f : Sess → Sess) (s : State) : (modSess id f s).sec.key = s.sec.key := by unfold modSess; simp
@[simp] theorem modBody_key (id : Nat) (f : SessBody → SessBody) (s : State) : (modBody id f s).sec.key = s.sec.key := by unfold modBody; simp
@[simp] theorem sealOpen_key (id : Nat) (s : State) : (sealOpen id s).sec.key = s.sec.key := by unfold sealOpen; dsimp only; (repeat' split) <;> simp
@[simp] theorem sealFull_key (id : Nat) (s : State) : (sealFull id s).sec.key = s.sec.key := by unfold sealFull; (repeat' split) <;> simp
@[simp] theorem snapPoint_key (id : Nat) (seq : Nat) (tot : Nat) (rid : Nat) (s : State) : (snapPoint id seq tot rid s).sec.key = s.sec.key := by unfold snapPoint; (repeat' split) <;> simp
@[simp] theorem snapAnswer_key (id : Nat) (seq : Nat) (bytes : Nat) (tot : Nat) (pend : Nat) (st : Nat) (rid : Nat) (s : State) : (snapAnswer id seq bytes tot pend st rid s).sec.key = s.sec.key := by unfold snapAnswer; (repeat' split) <;> simp
@[simp] theorem replySnap_key (id : Nat) (seq : Nat) (bytes : Nat) (b : SessBody) (rid : Nat) (s : State) : (replySnap id seq bytes b rid s).sec.key = s.sec.key := by unfold replySnap; (repeat' split) <;> simp
@[simp] theorem mirrorLost_key (id : Nat) (s : State) : (mirrorLost id s).sec.key = s.sec.key := by unfold mirrorLost; (repeat' split) <;> simp
@[simp] theorem mirrorSnap_key (id : Nat) (x : Sess) (n : Snap) (s : State) : (mirrorSnap id x n s).sec.key = s.sec.key := by unfold mirrorSnap; (repeat' split) <;> simp
@[simp] theorem leaveBatch_key (id : Nat) (s : State) : (leaveBatch id s).sec.key = s.sec.key := by unfold leaveBatch; (repeat' split) <;> simp
@[simp] theorem leaveRuns_key (id : Nat) (s : State) : (leaveRuns id s).sec.key = s.sec.key := by unfold leaveRuns; simp
@[simp] theorem dropSess_key (id : Nat) (s : State) : (dropSess id s).sec.key = s.sec.key := by unfold dropSess; (repeat' split) <;> simp
@[simp] theorem undoAppend_key (id : Nat) (n : Nat) (s : State) : (undoAppend id n s).sec.key = s.sec.key := by unfold undoAppend; (repeat' split) <;> simp
@[simp] theorem failSnap_key (id : Nat) (s : State) : (failSnap id s).sec.key = s.sec.key := by unfold failSnap; grind (splits := 30) [leaveRuns_key, modSess_key, fail_key, dropSess_key, undoAppend_key, foldl_key]
@[simp] theorem startSnap_key (id : Nat) (s : State) : (startSnap id s).sec.key = s.sec.key := by unfold startSnap; (repeat' split) <;> simp
@[simp] theorem pumpSnaps_key (fuel : Nat) (s : State) : (pumpSnaps fuel s).sec.key = s.sec.key := by
  induction fuel generalizing s <;> first | rfl | (unfold pumpSnaps; simp [*]; done) | (unfold pumpSnaps; (repeat' split) <;> simp [*]; done) | (unfold pumpSnaps; dsimp only; (repeat' split) <;> simp [*])
@[simp] theorem takeSnap_key (id : Nat) (b : SessBody) (mark : Nat) (waiters : List Nat) (pause : Bool) (s : State) : (takeSnap id b mark waiters pause s).sec.key = s.sec.key := by unfold takeSnap; (repeat' split) <;> simp
@[simp] theorem beginSnap_key (id : Nat) (waiters : List Nat) (pause : Bool) (s : State) : (beginSnap id waiters pause s).sec.key = s.sec.key := by unfold beginSnap; (repeat' split) <;> simp
@[simp] theorem kvToT2_key (l : List Nat) (s : State) : (kvToT2 l s).sec.key = s.sec.key := by unfold kvToT2; grind (splits := 30) [t2Room_key, setKvT2_key, foldl_key]
@[simp] theorem commitSnap_key (id : Nat) (s : State) : (commitSnap id s).sec.key = s.sec.key := by unfold commitSnap; (repeat' split) <;> simp
@[simp] theorem endGen_key (id : Nat) (st : Nat) (reason : Nat) (s : State) : (endGen id st reason s).sec.key = s.sec.key := by unfold endGen; dsimp only; (repeat' split) <;> simp
@[simp] theorem pauseForMemory_key (id : Nat) (s : State) : (pauseForMemory id s).sec.key = s.sec.key := by unfold pauseForMemory; (repeat' split) <;> simp
@[simp] theorem newJoiner_key (id : Nat) (x : Sess) (s : State) : (newJoiner id x s).sec.key = s.sec.key := by unfold newJoiner; simp
@[simp] theorem forkSess_key (rid : Nat) (parent : Nat) (s : State) : (forkSess rid parent s).sec.key = s.sec.key := by unfold forkSess; (repeat' split) <;> simp
@[simp] theorem closeSess_key (rid : Nat) (id : Nat) (s : State) : (closeSess rid id s).sec.key = s.sec.key := by unfold closeSess; (repeat' split) <;> simp
@[simp] theorem newQuery_key (id : Nat) (s : State) : (newQuery id s).sec.key = s.sec.key := by unfold newQuery; (repeat' split) <;> simp
@[simp] theorem keepCached_key (m : Nat) (l : List Nat) (s : State) : (keepCached m l s).sec.key = s.sec.key := by unfold keepCached; grind (splits := 30) [modModel_key, foldl_key]
@[simp] theorem omitBlock_key (id : Nat) (b : Nat) (s : State) : (omitBlock id b s).sec.key = s.sec.key := by unfold omitBlock; simp
@[simp] theorem deliver_key (e : Nat × U32 × Bool) (s : State) : (deliver e s).sec.key = s.sec.key := by
  unfold deliver
  split
  · rfl
  · split
    · rfl
    · split
      · dsimp only
        split
        · rename_i t hw
          have ht : t.sec.key = s.sec.key := by
            split at hw
            · split at hw
              · rename_i u hu
                rw [refWrite_key hw, refWrite_key hu]
              · exact refWrite_key hw
            · injection hw with hw; rw [hw]
          simp [ht]
        · simp
        · simp
      · rfl
@[simp] theorem fillChunk_key (fuel : Nat) (id : Nat) (s : State) : (fillChunk fuel id s).sec.key = s.sec.key := by
  induction fuel generalizing id s <;> first | rfl | (unfold fillChunk; simp [*]; done) | (unfold fillChunk; (repeat' split) <;> simp [*]; done) | (unfold fillChunk; dsimp only; (repeat' split) <;> simp [*])
@[simp] theorem advanceChunk_key (id : Nat) (s : State) : (advanceChunk id s).sec.key = s.sec.key := by unfold advanceChunk; dsimp only; (repeat' split) <;> simp
@[simp] theorem startChunk_key (id : Nat) (s : State) : (startChunk id s).sec.key = s.sec.key := by unfold startChunk; (repeat' split) <;> simp
@[simp] theorem cutChunk_key (id : Nat) (s : State) : (cutChunk id s).sec.key = s.sec.key := by unfold cutChunk; (repeat' split) <;> simp
@[simp] theorem prefillChunk_key (id : Nat) (s : State) : (prefillChunk id s).sec.key = s.sec.key := by unfold prefillChunk; simp
@[simp] theorem boundaryReqs_key (id : Nat) (rids : List Nat) (s : State) : (boundaryReqs id rids s).sec.key = s.sec.key := by unfold boundaryReqs; grind (splits := 30) [commit_key, undoAppend_key, beginSnap_key, modSess_key, forkSess_key, closeSess_key, foldl_key]
@[simp] theorem retireOne_key (step : StepReport) (id : Nat) (s : State) : (retireOne step id s).sec.key = s.sec.key := by unfold retireOne; (repeat' split) <;> simp
@[simp] theorem periodicSnap_key (id : Nat) (s : State) : (periodicSnap id s).sec.key = s.sec.key := by unfold periodicSnap; dsimp only; (repeat' split) <;> simp
@[simp] theorem releaseBlocks_key (m : Nat) (s : State) : (releaseBlocks m s).sec.key = s.sec.key := by unfold releaseBlocks; simp
@[simp] theorem makeRoom_key (fuel : Nat) (m : Nat) (need : Nat) (out : List Nat) (s : State) : (makeRoom fuel m need out s).sec.key = s.sec.key := by
  induction fuel generalizing m need out s <;> first | rfl | (unfold makeRoom; simp [*]; done) | (unfold makeRoom; (repeat' split) <;> simp [*]; done) | (unfold makeRoom; dsimp only; (repeat' split) <;> simp [*])
@[simp] theorem extendAll_key (m : Nat) (out : List Nat) (l : List Nat) (short : Nat) (s : State) : (extendAll m out l short s).sec.key = s.sec.key := by
  induction l generalizing m out short s <;> first | rfl | (unfold extendAll; simp [*]; done) | (unfold extendAll; (repeat' split) <;> simp [*]; done) | (unfold extendAll; dsimp only; (repeat' split) <;> simp [*])
@[simp] theorem dropCache_key (m : Nat) (s : State) : (dropCache m s).sec.key = s.sec.key := by unfold dropCache; simp
@[simp] theorem becomeResident_key (id : Nat) (blocks : Nat) (s : State) : (becomeResident id blocks s).sec.key = s.sec.key := by unfold becomeResident; simp
@[simp] theorem pumpResumes_key (fuel : Nat) (s : State) : (pumpResumes fuel s).sec.key = s.sec.key := by
  induction fuel generalizing s <;> first | rfl | (unfold pumpResumes; simp [*]; done) | (unfold pumpResumes; (repeat' split) <;> simp [*]; done) | (unfold pumpResumes; dsimp only; (repeat' split) <;> simp [*])
@[simp] theorem admitOne_key (m : Nat) (id : Nat) (x : Sess) (s : State) : (admitOne m id x s).sec.key = s.sec.key := by unfold admitOne; (repeat' split) <;> simp
@[simp] theorem dropRestore_key (id : Nat) (s : State) : (dropRestore id s).sec.key = s.sec.key := by unfold dropRestore; simp
@[simp] theorem restoreDone_key (id : Nat) (s : State) : (restoreDone id s).sec.key = s.sec.key := by unfold restoreDone; (repeat' split) <;> simp
@[simp] theorem dropJoiner_key (m id : Nat) (x : Sess) (s : State) : (dropJoiner m id x s).sec.key = s.sec.key := by
  unfold dropJoiner
  dsimp only
  split
  · cases x.joinRid <;> simp
  · cases x.joinRid <;> simp
  · simp
@[simp] theorem admitClass_key (m : Nat) (l : List Nat) (s : State) : (admitClass m l s).1.sec.key = s.sec.key := by
  induction l generalizing s with
  | nil => rfl
  | cons a r ih =>
    unfold admitClass
    split
    · split
      · rw [ih, dropJoiner_key]
      · split
        · rw [ih, admitOne_key]
        · rfl
    · exact ih ..
@[simp] theorem admitAll_key (m : Nat) (s : State) : (admitAll m s).sec.key = s.sec.key := by
  unfold admitAll
  split
  · rfl
  · dsimp only
    split <;> simp
@[simp] theorem reform_key (m : Nat) (s : State) : (reform m s).sec.key = s.sec.key := by unfold reform; (repeat' split) <;> simp
@[simp] theorem boundary_key (m : Nat) (step : StepReport) (s : State) : (boundary m step s).sec.key = s.sec.key := by unfold boundary; (repeat' split) <;> simp
@[simp] theorem quietBoundary_key (m : Nat) (s : State) : (quietBoundary m s).sec.key = s.sec.key := by unfold quietBoundary; (repeat' split) <;> simp

/-! ### Transmit -/

@[simp] theorem record_key (m : Tx) (s : State) : (record m s).sec.key = s.sec.key := by unfold record; simp
@[simp] theorem useKey_key (p : Nat) (vc : Nat) (n : Nat) (s : State) : (useKey p vc n s).sec.key = s.sec.key := by unfold useKey; (repeat' split) <;> simp
@[simp] theorem sendOne_key (p : Nat) (s : State) : (sendOne p s).sec.key = s.sec.key := by unfold sendOne; (repeat' split) <;> simp
@[simp] theorem drainScan_key (s : State) : (drainScan s).sec.key = s.sec.key := by unfold drainScan; simp

/-! ### Links -/

@[simp] theorem modPorts_key (f : Ports → Ports) (s : State) : (modPorts f s).sec.key = s.sec.key := by unfold modPorts; simp
@[simp] theorem reroute_key (s : State) : (reroute s).sec.key = s.sec.key := by unfold reroute; (repeat' split) <;> simp
@[simp] theorem reissue_key (s : State) : (reissue s).sec.key = s.sec.key := by unfold reissue; grind (splits := 30) [record_key, foldl_key]
@[simp] theorem portActive_key (p : Nat) (t : TrainReport) (s : State) : (portActive p t s).sec.key = s.sec.key := by unfold portActive; simp
@[simp] theorem linkUpEvent_key (p : Nat) (s : State) : (linkUpEvent p s).sec.key = s.sec.key := by unfold linkUpEvent; simp
@[simp] theorem portStops_key (p : Nat) (train : Nat) (cause : Nat) (s : State) : (portStops p train cause s).sec.key = s.sec.key := by unfold portStops; simp
@[simp] theorem trainPort_key (p : Nat) (t : TrainReport) (s : State) : (trainPort p t s).sec.key = s.sec.key := by unfold trainPort; dsimp only; (repeat' split) <;> simp
@[simp] theorem startRetrain_key (p : Nat) (s : State) : (startRetrain p s).sec.key = s.sec.key := by unfold startRetrain; simp
@[simp] theorem retrainPort_key (p : Nat) (t : TrainReport) (s : State) : (retrainPort p t s).sec.key = s.sec.key := by unfold retrainPort; dsimp only; (repeat' split) <;> simp
@[simp] theorem disablePort_key (p : Nat) (s : State) : (disablePort p s).sec.key = s.sec.key := by unfold disablePort; (repeat' split) <;> simp
@[simp] theorem setTcKey_key (p : Nat) (tc3 : Bool) (k : Option TcKey) (s : State) : (setTcKey p tc3 k s).sec.key = s.sec.key := by unfold setTcKey; (repeat' split) <;> simp
@[simp] theorem nextPhase_key (p : Nat) (tc3 : Bool) (s : State) : (nextPhase p tc3 s).sec.key = s.sec.key := by unfold nextPhase; (repeat' split) <;> simp
@[simp] theorem ackUpTo_key (p : Nat) (ack : Nat) (s : State) : (ackUpTo p ack s).sec.key = s.sec.key := by unfold ackUpTo; simp
@[simp] theorem giveCredits_key (p : Nat) (vc : Nat) (n : Nat) (s : State) : (giveCredits p vc n s).sec.key = s.sec.key := by unfold giveCredits; simp
@[simp] theorem creditField_key (p : Nat) (v : U32) (s : State) : (creditField p v s).sec.key = s.sec.key := by unfold creditField; (repeat' split) <;> simp
@[simp] theorem flitLost_key (p : Nat) (f : Flit) (bad : Bool) (s : State) : (flitLost p f bad s).sec.key = s.sec.key := by unfold flitLost; dsimp only; (repeat' split) <;> simp
@[simp] theorem takeNak_key (p : Nat) (seq : Nat) (s : State) : (takeNak p seq s).sec.key = s.sec.key := by unfold takeNak; dsimp only; (repeat' split) <;> simp
@[simp] theorem takeFlit_key (p : Nat) (f : Flit) (s : State) : (takeFlit p f s).sec.key = s.sec.key := by unfold takeFlit; (repeat' split) <;> simp
@[simp] theorem forwardOut_key (p : Nat) (m : Tx) (s : State) : (forwardOut p m s).sec.key = s.sec.key := by unfold forwardOut; (repeat' split) <;> simp
@[simp] theorem releaseFwd_key (s : State) : (releaseFwd s).sec.key = s.sec.key := by unfold releaseFwd; grind (splits := 30) [forwardOut_key, modPorts_key, foldl_key]
@[simp] theorem routeFlit_key (f : Flit) (s : State) : (routeFlit f s).sec.key = s.sec.key := by unfold routeFlit; dsimp only; (repeat' split) <;> simp
@[simp] theorem takeRope_key (f : Flit) (s : State) : (takeRope f s).sec.key = s.sec.key := by unfold takeRope; (repeat' split) <;> simp
@[simp] theorem flitInOrder_key (p : Nat) (f : Flit) (s : State) : (flitInOrder p f s).sec.key = s.sec.key := by unfold flitInOrder; dsimp only; (repeat' split) <;> simp
@[simp] theorem flitIn_key (p : Nat) (f : Flit) (s : State) : (flitIn p f s).sec.key = s.sec.key := by unfold flitIn; dsimp only; (repeat' split) <;> simp
@[simp] theorem refusedFor_key (rid : Option Nat) (s : State) : (refusedFor rid s).sec.key = s.sec.key := by unfold refusedFor; (repeat' split) <;> simp
@[simp] theorem dropRemote_key (ptag : Nat) (s : State) : (dropRemote ptag s).sec.key = s.sec.key := by unfold dropRemote; (repeat' split) <;> simp
@[simp] theorem gotMore_key (ptag : Nat) (n : Nat) (s : State) : (gotMore ptag n s).sec.key = s.sec.key := by unfold gotMore; simp
@[simp] theorem ackRemote_key (pk : Packet) (s : State) : (ackRemote pk s).sec.key = s.sec.key := by unfold ackRemote; (repeat' split) <;> simp
@[simp] theorem dataRemote_key (pk : Packet) (n : Nat) (s : State) : (dataRemote pk n s).sec.key = s.sec.key := by unfold dataRemote; (repeat' split) <;> simp
@[simp] theorem timeoutRemote_key (ptag : Nat) (s : State) : (timeoutRemote ptag s).sec.key = s.sec.key := by unfold timeoutRemote; (repeat' split) <;> simp
@[simp] theorem sendBeats_key (s : State) : (sendBeats s).sec.key = s.sec.key := by unfold sendBeats; grind (splits := 30) [emit_key, foldl_key]
@[simp] theorem takeBeat_key (p : Nat) (pos : Nat) (hops : Nat) (exit : Nat) (st : Nat) (s : State) : (takeBeat p pos hops exit st s).sec.key = s.sec.key := by unfold takeBeat; (repeat' split) <;> simp [*]
@[simp] theorem losePeer_key (pos : Nat) (s : State) : (losePeer pos s).sec.key = s.sec.key := by unfold losePeer; grind (splits := 30) [modPort_key, modPorts_key, devEvent_key, reroute_key, capsChanged_key, foldl_key]

/-! ### Models -/

@[simp] theorem readComps_key (img : ModelImage) (r : Req) (s : State) : (readComps img r s).2.sec.key = s.sec.key := by
  unfold readComps
  apply foldlTwo_key
  intro a e
  split
  · rename_i h; exact refRead_key h
  · rfl
@[simp] theorem setLoad_key (rid : Nat) (f : Load → Load) (s : State) : (setLoad rid f s).sec.key = s.sec.key := by unfold setLoad; simp
@[simp] theorem unloadModel_key (m : Nat) (s : State) : (unloadModel m s).sec.key = s.sec.key := by unfold unloadModel; (repeat' split) <;> simp
@[simp] theorem abandonLoad_key (l : Load) (s : State) : (abandonLoad l s).sec.key = s.sec.key := by unfold abandonLoad; simp
@[simp] theorem loadPage_key (l : Load) (x : Model) (data : Memory) (s : State) : (loadPage l x data s).sec.key = s.sec.key := by unfold loadPage; dsimp only; (repeat' split) <;> simp
theorem loadTensor_key {l : Load} {x : Model} {s : State} {t : State} (h : loadTensor l x s = some t) : t.sec.key = s.sec.key := by unfold loadTensor at h; grind (splits := 30) [newObj_key, modModel_key, commit_key, setLoad_key, foldl_key]
@[simp] theorem loadRoom_key (l : Load) (x : Model) (s : State) : (loadRoom l x s).sec.key = s.sec.key := by unfold loadRoom; dsimp only; (repeat' split) <;> simp
@[simp] theorem runLoad_key (fuel rid : Nat) (s : State) : (runLoad fuel rid s).sec.key = s.sec.key := by
  induction fuel generalizing s with
  | zero => rfl
  | succ n ih =>
    unfold runLoad
    split
    · rfl
    · split
      · exact abandonLoad_key ..
      · rw [complete_key, modAgents_key]
      · split
        · rw [commit_key, abandonLoad_key]
        · split
          · split
            · rename_i h; rw [ih, loadTensor_key h]
            · rw [fail_key, abandonLoad_key]
          · (repeat' split)
            · rw [ih, loadPage_key]
            · rw [ih, loadRoom_key]
            · rfl
            · rw [fail_key, abandonLoad_key]
@[simp] theorem loadProgress_key (s : State) : (loadProgress s).sec.key = s.sec.key := by unfold loadProgress; simp
@[simp] theorem loadBody_key (img : ModelImage) (r : Req) (s : State) : (loadBody img r s).sec.key = s.sec.key := by
  unfold loadBody checked
  dsimp only
  split
  · exact fail_key ..
  · rw [loadProgress_key, setRunning_key, modAgents_key]
    rw [foldl_key, readComps_key]
    intro t k
    exact commit_key ..
@[simp] theorem unloadBody_key (r : Req) (s : State) : (unloadBody r s).sec.key = s.sec.key := by unfold unloadBody; simp
@[simp] theorem modelQueryBody_key (r : Req) (s : State) : (modelQueryBody r s).sec.key = s.sec.key := by unfold modelQueryBody; dsimp only; (repeat' split) <;> simp
@[simp] theorem batchCfgBody_key (r : Req) (s : State) : (batchCfgBody r s).sec.key = s.sec.key := by unfold batchCfgBody; simp
@[simp] theorem reshardDone_key (id : Nat) (s : State) : (reshardDone id s).sec.key = s.sec.key := by unfold reshardDone; (repeat' split) <;> simp
@[simp] theorem retrievalExpired_key (id : Nat) (blk : Nat) (s : State) : (retrievalExpired id blk s).sec.key = s.sec.key := by unfold retrievalExpired; (repeat' split) <;> simp
@[simp] theorem onSess_key (r : Req) (errs : List (Bool × Nat)) (late : Sess → List (Bool × Nat)) (f : Nat → Sess → State → State) (s : State) (hf : ∀ a0 a1 t, (f a0 a1 t).sec.key = t.sec.key) : (onSess r errs late f s).sec.key = s.sec.key := by unfold onSess; dsimp only; (repeat' split) <;> simp [*]
@[simp] theorem createBody_key (r : Req) (s : State) : (createBody r s).sec.key = s.sec.key := by unfold createBody; simp
theorem appendToks_key {toks : List U32} {r : Req} {s t : State} {l : List U32} (h : appendToks toks r s = .ok (l, t)) : t.sec.key = s.sec.key := by
  unfold appendToks at h
  dsimp only at h
  split at h
  · simp at h; rw [h.2]
  · split at h
    · rename_i hr
      simp at h
      rw [← h.2, refRead_key hr]
    · simp at h
@[simp] theorem atBoundary_key (r : Req) (id : Nat) (x : Sess) (s : State) : (atBoundary r id x s).sec.key = s.sec.key := by unfold atBoundary; simp
@[simp] theorem appendBody_key (toks : List U32) (r : Req) (id : Nat) (x : Sess) (s : State) : (appendBody toks r id x s).sec.key = s.sec.key := by
  unfold appendBody
  split
  · simp
  · rename_i h
    dsimp only
    (repeat' split) <;> simp [appendToks_key h]
@[simp] theorem generateBody_key (r : Req) (id : Nat) (x : Sess) (s : State) : (generateBody r id x s).sec.key = s.sec.key := by unfold generateBody; simp
@[simp] theorem pauseBody_key (r : Req) (id : Nat) (x : Sess) (s : State) : (pauseBody r id x s).sec.key = s.sec.key := by unfold pauseBody; (repeat' split) <;> simp
@[simp] theorem resumeBody_key (r : Req) (id : Nat) (x : Sess) (s : State) : (resumeBody r id x s).sec.key = s.sec.key := by unfold resumeBody; dsimp only; (repeat' split) <;> simp
@[simp] theorem forkBody_key (r : Req) (id : Nat) (x : Sess) (s : State) : (forkBody r id x s).sec.key = s.sec.key := by unfold forkBody; (repeat' split) <;> simp
@[simp] theorem closeBody_key (r : Req) (id : Nat) (x : Sess) (s : State) : (closeBody r id x s).sec.key = s.sec.key := by unfold closeBody; (repeat' split) <;> simp
@[simp] theorem mirrorReplies_key (id : Nat) (st : Nat) (s : State) : (mirrorReplies id st s).sec.key = s.sec.key := by unfold mirrorReplies; (repeat' split) <;> simp
@[simp] theorem mirrorCommitted_key (id : Nat) (seq : Nat) (s : State) : (mirrorCommitted id seq s).sec.key = s.sec.key := by unfold mirrorCommitted; (repeat' split) <;> simp
@[simp] theorem mirrorLate_key (id : Nat) (s : State) : (mirrorLate id s).sec.key = s.sec.key := by unfold mirrorLate; dsimp only; (repeat' split) <;> simp
@[simp] theorem mirrorsLost_key (pos : Nat) (s : State) : (mirrorsLost pos s).sec.key = s.sec.key := by unfold mirrorsLost; grind (splits := 30) [mirrorLost_key, foldl_key]

/-! ### StoreOps -/

@[simp] theorem modQp_key (q : Nat) (f : Qp → Qp) (s : State) : (modQp q f s).sec.key = s.sec.key := by unfold modQp; simp
@[simp] theorem modStore_key (f : Store → Store) (s : State) : (modStore f s).sec.key = s.sec.key := by unfold modStore; simp
@[simp] theorem modFeat_key (c : Nat) (f : Feat → Feat) (s : State) : (modFeat c f s).sec.key = s.sec.key := by unfold modFeat; simp
@[simp] theorem logErr_key (c : Nat) (sqid : Nat) (cid : Nat) (st : Nat) (lba : Nat) (ns : Nat) (s : State) : (logErr c sqid cid st lba ns s).sec.key = s.sec.key := by unfold logErr; (repeat' split) <;> simp
@[simp] theorem cqNotify_key (q : Nat) (s : State) : (cqNotify q s).sec.key = s.sec.key := by unfold cqNotify; (repeat' split) <;> simp
@[simp] theorem cqCount_key (q : Nat) (s : State) : (cqCount q s).sec.key = s.sec.key := by unfold cqCount; (repeat' split) <;> simp
@[simp] theorem putCqe_key (p : Qp) (q : Nat) (entry : Bytes) (s : State) : (putCqe p q entry s).sec.key = s.sec.key := by unfold putCqe; grind (splits := 30) [ctxWrite_key, remoteWrite_key, record_key, foldl_key]
@[simp] theorem postCqe_key (q : Nat) (p : Qp) (m : Cmd) (r : Nat × Nat × Nat) (s : State) : (postCqe q p m r s).sec.key = s.sec.key := by unfold postCqe; (repeat' split) <;> simp
@[simp] theorem drainCq_key (fuel q : Nat) (s : State) : (drainCq fuel q s).sec.key = s.sec.key := by
  induction fuel generalizing s with
  | zero => rfl
  | succ k ih =>
    unfold drainCq
    split
    · rfl
    · split
      · rfl
      · split
        · rfl
        · rw [ih, postCqe_key]
@[simp] theorem endQp_key (q : Nat) (s : State) : (endQp q s).sec.key = s.sec.key := by unfold endQp; (repeat' split) <;> simp
@[simp] theorem adminDone_key (r : Req) (st : Nat) (d0 : Nat) (s : State) : (adminDone r st d0 s).sec.key = s.sec.key := by unfold adminDone; simp
@[simp] theorem nsGone_key (n : Nat) (s : State) : (nsGone n s).sec.key = s.sec.key := by unfold nsGone; (repeat' split) <;> simp
@[simp] theorem endDeletes_key (s : State) : (endDeletes s).sec.key = s.sec.key := by unfold endDeletes; grind (splits := 30) [nsGone_key, adminDone_key, foldl_key]
@[simp] theorem endDetaches_key (s : State) : (endDetaches s).sec.key = s.sec.key := by unfold endDetaches; grind (splits := 30) [adminDone_key, foldl_key]
@[simp] theorem storeSettle_key (q : Nat) (s : State) : (storeSettle q s).sec.key = s.sec.key := by unfold storeSettle; simp
@[simp] theorem countCmd_key (e : Bytes) (st : Nat) (s : State) : (countCmd e st s).sec.key = s.sec.key := by unfold countCmd; (repeat' split) <;> simp
@[simp] theorem finishCmd_key (q : Nat) (seq : Nat) (st : Nat) (d0 : Nat) (d1 : Nat) (s : State) : (finishCmd q seq st d0 d1 s).sec.key = s.sec.key := by unfold finishCmd; dsimp only; (repeat' split) <;> simp

/-! ### SearchOps -/

@[simp] theorem modSearch_key (f : Search → Search) (s : State) : (modSearch f s).sec.key = s.sec.key := by unfold modSearch; simp
@[simp] theorem modIdx_key (h : Nat) (f : Index → Index) (s : State) : (modIdx h f s).sec.key = s.sec.key := by unfold modIdx; simp [*]
@[simp] theorem beginMerge_key (h : Nat) (waiters : List Nat) (s : State) : (beginMerge h waiters s).sec.key = s.sec.key := by unfold beginMerge; simp [*]
@[simp] theorem searchEvent_key (code : Nat) (x : Index) (payload : Bytes) (s : State) : (searchEvent code x payload s).sec.key = s.sec.key := by unfold searchEvent; simp
@[simp] theorem checkSide_key (h : Nat) (s : State) : (checkSide h s).sec.key = s.sec.key := by unfold checkSide; (repeat' split) <;> simp [*]
@[simp] theorem storeSide_key (h : Nat) (e : Nat) (n : Nat) (s : State) : (storeSide h e n s).sec.key = s.sec.key := by unfold storeSide; (repeat' split) <;> simp [*]
@[simp] theorem applyEpoch_key (rid : Nat) (h : Nat) (old : Index) (x : Index) (done : Nat) (other : Nat) (st : Nat) (s : State) : (applyEpoch rid h old x done other st s).sec.key = s.sec.key := by unfold applyEpoch; dsimp only; (repeat' split) <;> simp [*]
@[simp] theorem applyInsert_key (rid : Nat) (h : Nat) (items : List (Nat × Bytes)) (st : Nat) (s : State) : (applyInsert rid h items st s).sec.key = s.sec.key := by unfold applyInsert; (repeat' split) <;> simp [*]
@[simp] theorem applyDelete_key (rid : Nat) (h : Nat) (keys : List Nat) (s : State) : (applyDelete rid h keys s).sec.key = s.sec.key := by unfold applyDelete; (repeat' split) <;> simp [*]
@[simp] theorem storeArrays_key (h : Nat) (s : State) : (storeArrays h s).sec.key = s.sec.key := by unfold storeArrays; grind (splits := 30) [dropCopy_key, queueBulk_key, foldl_key]
@[simp] theorem publish_key (h : Nat) (g : NewGraph) (s : State) : (publish h g s).sec.key = s.sec.key := by unfold publish; (repeat' split) <;> simp [*]
@[simp] theorem freeIndex_key (h : Nat) (s : State) : (freeIndex h s).sec.key = s.sec.key := by unfold freeIndex; (repeat' split) <;> simp [*]
@[simp] theorem searchReset_key (s : State) : (searchReset s).sec.key = s.sec.key := by unfold searchReset; simp

/-! ### TuneOps -/

@[simp] theorem drawF32_key (n : Nat) (s : State) : (drawF32 n s).2.sec.key = s.sec.key := by unfold drawF32; simp
@[simp] theorem modGroup_key (g : Nat) (f : Group → Group) (s : State) : (modGroup g f s).sec.key = s.sec.key := by unfold modGroup; simp
@[simp] theorem modBucket_key (g : Nat) (seq : Nat) (f : Bucket → Bucket) (s : State) : (modBucket g seq f s).sec.key = s.sec.key := by unfold modBucket; simp
@[simp] theorem modRec_key (g : Nat) (seq : Nat) (f : BucketRec → BucketRec) (s : State) : (modRec g seq f s).sec.key = s.sec.key := by unfold modRec; simp
@[simp] theorem modStep_key (g : Nat) (n : Nat) (f : TStep → TStep) (s : State) : (modStep g n f s).sec.key = s.sec.key := by unfold modStep; simp
@[simp] theorem modTensor_key (a : Nat) (i : Nat) (f : Tensor → Tensor) (s : State) : (modTensor a i f s).sec.key = s.sec.key := by unfold modTensor; simp
@[simp] theorem tuneEvent_key (code : Nat) (ctx : Nat) (payload : Bytes) (s : State) : (tuneEvent code ctx payload s).sec.key = s.sec.key := by unfold tuneEvent; simp
@[simp] theorem sendCtl_key (g : Nat) (kind : Nat) (dir : Nat) (seq : Nat) (mask : Nat) (cause : Nat) (s : State) : (sendCtl g kind dir seq mask cause s).sec.key = s.sec.key := by unfold sendCtl; simp
@[simp] theorem stepCommit_key (g : Nat) (n : Nat) (units : Nat) (s : State) : (stepCommit g n units s).sec.key = s.sec.key := by unfold stepCommit; (repeat' split) <;> simp
@[simp] theorem stepFinish_key (g : Nat) (n : Nat) (s : State) : (stepFinish g n s).sec.key = s.sec.key := by unfold stepFinish; dsimp only; (repeat' split) <;> simp
@[simp] theorem stageTensor_key (g : Nat) (n : Nat) (i : Nat) (st : TStage) (s : State) : (stageTensor g n i st s).sec.key = s.sec.key := by unfold stageTensor; simp
@[simp] theorem breakTensor_key (g : Nat) (n : Nat) (i : Nat) (s : State) : (breakTensor g n i s).sec.key = s.sec.key := by unfold breakTensor; (repeat' split) <;> simp
@[simp] theorem applyTensor_key (g : Nat) (n : Nat) (i : Nat) (k : Nat) (qr : List U32) (s : State) : (applyTensor g n i k qr s).sec.key = s.sec.key := by unfold applyTensor; grind (splits := 30) [drawF32_key, ctxWrite_key, stageTensor_key, modTensor_key, breakTensor_key, modStep_key, foldl_key]
@[simp] theorem gotFactor_key (g : Nat) (n : Nat) (i : Nat) (k : Nat) (isQ : Bool) (vals : List U32) (nonFinite : Bool) (s : State) : (gotFactor g n i k isQ vals nonFinite s).sec.key = s.sec.key := by unfold gotFactor; (repeat' split) <;> simp
@[simp] theorem sendBlocks_key (fuel g : Nat) (allGather : Bool) (step seq first origin digest : Nat) (l : List WireBlock) (s : State) : (sendBlocks fuel g allGather step seq first origin digest l s).sec.key = s.sec.key := by
  induction fuel generalizing first l s with
  | zero => exact emit_key ..
  | succ k ih =>
    unfold sendBlocks
    dsimp only
    split
    · exact emit_key ..
    · rw [ih, emit_key]
@[simp] theorem sendOwn_key (g : Nat) (seq : Nat) (s : State) : (sendOwn g seq s).sec.key = s.sec.key := by unfold sendOwn; (repeat' split) <;> simp
@[simp] theorem putFinal_key (g : Nat) (seq : Nat) (first : Nat) (l : List WireBlock) (s : State) : (putFinal g seq first l s).sec.key = s.sec.key := by unfold putFinal; simp
@[simp] theorem ringPacket_key (g : Nat) (x : Group) (b : Bucket) (pk : TunePacket) (s : State) : (ringPacket g x b pk s).sec.key = s.sec.key := by unfold ringPacket; (repeat' split) <;> simp
@[simp] theorem breakOne_key (g : Nat) (seq : Nat) (cause : Nat) (s : State) : (breakOne g seq cause s).sec.key = s.sec.key := by unfold breakOne; (repeat' split) <;> simp
@[simp] theorem breakBucket_key (g : Nat) (seq : Nat) (cause : Nat) (s : State) : (breakBucket g seq cause s).sec.key = s.sec.key := by unfold breakBucket; grind (splits := 30) [breakOne_key, foldl_key]
@[simp] theorem applyBucket_key (g : Nat) (seq : Nat) (s : State) : (applyBucket g seq s).sec.key = s.sec.key := by unfold applyBucket; (repeat' split) <;> simp
@[simp] theorem drainEarly_key (fuel g seq : Nat) (s : State) : (drainEarly fuel g seq s).sec.key = s.sec.key := by
  induction fuel generalizing s with
  | zero => rfl
  | succ k ih =>
    unfold drainEarly
    split
    · split
      · rfl
      · split
        · dsimp only
          split
          · rw [breakBucket_key, modBucket_key]
          · rw [ih, applyBucket_key, ringPacket_key, modBucket_key]
        · rfl
    · rfl
@[simp] theorem closeOpen_key (g : Nat) (s : State) : (closeOpen g s).sec.key = s.sec.key := by unfold closeOpen; dsimp only; (repeat' split) <;> simp
@[simp] theorem openBucket_key (g : Nat) (s : State) : (openBucket g s).sec.key = s.sec.key := by unfold openBucket; (repeat' split) <;> simp
theorem placeFactor_key {g n i atag : Nat} {isQ : Bool} {vals : List U32} {s t : State} (h : placeFactor g n i atag isQ vals s = some t) : t.sec.key = s.sec.key := by
  unfold placeFactor at h
  split at h
  · simp at h
  · dsimp only at h
    split at h
    · split at h
      · simp at h; rw [← h]; simp
      · split at h
        · split at h
          · simp at h; rw [← h]; simp
          · simp at h
        · simp at h
    · split at h
      · simp at h; rw [← h]; simp
      · simp at h
theorem placeNext_key {x : TStep} {s t : State} (h : placeNext x s = some t) : t.sec.key = s.sec.key := by
  unfold placeNext at h
  split at h
  · dsimp only at h
    split at h
    · split at h
      · simp at h; rw [← h]; simp
      · split at h
        · simp at h
        · split at h
          · simp at h; rw [← h]; simp
          · simp only [Option.map_eq_some_iff] at h
            obtain ⟨u, hu, h⟩ := h
            rw [← h, modStep_key, placeFactor_key hu]; simp
    · split at h
      · simp at h; rw [← h]; simp
      · simp at h
    · split at h
      · simp at h; rw [← h]; simp
      · split at h
        · simp at h
        · split at h
          · simp at h; rw [← h]; simp
          · simp only [Option.map_eq_some_iff] at h
            obtain ⟨u, hu, h⟩ := h
            rw [← h, modStep_key, placeFactor_key hu]; simp
    · simp at h
  · simp at h
@[simp] theorem placeAll_key (fuel g : Nat) (s : State) : (placeAll fuel g s).sec.key = s.sec.key := by
  induction fuel generalizing s with
  | zero => rfl
  | succ k ih =>
    unfold placeAll
    split
    · split
      · split
        · rename_i hp
          rw [ih, placeNext_key hp]
        · rfl
      · rfl
    · rfl
@[simp] theorem endDead_key (g : Nat) (s : State) : (endDead g s).sec.key = s.sec.key := by unfold endDead; grind (splits := 30) [modStep_key, breakBucket_key, breakTensor_key, stepFinish_key, commit_key, foldl_key]
@[simp] theorem pumpGroup_key (g : Nat) (s : State) : (pumpGroup g s).sec.key = s.sec.key := by unfold pumpGroup; grind (splits := 30) [endDead_key, drainEarly_key, sendOwn_key, placeAll_key, foldl_key]
@[simp] theorem pumpAll_key (s : State) : (pumpAll s).sec.key = s.sec.key := by unfold pumpAll; simp
@[simp] theorem groupReady_key (g : Nat) (s : State) : (groupReady g s).sec.key = s.sec.key := by unfold groupReady; (repeat' split) <;> simp
@[simp] theorem sayHello_key (g : Nat) (s : State) : (sayHello g s).sec.key = s.sec.key := by unfold sayHello; dsimp only; (repeat' split) <;> simp
@[simp] theorem ringChanged_key (s : State) : (ringChanged s).sec.key = s.sec.key := by unfold ringChanged; simp
@[simp] theorem freeTune_key (c : Nat) (s : State) : (freeTune c s).sec.key = s.sec.key := by unfold freeTune; simp

/-! ### Interrupt -/

@[simp] theorem endEntry_key (cause : Nat) (r : Req) (s : State) : (endEntry cause r s).sec.key = s.sec.key := by unfold endEntry; simp
@[simp] theorem dropProg_key (id : Nat) (s : State) : (dropProg id s).sec.key = s.sec.key := by unfold dropProg; (repeat' split) <;> simp
@[simp] theorem rewindSess_key (blocks : Sess → Nat) (id : Nat) (s : State) : (rewindSess blocks id s).sec.key = s.sec.key := by unfold rewindSess; (repeat' split) <;> simp
@[simp] theorem interruptAgent_key (r : Req) (id : Nat) (x : Sess) (s : State) : (interruptAgent r id x s).sec.key = s.sec.key := by unfold interruptAgent; dsimp only; (repeat' split) <;> simp
@[simp] theorem interruptStep_key (r : Req) (s : State) : (interruptStep r s).sec.key = s.sec.key := by unfold interruptStep; grind (splits := 30) [breakBucket_key, foldl_key]
@[simp] theorem interruptMerge_key (r : Req) (s : State) : (interruptMerge r s).sec.key = s.sec.key := by unfold interruptMerge; simp
@[simp] theorem interruptReq_key (cause : Nat) (r : Req) (s : State) : (interruptReq cause r s).sec.key = s.sec.key := by unfold interruptReq; (repeat' split) <;> simp
@[simp] theorem interruptMbx_key (cause : Nat) (n : Nat) (s : State) : (interruptMbx cause n s).sec.key = s.sec.key := by unfold interruptMbx; simp
@[simp] theorem mailboxReset_key (n : Nat) (s : State) : (mailboxReset n s).sec.key = s.sec.key := by unfold mailboxReset; (repeat' split) <;> simp
@[simp] theorem mailboxResetDone_key (n : Nat) (s : State) : (mailboxResetDone n s).sec.key = s.sec.key := by unfold mailboxResetDone; (repeat' split) <;> simp
@[simp] theorem eventRingReset_key (s : State) : (eventRingReset s).sec.key = s.sec.key := by unfold eventRingReset; (repeat' split) <;> simp

/-! ### Switch -/

@[simp] theorem modCtxs_key (f : Contexts → Contexts) (s : State) : (modCtxs f s).sec.key = s.sec.key := by unfold modCtxs; simp
@[simp] theorem ctxEvent_key (c : Nat) (old : CtxState) (new : CtxState) (cause : Nat) (us : Nat) (s : State) : (ctxEvent c old new cause us s).sec.key = s.sec.key := by unfold ctxEvent; simp
@[simp] theorem setWays_key (s : State) : (setWays s).sec.key = s.sec.key := by unfold setWays; simp
@[simp] theorem setSemResult_key (c : Nat) (h : Nat) (w : U64) (s : State) : (setSemResult c h w s).sec.key = s.sec.key := by unfold setSemResult; simp [*]
@[simp] theorem answerSem_key (c : Nat) (h : Nat) (w : U64) (s : State) : (answerSem c h w s).sec.key = s.sec.key := by unfold answerSem; (repeat' split) <;> simp [*]
@[simp] theorem deliverSems_key (c : Nat) (s : State) : (deliverSems c s).sec.key = s.sec.key := by unfold deliverSems; simp
@[simp] theorem modSem_key (n : Nat) (f : Sem → Sem) (s : State) : (modSem n f s).sec.key = s.sec.key := by unfold modSem; simp
@[simp] theorem passSem_key (n : Nat) (abandoned : Bool) (idle : Sem → Sem) (s : State) : (passSem n abandoned idle s).sec.key = s.sec.key := by unfold passSem; (repeat' split) <;> simp
@[simp] theorem dropWaits_key (sel : Waiter → Bool) (s : State) : (dropWaits sel s).sec.key = s.sec.key := by unfold dropWaits; simp
@[simp] theorem stopPfs_key (cores : List Nat) (s : State) : (stopPfs cores s).sec.key = s.sec.key := by unfold stopPfs; simp
@[simp] theorem clearUnits_key (k : Slot) (s : State) : (clearUnits k s).sec.key = s.sec.key := by unfold clearUnits; grind (splits := 30) [setEng_key, l1Clear_key, dropHarts_key, foldl_key]
@[simp] theorem settleSuspends_key (c : Nat) (s : State) : (settleSuspends c s).sec.key = s.sec.key := by unfold settleSuspends; simp
@[simp] theorem switchOut_key (c : Nat) (cause : Nat) (s : State) : (switchOut c cause s).sec.key = s.sec.key := by unfold switchOut; grind (splits := 30) [drainStores_key, endTjoin_key, cutLinks_key, stopPfs_key, clearUnits_key, modSlot_key, modCtxs_key, settleSuspends_key, setWays_key, ctxEvent_key, foldl_key]
@[simp] theorem discardTask_key (c : Nat) (h : Nat) (v : Hart) (s : State) : (discardTask c h v s).sec.key = s.sec.key := by unfold discardTask; dsimp only; (repeat' split) <;> simp [*]
@[simp] theorem streamResume_key (c : Nat) (rcd : Bytes) (s : State) : (streamResume c rcd s).sec.key = s.sec.key := by unfold streamResume; grind (splits := 30) [ctxWrite_key, spawnResume_key, badResume_key, foldl_key]
@[simp] theorem switchIn_key (c : Nat) (cause : Nat) (us : Nat) (s : State) : (switchIn c cause us s).sec.key = s.sec.key := by unfold switchIn; grind (splits := 30) [discardTask_key, setEng_key, putHart_key, dropHarts_key, modSlot_key, modCtxs_key, raiseEvent_key, resumeLinks_key, deliverSems_key, ctxEvent_key, setWays_key, pumpAll_key, streamResume_key, foldl_key]

/-! ### StoreCmd -/

@[simp] theorem pagesWrite_key (space c : Nat) (l : List (Nat × Nat)) (data : Bytes) (s : State) : (pagesWrite space c l data s).2.sec.key = s.sec.key := by
  induction l generalizing data s with
  | nil => rfl
  | cons a r ih =>
    obtain ⟨a, n⟩ := a
    unfold pagesWrite
    split
    · rfl
    · split
      · split
        · rename_i hw
          rw [ih, ctxWrite_key hw]
        · rfl
        · rfl
      · rw [ih, remoteWrite_key]
@[simp] theorem qpCreate_key (r : Req) (s : State) : (qpCreate r s).sec.key = s.sec.key := by unfold qpCreate; simp
@[simp] theorem deleteQp_key (q : Nat) (rid : Option Nat) (s : State) : (deleteQp q rid s).sec.key = s.sec.key := by unfold deleteQp; simp
@[simp] theorem qpDelete_key (r : Req) (s : State) : (qpDelete r s).sec.key = s.sec.key := by unfold qpDelete; simp
@[simp] theorem qpQuery_key (r : Req) (s : State) : (qpQuery r s).sec.key = s.sec.key := by unfold qpQuery; (repeat' split) <;> simp
@[simp] theorem badDb_key (q : Nat) (which : Nat) (v : Nat) (p : Qp) (s : State) : (badDb q which v p s).sec.key = s.sec.key := by unfold badDb; simp
@[simp] theorem askEntries_key (p : Qp) (old : Nat) (new : Nat) (s : State) : (askEntries p old new s).sec.key = s.sec.key := by unfold askEntries; (repeat' split) <;> simp
@[simp] theorem qpDoorbell_key (q : Nat) (s : State) : (qpDoorbell q s).sec.key = s.sec.key := by unfold qpDoorbell; dsimp only; (repeat' split) <;> simp
@[simp] theorem sqFetch_key (q : Nat) (given : Bytes) (s : State) : (sqFetch q given s).sec.key = s.sec.key := by unfold sqFetch; dsimp only; (repeat' split) <;> simp
@[simp] theorem ioCmd_key (q : Nat) (op : Nat) (f : Qp → Cmd → State → State) (s : State) (hf : ∀ a0 a1 t, (f a0 a1 t).sec.key = t.sec.key) : (ioCmd q op f s).sec.key = s.sec.key := by unfold ioCmd; (repeat' split) <;> simp [*]
@[simp] theorem ioCheck_key (q : Nat) (m : Cmd) (l : List (Bool × Nat)) (ok : State → State) (s : State) (hok : ∀  t, (ok  t).sec.key = t.sec.key) : (ioCheck q m l ok s).sec.key = s.sec.key := by unfold ioCheck; (repeat' split) <;> simp [*]
@[simp] theorem dataCmd_key (q : Nat) (p : Qp) (m : Cmd) (write : Bool) (refused : Bool) (prps : List Nat) (f : Ns → List (Nat × Nat) → State → State) (s : State) (hf : ∀ a0 a1 t, (f a0 a1 t).sec.key = t.sec.key) : (dataCmd q p m write refused prps f s).sec.key = s.sec.key := by unfold dataCmd; grind (splits := 30) [ioCheck_key, foldl_key]
@[simp] theorem waitCmd_key (q : Nat) (seq : Nat) (s : State) : (waitCmd q seq s).sec.key = s.sec.key := by unfold waitCmd; simp
@[simp] theorem queueData_key (q : Nat) (m : Cmd) (us : List BufUnit) (s : State) : (queueData q m us s).sec.key = s.sec.key := by unfold queueData; simp
@[simp] theorem writeCmd_key (q : Nat) (data : Bytes) (refused : Bool) (p : Qp) (m : Cmd) (s : State) : (writeCmd q data refused p m s).sec.key = s.sec.key := by unfold writeCmd; grind (splits := 30) [dataCmd_key, queueData_key, foldl_key]
@[simp] theorem flushCmd_key (q : Nat) (_p : Qp) (m : Cmd) (s : State) : (flushCmd q _p m s).sec.key = s.sec.key := by unfold flushCmd; simp
@[simp] theorem readCmd_key (q : Nat) (prps : List Nat) (refused : Bool) (p : Qp) (m : Cmd) (s : State) : (readCmd q prps refused p m s).sec.key = s.sec.key := by unfold readCmd; grind (splits := 30) [dataCmd_key, finishCmd_key, pagesWrite_key, foldl_key]
@[simp] theorem compareCmd_key (q : Nat) (data : Bytes) (refused : Bool) (p : Qp) (m : Cmd) (s : State) : (compareCmd q data refused p m s).sec.key = s.sec.key := by unfold compareCmd; grind (splits := 30) [dataCmd_key, finishCmd_key, foldl_key]
@[simp] theorem dropDirty_key (idx : Nat) (s : State) : (dropDirty idx s).sec.key = s.sec.key := by unfold dropDirty; (repeat' split) <;> simp
@[simp] theorem deallocate_key (q : Nat) (m : Cmd) (x : Ns) (ranges : List (Nat × Nat)) (s : State) : (deallocate q m x ranges s).sec.key = s.sec.key := by unfold deallocate; dsimp only; (repeat' split) <;> simp
@[simp] theorem zeroesCmd_key (q : Nat) (_p : Qp) (m : Cmd) (s : State) : (zeroesCmd q _p m s).sec.key = s.sec.key := by unfold zeroesCmd; grind (splits := 30) [ioCheck_key, deallocate_key, foldl_key]
@[simp] theorem dsmCmd_key (q : Nat) (data : Bytes) (refused : Bool) (p : Qp) (m : Cmd) (s : State) : (dsmCmd q data refused p m s).sec.key = s.sec.key := by unfold dsmCmd; grind (splits := 30) [ioCheck_key, deallocate_key, finishCmd_key, foldl_key]
@[simp] theorem vendorEnd_key (q : Nat) (m : Cmd) (d0 : Nat) (st : Nat) (s : State) : (vendorEnd q m d0 st s).sec.key = s.sec.key := by unfold vendorEnd; simp
@[simp] theorem vendorWrite_key (q : Nat) (p : Qp) (m : Cmd) (l : List (Nat × Nat)) (data : Bytes) (d0 : Nat) (st : Nat) (s : State) : (vendorWrite q p m l data d0 st s).sec.key = s.sec.key := by unfold vendorWrite; dsimp only; (repeat' split) <;> simp
@[simp] theorem vendorScan_key (q : Nat) (prps : List Nat) (refused : Bool) (p : Qp) (m : Cmd) (s : State) : (vendorScan q prps refused p m s).sec.key = s.sec.key := by unfold vendorScan; grind (splits := 30) [ioCheck_key, vendorEnd_key, vendorWrite_key, foldl_key]
@[simp] theorem vendorSearch_key (q : Nat) (code : Bytes) (prps : List Nat) (refused : Bool) (p : Qp) (m : Cmd) (s : State) : (vendorSearch q code prps refused p m s).sec.key = s.sec.key := by unfold vendorSearch; grind (splits := 30) [ioCheck_key, vendorEnd_key, vendorWrite_key, foldl_key]
@[simp] theorem cqTimeLimit_key (q : Nat) (s : State) : (cqTimeLimit q s).sec.key = s.sec.key := by unfold cqTimeLimit; (repeat' split) <;> simp
@[simp] theorem abortQp_key (q : Nat) (s : State) : (abortQp q s).sec.key = s.sec.key := by unfold abortQp; (repeat' split) <;> simp

/-! ### Flash -/

@[simp] theorem flashEvent_key (code : Nat) (payload : Bytes) (s : State) : (flashEvent code payload s).sec.key = s.sec.key := by unfold flashEvent; simp
@[simp] theorem wearCheck_key (s : State) : (wearCheck s).sec.key = s.sec.key := by unfold wearCheck; grind (splits := 30) [flashEvent_key, modFtl_key, foldl_key]
@[simp] theorem spareCheck_key (s : State) : (spareCheck s).sec.key = s.sec.key := by unfold spareCheck; dsimp only; (repeat' split) <;> simp
@[simp] theorem takeUnit_key (thru : Bool) (cmd : Option (Nat × Nat)) (u : BufUnit) (s : State) : (takeUnit thru cmd u s).sec.key = s.sec.key := by unfold takeUnit; dsimp only; (repeat' split) <;> simp
@[simp] theorem sideAccepted_key (h : Nat) (e : Nat) (s : State) : (sideAccepted h e s).sec.key = s.sec.key := by unfold sideAccepted; simp [*]
@[simp] theorem itemAccepted_key (i : FItem) (s : State) : (itemAccepted i s).sec.key = s.sec.key := by unfold itemAccepted; (repeat' split) <;> simp
@[simp] theorem itemDurable_key (i : FItem) (s : State) : (itemDurable i s).sec.key = s.sec.key := by unfold itemDurable; (repeat' split) <;> simp
@[simp] theorem acceptItems_key (w : FWrite) (s : State) : (acceptItems w s).sec.key = s.sec.key := by unfold acceptItems; simp
@[simp] theorem takeWrite_key (w : FWrite) (s : State) : (takeWrite w s).sec.key = s.sec.key := by unfold takeWrite; dsimp only; (repeat' split) <;> simp
@[simp] theorem writeSegment_key (seg : Nat) (s : State) : (writeSegment seg s).sec.key = s.sec.key := by unfold writeSegment; (repeat' split) <;> simp
@[simp] theorem openSb_key (sb : Nat) (slc : Bool) (pinned : Bool) (s : State) : (openSb sb slc pinned s).sec.key = s.sec.key := by unfold openSb; simp
@[simp] theorem stripeDone_key (sb : Nat) (n : Nat) (s : State) : (stripeDone sb n s).sec.key = s.sec.key := by unfold stripeDone; simp
@[simp] theorem putSlot_key (slot : Nat) (space : Nat) (idx : Nat) (dom : Nat) (item : FItem) (data : Memory) (s : State) : (putSlot slot space idx dom item data s).sec.key = s.sec.key := by unfold putSlot; simp
@[simp] theorem commitMap_key (space : Nat) (idx : Nat) (slot : Nat) (cond : Option Nat) (s : State) : (commitMap space idx slot cond s).sec.key = s.sec.key := by unfold commitMap; (repeat' split) <;> simp
@[simp] theorem commitUnit_key (slot : Nat) (u : BufUnit) (s : State) : (commitUnit slot u s).sec.key = s.sec.key := by unfold commitUnit; (repeat' split) <;> simp
@[simp] theorem afterCommit_key (us : List BufUnit) (s : State) : (afterCommit us s).sec.key = s.sec.key := by unfold afterCommit; simp
@[simp] theorem commitAll_key (l : List (BufUnit × Nat)) (s : State) : (commitAll l s).sec.key = s.sec.key := by unfold commitAll; simp
@[simp] theorem readySb_key (sb : Nat) (pinned : Bool) (moves : Bool) (s : State) : (readySb sb pinned moves s).sec.key = s.sec.key := by unfold readySb; (repeat' split) <;> simp
@[simp] theorem programStripe_key (sb : Nat) (ids : List Nat) (failBlock : Option Nat) (s : State) : (programStripe sb ids failBlock s).sec.key = s.sec.key := by unfold programStripe; dsimp only; (repeat' split) <;> simp
@[simp] theorem moveUnit_key (slot : Nat) (e : Nat × Nat × Nat) (s : State) : (moveUnit slot e s).sec.key = s.sec.key := by unfold moveUnit; (repeat' split) <;> simp
@[simp] theorem copyInto_key (fuel dst : Nat) (l : List (Nat × Nat × Nat)) (s : State) : (copyInto fuel dst l s).sec.key = s.sec.key := by
  induction fuel generalizing l s with
  | zero => unfold copyInto; rfl
  | succ k ih =>
    cases l with
    | nil => rfl
    | cons a r =>
      unfold copyInto
      dsimp only
      split
      · rfl
      · rw [ih]; simp
@[simp] theorem eraseSb_key (sb : Nat) (s : State) : (eraseSb sb s).sec.key = s.sec.key := by unfold eraseSb; simp
@[simp] theorem addCredit_key (n : Nat) (s : State) : (addCredit n s).sec.key = s.sec.key := by unfold addCredit; simp
@[simp] theorem reclaim_key (src : Nat) (dst : Nat) (s : State) : (reclaim src dst s).sec.key = s.sec.key := by unfold reclaim; dsimp only; (repeat' split) <;> simp
@[simp] theorem foldCache_key (s : State) : (foldCache s).sec.key = s.sec.key := by unfold foldCache; (repeat' split) <;> simp
@[simp] theorem collect_key (dst : Nat) (s : State) : (collect dst s).sec.key = s.sec.key := by unfold collect; (repeat' split) <;> simp
@[simp] theorem wearLevel_key (dst : Nat) (s : State) : (wearLevel dst s).sec.key = s.sec.key := by unfold wearLevel; dsimp only; (repeat' split) <;> simp
@[simp] theorem rewriteUnit_key (slot : Nat) (p : SlotPg) (s : State) : (rewriteUnit slot p s).sec.key = s.sec.key := by unfold rewriteUnit; (repeat' split) <;> simp
@[simp] theorem pageGone_key (i : FItem) (s : State) : (pageGone i s).sec.key = s.sec.key := by unfold pageGone; (repeat' split) <;> simp
@[simp] theorem loseUnit_key (slot : Nat) (p : SlotPg) (s : State) : (loseUnit slot p s).sec.key = s.sec.key := by unfold loseUnit; dsimp only; (repeat' split) <;> simp
@[simp] theorem keepRetry_key (slot : Nat) (s : State) : (keepRetry slot s).sec.key = s.sec.key := by unfold keepRetry; simp
@[simp] theorem readSlot_key (slot : Nat) (step : Nat) (s : State) : (readSlot slot step s).sec.key = s.sec.key := by unfold readSlot; (repeat' split) <;> simp
@[simp] theorem flashSample_key (slot : Nat) (s : State) : (flashSample slot s).sec.key = s.sec.key := by unfold flashSample; (repeat' split) <;> simp
@[simp] theorem scanMedia_key (blocks : List Nat) (s : State) : (scanMedia blocks s).sec.key = s.sec.key := by unfold scanMedia; grind (splits := 30) [modFtl_key, foldl_key]
@[simp] theorem dieEvent_key (ch : Nat) (d : Nat) (what : Nat) (s : State) : (dieEvent ch d what s).sec.key = s.sec.key := by unfold dieEvent; simp
@[simp] theorem failDie_key (ch : Nat) (d : Nat) (s : State) : (failDie ch d s).sec.key = s.sec.key := by unfold failDie; grind (splits := 30) [modFtl_key, modCnt_key, dieEvent_key, spareCheck_key, capsChanged_key, pageGone_key, foldl_key]
@[simp] theorem countRetired_key (die : Nat) (s : State) : (countRetired die s).sec.key = s.sec.key := by unfold countRetired; dsimp only; (repeat' split) <;> simp
@[simp] theorem retireBlock_key (b : Nat) (cause : Nat) (s : State) : (retireBlock b cause s).sec.key = s.sec.key := by unfold retireBlock; (repeat' split) <;> simp
@[simp] theorem dieRebuilt_key (ch : Nat) (d : Nat) (s : State) : (dieRebuilt ch d s).sec.key = s.sec.key := by unfold dieRebuilt; dsimp only; (repeat' split) <;> simp
@[simp] theorem setLimit_key (u : Nat) (s : State) : (setLimit u s).sec.key = s.sec.key := by unfold setLimit; dsimp only; (repeat' split) <;> simp
@[simp] theorem putRecord_key (cause : Nat) (complete : Bool) (us : List BufUnit) (deltas : Nat) (s : State) : (putRecord cause complete us deltas s).sec.key = s.sec.key := by unfold putRecord; simp
@[simp] theorem flushJournal_key (complete : Bool) (s : State) : (flushJournal complete s).sec.key = s.sec.key := by unfold flushJournal; (repeat' split) <;> simp
@[simp] theorem flushSteps_key (cause : Nat) (complete : Bool) (s : State) : (flushSteps cause complete s).sec.key = s.sec.key := by unfold flushSteps; (repeat' split) <;> simp
@[simp] theorem restoreFlush_key (s : State) : (restoreFlush s).sec.key = s.sec.key := by unfold restoreFlush; dsimp only; (repeat' split) <;> simp

/-! ### StoreAdmin -/

@[simp] theorem adminCheck_key (r : Req) (l : List (Bool × Nat)) (ok : State → State) (s : State) (hok : ∀  t, (ok  t).sec.key = t.sec.key) : (adminCheck r l ok s).sec.key = s.sec.key := by unfold adminCheck; (repeat' split) <;> simp [*]
@[simp] theorem adminData_key (r : Req) (data : Bytes) (prps : List Nat) (s : State) : (adminData r data prps s).sec.key = s.sec.key := by unfold adminData; dsimp only; (repeat' split) <;> simp
@[simp] theorem identifyBody_key (prps : List Nat) (refused : Bool) (r : Req) (s : State) : (identifyBody prps refused r s).sec.key = s.sec.key := by unfold identifyBody; simp
@[simp] theorem logBody_key (prps : List Nat) (refused : Bool) (r : Req) (s : State) : (logBody prps refused r s).sec.key = s.sec.key := by unfold logBody; dsimp only; (repeat' split) <;> simp
@[simp] theorem setFeatBody_key (r : Req) (s : State) : (setFeatBody r s).sec.key = s.sec.key := by unfold setFeatBody; simp
@[simp] theorem getFeatBody_key (r : Req) (s : State) : (getFeatBody r s).sec.key = s.sec.key := by unfold getFeatBody; simp
@[simp] theorem createNs_key (d : Bytes) (r : Req) (s : State) : (createNs d r s).sec.key = s.sec.key := by unfold createNs; dsimp only; (repeat' split) <;> simp
@[simp] theorem deleteNs_key (r : Req) (s : State) : (deleteNs r s).sec.key = s.sec.key := by unfold deleteNs; dsimp only; (repeat' split) <;> simp
@[simp] theorem mgmtBody_key (data : Bytes) (refused : Bool) (r : Req) (s : State) : (mgmtBody data refused r s).sec.key = s.sec.key := by unfold mgmtBody; dsimp only; (repeat' split) <;> simp
@[simp] theorem attachBody_key (data : Bytes) (refused : Bool) (r : Req) (s : State) : (attachBody data refused r s).sec.key = s.sec.key := by unfold attachBody; dsimp only; (repeat' split) <;> simp
@[simp] theorem sanitizeBody_key (r : Req) (s : State) : (sanitizeBody r s).sec.key = s.sec.key := by unfold sanitizeBody; grind (splits := 30) [adminCheck_key, setRunning_key, modStore_key, foldl_key]
@[simp] theorem wipeFlash_key (s : State) : (wipeFlash s).sec.key = s.sec.key := by unfold wipeFlash; simp
@[simp] theorem eraseAll_key (s : State) : (eraseAll s).sec.key = s.sec.key := by unfold eraseAll; simp
@[simp] theorem sanitizeDone_key (s : State) : (sanitizeDone s).sec.key = s.sec.key := by unfold sanitizeDone; dsimp only; (repeat' split) <;> simp
@[simp] theorem serveAdmin_key (rid : Nat) (sel : Bytes → Bool) (f : Req → State → State) (s : State) (hf : ∀ a0 t, (f a0 t).sec.key = t.sec.key) : (serveAdmin rid sel f s).sec.key = s.sec.key := by unfold serveAdmin; grind (splits := 30) [serve_key, fail_key, foldl_key]
@[simp] theorem adminAny_key (data : Bytes) (prps : List Nat) (refused : Bool) (r : Req) (s : State) : (adminAny data prps refused r s).sec.key = s.sec.key := by unfold adminAny; (repeat' split) <;> simp
@[simp] theorem keepAliveExpired_key (c : Nat) (s : State) : (keepAliveExpired c s).sec.key = s.sec.key := by unfold keepAliveExpired; dsimp only; (repeat' split) <;> simp

/-! ### Contexts -/

@[simp] theorem resetPages_key (c : Nat) (s : State) : (resetPages c s).sec.key = s.sec.key := by unfold resetPages; simp
@[simp] theorem allocSlot_key (c : Nat) (p : Bytes) (s : State) : (allocSlot c p s).sec.key = s.sec.key := by unfold allocSlot; (repeat' split) <;> simp
@[simp] theorem ctxAllocBody_key (r : Req) (s : State) : (ctxAllocBody r s).sec.key = s.sec.key := by unfold ctxAllocBody; simp
@[simp] theorem configSlot_key (c : Nat) (n : CtxCfg) (k : Slot) (s : State) : (configSlot c n k s).sec.key = s.sec.key := by unfold configSlot; simp
@[simp] theorem ctxConfigBody_key (r : Req) (s : State) : (ctxConfigBody r s).sec.key = s.sec.key := by unfold ctxConfigBody; dsimp only; (repeat' split) <;> simp
@[simp] theorem freeSem_key (n : Nat) (s : State) : (freeSem n s).sec.key = s.sec.key := by unfold freeSem; (repeat' split) <;> simp
@[simp] theorem abandonSem_key (n : Nat) (s : State) : (abandonSem n s).sec.key = s.sec.key := by unfold abandonSem; simp
@[simp] theorem freeCtxSems_key (c : Nat) (s : State) : (freeCtxSems c s).sec.key = s.sec.key := by unfold freeCtxSems; simp
@[simp] theorem freeCtxWork_key (c : Nat) (s : State) : (freeCtxWork c s).sec.key = s.sec.key := by unfold freeCtxWork; simp
@[simp] theorem freeCtxTasks_key (c : Nat) (s : State) : (freeCtxTasks c s).sec.key = s.sec.key := by unfold freeCtxTasks; simp
@[simp] theorem discardUnits_key (c : Nat) (s : State) : (discardUnits c s).sec.key = s.sec.key := by unfold discardUnits; (repeat' split) <;> simp
@[simp] theorem freeCtx_key (cause : Nat) (c : Nat) (s : State) : (freeCtx cause c s).sec.key = s.sec.key := by unfold freeCtx; (repeat' split) <;> simp
@[simp] theorem ctxFreeBody_key (r : Req) (s : State) : (ctxFreeBody r s).sec.key = s.sec.key := by unfold ctxFreeBody; simp
@[simp] theorem ctxQueryBody_key (r : Req) (s : State) : (ctxQueryBody r s).sec.key = s.sec.key := by unfold ctxQueryBody; simp
@[simp] theorem ctxSuspendBody_key (r : Req) (s : State) : (ctxSuspendBody r s).sec.key = s.sec.key := by unfold ctxSuspendBody; grind (splits := 30) [checked_key, modSlot_key, setRunning_key, complete_key, foldl_key]
@[simp] theorem ctxResumeBody_key (r : Req) (s : State) : (ctxResumeBody r s).sec.key = s.sec.key := by unfold ctxResumeBody; simp
@[simp] theorem schedSetBody_key (r : Req) (s : State) : (schedSetBody r s).sec.key = s.sec.key := by unfold schedSetBody; simp
@[simp] theorem semAllocBody_key (r : Req) (s : State) : (semAllocBody r s).sec.key = s.sec.key := by unfold semAllocBody; simp
@[simp] theorem semFreeBody_key (r : Req) (s : State) : (semFreeBody r s).sec.key = s.sec.key := by unfold semFreeBody; simp
@[simp] theorem onSem_key (h : Nat) (n : Nat) (f : Nat → Sem → State → State) (s : State) (hf : ∀ a0 a1 t, (f a0 a1 t).sec.key = t.sec.key) : (onSem h n f s).sec.key = s.sec.key := by unfold onSem; grind (splits := 30) [onHart_key, setSemResult_key, foldl_key]
@[simp] theorem takeSem_key (c : Nat) (h : Nat) (n : Nat) (m : Sem) (s : State) : (takeSem c h n m s).sec.key = s.sec.key := by unfold takeSem; simp [*]
@[simp] theorem acquireSem_key (h : Nat) (n : Nat) (timeout : Nat) (rid : Option Nat) (c : Nat) (m : Sem) (s : State) : (acquireSem h n timeout rid c m s).sec.key = s.sec.key := by unfold acquireSem; (repeat' split) <;> simp [*]
@[simp] theorem trySem_key (h : Nat) (n : Nat) (c : Nat) (m : Sem) (s : State) : (trySem h n c m s).sec.key = s.sec.key := by unfold trySem; (repeat' split) <;> simp [*]
@[simp] theorem releaseSem_key (h : Nat) (n : Nat) (c : Nat) (m : Sem) (s : State) : (releaseSem h n c m s).sec.key = s.sec.key := by unfold releaseSem; dsimp only; (repeat' split) <;> simp [*]
@[simp] theorem semTimeoutAt_key (h : Nat) (n : Nat) (s : State) : (semTimeoutAt h n s).sec.key = s.sec.key := by unfold semTimeoutAt; (repeat' split) <;> simp [*]
@[simp] theorem observeWork_key (c : Nat) (s : State) : (observeWork c s).sec.key = s.sec.key := by unfold observeWork; (repeat' split) <;> simp
@[simp] theorem doSwitch_key (out : List Nat) (inn : Option Nat) (us : Nat) (s : State) : (doSwitch out inn us s).sec.key = s.sec.key := by unfold doSwitch; (repeat' split) <;> simp
@[simp] theorem tellStarved_key (n : Nat) (d : Nat) (c : Nat) (s : State) : (tellStarved n d c s).sec.key = s.sec.key := by unfold tellStarved; simp
@[simp] theorem donateTo_key (w : Nat) (d : Nat) (n : Nat) (s : State) : (donateTo w d n s).sec.key = s.sec.key := by unfold donateTo; (repeat' split) <;> simp
@[simp] theorem donatedRun_key (h : Nat) (n : Nat) (s : State) : (donatedRun h n s).sec.key = s.sec.key := by unfold donatedRun; dsimp only; (repeat' split) <;> simp [*]
@[simp] theorem starveReqs_key (n : Nat) (m : Sem) (s : State) : (starveReqs n m s).sec.key = s.sec.key := by unfold starveReqs; grind (splits := 30) [fail_key, answerSem_key, modSem_key, foldl_key]
@[simp] theorem holderStarved_key (n : Nat) (s : State) : (holderStarved n s).sec.key = s.sec.key := by unfold holderStarved; (repeat' split) <;> simp [*]

/-! ### PowerOps -/

@[simp] theorem modPwr_key (f : Power → Power) (s : State) : (modPwr f s).sec.key = s.sec.key := by unfold modPwr; simp
@[simp] theorem measure_key (s : State) : (measure s).sec.key = s.sec.key := by unfold measure; simp
@[simp] theorem syncAlert_key (limit : Bool) (s : State) : (syncAlert limit s).sec.key = s.sec.key := by unfold syncAlert; dsimp only; (repeat' split) <;> simp
@[simp] theorem alertBit_key (b : Nat) (limit : Bool) (s : State) : (alertBit b limit s).sec.key = s.sec.key := by unfold alertBit; simp
@[simp] theorem standingAlerts_key (s : State) : (standingAlerts s).sec.key = s.sec.key := by unfold standingAlerts; dsimp only; (repeat' split) <;> simp
@[simp] theorem powerEvent_key (code : Nat) (payload : Bytes) (s : State) : (powerEvent code payload s).sec.key = s.sec.key := by unfold powerEvent; simp
@[simp] theorem applyKhz_key (d : Nat) (s : State) : (applyKhz d s).sec.key = s.sec.key := by unfold applyKhz; simp

/-! ### Security -/

@[simp] theorem modSec_key (f : Sec → Sec) (s : State) : (modSec f s).sec = f s.sec := rfl
@[simp] theorem secEvent_key (code : Nat) (ctx : Nat) (payload : Bytes) (s : State) : (secEvent code ctx payload s).sec.key = s.sec.key := by unfold secEvent; simp
@[simp] theorem destroyDataKeys_key (s : State) : (destroyDataKeys s).sec.key = s.sec.key := by
  unfold destroyDataKeys; simp
@[simp] theorem withdrawKeys_key (s : State) : (withdrawKeys s).sec.key = s.sec.key := rfl
@[simp] theorem keysFor_key (mask : Nat) (s : State) : (keysFor mask s).sec.key = s.sec.key := by unfold keysFor; (repeat' split) <;> simp
@[simp] theorem modSpdm_key (p : Nat) (f : Spdm → Spdm) (s : State) : (modSpdm p f s).sec.key = s.sec.key := rfl
@[simp] theorem onSpdm_key (p : Nat) (f : State → State) (s : State) (hf : ∀  t, (f  t).sec.key = t.sec.key) : (onSpdm p f s).sec.key = s.sec.key := by unfold onSpdm; (repeat' split) <;> simp [*]
@[simp] theorem spdmReply_key (p : Nat) (code : Nat) (payload : Bytes) (s : State) : (spdmReply p code payload s).sec.key = s.sec.key := by unfold spdmReply; simp
@[simp] theorem spdmError_key (p : Nat) (e : Nat) (s : State) : (spdmError p e s).sec.key = s.sec.key := by unfold spdmError; simp
@[simp] theorem spdmFree_key (p : Nat) (code : Nat) (n : Nat) (s : State) : (spdmFree p code n s).sec.key = s.sec.key := by unfold spdmFree; simp
@[simp] theorem useLeaf_key (s : State) : (useLeaf s).sec.key = s.sec.key := by unfold useLeaf; dsimp only; (repeat' split) <;> simp
@[simp] theorem spdmSigned_key (p : Nat) (f : State → State) (s : State) (hf : ∀  t, (f  t).sec.key = t.sec.key) : (spdmSigned p f s).sec.key = s.sec.key := by unfold spdmSigned; (repeat' split) <;> simp [*]
@[simp] theorem getVersion_key (p : Nat) (s : State) : (getVersion p s).sec.key = s.sec.key := by unfold getVersion; simp
@[simp] theorem afterStep_key (p : Nat) (ok : Bool) (f : State → State) (s : State) (hf : ∀  t, (f  t).sec.key = t.sec.key) : (afterStep p ok f s).sec.key = s.sec.key := by unfold afterStep; (repeat' split) <;> simp [*]
@[simp] theorem getCapabilities_key (p : Nat) (s : State) : (getCapabilities p s).sec.key = s.sec.key := by unfold getCapabilities; simp
@[simp] theorem negotiateAlgorithms_key (p : Nat) (s : State) : (negotiateAlgorithms p s).sec.key = s.sec.key := by unfold negotiateAlgorithms; simp
@[simp] theorem getDigests_key (p : Nat) (s : State) : (getDigests p s).sec.key = s.sec.key := by unfold getDigests; grind (splits := 30) [afterStep_key, spdmError_key, spdmFree_key, foldl_key]
@[simp] theorem getCertificate_key (p : Nat) (s : State) : (getCertificate p s).sec.key = s.sec.key := by unfold getCertificate; grind (splits := 30) [afterStep_key, spdmError_key, spdmFree_key, bumpFree_key, foldl_key]
@[simp] theorem challenge_key (p : Nat) (torn : Bool) (s : State) : (challenge p torn s).sec.key = s.sec.key := by unfold challenge; (repeat' split) <;> simp
@[simp] theorem getMeasurements_key (p : Nat) (index : Nat) (sig : Bool) (s : State) : (getMeasurements p index sig s).sec.key = s.sec.key := by unfold getMeasurements; (repeat' split) <;> simp
@[simp] theorem installKeys_key (p : Nat) (s : State) : (installKeys p s).sec.key = s.sec.key := by unfold installKeys; simp
@[simp] theorem modDom_key (k : Nat) (f : KeyDom → KeyDom) (s : State) : (modDom k f s).sec.key = s.sec.key := rfl
@[simp] theorem secInfoBody_key (r : Req) (s : State) : (secInfoBody r s).sec.key = s.sec.key := by unfold secInfoBody; simp
@[simp] theorem disarmAll_key (s : State) : (disarmAll s).sec.key = s.sec.key := by unfold disarmAll; simp
@[simp] theorem rotateBody_key (r : Req) (s : State) : (rotateBody r s).sec.key = s.sec.key := by unfold rotateBody; simp
@[simp] theorem fkeyStatusBody_key (r : Req) (s : State) : (fkeyStatusBody r s).sec.key = s.sec.key := by unfold fkeyStatusBody; simp
@[simp] theorem nonceBody_key (r : Req) (s : State) : (nonceBody r s).sec.key = s.sec.key := by
  unfold nonceBody
  apply checked_key
  intro t
  simp
@[simp] theorem withToken_key  (magic : String) (r : Req) (given : Bytes) (sigOk : Bool) (ok : Bytes → State → State) (s : State) (h : ∀ a t, (ok a t).sec.key = t.sec.key) :
   (withToken magic r given sigOk ok s).sec.key = s.sec.key := by
  unfold withToken
  dsimp only
  split
  · simp
  · rename_i hr
    split <;> simp [h, refRead_key hr]
@[simp] theorem queueMove_key (s : State) (e : Nat × SlotPg) : (queueMove s e).sec.key = s.sec.key := by unfold queueMove; (repeat' split) <;> simp
@[simp] theorem walkerPass_key (ns : Bool) (id : Nat) (s : State) : (walkerPass ns id s).sec.key = s.sec.key := by unfold walkerPass; dsimp only; (repeat' split) <;> simp
@[simp] theorem bootTamper_key (s : State) : (bootTamper s).sec.key = s.sec.key := by unfold bootTamper; (repeat' split) <;> simp
@[simp] theorem scrubCtx_key (s : State) (c : Nat) : (scrubCtx s c).sec.key = s.sec.key := by unfold scrubCtx; simp
@[simp] theorem startScrub_key (s : State) : (startScrub s).sec.key = s.sec.key := by unfold startScrub; (repeat' split) <;> simp

/-! ### Mailbox -/

@[simp] theorem causeWrite_key (v : U32) (s : State) : (causeWrite v s).sec.key = s.sec.key := by unfold causeWrite; simp
@[simp] theorem ringSizeWrite_key (v : U32) (s : State) : (ringSizeWrite v s).sec.key = s.sec.key := by unfold ringSizeWrite; dsimp only; (repeat' split) <;> simp
@[simp] theorem ringConsWrite_key (v : U32) (s : State) : (ringConsWrite v s).sec.key = s.sec.key := by unfold ringConsWrite; dsimp only; (repeat' split) <;> simp
@[simp] theorem badDoorbell_key (n : Nat) (s : State) : (badDoorbell n s).sec.key = s.sec.key := by unfold badDoorbell; simp
@[simp] theorem doorbell_key (n : Nat) (v : U32) (s : State) : (doorbell n v s).sec.key = s.sec.key := by unfold doorbell; (repeat' split) <;> simp
@[simp] theorem mbxStatRead_key (n : Nat) (h : Half) (s : State) : (mbxStatRead n h s).sec.key = s.sec.key := by unfold mbxStatRead; (repeat' split) <;> simp [*]
@[simp] theorem linkStatRead_key (p : Nat) (s : State) : (linkStatRead p s).sec.key = s.sec.key := by unfold linkStatRead; simp
@[simp] theorem keepAlive_key (r : Req) (s : State) : (keepAlive r s).sec.key = s.sec.key := by unfold keepAlive; (repeat' split) <;> simp
@[simp] theorem acceptRequest_key (n : Nat) (ue : Option Bool) (s : State) : (acceptRequest n ue s).sec.key = s.sec.key := by unfold acceptRequest; dsimp only; (repeat' split) <;> simp
@[simp] theorem lateCompletion_key (r : Req) (st : Nat) (s : State) : (lateCompletion r st s).sec.key = s.sec.key := by unfold lateCompletion; simp
@[simp] theorem replyReq_key (rid : Nat) (s : State) : (replyReq rid s).sec.key = s.sec.key := by unfold replyReq; (repeat' split) <;> simp
@[simp] theorem timeoutReq_key (rid : Nat) (s : State) : (timeoutReq rid s).sec.key = s.sec.key := by unfold timeoutReq; (repeat' split) <;> simp

/-! ### Power -/

@[simp] theorem modFeed_key (f : Nat) (g : Feed → Feed) (s : State) : (modFeed f g s).sec.key = s.sec.key := by unfold modFeed; simp
@[simp] theorem loseFeed_key (f : Nat) (cause : Nat) (s : State) : (loseFeed f cause s).sec.key = s.sec.key := by unfold loseFeed; (repeat' split) <;> simp
@[simp] theorem restoreFeed_key (f : Nat) (s : State) : (restoreFeed f s).sec.key = s.sec.key := by unfold restoreFeed; (repeat' split) <;> simp
@[simp] theorem tripFuse_key (f : Nat) (current : Bool) (s : State) : (tripFuse f current s).sec.key = s.sec.key := by unfold tripFuse; (repeat' split) <;> simp
@[simp] theorem darkPort_key (s : State) (p : Nat) : (darkPort s p).sec.key = s.sec.key := by unfold darkPort; simp
@[simp] theorem enterAbseil_key (s : State) : (enterAbseil s).sec.key = s.sec.key := by unfold enterAbseil; simp
@[simp] theorem powerOff_key (s : State) : (powerOff s).sec.key = s.sec.key := by unfold powerOff; simp
@[simp] theorem takeover_key (s : State) : (takeover s).sec.key = s.sec.key := by unfold takeover; (repeat' split) <;> simp
@[simp] theorem powerQueryBody_key (r : Req) (s : State) : (powerQueryBody r s).sec.key = s.sec.key := by unfold powerQueryBody; simp
@[simp] theorem syncWorking_key (s : State) : (syncWorking s).sec.key = s.sec.key := by unfold syncWorking; (repeat' split) <;> simp
@[simp] theorem setCapBody_key (r : Req) (s : State) : (setCapBody r s).sec.key = s.sec.key := by unfold setCapBody; simp
@[simp] theorem bivRoom_key (fuel : Nat) (s : State) : (bivRoom fuel s).sec.key = s.sec.key := by
  induction fuel generalizing s with
  | zero => rfl
  | succ k ih =>
    unfold bivRoom
    split
    · rfl
    · split
      · rw [ih, modPage_key]
      · rfl
@[simp] theorem bivFlush_key (s : State) : (bivFlush s).sec.key = s.sec.key := by unfold bivFlush; simp
@[simp] theorem lowRate_key (s : State) (p : Nat) : (lowRate s p).sec.key = s.sec.key := by unfold lowRate; (repeat' split) <;> simp
@[simp] theorem enterBivouac_key (rid : Nat) (s : State) : (enterBivouac rid s).sec.key = s.sec.key := by unfold enterBivouac; grind (splits := 30) [replyReq_key, complete_key, switchOut_key, bivRoom_key, bivFlush_key, lowRate_key, announced_key, modPwr_key, powerDomains_key, foldl_key]
@[simp] theorem enterIdle_key (s : State) : (enterIdle s).sec.key = s.sec.key := by unfold enterIdle; grind (splits := 30) [announced_key, modPwr_key, foldl_key]
@[simp] theorem capMissed_key (w : Nat) (s : State) : (capMissed w s).sec.key = s.sec.key := by unfold capMissed; (repeat' split) <;> simp
@[simp] theorem syncThrottled_key (u : Nat) (s : State) : (syncThrottled u s).sec.key = s.sec.key := by unfold syncThrottled; simp
@[simp] theorem throttleEvent_key (d : Nat) (on : Bool) (s : State) : (throttleEvent d on s).sec.key = s.sec.key := by unfold throttleEvent; simp
@[simp] theorem throttleDown_key (s : State) (d : Nat) : (throttleDown s d).sec.key = s.sec.key := by unfold throttleDown; (repeat' split) <;> simp
@[simp] theorem throttleUp_key (s : State) (d : Nat) : (throttleUp s d).sec.key = s.sec.key := by unfold throttleUp; (repeat' split) <;> simp
@[simp] theorem throttleUnit_key (u : Nat) (up : Bool) (s : State) : (throttleUnit u up s).sec.key = s.sec.key := by unfold throttleUnit; (repeat' split) <;> simp
@[simp] theorem coolantWarn_key (start : Bool) (s : State) : (coolantWarn start s).sec.key = s.sec.key := by unfold coolantWarn; (repeat' split) <;> simp
@[simp] theorem emergencyEdge_key (start : Bool) (s : State) : (emergencyEdge start s).sec.key = s.sec.key := by unfold emergencyEdge; (repeat' split) <;> simp
@[simp] theorem takeU_key (cUf : Nat) (reached : Bool) (s : State) : (takeU cUf reached s).sec.key = s.sec.key := by unfold takeU; dsimp only; (repeat' split) <;> simp
@[simp] theorem alertStatWrite_key (v : U16) (s : State) : (alertStatWrite v s).sec.key = s.sec.key := by unfold alertStatWrite; (repeat' split) <;> simp

/-! ### MemorySvc -/

@[simp] theorem onObj_key (r : Req) (errs : List (Bool × Nat)) (late : Obj → List (Bool × Nat)) (f : Nat → Obj → State → State) (s : State) (hf : ∀ a0 a1 t, (f a0 a1 t).sec.key = t.sec.key) : (onObj r errs late f s).sec.key = s.sec.key := by unfold onObj; dsimp only; (repeat' split) <;> simp [*]
@[simp] theorem allocBody_key (r : Req) (s : State) : (allocBody r s).sec.key = s.sec.key := by
  unfold allocBody
  dsimp only
  rw [checked_key]
  intro t
  show (complete _ _ _ (newObj _ _ _ _ _ (newPages _ _ t).2).2).sec.key = t.sec.key
  rw [complete_key, newObj_key, newPages_key]
@[simp] theorem sealBody_key (h : Nat) (r : Req) (o : Obj) (s : State) : (sealBody h r o s).sec.key = s.sec.key := by unfold sealBody; dsimp only; (repeat' split) <;> simp [*]
@[simp] theorem cloneBody_key (r : Req) (o : Obj) (s : State) : (cloneBody r o s).sec.key = s.sec.key := by unfold cloneBody; grind (splits := 30) [modPage_key, newObj_key, complete_key, foldl_key]
@[simp] theorem placeBody_key (h : Nat) (r : Req) (o : Obj) (s : State) : (placeBody h r o s).sec.key = s.sec.key := by unfold placeBody; grind (splits := 30) [modObj_key, applyPlace_key, commit_key, fail_key, complete_key, setRunning_key, foldl_key]
@[simp] theorem sealWrites_key (rid : Nat) (l : List (Nat × Bytes)) (s : State) : (sealWrites rid l s).sec.key = s.sec.key := by
  unfold sealWrites
  split
  · rfl
  · split
    · rfl
    · refine foldl_key _ (fun t e => ?_) l s
      split
      · cases h : ctxWrite _ e.1 e.2 t with
        | ok u => exact ctxWrite_key h
        | xlate => rfl
        | lost => rfl
      · rfl
@[simp] theorem placeReads_key (fl : Nat) (o : Obj) (l : List (Nat × Nat)) (s : State) : (placeReads fl o l s).sec.key = s.sec.key := by
  unfold placeReads
  split
  · rfl
  · refine foldl_key _ (fun t e => ?_) l s
    (repeat' split) <;> simp
@[simp] theorem shrinkT1_key (fuel c : Nat) (s : State) : (shrinkT1 fuel c s).sec.key = s.sec.key := by
  induction fuel generalizing s with
  | zero => rfl
  | succ k ih =>
    unfold shrinkT1
    dsimp only
    split
    · rfl
    · split
      · split
        · rfl
        · rw [ih, demotePage_key]
      · rfl
@[simp] theorem quotaBody_key (r : Req) (s : State) : (quotaBody r s).sec.key = s.sec.key := by unfold quotaBody; simp
@[simp] theorem migCfgBody_key (r : Req) (s : State) : (migCfgBody r s).sec.key = s.sec.key := by unfold migCfgBody; simp
@[simp] theorem fillEvent_key (c : Nat) (va : Nat) (ok : Bool) (s : State) : (fillEvent c va ok s).sec.key = s.sec.key := by unfold fillEvent; (repeat' split) <;> simp
@[simp] theorem epochEnd_key (s : State) : (epochEnd s).sec.key = s.sec.key := by unfold epochEnd; (repeat' split) <;> simp
@[simp] theorem pageMoveBody_key (pid : Nat) (s : State) : (pageMoveBody pid s).sec.key = s.sec.key := by unfold pageMoveBody; (repeat' split) <;> simp

/-! ### Ecc -/

@[simp] theorem countCorrection_key (k : Nat) (a : Nat) (s : State) : (countCorrection k a s).sec.key = s.sec.key := by unfold countCorrection; simp
@[simp] theorem recoverPage_key (k : Nat) (pid : Nat) (s : State) : (recoverPage k pid s).sec.key = s.sec.key := by unfold recoverPage; dsimp only; (repeat' split) <;> simp
@[simp] theorem storePoison_key (k : Nat) (a : Nat) (s : State) : (storePoison k a s).sec.key = s.sec.key := by unfold storePoison; simp
@[simp] theorem loseLine_key (pid : Nat) (line : Nat) (s : State) : (loseLine pid line s).sec.key = s.sec.key := by unfold loseLine; (repeat' split) <;> simp
@[simp] theorem cacheUe_key (k : Nat) (a : Nat) (s : State) : (cacheUe k a s).sec.key = s.sec.key := by unfold cacheUe; dsimp only; (repeat' split) <;> simp
@[simp] theorem uncorrectable_key (k : Nat) (a : Nat) (how : Nat) (s : State) : (uncorrectable k a how s).sec.key = s.sec.key := by unfold uncorrectable; dsimp only; (repeat' split) <;> simp [*]
@[simp] theorem eccRead_key (k : Nat) (a : Nat) (how : Nat) (met : Nat) (s : State) : (eccRead k a how met s).sec.key = s.sec.key := by unfold eccRead; (repeat' split) <;> simp [*]
@[simp] theorem failElement_key (k : Nat) (e : Option Nat) (s : State) : (failElement k e s).sec.key = s.sec.key := by unfold failElement; (repeat' split) <;> simp
@[simp] theorem latencySample_key (k : Nat) (s : State) : (latencySample k s).sec.key = s.sec.key := by unfold latencySample; (repeat' split) <;> simp
@[simp] theorem remapFull_key (k : Nat) (a : Nat) (s : State) : (remapFull k a s).sec.key = s.sec.key := by unfold remapFull; (repeat' split) <;> simp
@[simp] theorem installRemap_key (k : Nat) (a : Nat) (s : State) : (installRemap k a s).sec.key = s.sec.key := by unfold installRemap; dsimp only; (repeat' split) <;> simp
@[simp] theorem leaveFrame_key (t2 : Bool) (pid : Nat) (s : State) : (leaveFrame t2 pid s).sec.key = s.sec.key := by unfold leaveFrame; dsimp only; (repeat' split) <;> simp
@[simp] theorem retireFrame_key (t2 : Bool) (f : Nat) (s : State) : (retireFrame t2 f s).sec.key = s.sec.key := by unfold retireFrame; dsimp only; (repeat' split) <;> simp
@[simp] theorem losePackage_key (p : Nat) (s : State) : (losePackage p s).sec.key = s.sec.key := by unfold losePackage; simp
@[simp] theorem flipCtrlWrite_key (k : Nat) (v : U32) (s : State) : (flipCtrlWrite k v s).sec.key = s.sec.key := by unfold flipCtrlWrite; (repeat' split) <;> simp
@[simp] theorem applyFlip_key (k : Nat) (a : Nat) (s : State) : (applyFlip k a s).sec.key = s.sec.key := by unfold applyFlip; dsimp only; (repeat' split) <;> simp

/-! ### Hidden -/

@[simp] theorem takeUnits_key (old : State) (c : Nat) (s : State) : (takeUnits old c s).sec.key = s.sec.key := by unfold takeUnits; grind (splits := 30) [setEng_key, l1Clear_key, dropHarts_key, modSlot_key, foldl_key]
@[simp] theorem withSeats_key (f : State → State) (s : State) (hf : ∀  t, (f  t).sec.key = t.sec.key) : (withSeats f s).sec.key = s.sec.key := by unfold withSeats; simp [*]
@[simp] theorem moveWait_key (c : Nat) (h : Nat) (n : Nat) (s : State) : (moveWait c h n s).sec.key = s.sec.key := by unfold moveWait; simp [*]
@[simp] theorem moveHart_key (h : Nat) (v : Hart) (c : Nat) (s : State) : (moveHart h v c s).sec.key = s.sec.key := by unfold moveHart; (repeat' split) <;> simp [*]
@[simp] theorem replaceTasks_key (d : Nat) (ps : List Nat) (s : State) : (replaceTasks d ps s).sec.key = s.sec.key := by unfold replaceTasks; grind (splits := 30) [enqueue_key, foldl_key]
@[simp] theorem dropQueues_key (isReady : Nat → Bool) (isDeque : Nat → Bool) (s : State) : (dropQueues isReady isDeque s).2.sec.key = s.sec.key := by unfold dropQueues; simp
@[simp] theorem retireCore_key (u : Nat) (bad : List Nat) (s : State) : (retireCore u bad s).sec.key = s.sec.key := by unfold retireCore; grind (splits := 30) [trapTask_key, stopPfs_key, l1Clear_key, dropQueues_key, rehomeAll_key, withSeats_key, moveHart_key, replayHomes_key, capsChanged_key, replaceTasks_key, foldl_key]
@[simp] theorem dieLostEvent_key (d : Nat) (c : Nat) (tasks : Nat) (mask : Nat) (s : State) : (dieLostEvent d c tasks mask s).sec.key = s.sec.key := by unfold dieLostEvent; simp
@[simp] theorem cutDie_key (d : Nat) (s : State) : (cutDie d s).sec.key = s.sec.key := by unfold cutDie; simp
@[simp] theorem loseDie_key (d : Nat) (s : State) : (loseDie d s).sec.key = s.sec.key := by unfold loseDie; grind (splits := 30) [trapTask_key, discardTask_key, dropQueues_key, stopPfs_key, l1Clear_key, setEng_key, replaceTasks_key, withSeats_key, cutDie_key, dieLostEvent_key, replayHomes_key, writeRecordFree_key, capsChanged_key, foldl_key]
@[simp] theorem cutT1Res_key (s : State) : (cutT1Res s).sec.key = s.sec.key := by unfold cutT1Res; simp
@[simp] theorem loseHbm_key (s : State) : (loseHbm s).sec.key = s.sec.key := by unfold loseHbm; simp
@[simp] theorem railFault_key (rail : Nat) (s : State) : (railFault rail s).sec.key = s.sec.key := by unfold railFault; grind (splits := 30) [takeover_key, loseFeed_key, loseDie_key, loseHbm_key, losePackage_key, failDie_key, startRetrain_key, powerOff_key, foldl_key]
@[simp] theorem interruptAll_key (cause : Nat) (s : State) : (interruptAll cause s).sec.key = s.sec.key := by unfold interruptAll; simp
@[simp] theorem enterSafe_key (s : State) : (enterSafe s).sec.key = s.sec.key := by unfold enterSafe; dsimp only; (repeat' split) <;> simp

/-! ### Firmware -/

@[simp] theorem onFa_key (f : State → State) (s : State) (hf : ∀  t, (f  t).sec.key = t.sec.key) : (onFa f s).sec.key = s.sec.key := by unfold onFa; (repeat' split) <;> simp [*]
@[simp] theorem relock_key (s : State) : (relock s).sec.key = s.sec.key := by unfold relock; simp
@[simp] theorem faKey_key (at_ : Nat) (key : U32) (v : U32) (s : State) : (faKey at_ key v s).sec.key = s.sec.key := by unfold faKey; (repeat' split) <;> simp
@[simp] theorem faCommand_key (addr : U32) (f : State → State) (s : State) (hf : ∀  t, (f  t).sec.key = t.sec.key) : (faCommand addr f s).sec.key = s.sec.key := by unfold faCommand; (repeat' split) <;> simp [*]
@[simp] theorem faRefuse_key (s : State) : (faRefuse s).sec.key = s.sec.key := by unfold faRefuse; simp
@[simp] theorem faStartProgram_key (addr : U32) (v : U64) (s : State) : (faStartProgram addr v s).sec.key = s.sec.key := by unfold faStartProgram; (repeat' split) <;> simp
@[simp] theorem faStartErase_key (op : Nat) (bank : Nat) (sector : Nat) (s : State) : (faStartErase op bank sector s).sec.key = s.sec.key := by unfold faStartErase; (repeat' split) <;> simp
@[simp] theorem eraseSteps_key (s : State) : (eraseSteps s).sec.key = s.sec.key := by unfold eraseSteps; (repeat' split) <;> simp
@[simp] theorem faSuspend_key (bank : Nat) (s : State) : (faSuspend bank s).sec.key = s.sec.key := by unfold faSuspend; (repeat' split) <;> simp
@[simp] theorem faResume_key (bank : Nat) (s : State) : (faResume bank s).sec.key = s.sec.key := by unfold faResume; (repeat' split) <;> simp
@[simp] theorem faClear_key (s : State) : (faClear s).sec.key = s.sec.key := by unfold faClear; simp
@[simp] theorem faStray_key (off : Nat) (v : U64) (s : State) : (faStray off v s).sec.key = s.sec.key := by unfold faStray; (repeat' split) <;> simp
@[simp] theorem retireSector_key (k : Nat) (s : State) : (retireSector k s).sec.key = s.sec.key := by unfold retireSector; simp
@[simp] theorem programDone_key (o : FaOp) (ok : Bool) (s : State) : (programDone o ok s).sec.key = s.sec.key := by unfold programDone; (repeat' split) <;> simp
@[simp] theorem eraseDone_key (o : FaOp) (ok : Bool) (s : State) : (eraseDone o ok s).sec.key = s.sec.key := by unfold eraseDone; (repeat' split) <;> simp
@[simp] theorem operationDone_key (ok : Bool) (s : State) : (operationDone ok s).sec.key = s.sec.key := by unfold operationDone; (repeat' split) <;> simp
@[simp] theorem wornSector_key (k : Nat) (s : State) : (wornSector k s).sec.key = s.sec.key := by unfold wornSector; grind (splits := 30) [bootSelector_key, setImgSlot_key, writeRecord_key, modFw_key, foldl_key]
@[simp] theorem countRetry_key (off : Nat) (s : State) : (countRetry off s).sec.key = s.sec.key := by unfold countRetry; dsimp only; (repeat' split) <;> simp
@[simp] theorem faRead_key (off : Nat) (fails : Nat) (s : State) : (faRead off fails s).sec.key = s.sec.key := by unfold faRead; grind (splits := 30) [eraseSteps_key, setRead_key, bumpFree_key, countRetry_key, modFa_key, devEvent_key, foldl_key]
@[simp] theorem busyFetch_key (off : Nat) (s : State) : (busyFetch off s).sec.key = s.sec.key := by unfold busyFetch; (repeat' split) <;> simp
@[simp] theorem eraseRecordSector_key (j : Nat) (s : State) : (eraseRecordSector j s).sec.key = s.sec.key := by unfold eraseRecordSector; (repeat' split) <;> simp
@[simp] theorem fwupQueryBody_key (r : Req) (s : State) : (fwupQueryBody r s).sec.key = s.sec.key := by unfold fwupQueryBody; simp
@[simp] theorem eraseSlot_key (n : Nat) (s : State) : (eraseSlot n s).sec.key = s.sec.key := by unfold eraseSlot; simp
@[simp] theorem faPutBytes_key (off : Nat) (b : Bytes) (s : State) : (faPutBytes off b s).sec.key = s.sec.key := by unfold faPutBytes; simp
@[simp] theorem stageStep_key (s : State) : (stageStep s).sec.key = s.sec.key := by unfold stageStep; dsimp only; (repeat' split) <;> simp
@[simp] theorem stageBody_key (given : Bytes) (sigOk : Bool) (r : Req) (s : State) : (stageBody given sigOk r s).sec.key = s.sec.key := by unfold stageBody; grind (splits := 30) [checked_key, refRead_key, modFw_key, bootSelector_key, setImgSlot_key, setRunning_key, foldl_key]
@[simp] theorem beginHand_key (h : Hand) (s : State) : (beginHand h s).sec.key = s.sec.key := by unfold beginHand; simp [*]
@[simp] theorem leaveHand_key (f : State → State) (s : State) (hf : ∀  t, (f  t).sec.key = t.sec.key) : (leaveHand f s).sec.key = s.sec.key := by unfold leaveHand; simp [*]
@[simp] theorem restartAll_key (s : State) : (restartAll s).sec.key = s.sec.key := by unfold restartAll; simp
@[simp] theorem activate_key (raise : Bool) (s : State) : (activate raise s).sec.key = s.sec.key := by unfold activate; grind (splits := 30) [leaveHand_key, restartAll_key, bootSelector_key, modFw_key, setImgSlot_key, devEvent_key, foldl_key]
@[simp] theorem activationFailed_key (cause : Nat) (s : State) : (activationFailed cause s).sec.key = s.sec.key := by unfold activationFailed; simp
@[simp] theorem setPending_key (a : Option Activation) (s : State) : (setPending a s).sec.key = s.sec.key := by unfold setPending; simp
@[simp] theorem activationStep_key (s : State) : (activationStep s).sec.key = s.sec.key := by unfold activationStep; (repeat' split) <;> simp
@[simp] theorem activateBody_key (found : Nat) (us : Nat) (r : Req) (s : State) : (activateBody found us r s).sec.key = s.sec.key := by unfold activateBody; grind (splits := 30) [checked_key, bootSelector_key, modFw_key, complete_key, setPending_key, activationFailed_key, fail_key, activationStep_key, setRunning_key, foldl_key]
@[simp] theorem invalidateBody_key (r : Req) (s : State) : (invalidateBody r s).sec.key = s.sec.key := by unfold invalidateBody; grind (splits := 30) [checked_key, complete_key, bootSelector_key, setImgSlot_key, foldl_key]
@[simp] theorem runPending_key (found : Nat) (us : Nat) (s : State) : (runPending found us s).sec.key = s.sec.key := by unfold runPending; dsimp only; (repeat' split) <;> simp
@[simp] theorem restartComponent_key (c : Nat) (cause : Nat) (regions : List (Nat × Nat)) (s : State) : (restartComponent c cause regions s).sec.key = s.sec.key := by unfold restartComponent; dsimp only; (repeat' split) <;> simp
@[simp] theorem processorFailed_key (b : Nat) (selfTest : Bool) (s : State) : (processorFailed b selfTest s).sec.key = s.sec.key := by unfold processorFailed; dsimp only; (repeat' split) <;> simp
@[simp] theorem takeOver_key (old : Nat) (cause : Nat) (selfTest : Bool) (s : State) : (takeOver old cause selfTest s).sec.key = s.sec.key := by unfold takeOver; simp
@[simp] theorem endHand_key (s : State) : (endHand s).sec.key = s.sec.key := by unfold endHand; (repeat' split) <;> simp
@[simp] theorem abandonActivation_key (s : State) : (abandonActivation s).sec.key = s.sec.key := by
  unfold abandonActivation
  split
  · rename_i rid _ _ _
    cases rid <;> simp
  · split
    · rename_i a _
      cases a.rid <;> simp
    · rfl
@[simp] theorem belayTakeover_key (cause : Nat) (selfTest : Bool) (s : State) : (belayTakeover cause selfTest s).sec.key = s.sec.key := by unfold belayTakeover; dsimp only; (repeat' split) <;> simp
@[simp] theorem standbyReady_key (s : State) : (standbyReady s).sec.key = s.sec.key := by unfold standbyReady; grind (splits := 30) [announced_key, modFw_key, foldl_key]

/-! ### Reset -/

@[simp] theorem freqChange_key (d : Nat) (khz : Nat) (s : State) : (freqChange d khz s).sec.key = s.sec.key := by unfold freqChange; (repeat' split) <;> simp
@[simp] theorem currentKhz_key (d : Nat) (s : State) : (currentKhz d s).sec.key = s.sec.key := by unfold currentKhz; simp
@[simp] theorem tierFails_key (c : Nat) (s : State) : (tierFails c s).sec.key = s.sec.key := by unfold tierFails; grind (splits := 30) [ctxRead_key, tierDone_key, modTq_key, foldl_key]
@[simp] theorem fifoWork_key (w : FifoWork) (s : State) : (fifoWork w s).sec.key = s.sec.key := by unfold fifoWork; (repeat' split) <;> simp
@[simp] theorem fifoFault_key (src : Nat) (dst : Nat) (idx : Nat) (under : Bool) (w : FifoWork) (s : State) : (fifoFault src dst idx under w s).sec.key = s.sec.key := by unfold fifoFault; (repeat' split) <;> simp
@[simp] theorem settleObj_key (h : Nat) (s : State) : (settleObj h s).sec.key = s.sec.key := by unfold settleObj; (repeat' split) <;> simp [*]
@[simp] theorem settleMem_key (s : State) : (settleMem s).sec.key = s.sec.key := by unfold settleMem; simp
@[simp] theorem loseUnits_key (us : List BufUnit) (s : State) : (loseUnits us s).sec.key = s.sec.key := by unfold loseUnits; grind (splits := 30) [modPage_key, losePage_key, foldl_key]
@[simp] theorem flushAll_key (cause : Nat) (complete : Bool) (s : State) : (flushAll cause complete s).sec.key = s.sec.key := by unfold flushAll; simp
@[simp] theorem settleAgents_key (s : State) : (settleAgents s).sec.key = s.sec.key := by unfold settleAgents; simp
@[simp] theorem allocPool_key (s : State) (m : Nat) : (allocPool s m).sec.key = s.sec.key := by unfold allocPool; dsimp only; (repeat' split) <;> simp
@[simp] theorem dropOrphans_key (s : State) : (dropOrphans s).sec.key = s.sec.key := by unfold dropOrphans; simp
@[simp] theorem settleWork_key (cause : Nat) (s : State) : (settleWork cause s).sec.key = s.sec.key := by unfold settleWork; simp
@[simp] theorem resetHost_key (last : Nat) (s : State) : (resetHost last s).sec.key = s.sec.key := by unfold resetHost; simp
@[simp] theorem resetCtxs_key (s : State) : (resetCtxs s).sec.key = s.sec.key := by unfold resetCtxs; simp
@[simp] theorem resetEcc_key (s : State) : (resetEcc s).sec.key = s.sec.key := by unfold resetEcc; simp
@[simp] theorem resetMem_key (s : State) : (resetMem s).sec.key = s.sec.key := by unfold resetMem; simp
@[simp] theorem resetFtl_key (s : State) : (resetFtl s).sec.key = s.sec.key := by unfold resetFtl; simp
@[simp] theorem resetStore_key (s : State) : (resetStore s).sec.key = s.sec.key := by unfold resetStore; simp
@[simp] theorem resetPorts_key (s : State) : (resetPorts s).sec.key = s.sec.key := by unfold resetPorts; simp
@[simp] theorem resetFw_key (s : State) : (resetFw s).sec.key = s.sec.key := by unfold resetFw; dsimp only; (repeat' split) <;> simp
@[simp] theorem resetMon_key (s : State) : (resetMon s).sec.key = s.sec.key := by unfold resetMon; simp
@[simp] theorem resetClocks_key (s : State) : (resetClocks s).sec.key = s.sec.key := by unfold resetClocks; simp
@[simp] theorem resetPwr_key (s : State) : (resetPwr s).sec.key = s.sec.key := by unfold resetPwr; simp
@[simp] theorem startBoot_key (s : State) : (startBoot s).sec.key = s.sec.key := by unfold startBoot; simp
@[simp] theorem askReset_key (pin : Bool) (hold : Bool) (s : State) : (askReset pin hold s).sec.key = s.sec.key := by unfold askReset; simp [*]
@[simp] theorem recoverErases_key (s : State) : (recoverErases s).sec.key = s.sec.key := by unfold recoverErases; simp
@[simp] theorem runImage_key (n : Nat) (bp0 : Bool) (s : State) : (runImage n bp0 s).sec.key = s.sec.key := by unfold runImage; simp
@[simp] theorem trainMem_key (r : BootReport) (s : State) : (trainMem r s).sec.key = s.sec.key := by unfold trainMem; dsimp only; (repeat' split) <;> simp
@[simp] theorem drawKeys_key (s : State) : (drawKeys s).sec.key = s.sec.key := by unfold drawKeys; simp
@[simp] theorem commitRestored_key (fuel : Nat) (s : State) : (commitRestored fuel s).sec.key = s.sec.key := by
  induction fuel generalizing s with
  | zero => unfold commitRestored; rfl
  | succ k ih =>
    unfold commitRestored
    dsimp only
    split
    · rfl
    · split
      · rw [ih, programStripe_key]
      · rfl
@[simp] theorem applyShutdown_key (s : State) : (applyShutdown s).sec.key = s.sec.key := by unfold applyShutdown; simp
@[simp] theorem bootPortH_key (t : Option TrainReport) (s : State) : (bootPortH t s).sec.key = s.sec.key := by unfold bootPortH; (repeat' split) <;> simp
@[simp] theorem failSpares_key (l : List Nat) (s : State) : (failSpares l s).sec.key = s.sec.key := by unfold failSpares; simp
@[simp] theorem freeLeft_key (s : State) : (freeLeft s).sec.key = s.sec.key := by unfold freeLeft; simp
@[simp] theorem compareCaps_key (s : State) : (compareCaps s).sec.key = s.sec.key := by unfold compareCaps; (repeat' split) <;> simp
@[simp] theorem seedAdmin_key (s : State) : (seedAdmin s).sec.key = s.sec.key := by unfold seedAdmin; (repeat' split) <;> simp
@[simp] theorem enterReady_key (s : State) : (enterReady s).sec.key = s.sec.key := by unfold enterReady; grind (splits := 30) [announced_key, modPwr_key, devEvent_key, foldl_key]
@[simp] theorem slotFallback_key (n : Nat) (cause : Nat) (s : State) : (slotFallback n cause s).sec.key = s.sec.key := by unfold slotFallback; grind (splits := 30) [devEvent_key, bootSelector_key, modFw_key, setImgSlot_key, foldl_key]
@[simp] theorem setStep_key (n : Nat) (s : State) : (setStep n s).sec.key = s.sec.key := by unfold setStep; simp
@[simp] theorem bootMem_key (r : BootReport) (s : State) : (bootMem r s).sec.key = s.sec.key := by unfold bootMem; dsimp only; (repeat' split) <;> simp

/-! ### Admin -/

@[simp] theorem adminIdentifyBody_key (r : Req) (s : State) : (adminIdentifyBody r s).sec.key = s.sec.key := by unfold adminIdentifyBody; simp
@[simp] theorem identifyCapsBody_key (r : Req) (s : State) : (identifyCapsBody r s).sec.key = s.sec.key := by unfold identifyCapsBody; grind (splits := 30) [checked_key, complete_key, afterWrite_key, refWrite_key, foldl_key]
@[simp] theorem readCountersBody_key (r : Req) (s : State) : (readCountersBody r s).sec.key = s.sec.key := by unfold readCountersBody; simp
@[simp] theorem cancelReq_key (r : Req) (s : State) : (cancelReq r s).sec.key = s.sec.key := by unfold cancelReq; (repeat' split) <;> simp
@[simp] theorem remirror_key (old : List Bytes) (s : State) (e : Nat × Sess) : (remirror old s e).sec.key = s.sec.key := by unfold remirror; dsimp only; (repeat' split) <;> simp
@[simp] theorem ropeCaps_key (s : State) : (ropeCaps s).sec.key = s.sec.key := by unfold ropeCaps; simp
@[simp] theorem setRing_key (pos : Nat) (ring : List Bytes) (s : State) : (setRing pos ring s).sec.key = s.sec.key := by unfold setRing; dsimp only; (repeat' split) <;> simp
@[simp] theorem ropeSetBody_key (r : Req) (s : State) : (ropeSetBody r s).sec.key = s.sec.key := by unfold ropeSetBody; simp
@[simp] theorem portQueryBody_key (r : Req) (s : State) : (portQueryBody r s).sec.key = s.sec.key := by unfold portQueryBody; simp
@[simp] theorem portAction_key (p : Nat) (a : Nat) (t : TrainReport) (s : State) : (portAction p a t s).sec.key = s.sec.key := by unfold portAction; dsimp only; (repeat' split) <;> simp
@[simp] theorem portCtrlBody_key (t : TrainReport) (r : Req) (s : State) : (portCtrlBody t r s).sec.key = s.sec.key := by unfold portCtrlBody; simp
@[simp] theorem adoptOne_key (c m digest : Nat) (resume : Bool) (a : Bytes × State) (x : MirrorCopy) : (adoptOne c m digest resume a x).2.sec.key = a.2.sec.key := by
  unfold adoptOne
  split
  · rfl
  · dsimp only
    split
    · rw [modModel_key, foldl_key, retagCopy_key, modAgents_key]; intro t y; exact dropMirror_key ..
    · rw [foldl_key, retagCopy_key, modAgents_key]; intro t y; exact dropMirror_key ..
@[simp] theorem adoptAll_key (c m digest : Nat) (resume : Bool) (l : List MirrorCopy) (a : Bytes × State) :
    (l.foldl (adoptOne c m digest resume) a).2.sec.key = a.2.sec.key := foldlTwo_key _ (fun _ _ => adoptOne_key ..) _ _
@[simp] theorem mirrorAdoptBody_key (r : Req) (s : State) : (mirrorAdoptBody r s).sec.key = s.sec.key := by
  unfold mirrorAdoptBody
  apply checked_key
  intro t
  dsimp only
  rw [afterWrite_key]
  · intro u hu
    rw [refWrite_key hu]
    split
    · rw [quietBoundary_key, adoptAll_key]
    · rw [adoptAll_key]
  · intro u; simp

/-! ### Cairns -/

@[simp] theorem cairnQueryBody_key (r : Req) (s : State) : (cairnQueryBody r s).sec.key = s.sec.key := by unfold cairnQueryBody; (repeat' split) <;> simp
@[simp] theorem cairnListBody_key (r : Req) (s : State) : (cairnListBody r s).sec.key = s.sec.key := by unfold cairnListBody; simp
@[simp] theorem cairnReleaseBody_key (r : Req) (s : State) : (cairnReleaseBody r s).sec.key = s.sec.key := by unfold cairnReleaseBody; (repeat' split) <;> simp

/-! ### Monitors -/

@[simp] theorem setMon_key (i : Nat) (m : Mon) (s : State) : (setMon i m s).sec.key = s.sec.key := by unfold setMon; simp
@[simp] theorem closeWindow_key (i : Nat) (s : State) : (closeWindow i s).sec.key = s.sec.key := by unfold closeWindow; (repeat' split) <;> simp
@[simp] theorem monListBody_key (r : Req) (s : State) : (monListBody r s).sec.key = s.sec.key := by unfold monListBody; simp
@[simp] theorem monReadBody_key (r : Req) (s : State) : (monReadBody r s).sec.key = s.sec.key := by unfold monReadBody; simp
@[simp] theorem monConfigure_key (p : Bytes) (s : State) : (monConfigure p s).sec.key = s.sec.key := by unfold monConfigure; simp
@[simp] theorem monConfigBody_key (r : Req) (s : State) : (monConfigBody r s).sec.key = s.sec.key := by unfold monConfigBody; simp
@[simp] theorem modMons_key (f : Mons → Mons) (s : State) : (modMons f s).sec.key = s.sec.key := by unfold modMons; simp
@[simp] theorem injEnableBody_key (r : Req) (s : State) : (injEnableBody r s).sec.key = s.sec.key := by unfold injEnableBody; simp
@[simp] theorem firedEvent_key (id : Nat) (handle : Nat) (s : State) : (firedEvent id handle s).sec.key = s.sec.key := by unfold firedEvent; simp [*]
@[simp] theorem injectBody_key (r : Req) (s : State) : (injectBody r s).sec.key = s.sec.key := by unfold injectBody; dsimp only; (repeat' split) <;> simp
@[simp] theorem injClearBody_key (r : Req) (s : State) : (injClearBody r s).sec.key = s.sec.key := by unfold injClearBody; simp
@[simp] theorem endOverride_key (i : Nat) (s : State) : (endOverride i s).sec.key = s.sec.key := by unfold endOverride; (repeat' split) <;> simp
@[simp] theorem overridesDue_key (s : State) : (overridesDue s).sec.key = s.sec.key := by unfold overridesDue; simp
@[simp] theorem sampleSensor_key (i : Nat) (v : Int) (s : State) : (sampleSensor i v s).sec.key = s.sec.key := by unfold sampleSensor; (repeat' split) <;> simp
@[simp] theorem healPhys_key (a : Nat) (n : Nat) (s : State) : (healPhys a n s).sec.key = s.sec.key := by unfold healPhys; dsimp only; (repeat' split) <;> simp [*]
@[simp] theorem physBytes_key (fuel : Nat) (bs : Bytes) (a : Nat) (s : State) : (physBytes fuel bs a s).sec.key = s.sec.key := by
  induction fuel generalizing bs a s with
  | zero => rfl
  | succ n ih =>
    cases bs with
    | nil => rfl
    | cons b r =>
      unfold physBytes
      dsimp only
      (repeat' split) <;> simp [ih]
@[simp] theorem physWrite_key (fuel : Nat) (bs : Bytes) (a : Nat) (s : State) : (physWrite fuel bs a s).sec.key = s.sec.key := by unfold physWrite; simp
@[simp] theorem debugReadBody_key (r : Req) (s : State) : (debugReadBody r s).sec.key = s.sec.key := by unfold debugReadBody; simp
@[simp] theorem debugWriteBody_key (r : Req) (s : State) : (debugWriteBody r s).sec.key = s.sec.key := by unfold debugWriteBody; simp
@[simp] theorem debugHart_key (f : Nat → Req → State → State) (r : Req) (s : State) (hf : ∀ a0 a1 t, (f a0 a1 t).sec.key = t.sec.key) : (debugHart f r s).sec.key = s.sec.key := by unfold debugHart; simp [*]
@[simp] theorem haltBody_key (v : Bool) (h : Nat) (r : Req) (s : State) : (haltBody v h r s).sec.key = s.sec.key := by unfold haltBody; simp [*]
@[simp] theorem hartStateBody_key (h : Nat) (r : Req) (s : State) : (hartStateBody h r s).sec.key = s.sec.key := by unfold hartStateBody; simp [*]

/-! ### Inject -/

@[simp] theorem injEffect_key (j : Injection) (s : State) : (injEffect j s).sec.key = s.sec.key := by unfold injEffect; (repeat' split) <;> simp
@[simp] theorem fireInjection_key (h : Nat) (s : State) : (fireInjection h s).sec.key = s.sec.key := by unfold fireInjection; (repeat' split) <;> simp [*]

/-! ### Registers -/

@[simp] theorem after_key (r : Res) (s : State) (h : ∀ t, r = .next t → t.sec.key = s.sec.key) : (after r s).sec.key = s.sec.key := by
  cases r with
  | next t => exact h t rfl
  | fault _ => rfl
  | refused _ => rfl
@[simp] theorem after_execRun_key (e : Nat) (s : State) (u : State) : (after (execRun e s) u).sec.key = s.sec.key := by
  unfold execRun after
  dsimp only
  (repeat' split) <;> simp
@[simp] theorem after_execStopRequest_key (e : Nat) (s : State) (u : State) : (after (execStopRequest e s) u).sec.key = s.sec.key := by
  unfold execStopRequest after
  dsimp only
  (repeat' split) <;> simp
@[simp] theorem after_execSkip_key (e : Nat) (s : State) (u : State) : (after (execSkip e s) u).sec.key = s.sec.key := by
  unfold execSkip after
  dsimp only
  (repeat' split) <;> simp
@[simp] theorem after_execClr_key (e : Nat) (s : State) (u : State) : (after (execClr e s) u).sec.key = s.sec.key := by
  unfold execClr after
  dsimp only
  (repeat' split) <;> simp
@[simp] theorem after_execSeqTailWrite_key (e : Nat) (v : U32) (s : State) (u : State) : (after (execSeqTailWrite e v s) u).sec.key = s.sec.key := by
  unfold execSeqTailWrite after
  dsimp only
  (repeat' split) <;> simp
@[simp] theorem after_execSyncInc_key (e : Nat) (v : U32) (s : State) (u : State) : (after (execSyncInc e v s) u).sec.key = s.sec.key := by
  unfold execSyncInc after
  dsimp only
  (repeat' split) <;> simp
@[simp] theorem after_execSyncCntWrite_key (e : Nat) (k : Nat) (v : U32) (s : State) (u : State) : (after (execSyncCntWrite e k v s) u).sec.key = s.sec.key := by
  unfold execSyncCntWrite after
  dsimp only
  (repeat' split) <;> simp
@[simp] theorem after_execEngFaultClear_key (e : Nat) (v : U32) (s : State) (u : State) : (after (execEngFaultClear e v s) u).sec.key = s.sec.key := by
  unfold execEngFaultClear after
  dsimp only
  (repeat' split) <;> simp
@[simp] theorem after_execTdFaultsRead_key (c : Nat) (s : State) (u : State) : (after (execTdFaultsRead c s) u).sec.key = s.sec.key := by
  unfold execTdFaultsRead after
  dsimp only
  (repeat' split) <;> simp
@[simp] theorem after_execDmaTailWrite_key (e : Nat) (v : U32) (s : State) (u : State) : (after (execDmaTailWrite e v s) u).sec.key = s.sec.key := by
  unfold execDmaTailWrite after
  dsimp only
  (repeat' split) <;> simp
@[simp] theorem after_execTqTailWrite_key (c : Nat) (v : U32) (s : State) (u : State) : (after (execTqTailWrite c v s) u).sec.key = s.sec.key := by
  unfold execTqTailWrite after
  dsimp only
  (repeat' split) <;> simp
@[simp] theorem after_execAcquire_key (h : Nat) (sem : Nat) (wait : SemWait) (s : State) (u : State) : (after (execAcquire h sem wait s) u).sec.key = s.sec.key := by
  unfold execAcquire after
  dsimp only
  (repeat' split) <;> simp
@[simp] theorem after_execTryAcquire_key (h : Nat) (sem : Nat) (s : State) (u : State) : (after (execTryAcquire h sem s) u).sec.key = s.sec.key := by
  unfold execTryAcquire after
  dsimp only
  (repeat' split) <;> simp
@[simp] theorem after_execRelease_key (h : Nat) (sem : Nat) (s : State) (u : State) : (after (execRelease h sem s) u).sec.key = s.sec.key := by
  unfold execRelease after
  dsimp only
  (repeat' split) <;> simp
@[simp] theorem after_execSbAlertStatWrite_key (v : U16) (s : State) (u : State) : (after (execSbAlertStatWrite v s) u).sec.key = s.sec.key := by
  unfold execSbAlertStatWrite after
  dsimp only
  (repeat' split) <;> simp
@[simp] theorem after_execMigFailRead_key (s : State) (u : State) : (after (execMigFailRead s) u).sec.key = s.sec.key := by
  unfold execMigFailRead after
  dsimp only
  (repeat' split) <;> simp
@[simp] theorem after_execEccCeCntRead_key (k : Nat) (ue : Bool) (s : State) (u : State) : (after (execEccCeCntRead k ue s) u).sec.key = s.sec.key := by
  unfold execEccCeCntRead after
  dsimp only
  (repeat' split) <;> simp
@[simp] theorem after_execFaKey1_key (v : U32) (s : State) (u : State) : (after (execFaKey1 v s) u).sec.key = s.sec.key := by
  unfold execFaKey1 after
  dsimp only
  (repeat' split) <;> simp
@[simp] theorem after_execFaKey2_key (v : U32) (s : State) (u : State) : (after (execFaKey2 v s) u).sec.key = s.sec.key := by
  unfold execFaKey2 after
  dsimp only
  (repeat' split) <;> simp
@[simp] theorem after_execFaProgram_key (addr : U32) (data : U64) (s : State) (u : State) : (after (execFaProgram addr data s) u).sec.key = s.sec.key := by
  unfold execFaProgram after
  dsimp only
  (repeat' split) <;> simp
@[simp] theorem after_execFaSectorErase_key (addr : U32) (s : State) (u : State) : (after (execFaSectorErase addr s) u).sec.key = s.sec.key := by
  unfold execFaSectorErase after
  dsimp only
  (repeat' split) <;> simp
@[simp] theorem after_execFaBankErase_key (addr : U32) (s : State) (u : State) : (after (execFaBankErase addr s) u).sec.key = s.sec.key := by
  unfold execFaBankErase after
  dsimp only
  (repeat' split) <;> simp
@[simp] theorem after_execFaSuspend_key (addr : U32) (s : State) (u : State) : (after (execFaSuspend addr s) u).sec.key = s.sec.key := by
  unfold execFaSuspend after
  dsimp only
  (repeat' split) <;> simp
@[simp] theorem after_execFaResume_key (addr : U32) (s : State) (u : State) : (after (execFaResume addr s) u).sec.key = s.sec.key := by
  unfold execFaResume after
  dsimp only
  (repeat' split) <;> simp
@[simp] theorem after_execFaReadId_key (addr : U32) (s : State) (u : State) : (after (execFaReadId addr s) u).sec.key = s.sec.key := by
  unfold execFaReadId after
  dsimp only
  (repeat' split) <;> simp
@[simp] theorem after_execFaClearStatus_key (addr : U32) (s : State) (u : State) : (after (execFaClearStatus addr s) u).sec.key = s.sec.key := by
  unfold execFaClearStatus after
  dsimp only
  (repeat' split) <;> simp
@[simp] theorem after_execFaRelock_key (off : Nat) (v : U64) (s : State) (u : State) : (after (execFaRelock off v s) u).sec.key = s.sec.key := by
  unfold execFaRelock after
  dsimp only
  (repeat' split) <;> simp
@[simp] theorem after_execFaRetryRead_key (s : State) (u : State) : (after (execFaRetryRead s) u).sec.key = s.sec.key := by
  unfold execFaRetryRead after
  dsimp only
  (repeat' split) <;> simp
@[simp] theorem ctrlWrite_key (e : Nat) (fw : Bool) (v : U32) (s : State) : (ctrlWrite e fw v s).sec.key = s.sec.key := by unfold ctrlWrite; (repeat' split) <;> simp
@[simp] theorem engWrite_key (e : Nat) (off : Nat) (size : Nat) (fw : Bool) (v : U64) (s : State) : (engWrite e off size fw v s).sec.key = s.sec.key := by unfold engWrite; (repeat' split) <;> simp
@[simp] theorem engMemWrite_key (e : Nat) (off : Nat) (size : Nat) (v : U64) (s : State) : (engMemWrite e off size v s).sec.key = s.sec.key := by unfold engMemWrite; (repeat' split) <;> simp
@[simp] theorem dmaWrite_key (e : Nat) (off : Nat) (size : Nat) (v : U64) (s : State) : (dmaWrite e off size v s).sec.key = s.sec.key := by unfold dmaWrite; (repeat' split) <;> simp
@[simp] theorem tdWrite_key (c : Nat) (off : Nat) (size : Nat) (v : U64) (k : Slot) (s : State) : (tdWrite c off size v k s).sec.key = s.sec.key := by unfold tdWrite; dsimp only; (repeat' split) <;> simp
@[simp] theorem tqWrite_key (c : Nat) (off : Nat) (size : Nat) (v : U64) (k : Slot) (s : State) : (tqWrite c off size v k s).sec.key = s.sec.key := by unfold tqWrite; (repeat' split) <;> simp
@[simp] theorem semWrite_key (h : Nat) (off : Nat) (size : Nat) (v : U64) (s : State) : (semWrite h off size v s).sec.key = s.sec.key := by unfold semWrite; (repeat' split) <;> simp [*]
@[simp] theorem sqWrite_key (c : Nat) (off : Nat) (size : Nat) (v : U64) (s : State) : (sqWrite c off size v s).sec.key = s.sec.key := by unfold sqWrite; (repeat' split) <;> simp
@[simp] theorem migWrite_key (off : Nat) (size : Nat) (v : U64) (s : State) : (migWrite off size v s).sec.key = s.sec.key := by unfold migWrite; dsimp only; (repeat' split) <;> simp
@[simp] theorem eccWrite_key (k : Nat) (off : Nat) (size : Nat) (who : Option Nat) (v : U64) (s : State) : (eccWrite k off size who v s).sec.key = s.sec.key := by unfold eccWrite; dsimp only; (repeat' split) <;> simp
@[simp] theorem flashEccWrite_key (ch : Nat) (off : Nat) (size : Nat) (who : Option Nat) (v : U64) (s : State) : (flashEccWrite ch off size who v s).sec.key = s.sec.key := by unfold flashEccWrite; (repeat' split) <;> simp
@[simp] theorem faIssue_key (op : Nat) (addr : U32) (data : U64) (s : State) : (faIssue op addr data s).sec.key = s.sec.key := by unfold faIssue; (repeat' split) <;> simp
@[simp] theorem faWrite_key (off : Nat) (size : Nat) (v : U64) (s : State) : (faWrite off size v s).sec.key = s.sec.key := by unfold faWrite; dsimp only; (repeat' split) <;> simp
@[simp] theorem smbusWrite_key (off : Nat) (size : Nat) (v : U64) (s : State) : (smbusWrite off size v s).sec.key = s.sec.key := by unfold smbusWrite; (repeat' split) <;> simp
@[simp] theorem ringBaseWrite_key (x : U64) (s : State) : (ringBaseWrite x s).sec.key = s.sec.key := by unfold ringBaseWrite; (repeat' split) <;> simp
@[simp] theorem cwRead_key (off : Nat) (size : Nat) (s : State) : (cwRead off size s).sec.key = s.sec.key := by unfold cwRead; grind (splits := 30) [setRead_key, mbxStatRead_key, linkStatRead_key, foldl_key]
@[simp] theorem onPage_key (c : Nat) (who : Option Nat) (f : Slot → State → State) (s : State) (hf : ∀ a0 t, (f a0 t).sec.key = t.sec.key) : (onPage c who f s).sec.key = s.sec.key := by unfold onPage; (repeat' split) <;> simp [*]
@[simp] theorem hartWrite_key (h : Nat) (n : Nat) (v : U64) (s : State) : (hartWrite h n v s).sec.key = s.sec.key := by unfold hartWrite; (repeat' split) <;> simp [*]
@[simp] theorem regRead_key (w : RegWrite) (s : State) : (regRead w s).sec.key = s.sec.key := by
  unfold regRead
  (repeat' split) <;> first | rfl | (simp; done) | (dsimp only; simp; done)
@[simp] theorem answer_key (pk : Packet) (st : Nat) (data : Bytes) (s : State) : (answer pk st data s).sec.key = s.sec.key := by unfold answer; (repeat' split) <;> simp
@[simp] theorem apertureWrite_key (a : Nat) (bs : Bytes) (s : State) : (apertureWrite a bs s).sec.key = s.sec.key := by
  induction bs generalizing a s with
  | nil => rfl
  | cons b r ih =>
    unfold apertureWrite
    rw [ih]
    split <;> rfl
@[simp] theorem readNow_key (pk : Packet) (s : State) : (readNow pk s).sec.key = s.sec.key := by unfold readNow; grind (splits := 30) [cwRead_key, setRead_key, answer_key, uncorrectable_key, ctxRead_key, foldl_key]
@[simp] theorem returnRx_key (vc : Nat) (len : Nat) (s : State) : (returnRx vc len s).sec.key = s.sec.key := by unfold returnRx; (repeat' split) <;> simp
@[simp] theorem scrubbed_key (cs : List Nat) (s : State) : (scrubbed cs s).sec.key = s.sec.key := by unfold scrubbed; grind (splits := 30) [ctxEvent_key, complete_key, foldl_key]
@[simp] theorem scrubDone_key (b : Scrub) (s : State) : (scrubDone b s).sec.key = s.sec.key := by unfold scrubDone; simp
@[simp] theorem debugRegReadBody_key (r : Req) (s : State) : (debugRegReadBody r s).sec.key = s.sec.key := by unfold debugRegReadBody; simp

/-! ### Search -/

@[simp] theorem refFill_key (r : Req) (x : Ref) (n : Nat) (s : State) : (refFill r x n s).sec.key = s.sec.key := by unfold refFill; (repeat' split) <;> simp
@[simp] theorem progLoad_key (given : Bytes) (r : Req) (s : State) : (progLoad given r s).sec.key = s.sec.key := by unfold progLoad; simp
@[simp] theorem progFree_key (r : Req) (s : State) : (progFree r s).sec.key = s.sec.key := by unfold progFree; simp
@[simp] theorem scanReply_key (r : Req) (x : Ref) (slba : Nat) (o : ScanOut) (s : State) : (scanReply r x slba o s).sec.key = s.sec.key := by unfold scanReply; grind (splits := 30) [fail_key, afterWrite_key, refWrite_key, commitN_key, complete_key, foldl_key]
@[simp] theorem scanRun_key (r : Req) (s : State) : (scanRun r s).sec.key = s.sec.key := by unfold scanRun; (repeat' split) <;> simp
@[simp] theorem disagreement_key (ch : Nat) (s : State) : (disagreement ch s).sec.key = s.sec.key := by unfold disagreement; dsimp only; (repeat' split) <;> simp
@[simp] theorem pageEvaluate_key (ch : Nat) (unit : Nat) (prog : Nat) (disagree : Bool) (s : State) : (pageEvaluate ch unit prog disagree s).sec.key = s.sec.key := by unfold pageEvaluate; dsimp only; (repeat' split) <;> simp
@[simp] theorem searchCreate_key (r : Req) (s : State) : (searchCreate r s).sec.key = s.sec.key := by unfold searchCreate; simp
@[simp] theorem onIndex_key (r : Req) (f : Nat → Index → State → State) (s : State) (hf : ∀ a0 a1 t, (f a0 a1 t).sec.key = t.sec.key) : (onIndex r f s).sec.key = s.sec.key := by unfold onIndex; dsimp only; (repeat' split) <;> simp [*]
@[simp] theorem changeItems_key (ins : Bool) (given : Bytes) (r : Req) (s : State) : (changeItems ins given r s).sec.key = s.sec.key := by unfold changeItems; dsimp only; (repeat' split) <;> simp
@[simp] theorem queryBody_key (r : Req) (h : Nat) (x : Index) (codes : List Bytes) (s : State) : (queryBody r h x codes s).sec.key = s.sec.key := by unfold queryBody; grind (splits := 30) [fail_key, afterWrite_key, refWrite_key, commitN_key, complete_key, foldl_key]
@[simp] theorem searchQuery_key (given : Bytes) (r : Req) (s : State) : (searchQuery given r s).sec.key = s.sec.key := by unfold searchQuery; dsimp only; (repeat' split) <;> simp
@[simp] theorem searchMerge_key (r : Req) (h : Nat) (x : Index) (s : State) : (searchMerge r h x s).sec.key = s.sec.key := by unfold searchMerge; (repeat' split) <;> simp [*]
@[simp] theorem epochAdvance_key (h : Nat) (s : State) : (epochAdvance h s).sec.key = s.sec.key := by unfold epochAdvance; dsimp only; (repeat' split) <;> simp [*]
@[simp] theorem embedFinish_key (res : EmbedReport) (next : Nat) (offs : List Nat) (st : Nat) (r : Req) (s : State) : (embedFinish res next offs st r s).sec.key = s.sec.key := by unfold embedFinish; grind (splits := 30) [commitN_key, complete_key, applyInsert_key, afterWrite_key, refWrite_key, foldl_key]
@[simp] theorem embedDocs_key (res : EmbedReport) (r : Req) (s : State) : (embedDocs res r s).sec.key = s.sec.key := by unfold embedDocs; dsimp only; (repeat' split) <;> simp
@[simp] theorem embedTokens_key (res : EmbedReport) (r : Req) (s : State) : (embedTokens res r s).sec.key = s.sec.key := by unfold embedTokens; dsimp only; (repeat' split) <;> simp

/-! ### Tune -/

@[simp] theorem takeHello_key (g : Nat) (mask : Nat) (s : State) : (takeHello g mask s).sec.key = s.sec.key := by unfold takeHello; (repeat' split) <;> simp
@[simp] theorem modHellos_key (f : Tbl Nat → Tbl Nat) (s : State) : (modHellos f s).sec.key = s.sec.key := by unfold modHellos; simp
@[simp] theorem groupSetBody_key (r : Req) (s : State) : (groupSetBody r s).sec.key = s.sec.key := by unfold groupSetBody; grind (splits := 30) [checked_key, complete_key, sayHello_key, takeHello_key, modHellos_key, foldl_key]
@[simp] theorem groupFreeBody_key (r : Req) (s : State) : (groupFreeBody r s).sec.key = s.sec.key := by unfold groupFreeBody; simp
@[simp] theorem adapterCreateBody_key (data : Bytes) (r : Req) (s : State) : (adapterCreateBody data r s).sec.key = s.sec.key := by unfold adapterCreateBody; grind (splits := 30) [checked_key, refRead_key, fail_key, complete_key, foldl_key]
@[simp] theorem adapterFreeBody_key (r : Req) (s : State) : (adapterFreeBody r s).sec.key = s.sec.key := by unfold adapterFreeBody; simp
@[simp] theorem stepStart_key (r : Req) (h : Nat) (a : Adapter) (es : List (Nat × Nat × Nat)) (s : State) : (stepStart r h a es s).sec.key = s.sec.key := by unfold stepStart; dsimp only; (repeat' split) <;> simp [*]
@[simp] theorem tuneStepBody_key (data : Bytes) (r : Req) (s : State) : (tuneStepBody data r s).sec.key = s.sec.key := by unfold tuneStepBody; grind (splits := 30) [checked_key, refRead_key, fail_key, stepStart_key, foldl_key]
@[simp] theorem tuneQueryBody_key (r : Req) (s : State) : (tuneQueryBody r s).sec.key = s.sec.key := by unfold tuneQueryBody; dsimp only; (repeat' split) <;> simp
@[simp] theorem helloIn_key (g : Nat) (mask : Nat) (src : Nat) (s : State) : (helloIn g mask src s).sec.key = s.sec.key := by unfold helloIn; (repeat' split) <;> simp [*]
@[simp] theorem takeGrant_key (g : Nat) (seq : Nat) (src : Nat) (s : State) : (takeGrant g seq src s).sec.key = s.sec.key := by unfold takeGrant; (repeat' split) <;> simp
@[simp] theorem takeAbort_key (g : Nat) (pk : TuneCtl) (s : State) : (takeAbort g pk s).sec.key = s.sec.key := by unfold takeAbort; dsimp only; (repeat' split) <;> simp
@[simp] theorem takeTuneData_key (g : Nat) (pk : TunePacket) (s : State) : (takeTuneData g pk s).sec.key = s.sec.key := by unfold takeTuneData; (repeat' split) <;> simp

/-! ### Idle -/

@[simp] theorem expireDue_key (s : State) : (expireDue s).sec.key = s.sec.key := by unfold expireDue; dsimp only; (repeat' split) <;> simp
@[simp] theorem storeTimers_key (s : State) : (storeTimers s).sec.key = s.sec.key := by unfold storeTimers; simp
@[simp] theorem agentWork_key (s : State) : (agentWork s).sec.key = s.sec.key := by unfold agentWork; dsimp only; (repeat' split) <;> simp
@[simp] theorem continueWork_key (s : State) : (continueWork s).sec.key = s.sec.key := by unfold continueWork; (repeat' split) <;> simp
@[simp] theorem goOnForward_key (s : State) : (goOnForward s).sec.key = s.sec.key := by unfold goOnForward; (repeat' split) <;> simp

end Sys2Proof.Machine
end

