-- ==== Sys2Proof/Laws/SecKeeps.lean ====
section
/-! SUPPORT. The operations of chapter 15, and those that use them, keep what the state machine of security may hold. -/
namespace Sys2Proof.Machine
open Sys2Proof

/-- What the security state machine may hold (15 R438, R439, R456): the five pairs that exist; a cause is set exactly in Quarantined or
where Quarantined is due; Unlocked, and an unlock that waits, stand on the cause `DEBUG`. -/
structure KeyOk (k : SecState × DbgState × Nat × Bool × Option (Nat × Nat)) : Prop where
  pair : (k.1 = .blank ∧ k.2.1 = .open) ∨ (k.1 = .provisioned ∧ k.2.1 = .sealed) ∨ (k.1 = .admitted ∧ k.2.1 = .sealed)
    ∨ (k.1 = .quarantined ∧ k.2.1 = .sealed) ∨ (k.1 = .quarantined ∧ k.2.1 = .unlocked)
  cause : k.2.2.1 ≠ 0 ↔ k.1 = .quarantined ∨ k.2.2.2.1 = true
  due : k.2.2.2.1 = true → k.1 ≠ .blank
  debug : k.2.1 = .unlocked ∨ k.2.2.2.2.isSome = true → bit k.2.2.1 2 = true

theorem keyOk_iff (k : SecState × DbgState × Nat × Bool × Option (Nat × Nat)) : KeyOk k ↔
    ((k.1 = .blank ∧ k.2.1 = .open) ∨ (k.1 = .provisioned ∧ k.2.1 = .sealed) ∨ (k.1 = .admitted ∧ k.2.1 = .sealed)
      ∨ (k.1 = .quarantined ∧ k.2.1 = .sealed) ∨ (k.1 = .quarantined ∧ k.2.1 = .unlocked))
    ∧ (k.2.2.1 ≠ 0 ↔ k.1 = .quarantined ∨ k.2.2.2.1 = true) ∧ (k.2.2.2.1 = true → k.1 ≠ .blank)
    ∧ (k.2.1 = .unlocked ∨ k.2.2.2.2.isSome = true → bit k.2.2.1 2 = true) :=
  ⟨fun h => ⟨h.pair, h.cause, h.due, h.debug⟩, fun h => ⟨h.1, h.2.1, h.2.2.1, h.2.2.2⟩⟩

/-- The same of a state. -/
def Keeps (s t : State) : Prop := KeyOk s.sec.key → KeyOk t.sec.key

theorem keeps_of_eq {s t : State} (h : t.sec.key = s.sec.key) : Keeps s t := fun k => by rw [h]; exact k
theorem keeps_trans {s t u : State} (h : Keeps s t) (g : Keeps t u) : Keeps s u := fun k => g (h k)
theorem keeps_refl (s : State) : Keeps s s := id
theorem keeps_via {s t u : State} (h : t.sec.key = s.sec.key) (g : Keeps t u) : Keeps s u := keeps_trans (keeps_of_eq h) g

theorem announce_any_key (old s : State) : (announce old s).sec.key = s.sec.key := announce_key old s

theorem bit_or (n k i : Nat) : bit (n ||| 2 ^ k) i = (bit n i || decide (i = k)) := by
  unfold bit
  simp [Nat.testBit_or, Nat.testBit_two_pow, eq_comm]

theorem or_pow_ne_zero (n k : Nat) : n ||| 2 ^ k ≠ 0 := by
  intro h
  have : bit (n ||| 2 ^ k) k = false := by rw [h]; simp [bit]
  simp [bit_or] at this

theorem leaveAdmitted_ok (s : State) : Keeps s (leaveAdmitted s) := by
  intro h
  unfold leaveAdmitted
  split
  · rename_i ha
    unfold announced
    rw [announce_key, modCtxs_key, modSec_key]
    simp only [keyOk_iff, Sec.key, ha] at h ⊢
    simp_all
  · exact h

theorem dropSession_ok (p : Nat) (s : State) : Keeps s (dropSession p s) := by
  unfold dropSession
  dsimp only
  split
  · exact keeps_via (by simp) (leaveAdmitted_ok _)
  · exact keeps_of_eq (by simp)

theorem sessionLapse_ok (s : State) : Keeps s (sessionLapse s) := by
  unfold sessionLapse
  split
  · split <;> first | exact dropSession_ok _ _ | exact keeps_refl _
  · exact keeps_refl _

theorem enterQuarantine_key (s : State) :
    (enterQuarantine s).sec.key = (.quarantined, s.sec.dbg, s.sec.causes, false, s.sec.unlock) := by
  unfold enterQuarantine announced
  dsimp only
  rw [keysFor_key, foldl_key, announce_key, modSec_key]
  · rfl
  · intro t c; simp

theorem quarantine_ok (c : Nat) (s : State) : Keeps s (quarantine c s) := by
  intro h
  unfold quarantine
  split
  · exact h
  · rename_i hb
    dsimp only
    split
    · rename_i hq
      rw [keysFor_key, writeRecordFree_key, modSec_key]
      simp only [keyOk_iff, Sec.key, hq, bit_or] at h ⊢
      have := or_pow_ne_zero s.sec.causes c
      simp_all
    · split
      · rw [modSec_key]
        have e : (writeRecordFree 2 (modSec (fun x => { x with causes := x.causes ||| 2 ^ c }) s)).sec.key
            = (s.sec.sec, s.sec.dbg, s.sec.causes ||| 2 ^ c, s.sec.quarantineNext, s.sec.unlock) := by
          rw [writeRecordFree_key, modSec_key]; rfl
        generalize writeRecordFree 2 _ = t at e ⊢
        simp only [Sec.key, Prod.mk.injEq] at e
        obtain ⟨e1, e2, e3, e4, e5⟩ := e
        have := or_pow_ne_zero s.sec.causes c
        simp only [keyOk_iff, Sec.key, e1, e2, e3, e5, bit_or] at h ⊢
        simp_all
      · have e : (writeRecordFree 2 (modSec (fun x => { x with causes := x.causes ||| 2 ^ c }) s)).sec.key
            = (s.sec.sec, s.sec.dbg, s.sec.causes ||| 2 ^ c, s.sec.quarantineNext, s.sec.unlock) := by
          rw [writeRecordFree_key, modSec_key]; rfl
        rw [enterQuarantine_key]
        generalize writeRecordFree 2 _ = t at e ⊢
        simp only [Sec.key, Prod.mk.injEq] at e
        obtain ⟨e1, e2, e3, e4, e5⟩ := e
        have := or_pow_ne_zero s.sec.causes c
        simp only [keyOk_iff, Sec.key, e2, e3, e5, bit_or] at h ⊢
        cases hd : s.sec.dbg <;> cases hs : s.sec.sec <;> simp_all <;> grind

theorem lateQuarantine_ok (s : State) : Keeps s (lateQuarantine s) := by
  intro h
  unfold lateQuarantine
  split
  · rename_i hq
    rw [enterQuarantine_key]
    simp only [keyOk_iff, Sec.key, hq] at h ⊢
    cases hd : s.sec.dbg <;> cases hs : s.sec.sec <;> simp_all
  · exact h

theorem recordTamper_ok (s : State) : Keeps s (recordTamper s) := by
  unfold recordTamper
  split
  · exact keeps_refl _
  · exact keeps_via (by rw [secEvent_key, modSec_key]; rfl) (quarantine_ok _ _)

theorem tamper_ok (src : Nat) (s : State) : Keeps s (tamper src s) := by
  unfold tamper
  split
  · exact keeps_refl _
  · dsimp only
    split
    · exact keeps_via (by rw [modSec_key]; rfl) (recordTamper_ok _)
    · exact keeps_of_eq (by rw [modSec_key]; rfl)

theorem onSpdm_ok (p : Nat) (f : State → State) (s : State) (h : ∀ t, Keeps t (f t)) : Keeps s (onSpdm p f s) := by
  unfold onSpdm
  split
  · exact h s
  · exact keeps_refl _

theorem afterStep_ok (p : Nat) (b : Bool) (f : State → State) (s : State) (h : ∀ t, Keeps t (f t)) : Keeps s (afterStep p b f s) := by
  unfold afterStep
  split
  · exact h s
  · exact keeps_of_eq (by simp)

theorem verifyFailed_ok (p : Nat) (s : State) : Keeps s (verifyFailed p s) := by
  unfold verifyFailed
  dsimp only
  split
  · exact keeps_of_eq (by simp)
  · split
    · exact keeps_of_eq (by simp)
    · exact keeps_via (by simp) (quarantine_ok _ _)

theorem keyExchange_ok (p sid : Nat) (b : Bool) (s : State) : Keeps s (keyExchange p sid b s) := by
  unfold keyExchange
  apply afterStep_ok
  intro t
  split
  · exact keeps_of_eq (by rw [spdmSigned_key]; intro u; simp)
  · exact verifyFailed_ok p t

theorem finishSession_ok (p : Nat) (b : Bool) (s : State) : Keeps s (finishSession p b s) := by
  unfold finishSession
  apply afterStep_ok
  intro t
  split
  · exact keeps_of_eq (by simp)
  · exact verifyFailed_ok p t

/-- A check that must not be set, where the request is carried out. -/
theorem checked_ok (rid : Nat) (l : List (Bool × Nat)) (ok : State → State) (s : State)
    (h : (∀ e ∈ l, e.1 = false) → Keeps s (ok s)) : Keeps s (checked rid l ok s) := by
  unfold checked
  split
  · exact keeps_of_eq (by simp)
  · rename_i hn
    apply h
    intro e he
    unfold firstErr at hn
    obtain ⟨b, n⟩ := e
    simp at hn
    cases b
    · rfl
    · exact absurd he (hn n)

theorem serve_ok (svc op rid : Nat) (f : Req → State → State) (s : State) (h : ∀ r, Keeps s (f r s)) : Keeps s (serve svc op rid f s) := by
  unfold serve
  split
  · exact keeps_refl _
  · split
    · exact h _
    · exact keeps_refl _

theorem admitBody_ok (r : Req) (s : State) : Keeps s (admitBody r s) := by
  unfold admitBody
  apply checked_ok
  intro hc h
  have h3 := hc _ (List.mem_cons_of_mem _ (List.mem_cons_of_mem _ (List.mem_cons_self ..)))
  simp only [decide_eq_false_iff_not, not_or, Decidable.not_not] at h3
  split
  · rw [setRunning_key]; exact h
  · unfold admitModule announced
    rw [complete_key, announce_key, modCtxs_key, modSec_key]
    have e : (disarmAll s).sec = s.sec := rfl
    rw [e]
    simp only [keyOk_iff, Sec.key, h3] at h ⊢
    simp_all

theorem rejectBody_ok (r : Req) (s : State) : Keeps s (rejectBody r s) := by
  unfold rejectBody
  apply checked_ok
  intro _
  exact keeps_via (by simp) (quarantine_ok _ _)

theorem withToken_ok (magic : String) (r : Req) (given : Bytes) (sigOk : Bool) (ok : Bytes → State → State) (s : State)
    (h : ∀ a t, t.sec.key = s.sec.key → Keeps t (ok a t)) : Keeps s (withToken magic r given sigOk ok s) := by
  unfold withToken
  dsimp only
  split
  · exact keeps_of_eq (by simp)
  · rename_i hr
    have e := refRead_key hr
    split
    · refine keeps_via ?_ (h _ _ ?_) <;> (rw [modSec_key]; exact e)
    · exact keeps_of_eq (by rw [fail_key, modSec_key]; exact e)

/-- What a cause leaves of the key: neither Blank, where it arises outside Blank, nor a bit of the causes is lost. -/
theorem quarantine_key (c : Nat) (s : State) (hb : s.sec.sec ≠ .blank) :
    (quarantine c s).sec.dbg = s.sec.dbg ∧ (quarantine c s).sec.causes = s.sec.causes ||| 2 ^ c
      ∧ (quarantine c s).sec.unlock = s.sec.unlock := by
  have e : (writeRecordFree 2 (modSec (fun x => { x with causes := x.causes ||| 2 ^ c }) s)).sec.key
      = (s.sec.sec, s.sec.dbg, s.sec.causes ||| 2 ^ c, s.sec.quarantineNext, s.sec.unlock) := by
    rw [writeRecordFree_key, modSec_key]; rfl
  have f : (quarantine c s).sec.key.2.1 = s.sec.dbg ∧ (quarantine c s).sec.key.2.2.1 = s.sec.causes ||| 2 ^ c
      ∧ (quarantine c s).sec.key.2.2.2.2 = s.sec.unlock := by
    unfold quarantine
    simp only [hb, if_false]
    split
    · rw [keysFor_key, e]; simp
    · split
      · generalize writeRecordFree 2 _ = t at e ⊢
        simp only [Sec.key, Prod.mk.injEq] at e
        rw [modSec_key]
        simp [Sec.key, e]
      · rw [enterQuarantine_key]
        generalize writeRecordFree 2 _ = t at e ⊢
        simp only [Sec.key, Prod.mk.injEq] at e
        simp [e]
  exact f

/-- An unlock may wait where `DEBUG` is set. -/
theorem keyOk_unlock (x : Sec) (v : Option (Nat × Nat)) (h : KeyOk x.key) (b : bit x.causes 2 = true) :
    KeyOk (x.sec, x.dbg, x.causes, x.quarantineNext, v) := ⟨h.pair, h.cause, h.due, fun _ => b⟩

theorem unlockBody_ok (given : Bytes) (sigOk : Bool) (r : Req) (s : State) : Keeps s (unlockBody given sigOk r s) := by
  unfold unlockBody
  split
  · exact keeps_refl _
  · apply checked_ok
    intro hc
    have h2 := hc _ (List.mem_cons_of_mem _ (List.mem_cons_of_mem _ (List.mem_cons_self ..)))
    simp only [Bool.or_eq_false_iff, decide_eq_false_iff_not, not_or, Decidable.not_not] at h2
    apply withToken_ok
    intro tok t ht k
    rw [modSec_key]
    have hs : (setRunning r.rid t).sec.key = t.sec.key := by simp
    have hb : (setRunning r.rid t).sec.sec ≠ .blank := by
      have := congrArg (·.1) (hs.trans ht)
      simp only [Sec.key] at this
      rw [this]; exact h2.1.1
    have q := quarantine_ok 2 (setRunning r.rid t) (by rw [hs]; exact k)
    have g := quarantine_key 2 (setRunning r.rid t) hb
    exact keyOk_unlock (quarantine 2 (setRunning r.rid t)).sec _ q (by rw [g.2.1, bit_or]; simp)

theorem recoverBody_ok (given : Bytes) (sigOk : Bool) (r : Req) (s : State) : Keeps s (recoverBody given sigOk r s) := by
  unfold recoverBody
  apply checked_ok
  intro hc
  have h2 := hc _ (List.mem_cons_of_mem _ (List.mem_cons_of_mem _ (List.mem_cons_self ..)))
  simp only [Bool.not_eq_false'] at h2
  apply withToken_ok
  intro tok t ht k
  unfold announced
  dsimp only
  rw [complete_key, announce_key, writeRecordFree_key, modSec_key]
  have hb : bit t.sec.causes 1 = true := by
    have := congrArg (·.2.2.1) ht
    simp only [Sec.key] at this
    rw [this]; exact h2
  have bit2 : bit (t.sec.causes - 2) 2 = bit t.sec.causes 2 := by
    unfold bit at hb ⊢
    simp only [Nat.testBit_eq_decide_div_mod_eq] at hb ⊢
    simp at hb ⊢
    omega
  simp only [keyOk_iff, Sec.key] at k ⊢
  have key0 : t.sec.causes - 2 = 0 → bit t.sec.causes 2 = false := by
    intro h; rw [← bit2, h]; simp [bit]
  have ne : t.sec.causes ≠ 0 := by intro h; rw [h] at hb; simp [bit] at hb
  cases hd : t.sec.dbg <;> cases hs : t.sec.sec <;> cases hq : t.sec.quarantineNext <;> cases hu : t.sec.unlock <;>
    by_cases hm : t.sec.causes - 2 = 0 <;> simp_all

theorem wakeUp_ok (s : State) : Keeps s (wakeUp s) := by
  unfold wakeUp
  split
  · exact keeps_via (by simp) (recordTamper_ok _)
  · exact keeps_refl _

theorem wakeAsk_ok (s : State) : Keeps s (wakeAsk s) := by
  unfold wakeAsk
  split
  · exact wakeUp_ok s
  · split
    · exact keeps_of_eq (modPwr_key _ _)
    · exact keeps_refl _

theorem wakeAfter_ok (s : State) : Keeps s (wakeAfter s) := by
  unfold wakeAfter
  split
  · exact keeps_refl _
  · split
    · exact wakeUp_ok s
    · split
      · exact keeps_refl _
      · exact keeps_of_eq (modPwr_key _ _)

theorem setStateBody_ok (r : Req) (s : State) : Keeps s (setStateBody r s) := by
  unfold setStateBody
  split
  · exact keeps_refl _
  · refine keeps_trans ?_ (wakeAfter_ok _)
    apply checked_ok
    intro _
    exact keeps_of_eq (enterBivouac_key _ _)

theorem tripJunction_ok (b : Bool) (s : State) : Keeps s (tripJunction b s) := by
  unfold tripJunction
  dsimp only
  split
  · split
    · exact keeps_of_eq (by (repeat' split) <;> simp)
    · exact keeps_via (by (repeat' split) <;> simp) (tamper_ok _ _)
  · exact keeps_refl _

theorem resetSec_ok (s : State) : Keeps s (resetSec s) := by
  intro h
  unfold resetSec
  rw [modSec_key]
  simp only [keyOk_iff, Sec.key] at h ⊢
  cases hd : s.sec.dbg <;> cases hs : s.sec.sec <;> simp_all

theorem resetDomains_ok (last : Nat) (s : State) : Keeps s (resetDomains last s) := by
  unfold resetDomains
  dsimp only
  refine keeps_trans ?_ (keeps_of_eq (foldl_key _ (by intro t d; simp) _ _))
  refine keeps_trans ?_ (keeps_of_eq (resetHost_key _ _))
  refine keeps_trans ?_ (keeps_of_eq (resetClocks_key _))
  refine keeps_trans ?_ (keeps_of_eq (resetPwr_key _))
  refine keeps_trans ?_ (keeps_of_eq (resetMon_key _))
  refine keeps_trans ?_ (keeps_of_eq (resetFw_key _))
  exact keeps_via (by simp) (resetSec_ok _)

theorem powerOnSec_ok (x : Sec) (h : KeyOk x.key) : KeyOk (powerOnSec x).key := by
  unfold powerOnSec
  simp only [keyOk_iff, Sec.key] at h ⊢
  cases hd : x.dbg <;> cases hs : x.sec <;> cases hq : x.quarantineNext <;> cases hb : bit x.causes 1 <;> simp_all [bit]

theorem powerOn_ok (s : State) : Keeps s (powerOn s) := by
  intro k
  unfold powerOn
  dsimp only
  rw [startBoot_key]
  dsimp only
  apply resetDomains_ok 0
  dsimp only
  rw [modFtl_key, modFw_key, modSearch_key, modPorts_key, modSec_key]
  apply powerOnSec_ok
  rw [modPwr_key]
  simpa using k

theorem abseilEnd_ok (b : Bool) (ms : Nat) (s : State) : Keeps s (abseilEnd b ms s) := by
  unfold abseilEnd
  dsimp only
  split
  · generalize ht : modCnt _ _ = t
    have e : t.sec.key = s.sec.key := by rw [← ht]; simp
    split
    · apply keeps_of_eq; simp [e]
    · split
      · apply keeps_of_eq; simp [e]
      · exact keeps_via e (powerOn_ok _)
  · exact keeps_refl _

theorem settledReset_ok (s t : State) (h : t.sec.key = s.sec.key) : Keeps s (resetDomains 1 (settleAgents (settleMem t))) := by
  refine keeps_trans ?_ (resetDomains_ok 1 _)
  apply keeps_of_eq
  rw [settleAgents_key, settleMem_key, h]

theorem resetNow_ok (s : State) : Keeps s (resetNow s) := by
  intro k
  unfold resetNow
  dsimp only
  refine settledReset_ok s _ ?_ k
  split <;> simp

theorem carryReset_ok (s : State) : Keeps s (carryReset s) := by
  unfold carryReset
  split
  · exact resetNow_ok { s with host := { s.host with warmHeld := false } }
  · exact keeps_refl _

theorem handoverEnd_ok (s : State) : Keeps s (handoverEnd s) := keeps_via (endHand_key s) (carryReset_ok _)

theorem askReset_ok (pin hold : Bool) (s : State) : Keeps s (askReset pin hold s) := keeps_of_eq (askReset_key ..)

theorem warmReset_ok (pin hold : Bool) (s : State) : Keeps s (warmReset pin hold s) := by
  unfold warmReset
  split
  · exact keeps_trans (askReset_ok pin hold s) (keeps_of_eq rfl)
  · exact keeps_trans (askReset_ok pin hold s) (keeps_of_eq rfl)
  · exact keeps_trans (wakeUp_ok s) (keeps_trans (askReset_ok pin hold _) (resetNow_ok _))
  · exact keeps_refl _
  · exact keeps_refl _
  · exact keeps_refl _
  all_goals exact keeps_trans (askReset_ok pin hold s) (resetNow_ok _)

theorem resetPin_ok (n : Nat) (b c : Bool) (s : State) : Keeps s (resetPin n b c s) := by
  unfold resetPin
  dsimp only
  split
  · exact keeps_refl _
  · split
    · split
      · split
        · intro k
          rw [modPwr_key]
          dsimp only
          exact settledReset_ok s _ (modPwr_key _ _) k
        · intro k
          rw [startBoot_key]
          dsimp only
          exact settledReset_ok s _ (modPwr_key _ _) k
      · exact keeps_refl _
    · exact warmReset_ok true b s

theorem foldl_ok {α : Type} (f : State → α → State) (h : ∀ t a, Keeps t (f t a)) (l : List α) (s : State) : Keeps s (l.foldl f s) := by
  induction l generalizing s with
  | nil => exact keeps_refl _
  | cons a r ih => exact keeps_trans (h s a) (ih _)

theorem basecampTamper_ok (s : State) : Keeps s (basecampTamper s) := by
  unfold basecampTamper
  split
  · exact keeps_refl _
  · rename_i hb
    intro h
    rw [writeRecordFree_key, modSec_key]
    simp only [not_or] at hb
    have b2 : bit (s.sec.causes ||| 2) 2 = bit s.sec.causes 2 := by
      have := bit_or s.sec.causes 1 2; simpa using this
    have ne : s.sec.causes ||| 2 ≠ 0 := or_pow_ne_zero s.sec.causes 1
    simp only [keyOk_iff, Sec.key, b2] at h ⊢
    cases hd : s.sec.dbg <;> cases hs : s.sec.sec <;> simp_all

theorem bootTamper_ok (s : State) : Keeps s (bootTamper s) := by
  unfold bootTamper
  split
  · exact keeps_refl _
  · exact keeps_of_eq (by simp)

theorem bootImage_ok (r : BootReport) (s : State) : Keeps s (bootImage r s) := by
  unfold bootImage
  dsimp only
  refine keeps_trans (keeps_via (recoverErases_key s) (basecampTamper_ok _)) (keeps_of_eq ?_)
  split <;> simp

theorem bootReady_ok (r : BootReport) (s : State) : Keeps s (bootReady r s) := by
  unfold bootReady
  dsimp only
  have h0 : Keeps s (lateQuarantine (freeLeft (failSpares r.spareFailed s))) := keeps_via (by simp) (lateQuarantine_ok _)
  generalize lateQuarantine (freeLeft (failSpares r.spareFailed s)) = t at h0 ⊢
  have h1 : Keeps s (seedAdmin (((compareCaps t).agents.models.map (·.1)).foldl allocPool (compareCaps t))) := by
    refine keeps_trans h0 (keeps_of_eq ?_)
    rw [seedAdmin_key, foldl_key, compareCaps_key]
    intro u d; simp
  generalize seedAdmin _ = u at h1 ⊢
  have h2 : Keeps s (enterReady (bootTamper u)) := keeps_trans h1 (keeps_trans (bootTamper_ok u) (by apply keeps_of_eq; simp))
  generalize enterReady _ = v at h2 ⊢
  split
  · refine keeps_trans h2 (keeps_of_eq ?_)
    rw [slotFallback_key]
  · exact h2

theorem bootStepEnd_ok (n : Nat) (r : BootReport) (s : State) : Keeps s (bootStepEnd n r s) := by
  unfold bootStepEnd
  split
  · apply keeps_of_eq; simp
  · exact bootImage_ok r s
  · apply keeps_of_eq; simp
  · apply keeps_of_eq; simp
  · apply keeps_of_eq; simp
  · exact bootReady_ok r s

theorem boot_ok (r : BootReport) (s : State) : Keeps s (boot r s) := by
  unfold boot
  dsimp only
  refine keeps_trans (?_ : Keeps s (if s.host.ifState = .reset ∧ s.pwr.resetHeld = false then startBoot s else s)) (foldl_ok _ (fun t n => ?_) _ _)
  · split
    · apply keeps_of_eq; rw [startBoot_key]
    · exact keeps_refl _
  · split
    · exact bootStepEnd_ok n r t
    · exact keeps_refl _

theorem rstWrite_ok (v : U32) (s : State) : Keeps s (rstWrite v s) := by
  unfold rstWrite
  split
  · exact keeps_refl _
  · split
    · unfold execWarmReset after
      dsimp only
      split
      · exact warmReset_ok _ _ _
      · exact keeps_refl _
    · apply keeps_of_eq; simp
    · apply keeps_of_eq; simp
    · exact keeps_refl _

theorem cwWrite_ok (off size : Nat) (v : U64) (s : State) : Keeps s (cwWrite off size v s) := by
  unfold cwWrite
  split
  · apply keeps_of_eq; simp
  · repeat' split
    all_goals first
      | exact rstWrite_ok _ _
      | exact keeps_refl _
      | (apply keeps_of_eq; first | rfl | simp)

theorem cwAccess_ok (a : Bool) (off size v : Nat) (f : State → State) (s : State) (h : ∀ t, Keeps t (f t)) :
    Keeps s (cwAccess a off size v f s) := by
  unfold cwAccess
  split
  · apply keeps_of_eq; simp
  · split
    · exact h s
    · split
      · exact keeps_refl _
      · apply keeps_of_eq; simp

theorem onPage_ok (c : Nat) (who : Option Nat) (f : Slot → State → State) (s : State) (h : ∀ k t, (f k t).sec.key = t.sec.key) :
    Keeps s (onPage c who f s) := keeps_of_eq (onPage_key c who f s h)

theorem regWrite_ok (w : RegWrite) (s : State) : Keeps s (regWrite w s) := by
  by_cases hb : w.blk = .controlWindow
  · unfold regWrite
    rw [hb]
    exact cwAccess_ok _ _ _ _ _ _ (fun t => cwWrite_ok _ _ _ t)
  · apply keeps_of_eq
    unfold regWrite
    split
    all_goals first
      | (exact absurd ‹_› hb)
      | (simp; done)
      | (split <;> simp)

theorem writeNow_ok (pk : Packet) (d : Bytes) (s : State) : Keeps s (writeNow pk d s) := by
  unfold writeNow
  split
  · refine keeps_trans ?_ (keeps_of_eq (answer_key _ _ _ _))
    split
    · exact cwWrite_ok _ _ _ _
    · exact keeps_refl _
  · apply keeps_of_eq; rw [answer_key]; split <;> simp
  · split
    · apply keeps_of_eq; simp
    · split
      · rename_i h
        apply keeps_of_eq; rw [answer_key, ctxWrite_key h]
      · apply keeps_of_eq; simp
      · apply keeps_of_eq; simp
  · apply keeps_of_eq; simp

theorem accessNow_ok (h : HeldAccess) (s : State) : Keeps s (accessNow h s) := by
  unfold accessNow
  split
  · apply keeps_of_eq
    rw [returnRx_key]
    split <;> simp
  · refine keeps_trans ?_ (keeps_of_eq (returnRx_key ..))
    split
    · exact writeNow_ok _ _ _
    · apply keeps_of_eq; simp

theorem arrive_ok (h : HeldAccess) (s : State) : Keeps s (arrive h s) := by
  unfold arrive
  split
  · exact keeps_refl _
  · split
    · apply keeps_of_eq; rw [modSec_key]; rfl
    · exact accessNow_ok _ _

theorem finishUnlock_ok (s : State) (hq : s.sec.quarantineNext = false) : Keeps s (finishUnlock s) := by
  intro k
  unfold finishUnlock
  split
  · rename_i hu
    unfold announced
    rw [complete_key, announce_key, modSec_key]
    have kd := k.debug
    simp only [keyOk_iff, Sec.key, hq, hu] at k kd ⊢
    have b2 : bit s.sec.causes 2 = true := kd (.inr rfl)
    have ne : s.sec.causes ≠ 0 := by intro h; rw [h] at b2; simp [bit] at b2
    cases hd : s.sec.dbg <;> cases hs : s.sec.sec <;> simp_all
  · exact k

theorem quarantineDue_ok (s : State) (h : s.sec.quarantineNext = true) : Keeps s (enterQuarantine s) := by
  have e : enterQuarantine s = lateQuarantine s := by unfold lateQuarantine; rw [h]; rfl
  rw [e]
  exact lateQuarantine_ok s

theorem finishAdmit_ok (s : State) : Keeps s (finishAdmit s) := foldl_ok _ (fun t r => admitBody_ok r t) _ _

theorem admitBody_due (r : Req) (s : State) : (admitBody r s).sec.quarantineNext = s.sec.quarantineNext := by
  have key : ∀ t u : State, t.sec.key = u.sec.key → t.sec.quarantineNext = u.sec.quarantineNext := by
    intro t u h; have := congrArg (·.2.2.2.1) h; exact this
  unfold admitBody checked
  split
  · exact key _ _ (fail_key ..)
  · dsimp only
    split
    · exact key _ _ (setRunning_key ..)
    · rw [key _ _ (complete_key ..)]
      unfold admitModule announced
      rw [key _ _ (announce_key ..), key _ _ (modCtxs_key ..), modSec_key]
      rfl

theorem finishAdmit_due (s : State) : (finishAdmit s).sec.quarantineNext = s.sec.quarantineNext := by
  unfold finishAdmit
  generalize List.filter _ _ = l
  induction l generalizing s with
  | nil => rfl
  | cons a r ih => rw [List.foldl_cons, ih, admitBody_due]

theorem enterQuarantine_due (s : State) : (enterQuarantine s).sec.quarantineNext = false := by
  have := congrArg (·.2.2.2.1) (enterQuarantine_key s)
  exact this

theorem releaseHeld_ok (s : State) : Keeps s (releaseHeld s) := by
  unfold releaseHeld
  dsimp only
  generalize ht : List.foldl (fun t h => accessNow h t) _ s.sec.heldPortH = t
  have h : Keeps s t := by
    rw [← ht]
    refine keeps_trans ?_ (foldl_ok _ (fun t h => accessNow_ok h t) _ _)
    apply keeps_of_eq
    simp
  generalize hu : (if t.sec.quarantineNext then enterQuarantine t else t) = u
  have hd : u.sec.quarantineNext = false := by
    rw [← hu]
    split
    · exact enterQuarantine_due t
    · rename_i hn; simpa using hn
  have h2 : Keeps s u := by
    refine keeps_trans h ?_
    rw [← hu]
    split
    · exact quarantineDue_ok t ‹_›
    · exact keeps_refl _
  refine keeps_trans (keeps_trans h2 (finishAdmit_ok u)) ?_
  (repeat' split)
  · exact finishUnlock_ok _ (by rw [finishAdmit_due]; exact hd)
  · exact keeps_refl _
  · exact keeps_of_eq (startScrub_key _)

theorem scrubEnd_ok (b : Bool) (s : State) : Keeps s (scrubEnd b s) := by
  unfold scrubEnd
  split
  · exact keeps_refl _
  · split
    · exact keeps_refl _
    · rename_i x _ _
      refine keeps_trans ?_ (carryReset_ok _)
      split
      · exact keeps_of_eq (enterSafe_key s)
      · exact keeps_via (scrubDone_key x s) (releaseHeld_ok _)

theorem endStates_ok (s : State) : Keeps s (endStates s) := by
  unfold endStates
  split
  · exact handoverEnd_ok s
  · exact carryReset_ok s

theorem scrubTimes_ok (s : State) : Keeps s (scrubTimes s) := by
  unfold scrubTimes
  split
  · exact keeps_of_eq (startScrub_key s)
  · split
    · exact scrubEnd_ok _ s
    · exact keeps_refl _

theorem debugRegWriteBody_ok (r : Req) (s : State) : Keeps s (debugRegWriteBody r s) := by
  unfold debugRegWriteBody
  apply checked_ok
  intro _
  exact keeps_trans (cwWrite_ok _ _ _ s) (keeps_of_eq (complete_key _ _ _ _))

theorem jtag_ok (b : Bool) (w : RegWrite) (wr : Bool) (s : State) : Keeps s (jtag b w wr s) := by
  unfold jtag
  split
  · exact keeps_refl _
  · refine keeps_trans (tamper_ok 1 s) ?_
    dsimp only
    (repeat' split)
    · exact keeps_of_eq (setRead_key ..)
    · unfold jtagWrite
      split
      · exact cwWrite_ok _ _ _ _
      · exact regWrite_ok _ _
    · exact keeps_of_eq (regRead_key ..)
    · exact keeps_refl _
    · exact keeps_of_eq (setRead_key ..)

end Sys2Proof.Machine
end

