-- ==== Sys2Proof/Laws/State.lean ====
section
/-! SUPPORT. Each update of the state, field by field: what it writes, and that it leaves the others alone. -/
namespace Sys2Proof.Machine

/-! ### Ops -/

@[simp] theorem bumpFree_freeCtr (s : State) : (bumpFree s).freeCtr = s.freeCtr + 1 := rfl
@[simp] theorem bumpFree_clocks (s : State) : (bumpFree s).clocks = s.clocks := rfl
@[simp] theorem bumpFree_caps (s : State) : (bumpFree s).caps = s.caps := rfl
@[simp] theorem bumpFree_host (s : State) : (bumpFree s).host = s.host := rfl
@[simp] theorem bumpFree_ledger (s : State) : (bumpFree s).ledger = s.ledger := rfl
@[simp] theorem bumpFree_eng (s : State) : (bumpFree s).eng = s.eng := rfl
@[simp] theorem bumpFree_task (s : State) : (bumpFree s).task = s.task := rfl
@[simp] theorem bumpFree_ctxs (s : State) : (bumpFree s).ctxs = s.ctxs := rfl
@[simp] theorem bumpFree_agents (s : State) : (bumpFree s).agents = s.agents := rfl
@[simp] theorem bumpFree_mem (s : State) : (bumpFree s).mem = s.mem := rfl
@[simp] theorem bumpFree_ecc (s : State) : (bumpFree s).ecc = s.ecc := rfl
@[simp] theorem bumpFree_ftl (s : State) : (bumpFree s).ftl = s.ftl := rfl
@[simp] theorem bumpFree_store (s : State) : (bumpFree s).store = s.store := rfl
@[simp] theorem bumpFree_search (s : State) : (bumpFree s).search = s.search := rfl
@[simp] theorem bumpFree_ports (s : State) : (bumpFree s).ports = s.ports := rfl
@[simp] theorem bumpFree_tune (s : State) : (bumpFree s).tune = s.tune := rfl
@[simp] theorem bumpFree_sec (s : State) : (bumpFree s).sec = s.sec := rfl
@[simp] theorem bumpFree_pwr (s : State) : (bumpFree s).pwr = s.pwr := rfl
@[simp] theorem bumpFree_fw (s : State) : (bumpFree s).fw = s.fw := rfl
@[simp] theorem bumpFree_mon (s : State) : (bumpFree s).mon = s.mon := rfl
@[simp] theorem bumpFreeBy_freeCtr (n : Nat) (s : State) : (bumpFreeBy n s).freeCtr = s.freeCtr + n := rfl
@[simp] theorem bumpFreeBy_clocks (n : Nat) (s : State) : (bumpFreeBy n s).clocks = s.clocks := rfl
@[simp] theorem bumpFreeBy_caps (n : Nat) (s : State) : (bumpFreeBy n s).caps = s.caps := rfl
@[simp] theorem bumpFreeBy_host (n : Nat) (s : State) : (bumpFreeBy n s).host = s.host := rfl
@[simp] theorem bumpFreeBy_ledger (n : Nat) (s : State) : (bumpFreeBy n s).ledger = s.ledger := rfl
@[simp] theorem bumpFreeBy_eng (n : Nat) (s : State) : (bumpFreeBy n s).eng = s.eng := rfl
@[simp] theorem bumpFreeBy_task (n : Nat) (s : State) : (bumpFreeBy n s).task = s.task := rfl
@[simp] theorem bumpFreeBy_ctxs (n : Nat) (s : State) : (bumpFreeBy n s).ctxs = s.ctxs := rfl
@[simp] theorem bumpFreeBy_agents (n : Nat) (s : State) : (bumpFreeBy n s).agents = s.agents := rfl
@[simp] theorem bumpFreeBy_mem (n : Nat) (s : State) : (bumpFreeBy n s).mem = s.mem := rfl
@[simp] theorem bumpFreeBy_ecc (n : Nat) (s : State) : (bumpFreeBy n s).ecc = s.ecc := rfl
@[simp] theorem bumpFreeBy_ftl (n : Nat) (s : State) : (bumpFreeBy n s).ftl = s.ftl := rfl
@[simp] theorem bumpFreeBy_store (n : Nat) (s : State) : (bumpFreeBy n s).store = s.store := rfl
@[simp] theorem bumpFreeBy_search (n : Nat) (s : State) : (bumpFreeBy n s).search = s.search := rfl
@[simp] theorem bumpFreeBy_ports (n : Nat) (s : State) : (bumpFreeBy n s).ports = s.ports := rfl
@[simp] theorem bumpFreeBy_tune (n : Nat) (s : State) : (bumpFreeBy n s).tune = s.tune := rfl
@[simp] theorem bumpFreeBy_sec (n : Nat) (s : State) : (bumpFreeBy n s).sec = s.sec := rfl
@[simp] theorem bumpFreeBy_pwr (n : Nat) (s : State) : (bumpFreeBy n s).pwr = s.pwr := rfl
@[simp] theorem bumpFreeBy_fw (n : Nat) (s : State) : (bumpFreeBy n s).fw = s.fw := rfl
@[simp] theorem bumpFreeBy_mon (n : Nat) (s : State) : (bumpFreeBy n s).mon = s.mon := rfl
@[simp] theorem modSlot_freeCtr (c : Nat) (f : Slot → Slot) (s : State) : (modSlot c f s).freeCtr = s.freeCtr := rfl
@[simp] theorem modSlot_clocks (c : Nat) (f : Slot → Slot) (s : State) : (modSlot c f s).clocks = s.clocks := rfl
@[simp] theorem modSlot_caps (c : Nat) (f : Slot → Slot) (s : State) : (modSlot c f s).caps = s.caps := rfl
@[simp] theorem modSlot_host (c : Nat) (f : Slot → Slot) (s : State) : (modSlot c f s).host = s.host := rfl
@[simp] theorem modSlot_ledger (c : Nat) (f : Slot → Slot) (s : State) : (modSlot c f s).ledger = s.ledger := rfl
@[simp] theorem modSlot_eng (c : Nat) (f : Slot → Slot) (s : State) : (modSlot c f s).eng = s.eng := rfl
@[simp] theorem modSlot_task (c : Nat) (f : Slot → Slot) (s : State) : (modSlot c f s).task = s.task := rfl
@[simp] theorem modSlot_ctxs (c : Nat) (f : Slot → Slot) (s : State) : (modSlot c f s).ctxs = { s.ctxs with slots := tmod s.ctxs.slots c f } := rfl
@[simp] theorem modSlot_agents (c : Nat) (f : Slot → Slot) (s : State) : (modSlot c f s).agents = s.agents := rfl
@[simp] theorem modSlot_mem (c : Nat) (f : Slot → Slot) (s : State) : (modSlot c f s).mem = s.mem := rfl
@[simp] theorem modSlot_ecc (c : Nat) (f : Slot → Slot) (s : State) : (modSlot c f s).ecc = s.ecc := rfl
@[simp] theorem modSlot_ftl (c : Nat) (f : Slot → Slot) (s : State) : (modSlot c f s).ftl = s.ftl := rfl
@[simp] theorem modSlot_store (c : Nat) (f : Slot → Slot) (s : State) : (modSlot c f s).store = s.store := rfl
@[simp] theorem modSlot_search (c : Nat) (f : Slot → Slot) (s : State) : (modSlot c f s).search = s.search := rfl
@[simp] theorem modSlot_ports (c : Nat) (f : Slot → Slot) (s : State) : (modSlot c f s).ports = s.ports := rfl
@[simp] theorem modSlot_tune (c : Nat) (f : Slot → Slot) (s : State) : (modSlot c f s).tune = s.tune := rfl
@[simp] theorem modSlot_sec (c : Nat) (f : Slot → Slot) (s : State) : (modSlot c f s).sec = s.sec := rfl
@[simp] theorem modSlot_pwr (c : Nat) (f : Slot → Slot) (s : State) : (modSlot c f s).pwr = s.pwr := rfl
@[simp] theorem modSlot_fw (c : Nat) (f : Slot → Slot) (s : State) : (modSlot c f s).fw = s.fw := rfl
@[simp] theorem modSlot_mon (c : Nat) (f : Slot → Slot) (s : State) : (modSlot c f s).mon = s.mon := rfl
@[simp] theorem emit_freeCtr (m : Tx) (s : State) : (emit m s).freeCtr = s.freeCtr := rfl
@[simp] theorem emit_clocks (m : Tx) (s : State) : (emit m s).clocks = s.clocks := rfl
@[simp] theorem emit_caps (m : Tx) (s : State) : (emit m s).caps = s.caps := rfl
@[simp] theorem emit_host (m : Tx) (s : State) : (emit m s).host = { s.host with out := s.host.out ++ [m] } := rfl
@[simp] theorem emit_ledger (m : Tx) (s : State) : (emit m s).ledger = s.ledger := rfl
@[simp] theorem emit_eng (m : Tx) (s : State) : (emit m s).eng = s.eng := rfl
@[simp] theorem emit_task (m : Tx) (s : State) : (emit m s).task = s.task := rfl
@[simp] theorem emit_ctxs (m : Tx) (s : State) : (emit m s).ctxs = s.ctxs := rfl
@[simp] theorem emit_agents (m : Tx) (s : State) : (emit m s).agents = s.agents := rfl
@[simp] theorem emit_mem (m : Tx) (s : State) : (emit m s).mem = s.mem := rfl
@[simp] theorem emit_ecc (m : Tx) (s : State) : (emit m s).ecc = s.ecc := rfl
@[simp] theorem emit_ftl (m : Tx) (s : State) : (emit m s).ftl = s.ftl := rfl
@[simp] theorem emit_store (m : Tx) (s : State) : (emit m s).store = s.store := rfl
@[simp] theorem emit_search (m : Tx) (s : State) : (emit m s).search = s.search := rfl
@[simp] theorem emit_ports (m : Tx) (s : State) : (emit m s).ports = s.ports := rfl
@[simp] theorem emit_tune (m : Tx) (s : State) : (emit m s).tune = s.tune := rfl
@[simp] theorem emit_sec (m : Tx) (s : State) : (emit m s).sec = s.sec := rfl
@[simp] theorem emit_pwr (m : Tx) (s : State) : (emit m s).pwr = s.pwr := rfl
@[simp] theorem emit_fw (m : Tx) (s : State) : (emit m s).fw = s.fw := rfl
@[simp] theorem emit_mon (m : Tx) (s : State) : (emit m s).mon = s.mon := rfl
@[simp] theorem modReqs_freeCtr (f : List Req → List Req) (s : State) : (modReqs f s).freeCtr = s.freeCtr := rfl
@[simp] theorem modReqs_clocks (f : List Req → List Req) (s : State) : (modReqs f s).clocks = s.clocks := rfl
@[simp] theorem modReqs_caps (f : List Req → List Req) (s : State) : (modReqs f s).caps = s.caps := rfl
@[simp] theorem modReqs_host (f : List Req → List Req) (s : State) : (modReqs f s).host = s.host := rfl
@[simp] theorem modReqs_ledger (f : List Req → List Req) (s : State) : (modReqs f s).ledger = { s.ledger with reqs := f s.ledger.reqs } := rfl
@[simp] theorem modReqs_eng (f : List Req → List Req) (s : State) : (modReqs f s).eng = s.eng := rfl
@[simp] theorem modReqs_task (f : List Req → List Req) (s : State) : (modReqs f s).task = s.task := rfl
@[simp] theorem modReqs_ctxs (f : List Req → List Req) (s : State) : (modReqs f s).ctxs = s.ctxs := rfl
@[simp] theorem modReqs_agents (f : List Req → List Req) (s : State) : (modReqs f s).agents = s.agents := rfl
@[simp] theorem modReqs_mem (f : List Req → List Req) (s : State) : (modReqs f s).mem = s.mem := rfl
@[simp] theorem modReqs_ecc (f : List Req → List Req) (s : State) : (modReqs f s).ecc = s.ecc := rfl
@[simp] theorem modReqs_ftl (f : List Req → List Req) (s : State) : (modReqs f s).ftl = s.ftl := rfl
@[simp] theorem modReqs_store (f : List Req → List Req) (s : State) : (modReqs f s).store = s.store := rfl
@[simp] theorem modReqs_search (f : List Req → List Req) (s : State) : (modReqs f s).search = s.search := rfl
@[simp] theorem modReqs_ports (f : List Req → List Req) (s : State) : (modReqs f s).ports = s.ports := rfl
@[simp] theorem modReqs_tune (f : List Req → List Req) (s : State) : (modReqs f s).tune = s.tune := rfl
@[simp] theorem modReqs_sec (f : List Req → List Req) (s : State) : (modReqs f s).sec = s.sec := rfl
@[simp] theorem modReqs_pwr (f : List Req → List Req) (s : State) : (modReqs f s).pwr = s.pwr := rfl
@[simp] theorem modReqs_fw (f : List Req → List Req) (s : State) : (modReqs f s).fw = s.fw := rfl
@[simp] theorem modReqs_mon (f : List Req → List Req) (s : State) : (modReqs f s).mon = s.mon := rfl
@[simp] theorem modReq_freeCtr (rid : Nat) (f : Req → Req) (s : State) : (modReq rid f s).freeCtr = s.freeCtr := rfl
@[simp] theorem modReq_clocks (rid : Nat) (f : Req → Req) (s : State) : (modReq rid f s).clocks = s.clocks := rfl
@[simp] theorem modReq_caps (rid : Nat) (f : Req → Req) (s : State) : (modReq rid f s).caps = s.caps := rfl
@[simp] theorem modReq_host (rid : Nat) (f : Req → Req) (s : State) : (modReq rid f s).host = s.host := rfl
@[simp] theorem modReq_eng (rid : Nat) (f : Req → Req) (s : State) : (modReq rid f s).eng = s.eng := rfl
@[simp] theorem modReq_task (rid : Nat) (f : Req → Req) (s : State) : (modReq rid f s).task = s.task := rfl
@[simp] theorem modReq_ctxs (rid : Nat) (f : Req → Req) (s : State) : (modReq rid f s).ctxs = s.ctxs := rfl
@[simp] theorem modReq_agents (rid : Nat) (f : Req → Req) (s : State) : (modReq rid f s).agents = s.agents := rfl
@[simp] theorem modReq_mem (rid : Nat) (f : Req → Req) (s : State) : (modReq rid f s).mem = s.mem := rfl
@[simp] theorem modReq_ecc (rid : Nat) (f : Req → Req) (s : State) : (modReq rid f s).ecc = s.ecc := rfl
@[simp] theorem modReq_ftl (rid : Nat) (f : Req → Req) (s : State) : (modReq rid f s).ftl = s.ftl := rfl
@[simp] theorem modReq_store (rid : Nat) (f : Req → Req) (s : State) : (modReq rid f s).store = s.store := rfl
@[simp] theorem modReq_search (rid : Nat) (f : Req → Req) (s : State) : (modReq rid f s).search = s.search := rfl
@[simp] theorem modReq_ports (rid : Nat) (f : Req → Req) (s : State) : (modReq rid f s).ports = s.ports := rfl
@[simp] theorem modReq_tune (rid : Nat) (f : Req → Req) (s : State) : (modReq rid f s).tune = s.tune := rfl
@[simp] theorem modReq_sec (rid : Nat) (f : Req → Req) (s : State) : (modReq rid f s).sec = s.sec := rfl
@[simp] theorem modReq_pwr (rid : Nat) (f : Req → Req) (s : State) : (modReq rid f s).pwr = s.pwr := rfl
@[simp] theorem modReq_fw (rid : Nat) (f : Req → Req) (s : State) : (modReq rid f s).fw = s.fw := rfl
@[simp] theorem modReq_mon (rid : Nat) (f : Req → Req) (s : State) : (modReq rid f s).mon = s.mon := rfl
@[simp] theorem dropReq_freeCtr (rid : Nat) (s : State) : (dropReq rid s).freeCtr = s.freeCtr := rfl
@[simp] theorem dropReq_clocks (rid : Nat) (s : State) : (dropReq rid s).clocks = s.clocks := rfl
@[simp] theorem dropReq_caps (rid : Nat) (s : State) : (dropReq rid s).caps = s.caps := rfl
@[simp] theorem dropReq_host (rid : Nat) (s : State) : (dropReq rid s).host = s.host := rfl
@[simp] theorem dropReq_eng (rid : Nat) (s : State) : (dropReq rid s).eng = s.eng := rfl
@[simp] theorem dropReq_task (rid : Nat) (s : State) : (dropReq rid s).task = s.task := rfl
@[simp] theorem dropReq_ctxs (rid : Nat) (s : State) : (dropReq rid s).ctxs = s.ctxs := rfl
@[simp] theorem dropReq_agents (rid : Nat) (s : State) : (dropReq rid s).agents = s.agents := rfl
@[simp] theorem dropReq_mem (rid : Nat) (s : State) : (dropReq rid s).mem = s.mem := rfl
@[simp] theorem dropReq_ecc (rid : Nat) (s : State) : (dropReq rid s).ecc = s.ecc := rfl
@[simp] theorem dropReq_ftl (rid : Nat) (s : State) : (dropReq rid s).ftl = s.ftl := rfl
@[simp] theorem dropReq_store (rid : Nat) (s : State) : (dropReq rid s).store = s.store := rfl
@[simp] theorem dropReq_search (rid : Nat) (s : State) : (dropReq rid s).search = s.search := rfl
@[simp] theorem dropReq_ports (rid : Nat) (s : State) : (dropReq rid s).ports = s.ports := rfl
@[simp] theorem dropReq_tune (rid : Nat) (s : State) : (dropReq rid s).tune = s.tune := rfl
@[simp] theorem dropReq_sec (rid : Nat) (s : State) : (dropReq rid s).sec = s.sec := rfl
@[simp] theorem dropReq_pwr (rid : Nat) (s : State) : (dropReq rid s).pwr = s.pwr := rfl
@[simp] theorem dropReq_fw (rid : Nat) (s : State) : (dropReq rid s).fw = s.fw := rfl
@[simp] theorem dropReq_mon (rid : Nat) (s : State) : (dropReq rid s).mon = s.mon := rfl
@[simp] theorem modMbx_freeCtr (n : Nat) (f : Mbx → Mbx) (s : State) : (modMbx n f s).freeCtr = s.freeCtr := rfl
@[simp] theorem modMbx_clocks (n : Nat) (f : Mbx → Mbx) (s : State) : (modMbx n f s).clocks = s.clocks := rfl
@[simp] theorem modMbx_caps (n : Nat) (f : Mbx → Mbx) (s : State) : (modMbx n f s).caps = s.caps := rfl
@[simp] theorem modMbx_host (n : Nat) (f : Mbx → Mbx) (s : State) : (modMbx n f s).host = { s.host with mbx := tmod s.host.mbx n f } := rfl
@[simp] theorem modMbx_ledger (n : Nat) (f : Mbx → Mbx) (s : State) : (modMbx n f s).ledger = s.ledger := rfl
@[simp] theorem modMbx_eng (n : Nat) (f : Mbx → Mbx) (s : State) : (modMbx n f s).eng = s.eng := rfl
@[simp] theorem modMbx_task (n : Nat) (f : Mbx → Mbx) (s : State) : (modMbx n f s).task = s.task := rfl
@[simp] theorem modMbx_ctxs (n : Nat) (f : Mbx → Mbx) (s : State) : (modMbx n f s).ctxs = s.ctxs := rfl
@[simp] theorem modMbx_agents (n : Nat) (f : Mbx → Mbx) (s : State) : (modMbx n f s).agents = s.agents := rfl
@[simp] theorem modMbx_mem (n : Nat) (f : Mbx → Mbx) (s : State) : (modMbx n f s).mem = s.mem := rfl
@[simp] theorem modMbx_ecc (n : Nat) (f : Mbx → Mbx) (s : State) : (modMbx n f s).ecc = s.ecc := rfl
@[simp] theorem modMbx_ftl (n : Nat) (f : Mbx → Mbx) (s : State) : (modMbx n f s).ftl = s.ftl := rfl
@[simp] theorem modMbx_store (n : Nat) (f : Mbx → Mbx) (s : State) : (modMbx n f s).store = s.store := rfl
@[simp] theorem modMbx_search (n : Nat) (f : Mbx → Mbx) (s : State) : (modMbx n f s).search = s.search := rfl
@[simp] theorem modMbx_ports (n : Nat) (f : Mbx → Mbx) (s : State) : (modMbx n f s).ports = s.ports := rfl
@[simp] theorem modMbx_tune (n : Nat) (f : Mbx → Mbx) (s : State) : (modMbx n f s).tune = s.tune := rfl
@[simp] theorem modMbx_sec (n : Nat) (f : Mbx → Mbx) (s : State) : (modMbx n f s).sec = s.sec := rfl
@[simp] theorem modMbx_pwr (n : Nat) (f : Mbx → Mbx) (s : State) : (modMbx n f s).pwr = s.pwr := rfl
@[simp] theorem modMbx_fw (n : Nat) (f : Mbx → Mbx) (s : State) : (modMbx n f s).fw = s.fw := rfl
@[simp] theorem modMbx_mon (n : Nat) (f : Mbx → Mbx) (s : State) : (modMbx n f s).mon = s.mon := rfl
@[simp] theorem setRunning_freeCtr (rid : Nat) (s : State) : (setRunning rid s).freeCtr = s.freeCtr := rfl
@[simp] theorem setRunning_clocks (rid : Nat) (s : State) : (setRunning rid s).clocks = s.clocks := rfl
@[simp] theorem setRunning_caps (rid : Nat) (s : State) : (setRunning rid s).caps = s.caps := rfl
@[simp] theorem setRunning_host (rid : Nat) (s : State) : (setRunning rid s).host = s.host := rfl
@[simp] theorem setRunning_eng (rid : Nat) (s : State) : (setRunning rid s).eng = s.eng := rfl
@[simp] theorem setRunning_task (rid : Nat) (s : State) : (setRunning rid s).task = s.task := rfl
@[simp] theorem setRunning_ctxs (rid : Nat) (s : State) : (setRunning rid s).ctxs = s.ctxs := rfl
@[simp] theorem setRunning_agents (rid : Nat) (s : State) : (setRunning rid s).agents = s.agents := rfl
@[simp] theorem setRunning_mem (rid : Nat) (s : State) : (setRunning rid s).mem = s.mem := rfl
@[simp] theorem setRunning_ecc (rid : Nat) (s : State) : (setRunning rid s).ecc = s.ecc := rfl
@[simp] theorem setRunning_ftl (rid : Nat) (s : State) : (setRunning rid s).ftl = s.ftl := rfl
@[simp] theorem setRunning_store (rid : Nat) (s : State) : (setRunning rid s).store = s.store := rfl
@[simp] theorem setRunning_search (rid : Nat) (s : State) : (setRunning rid s).search = s.search := rfl
@[simp] theorem setRunning_ports (rid : Nat) (s : State) : (setRunning rid s).ports = s.ports := rfl
@[simp] theorem setRunning_tune (rid : Nat) (s : State) : (setRunning rid s).tune = s.tune := rfl
@[simp] theorem setRunning_sec (rid : Nat) (s : State) : (setRunning rid s).sec = s.sec := rfl
@[simp] theorem setRunning_pwr (rid : Nat) (s : State) : (setRunning rid s).pwr = s.pwr := rfl
@[simp] theorem setRunning_fw (rid : Nat) (s : State) : (setRunning rid s).fw = s.fw := rfl
@[simp] theorem setRunning_mon (rid : Nat) (s : State) : (setRunning rid s).mon = s.mon := rfl

/-! ### Operands -/

@[simp] theorem modUsage_freeCtr (c : Nat) (f : Usage → Usage) (s : State) : (modUsage c f s).freeCtr = s.freeCtr := rfl
@[simp] theorem modUsage_clocks (c : Nat) (f : Usage → Usage) (s : State) : (modUsage c f s).clocks = s.clocks := rfl
@[simp] theorem modUsage_caps (c : Nat) (f : Usage → Usage) (s : State) : (modUsage c f s).caps = s.caps := rfl
@[simp] theorem modUsage_host (c : Nat) (f : Usage → Usage) (s : State) : (modUsage c f s).host = s.host := rfl
@[simp] theorem modUsage_ledger (c : Nat) (f : Usage → Usage) (s : State) : (modUsage c f s).ledger = s.ledger := rfl
@[simp] theorem modUsage_eng (c : Nat) (f : Usage → Usage) (s : State) : (modUsage c f s).eng = s.eng := rfl
@[simp] theorem modUsage_task (c : Nat) (f : Usage → Usage) (s : State) : (modUsage c f s).task = s.task := rfl
@[simp] theorem modUsage_ctxs (c : Nat) (f : Usage → Usage) (s : State) : (modUsage c f s).ctxs = s.ctxs := rfl
@[simp] theorem modUsage_agents (c : Nat) (f : Usage → Usage) (s : State) : (modUsage c f s).agents = s.agents := rfl
@[simp] theorem modUsage_mem (c : Nat) (f : Usage → Usage) (s : State) : (modUsage c f s).mem = { s.mem with usage := tupd s.mem.usage c Usage.init f } := rfl
@[simp] theorem modUsage_ecc (c : Nat) (f : Usage → Usage) (s : State) : (modUsage c f s).ecc = s.ecc := rfl
@[simp] theorem modUsage_ftl (c : Nat) (f : Usage → Usage) (s : State) : (modUsage c f s).ftl = s.ftl := rfl
@[simp] theorem modUsage_store (c : Nat) (f : Usage → Usage) (s : State) : (modUsage c f s).store = s.store := rfl
@[simp] theorem modUsage_search (c : Nat) (f : Usage → Usage) (s : State) : (modUsage c f s).search = s.search := rfl
@[simp] theorem modUsage_ports (c : Nat) (f : Usage → Usage) (s : State) : (modUsage c f s).ports = s.ports := rfl
@[simp] theorem modUsage_tune (c : Nat) (f : Usage → Usage) (s : State) : (modUsage c f s).tune = s.tune := rfl
@[simp] theorem modUsage_sec (c : Nat) (f : Usage → Usage) (s : State) : (modUsage c f s).sec = s.sec := rfl
@[simp] theorem modUsage_pwr (c : Nat) (f : Usage → Usage) (s : State) : (modUsage c f s).pwr = s.pwr := rfl
@[simp] theorem modUsage_fw (c : Nat) (f : Usage → Usage) (s : State) : (modUsage c f s).fw = s.fw := rfl
@[simp] theorem modUsage_mon (c : Nat) (f : Usage → Usage) (s : State) : (modUsage c f s).mon = s.mon := rfl
@[simp] theorem modPage_freeCtr (p : Nat) (f : Page → Page) (s : State) : (modPage p f s).freeCtr = s.freeCtr := rfl
@[simp] theorem modPage_clocks (p : Nat) (f : Page → Page) (s : State) : (modPage p f s).clocks = s.clocks := rfl
@[simp] theorem modPage_caps (p : Nat) (f : Page → Page) (s : State) : (modPage p f s).caps = s.caps := rfl
@[simp] theorem modPage_host (p : Nat) (f : Page → Page) (s : State) : (modPage p f s).host = s.host := rfl
@[simp] theorem modPage_ledger (p : Nat) (f : Page → Page) (s : State) : (modPage p f s).ledger = s.ledger := rfl
@[simp] theorem modPage_eng (p : Nat) (f : Page → Page) (s : State) : (modPage p f s).eng = s.eng := rfl
@[simp] theorem modPage_task (p : Nat) (f : Page → Page) (s : State) : (modPage p f s).task = s.task := rfl
@[simp] theorem modPage_ctxs (p : Nat) (f : Page → Page) (s : State) : (modPage p f s).ctxs = s.ctxs := rfl
@[simp] theorem modPage_agents (p : Nat) (f : Page → Page) (s : State) : (modPage p f s).agents = s.agents := rfl
@[simp] theorem modPage_mem (p : Nat) (f : Page → Page) (s : State) : (modPage p f s).mem = { s.mem with pages := tmod s.mem.pages p f } := rfl
@[simp] theorem modPage_ecc (p : Nat) (f : Page → Page) (s : State) : (modPage p f s).ecc = s.ecc := rfl
@[simp] theorem modPage_ftl (p : Nat) (f : Page → Page) (s : State) : (modPage p f s).ftl = s.ftl := rfl
@[simp] theorem modPage_store (p : Nat) (f : Page → Page) (s : State) : (modPage p f s).store = s.store := rfl
@[simp] theorem modPage_search (p : Nat) (f : Page → Page) (s : State) : (modPage p f s).search = s.search := rfl
@[simp] theorem modPage_ports (p : Nat) (f : Page → Page) (s : State) : (modPage p f s).ports = s.ports := rfl
@[simp] theorem modPage_tune (p : Nat) (f : Page → Page) (s : State) : (modPage p f s).tune = s.tune := rfl
@[simp] theorem modPage_sec (p : Nat) (f : Page → Page) (s : State) : (modPage p f s).sec = s.sec := rfl
@[simp] theorem modPage_pwr (p : Nat) (f : Page → Page) (s : State) : (modPage p f s).pwr = s.pwr := rfl
@[simp] theorem modPage_fw (p : Nat) (f : Page → Page) (s : State) : (modPage p f s).fw = s.fw := rfl
@[simp] theorem modPage_mon (p : Nat) (f : Page → Page) (s : State) : (modPage p f s).mon = s.mon := rfl
@[simp] theorem modObj_freeCtr (h : Nat) (f : Obj → Obj) (s : State) : (modObj h f s).freeCtr = s.freeCtr := rfl
@[simp] theorem modObj_clocks (h : Nat) (f : Obj → Obj) (s : State) : (modObj h f s).clocks = s.clocks := rfl
@[simp] theorem modObj_caps (h : Nat) (f : Obj → Obj) (s : State) : (modObj h f s).caps = s.caps := rfl
@[simp] theorem modObj_host (h : Nat) (f : Obj → Obj) (s : State) : (modObj h f s).host = s.host := rfl
@[simp] theorem modObj_ledger (h : Nat) (f : Obj → Obj) (s : State) : (modObj h f s).ledger = s.ledger := rfl
@[simp] theorem modObj_eng (h : Nat) (f : Obj → Obj) (s : State) : (modObj h f s).eng = s.eng := rfl
@[simp] theorem modObj_task (h : Nat) (f : Obj → Obj) (s : State) : (modObj h f s).task = s.task := rfl
@[simp] theorem modObj_ctxs (h : Nat) (f : Obj → Obj) (s : State) : (modObj h f s).ctxs = s.ctxs := rfl
@[simp] theorem modObj_agents (h : Nat) (f : Obj → Obj) (s : State) : (modObj h f s).agents = s.agents := rfl
@[simp] theorem modObj_mem (h : Nat) (f : Obj → Obj) (s : State) : (modObj h f s).mem = { s.mem with objs := tmod s.mem.objs h f } := rfl
@[simp] theorem modObj_ecc (h : Nat) (f : Obj → Obj) (s : State) : (modObj h f s).ecc = s.ecc := rfl
@[simp] theorem modObj_ftl (h : Nat) (f : Obj → Obj) (s : State) : (modObj h f s).ftl = s.ftl := rfl
@[simp] theorem modObj_store (h : Nat) (f : Obj → Obj) (s : State) : (modObj h f s).store = s.store := rfl
@[simp] theorem modObj_search (h : Nat) (f : Obj → Obj) (s : State) : (modObj h f s).search = s.search := rfl
@[simp] theorem modObj_ports (h : Nat) (f : Obj → Obj) (s : State) : (modObj h f s).ports = s.ports := rfl
@[simp] theorem modObj_tune (h : Nat) (f : Obj → Obj) (s : State) : (modObj h f s).tune = s.tune := rfl
@[simp] theorem modObj_sec (h : Nat) (f : Obj → Obj) (s : State) : (modObj h f s).sec = s.sec := rfl
@[simp] theorem modObj_pwr (h : Nat) (f : Obj → Obj) (s : State) : (modObj h f s).pwr = s.pwr := rfl
@[simp] theorem modObj_fw (h : Nat) (f : Obj → Obj) (s : State) : (modObj h f s).fw = s.fw := rfl
@[simp] theorem modObj_mon (h : Nat) (f : Obj → Obj) (s : State) : (modObj h f s).mon = s.mon := rfl
@[simp] theorem modEcc_freeCtr (k : Nat) (f : EccBlk → EccBlk) (s : State) : (modEcc k f s).freeCtr = s.freeCtr := rfl
@[simp] theorem modEcc_clocks (k : Nat) (f : EccBlk → EccBlk) (s : State) : (modEcc k f s).clocks = s.clocks := rfl
@[simp] theorem modEcc_caps (k : Nat) (f : EccBlk → EccBlk) (s : State) : (modEcc k f s).caps = s.caps := rfl
@[simp] theorem modEcc_host (k : Nat) (f : EccBlk → EccBlk) (s : State) : (modEcc k f s).host = s.host := rfl
@[simp] theorem modEcc_ledger (k : Nat) (f : EccBlk → EccBlk) (s : State) : (modEcc k f s).ledger = s.ledger := rfl
@[simp] theorem modEcc_eng (k : Nat) (f : EccBlk → EccBlk) (s : State) : (modEcc k f s).eng = s.eng := rfl
@[simp] theorem modEcc_task (k : Nat) (f : EccBlk → EccBlk) (s : State) : (modEcc k f s).task = s.task := rfl
@[simp] theorem modEcc_ctxs (k : Nat) (f : EccBlk → EccBlk) (s : State) : (modEcc k f s).ctxs = s.ctxs := rfl
@[simp] theorem modEcc_agents (k : Nat) (f : EccBlk → EccBlk) (s : State) : (modEcc k f s).agents = s.agents := rfl
@[simp] theorem modEcc_mem (k : Nat) (f : EccBlk → EccBlk) (s : State) : (modEcc k f s).mem = s.mem := rfl
@[simp] theorem modEcc_ecc (k : Nat) (f : EccBlk → EccBlk) (s : State) : (modEcc k f s).ecc = { s.ecc with blk := tset s.ecc.blk k (f (eccOf k s)) } := rfl
@[simp] theorem modEcc_ftl (k : Nat) (f : EccBlk → EccBlk) (s : State) : (modEcc k f s).ftl = s.ftl := rfl
@[simp] theorem modEcc_store (k : Nat) (f : EccBlk → EccBlk) (s : State) : (modEcc k f s).store = s.store := rfl
@[simp] theorem modEcc_search (k : Nat) (f : EccBlk → EccBlk) (s : State) : (modEcc k f s).search = s.search := rfl
@[simp] theorem modEcc_ports (k : Nat) (f : EccBlk → EccBlk) (s : State) : (modEcc k f s).ports = s.ports := rfl
@[simp] theorem modEcc_tune (k : Nat) (f : EccBlk → EccBlk) (s : State) : (modEcc k f s).tune = s.tune := rfl
@[simp] theorem modEcc_sec (k : Nat) (f : EccBlk → EccBlk) (s : State) : (modEcc k f s).sec = s.sec := rfl
@[simp] theorem modEcc_pwr (k : Nat) (f : EccBlk → EccBlk) (s : State) : (modEcc k f s).pwr = s.pwr := rfl
@[simp] theorem modEcc_fw (k : Nat) (f : EccBlk → EccBlk) (s : State) : (modEcc k f s).fw = s.fw := rfl
@[simp] theorem modEcc_mon (k : Nat) (f : EccBlk → EccBlk) (s : State) : (modEcc k f s).mon = s.mon := rfl
@[simp] theorem setKvT2_freeCtr (b : Nat) (v : Bool) (s : State) : (setKvT2 b v s).freeCtr = s.freeCtr := rfl
@[simp] theorem setKvT2_clocks (b : Nat) (v : Bool) (s : State) : (setKvT2 b v s).clocks = s.clocks := rfl
@[simp] theorem setKvT2_caps (b : Nat) (v : Bool) (s : State) : (setKvT2 b v s).caps = s.caps := rfl
@[simp] theorem setKvT2_host (b : Nat) (v : Bool) (s : State) : (setKvT2 b v s).host = s.host := rfl
@[simp] theorem setKvT2_ledger (b : Nat) (v : Bool) (s : State) : (setKvT2 b v s).ledger = s.ledger := rfl
@[simp] theorem setKvT2_eng (b : Nat) (v : Bool) (s : State) : (setKvT2 b v s).eng = s.eng := rfl
@[simp] theorem setKvT2_task (b : Nat) (v : Bool) (s : State) : (setKvT2 b v s).task = s.task := rfl
@[simp] theorem setKvT2_ctxs (b : Nat) (v : Bool) (s : State) : (setKvT2 b v s).ctxs = s.ctxs := rfl
@[simp] theorem setKvT2_agents (b : Nat) (v : Bool) (s : State) : (setKvT2 b v s).agents = { s.agents with kv := tmod s.agents.kv b fun k => { k with t2 := v } } := rfl
@[simp] theorem setKvT2_mem (b : Nat) (v : Bool) (s : State) : (setKvT2 b v s).mem = s.mem := rfl
@[simp] theorem setKvT2_ecc (b : Nat) (v : Bool) (s : State) : (setKvT2 b v s).ecc = s.ecc := rfl
@[simp] theorem setKvT2_ftl (b : Nat) (v : Bool) (s : State) : (setKvT2 b v s).ftl = s.ftl := rfl
@[simp] theorem setKvT2_store (b : Nat) (v : Bool) (s : State) : (setKvT2 b v s).store = s.store := rfl
@[simp] theorem setKvT2_search (b : Nat) (v : Bool) (s : State) : (setKvT2 b v s).search = s.search := rfl
@[simp] theorem setKvT2_ports (b : Nat) (v : Bool) (s : State) : (setKvT2 b v s).ports = s.ports := rfl
@[simp] theorem setKvT2_tune (b : Nat) (v : Bool) (s : State) : (setKvT2 b v s).tune = s.tune := rfl
@[simp] theorem setKvT2_sec (b : Nat) (v : Bool) (s : State) : (setKvT2 b v s).sec = s.sec := rfl
@[simp] theorem setKvT2_pwr (b : Nat) (v : Bool) (s : State) : (setKvT2 b v s).pwr = s.pwr := rfl
@[simp] theorem setKvT2_fw (b : Nat) (v : Bool) (s : State) : (setKvT2 b v s).fw = s.fw := rfl
@[simp] theorem setKvT2_mon (b : Nat) (v : Bool) (s : State) : (setKvT2 b v s).mon = s.mon := rfl

/-! ### FwOps -/

@[simp] theorem modFw_freeCtr (f : Firmware → Firmware) (s : State) : (modFw f s).freeCtr = s.freeCtr := rfl
@[simp] theorem modFw_clocks (f : Firmware → Firmware) (s : State) : (modFw f s).clocks = s.clocks := rfl
@[simp] theorem modFw_caps (f : Firmware → Firmware) (s : State) : (modFw f s).caps = s.caps := rfl
@[simp] theorem modFw_host (f : Firmware → Firmware) (s : State) : (modFw f s).host = s.host := rfl
@[simp] theorem modFw_ledger (f : Firmware → Firmware) (s : State) : (modFw f s).ledger = s.ledger := rfl
@[simp] theorem modFw_eng (f : Firmware → Firmware) (s : State) : (modFw f s).eng = s.eng := rfl
@[simp] theorem modFw_task (f : Firmware → Firmware) (s : State) : (modFw f s).task = s.task := rfl
@[simp] theorem modFw_ctxs (f : Firmware → Firmware) (s : State) : (modFw f s).ctxs = s.ctxs := rfl
@[simp] theorem modFw_agents (f : Firmware → Firmware) (s : State) : (modFw f s).agents = s.agents := rfl
@[simp] theorem modFw_mem (f : Firmware → Firmware) (s : State) : (modFw f s).mem = s.mem := rfl
@[simp] theorem modFw_ecc (f : Firmware → Firmware) (s : State) : (modFw f s).ecc = s.ecc := rfl
@[simp] theorem modFw_ftl (f : Firmware → Firmware) (s : State) : (modFw f s).ftl = s.ftl := rfl
@[simp] theorem modFw_store (f : Firmware → Firmware) (s : State) : (modFw f s).store = s.store := rfl
@[simp] theorem modFw_search (f : Firmware → Firmware) (s : State) : (modFw f s).search = s.search := rfl
@[simp] theorem modFw_ports (f : Firmware → Firmware) (s : State) : (modFw f s).ports = s.ports := rfl
@[simp] theorem modFw_tune (f : Firmware → Firmware) (s : State) : (modFw f s).tune = s.tune := rfl
@[simp] theorem modFw_sec (f : Firmware → Firmware) (s : State) : (modFw f s).sec = s.sec := rfl
@[simp] theorem modFw_pwr (f : Firmware → Firmware) (s : State) : (modFw f s).pwr = s.pwr := rfl
@[simp] theorem modFw_fw (f : Firmware → Firmware) (s : State) : (modFw f s).fw = f s.fw := rfl
@[simp] theorem modFw_mon (f : Firmware → Firmware) (s : State) : (modFw f s).mon = s.mon := rfl
@[simp] theorem modFa_freeCtr (f : FaArray → FaArray) (s : State) : (modFa f s).freeCtr = s.freeCtr := rfl
@[simp] theorem modFa_clocks (f : FaArray → FaArray) (s : State) : (modFa f s).clocks = s.clocks := rfl
@[simp] theorem modFa_caps (f : FaArray → FaArray) (s : State) : (modFa f s).caps = s.caps := rfl
@[simp] theorem modFa_host (f : FaArray → FaArray) (s : State) : (modFa f s).host = s.host := rfl
@[simp] theorem modFa_ledger (f : FaArray → FaArray) (s : State) : (modFa f s).ledger = s.ledger := rfl
@[simp] theorem modFa_eng (f : FaArray → FaArray) (s : State) : (modFa f s).eng = s.eng := rfl
@[simp] theorem modFa_task (f : FaArray → FaArray) (s : State) : (modFa f s).task = s.task := rfl
@[simp] theorem modFa_ctxs (f : FaArray → FaArray) (s : State) : (modFa f s).ctxs = s.ctxs := rfl
@[simp] theorem modFa_agents (f : FaArray → FaArray) (s : State) : (modFa f s).agents = s.agents := rfl
@[simp] theorem modFa_mem (f : FaArray → FaArray) (s : State) : (modFa f s).mem = s.mem := rfl
@[simp] theorem modFa_ecc (f : FaArray → FaArray) (s : State) : (modFa f s).ecc = s.ecc := rfl
@[simp] theorem modFa_ftl (f : FaArray → FaArray) (s : State) : (modFa f s).ftl = s.ftl := rfl
@[simp] theorem modFa_store (f : FaArray → FaArray) (s : State) : (modFa f s).store = s.store := rfl
@[simp] theorem modFa_search (f : FaArray → FaArray) (s : State) : (modFa f s).search = s.search := rfl
@[simp] theorem modFa_ports (f : FaArray → FaArray) (s : State) : (modFa f s).ports = s.ports := rfl
@[simp] theorem modFa_tune (f : FaArray → FaArray) (s : State) : (modFa f s).tune = s.tune := rfl
@[simp] theorem modFa_sec (f : FaArray → FaArray) (s : State) : (modFa f s).sec = s.sec := rfl
@[simp] theorem modFa_pwr (f : FaArray → FaArray) (s : State) : (modFa f s).pwr = s.pwr := rfl
@[simp] theorem modFa_mon (f : FaArray → FaArray) (s : State) : (modFa f s).mon = s.mon := rfl
@[simp] theorem setImgSlot_freeCtr (n : Nat) (f : ImgSlot → ImgSlot) (s : State) : (setImgSlot n f s).freeCtr = s.freeCtr := rfl
@[simp] theorem setImgSlot_clocks (n : Nat) (f : ImgSlot → ImgSlot) (s : State) : (setImgSlot n f s).clocks = s.clocks := rfl
@[simp] theorem setImgSlot_caps (n : Nat) (f : ImgSlot → ImgSlot) (s : State) : (setImgSlot n f s).caps = s.caps := rfl
@[simp] theorem setImgSlot_host (n : Nat) (f : ImgSlot → ImgSlot) (s : State) : (setImgSlot n f s).host = s.host := rfl
@[simp] theorem setImgSlot_ledger (n : Nat) (f : ImgSlot → ImgSlot) (s : State) : (setImgSlot n f s).ledger = s.ledger := rfl
@[simp] theorem setImgSlot_eng (n : Nat) (f : ImgSlot → ImgSlot) (s : State) : (setImgSlot n f s).eng = s.eng := rfl
@[simp] theorem setImgSlot_task (n : Nat) (f : ImgSlot → ImgSlot) (s : State) : (setImgSlot n f s).task = s.task := rfl
@[simp] theorem setImgSlot_ctxs (n : Nat) (f : ImgSlot → ImgSlot) (s : State) : (setImgSlot n f s).ctxs = s.ctxs := rfl
@[simp] theorem setImgSlot_agents (n : Nat) (f : ImgSlot → ImgSlot) (s : State) : (setImgSlot n f s).agents = s.agents := rfl
@[simp] theorem setImgSlot_mem (n : Nat) (f : ImgSlot → ImgSlot) (s : State) : (setImgSlot n f s).mem = s.mem := rfl
@[simp] theorem setImgSlot_ecc (n : Nat) (f : ImgSlot → ImgSlot) (s : State) : (setImgSlot n f s).ecc = s.ecc := rfl
@[simp] theorem setImgSlot_ftl (n : Nat) (f : ImgSlot → ImgSlot) (s : State) : (setImgSlot n f s).ftl = s.ftl := rfl
@[simp] theorem setImgSlot_store (n : Nat) (f : ImgSlot → ImgSlot) (s : State) : (setImgSlot n f s).store = s.store := rfl
@[simp] theorem setImgSlot_search (n : Nat) (f : ImgSlot → ImgSlot) (s : State) : (setImgSlot n f s).search = s.search := rfl
@[simp] theorem setImgSlot_ports (n : Nat) (f : ImgSlot → ImgSlot) (s : State) : (setImgSlot n f s).ports = s.ports := rfl
@[simp] theorem setImgSlot_tune (n : Nat) (f : ImgSlot → ImgSlot) (s : State) : (setImgSlot n f s).tune = s.tune := rfl
@[simp] theorem setImgSlot_sec (n : Nat) (f : ImgSlot → ImgSlot) (s : State) : (setImgSlot n f s).sec = s.sec := rfl
@[simp] theorem setImgSlot_pwr (n : Nat) (f : ImgSlot → ImgSlot) (s : State) : (setImgSlot n f s).pwr = s.pwr := rfl
@[simp] theorem setImgSlot_mon (n : Nat) (f : ImgSlot → ImgSlot) (s : State) : (setImgSlot n f s).mon = s.mon := rfl

/-! ### Flags -/

@[simp] theorem modPort_freeCtr (p : Nat) (f : Port → Port) (s : State) : (modPort p f s).freeCtr = s.freeCtr := rfl
@[simp] theorem modPort_clocks (p : Nat) (f : Port → Port) (s : State) : (modPort p f s).clocks = s.clocks := rfl
@[simp] theorem modPort_caps (p : Nat) (f : Port → Port) (s : State) : (modPort p f s).caps = s.caps := rfl
@[simp] theorem modPort_host (p : Nat) (f : Port → Port) (s : State) : (modPort p f s).host = s.host := rfl
@[simp] theorem modPort_ledger (p : Nat) (f : Port → Port) (s : State) : (modPort p f s).ledger = s.ledger := rfl
@[simp] theorem modPort_eng (p : Nat) (f : Port → Port) (s : State) : (modPort p f s).eng = s.eng := rfl
@[simp] theorem modPort_task (p : Nat) (f : Port → Port) (s : State) : (modPort p f s).task = s.task := rfl
@[simp] theorem modPort_ctxs (p : Nat) (f : Port → Port) (s : State) : (modPort p f s).ctxs = s.ctxs := rfl
@[simp] theorem modPort_agents (p : Nat) (f : Port → Port) (s : State) : (modPort p f s).agents = s.agents := rfl
@[simp] theorem modPort_mem (p : Nat) (f : Port → Port) (s : State) : (modPort p f s).mem = s.mem := rfl
@[simp] theorem modPort_ecc (p : Nat) (f : Port → Port) (s : State) : (modPort p f s).ecc = s.ecc := rfl
@[simp] theorem modPort_ftl (p : Nat) (f : Port → Port) (s : State) : (modPort p f s).ftl = s.ftl := rfl
@[simp] theorem modPort_store (p : Nat) (f : Port → Port) (s : State) : (modPort p f s).store = s.store := rfl
@[simp] theorem modPort_search (p : Nat) (f : Port → Port) (s : State) : (modPort p f s).search = s.search := rfl
@[simp] theorem modPort_ports (p : Nat) (f : Port → Port) (s : State) : (modPort p f s).ports = { s.ports with port := tmod s.ports.port p f } := rfl
@[simp] theorem modPort_tune (p : Nat) (f : Port → Port) (s : State) : (modPort p f s).tune = s.tune := rfl
@[simp] theorem modPort_sec (p : Nat) (f : Port → Port) (s : State) : (modPort p f s).sec = s.sec := rfl
@[simp] theorem modPort_pwr (p : Nat) (f : Port → Port) (s : State) : (modPort p f s).pwr = s.pwr := rfl
@[simp] theorem modPort_fw (p : Nat) (f : Port → Port) (s : State) : (modPort p f s).fw = s.fw := rfl
@[simp] theorem modPort_mon (p : Nat) (f : Port → Port) (s : State) : (modPort p f s).mon = s.mon := rfl
@[simp] theorem setRead_freeCtr (v : Nat) (s : State) : (setRead v s).freeCtr = s.freeCtr := rfl
@[simp] theorem setRead_clocks (v : Nat) (s : State) : (setRead v s).clocks = s.clocks := rfl
@[simp] theorem setRead_caps (v : Nat) (s : State) : (setRead v s).caps = s.caps := rfl
@[simp] theorem setRead_host (v : Nat) (s : State) : (setRead v s).host = { s.host with lastRead := BitVec.ofNat 64 v } := rfl
@[simp] theorem setRead_ledger (v : Nat) (s : State) : (setRead v s).ledger = s.ledger := rfl
@[simp] theorem setRead_eng (v : Nat) (s : State) : (setRead v s).eng = s.eng := rfl
@[simp] theorem setRead_task (v : Nat) (s : State) : (setRead v s).task = s.task := rfl
@[simp] theorem setRead_ctxs (v : Nat) (s : State) : (setRead v s).ctxs = s.ctxs := rfl
@[simp] theorem setRead_agents (v : Nat) (s : State) : (setRead v s).agents = s.agents := rfl
@[simp] theorem setRead_mem (v : Nat) (s : State) : (setRead v s).mem = s.mem := rfl
@[simp] theorem setRead_ecc (v : Nat) (s : State) : (setRead v s).ecc = s.ecc := rfl
@[simp] theorem setRead_ftl (v : Nat) (s : State) : (setRead v s).ftl = s.ftl := rfl
@[simp] theorem setRead_store (v : Nat) (s : State) : (setRead v s).store = s.store := rfl
@[simp] theorem setRead_search (v : Nat) (s : State) : (setRead v s).search = s.search := rfl
@[simp] theorem setRead_ports (v : Nat) (s : State) : (setRead v s).ports = s.ports := rfl
@[simp] theorem setRead_tune (v : Nat) (s : State) : (setRead v s).tune = s.tune := rfl
@[simp] theorem setRead_sec (v : Nat) (s : State) : (setRead v s).sec = s.sec := rfl
@[simp] theorem setRead_pwr (v : Nat) (s : State) : (setRead v s).pwr = s.pwr := rfl
@[simp] theorem setRead_fw (v : Nat) (s : State) : (setRead v s).fw = s.fw := rfl
@[simp] theorem setRead_mon (v : Nat) (s : State) : (setRead v s).mon = s.mon := rfl

/-! ### Engine -/

@[simp] theorem setEng_freeCtr (e : Nat) (g : Eng) (s : State) : (setEng e g s).freeCtr = s.freeCtr := rfl
@[simp] theorem setEng_clocks (e : Nat) (g : Eng) (s : State) : (setEng e g s).clocks = s.clocks := rfl
@[simp] theorem setEng_caps (e : Nat) (g : Eng) (s : State) : (setEng e g s).caps = s.caps := rfl
@[simp] theorem setEng_host (e : Nat) (g : Eng) (s : State) : (setEng e g s).host = s.host := rfl
@[simp] theorem setEng_ledger (e : Nat) (g : Eng) (s : State) : (setEng e g s).ledger = s.ledger := rfl
@[simp] theorem setEng_eng (e : Nat) (g : Eng) (s : State) : (setEng e g s).eng = { s.eng with eng := tset s.eng.eng e g } := rfl
@[simp] theorem setEng_task (e : Nat) (g : Eng) (s : State) : (setEng e g s).task = s.task := rfl
@[simp] theorem setEng_ctxs (e : Nat) (g : Eng) (s : State) : (setEng e g s).ctxs = s.ctxs := rfl
@[simp] theorem setEng_agents (e : Nat) (g : Eng) (s : State) : (setEng e g s).agents = s.agents := rfl
@[simp] theorem setEng_mem (e : Nat) (g : Eng) (s : State) : (setEng e g s).mem = s.mem := rfl
@[simp] theorem setEng_ecc (e : Nat) (g : Eng) (s : State) : (setEng e g s).ecc = s.ecc := rfl
@[simp] theorem setEng_ftl (e : Nat) (g : Eng) (s : State) : (setEng e g s).ftl = s.ftl := rfl
@[simp] theorem setEng_store (e : Nat) (g : Eng) (s : State) : (setEng e g s).store = s.store := rfl
@[simp] theorem setEng_search (e : Nat) (g : Eng) (s : State) : (setEng e g s).search = s.search := rfl
@[simp] theorem setEng_ports (e : Nat) (g : Eng) (s : State) : (setEng e g s).ports = s.ports := rfl
@[simp] theorem setEng_tune (e : Nat) (g : Eng) (s : State) : (setEng e g s).tune = s.tune := rfl
@[simp] theorem setEng_sec (e : Nat) (g : Eng) (s : State) : (setEng e g s).sec = s.sec := rfl
@[simp] theorem setEng_pwr (e : Nat) (g : Eng) (s : State) : (setEng e g s).pwr = s.pwr := rfl
@[simp] theorem setEng_fw (e : Nat) (g : Eng) (s : State) : (setEng e g s).fw = s.fw := rfl
@[simp] theorem setEng_mon (e : Nat) (g : Eng) (s : State) : (setEng e g s).mon = s.mon := rfl
@[simp] theorem modEng_freeCtr (e : Nat) (f : Eng → Eng) (s : State) : (modEng e f s).freeCtr = s.freeCtr := rfl
@[simp] theorem modEng_clocks (e : Nat) (f : Eng → Eng) (s : State) : (modEng e f s).clocks = s.clocks := rfl
@[simp] theorem modEng_caps (e : Nat) (f : Eng → Eng) (s : State) : (modEng e f s).caps = s.caps := rfl
@[simp] theorem modEng_host (e : Nat) (f : Eng → Eng) (s : State) : (modEng e f s).host = s.host := rfl
@[simp] theorem modEng_ledger (e : Nat) (f : Eng → Eng) (s : State) : (modEng e f s).ledger = s.ledger := rfl
@[simp] theorem modEng_task (e : Nat) (f : Eng → Eng) (s : State) : (modEng e f s).task = s.task := rfl
@[simp] theorem modEng_ctxs (e : Nat) (f : Eng → Eng) (s : State) : (modEng e f s).ctxs = s.ctxs := rfl
@[simp] theorem modEng_agents (e : Nat) (f : Eng → Eng) (s : State) : (modEng e f s).agents = s.agents := rfl
@[simp] theorem modEng_mem (e : Nat) (f : Eng → Eng) (s : State) : (modEng e f s).mem = s.mem := rfl
@[simp] theorem modEng_ecc (e : Nat) (f : Eng → Eng) (s : State) : (modEng e f s).ecc = s.ecc := rfl
@[simp] theorem modEng_ftl (e : Nat) (f : Eng → Eng) (s : State) : (modEng e f s).ftl = s.ftl := rfl
@[simp] theorem modEng_store (e : Nat) (f : Eng → Eng) (s : State) : (modEng e f s).store = s.store := rfl
@[simp] theorem modEng_search (e : Nat) (f : Eng → Eng) (s : State) : (modEng e f s).search = s.search := rfl
@[simp] theorem modEng_ports (e : Nat) (f : Eng → Eng) (s : State) : (modEng e f s).ports = s.ports := rfl
@[simp] theorem modEng_tune (e : Nat) (f : Eng → Eng) (s : State) : (modEng e f s).tune = s.tune := rfl
@[simp] theorem modEng_sec (e : Nat) (f : Eng → Eng) (s : State) : (modEng e f s).sec = s.sec := rfl
@[simp] theorem modEng_pwr (e : Nat) (f : Eng → Eng) (s : State) : (modEng e f s).pwr = s.pwr := rfl
@[simp] theorem modEng_fw (e : Nat) (f : Eng → Eng) (s : State) : (modEng e f s).fw = s.fw := rfl
@[simp] theorem modEng_mon (e : Nat) (f : Eng → Eng) (s : State) : (modEng e f s).mon = s.mon := rfl
@[simp] theorem modSav_freeCtr (e : Nat) (f : EngSt → EngSt) (s : State) : (modSav e f s).freeCtr = s.freeCtr := rfl
@[simp] theorem modSav_clocks (e : Nat) (f : EngSt → EngSt) (s : State) : (modSav e f s).clocks = s.clocks := rfl
@[simp] theorem modSav_caps (e : Nat) (f : EngSt → EngSt) (s : State) : (modSav e f s).caps = s.caps := rfl
@[simp] theorem modSav_host (e : Nat) (f : EngSt → EngSt) (s : State) : (modSav e f s).host = s.host := rfl
@[simp] theorem modSav_ledger (e : Nat) (f : EngSt → EngSt) (s : State) : (modSav e f s).ledger = s.ledger := rfl
@[simp] theorem modSav_task (e : Nat) (f : EngSt → EngSt) (s : State) : (modSav e f s).task = s.task := rfl
@[simp] theorem modSav_ctxs (e : Nat) (f : EngSt → EngSt) (s : State) : (modSav e f s).ctxs = s.ctxs := rfl
@[simp] theorem modSav_agents (e : Nat) (f : EngSt → EngSt) (s : State) : (modSav e f s).agents = s.agents := rfl
@[simp] theorem modSav_mem (e : Nat) (f : EngSt → EngSt) (s : State) : (modSav e f s).mem = s.mem := rfl
@[simp] theorem modSav_ecc (e : Nat) (f : EngSt → EngSt) (s : State) : (modSav e f s).ecc = s.ecc := rfl
@[simp] theorem modSav_ftl (e : Nat) (f : EngSt → EngSt) (s : State) : (modSav e f s).ftl = s.ftl := rfl
@[simp] theorem modSav_store (e : Nat) (f : EngSt → EngSt) (s : State) : (modSav e f s).store = s.store := rfl
@[simp] theorem modSav_search (e : Nat) (f : EngSt → EngSt) (s : State) : (modSav e f s).search = s.search := rfl
@[simp] theorem modSav_ports (e : Nat) (f : EngSt → EngSt) (s : State) : (modSav e f s).ports = s.ports := rfl
@[simp] theorem modSav_tune (e : Nat) (f : EngSt → EngSt) (s : State) : (modSav e f s).tune = s.tune := rfl
@[simp] theorem modSav_sec (e : Nat) (f : EngSt → EngSt) (s : State) : (modSav e f s).sec = s.sec := rfl
@[simp] theorem modSav_pwr (e : Nat) (f : EngSt → EngSt) (s : State) : (modSav e f s).pwr = s.pwr := rfl
@[simp] theorem modSav_fw (e : Nat) (f : EngSt → EngSt) (s : State) : (modSav e f s).fw = s.fw := rfl
@[simp] theorem modSav_mon (e : Nat) (f : EngSt → EngSt) (s : State) : (modSav e f s).mon = s.mon := rfl

/-! ### Tasklets -/

@[simp] theorem setHart_freeCtr (h : Nat) (v : Hart) (s : State) : (setHart h v s).freeCtr = s.freeCtr := rfl
@[simp] theorem setHart_clocks (h : Nat) (v : Hart) (s : State) : (setHart h v s).clocks = s.clocks := rfl
@[simp] theorem setHart_caps (h : Nat) (v : Hart) (s : State) : (setHart h v s).caps = s.caps := rfl
@[simp] theorem setHart_host (h : Nat) (v : Hart) (s : State) : (setHart h v s).host = s.host := rfl
@[simp] theorem setHart_ledger (h : Nat) (v : Hart) (s : State) : (setHart h v s).ledger = s.ledger := rfl
@[simp] theorem setHart_eng (h : Nat) (v : Hart) (s : State) : (setHart h v s).eng = s.eng := rfl
@[simp] theorem setHart_task (h : Nat) (v : Hart) (s : State) : (setHart h v s).task = { s.task with harts := tset s.task.harts h v } := rfl
@[simp] theorem setHart_ctxs (h : Nat) (v : Hart) (s : State) : (setHart h v s).ctxs = s.ctxs := rfl
@[simp] theorem setHart_agents (h : Nat) (v : Hart) (s : State) : (setHart h v s).agents = s.agents := rfl
@[simp] theorem setHart_mem (h : Nat) (v : Hart) (s : State) : (setHart h v s).mem = s.mem := rfl
@[simp] theorem setHart_ecc (h : Nat) (v : Hart) (s : State) : (setHart h v s).ecc = s.ecc := rfl
@[simp] theorem setHart_ftl (h : Nat) (v : Hart) (s : State) : (setHart h v s).ftl = s.ftl := rfl
@[simp] theorem setHart_store (h : Nat) (v : Hart) (s : State) : (setHart h v s).store = s.store := rfl
@[simp] theorem setHart_search (h : Nat) (v : Hart) (s : State) : (setHart h v s).search = s.search := rfl
@[simp] theorem setHart_ports (h : Nat) (v : Hart) (s : State) : (setHart h v s).ports = s.ports := rfl
@[simp] theorem setHart_tune (h : Nat) (v : Hart) (s : State) : (setHart h v s).tune = s.tune := rfl
@[simp] theorem setHart_sec (h : Nat) (v : Hart) (s : State) : (setHart h v s).sec = s.sec := rfl
@[simp] theorem setHart_pwr (h : Nat) (v : Hart) (s : State) : (setHart h v s).pwr = s.pwr := rfl
@[simp] theorem setHart_fw (h : Nat) (v : Hart) (s : State) : (setHart h v s).fw = s.fw := rfl
@[simp] theorem setHart_mon (h : Nat) (v : Hart) (s : State) : (setHart h v s).mon = s.mon := rfl
@[simp] theorem modHart_freeCtr (h : Nat) (f : Hart → Hart) (s : State) : (modHart h f s).freeCtr = s.freeCtr := rfl
@[simp] theorem modHart_clocks (h : Nat) (f : Hart → Hart) (s : State) : (modHart h f s).clocks = s.clocks := rfl
@[simp] theorem modHart_caps (h : Nat) (f : Hart → Hart) (s : State) : (modHart h f s).caps = s.caps := rfl
@[simp] theorem modHart_host (h : Nat) (f : Hart → Hart) (s : State) : (modHart h f s).host = s.host := rfl
@[simp] theorem modHart_ledger (h : Nat) (f : Hart → Hart) (s : State) : (modHart h f s).ledger = s.ledger := rfl
@[simp] theorem modHart_eng (h : Nat) (f : Hart → Hart) (s : State) : (modHart h f s).eng = s.eng := rfl
@[simp] theorem modHart_ctxs (h : Nat) (f : Hart → Hart) (s : State) : (modHart h f s).ctxs = s.ctxs := rfl
@[simp] theorem modHart_agents (h : Nat) (f : Hart → Hart) (s : State) : (modHart h f s).agents = s.agents := rfl
@[simp] theorem modHart_mem (h : Nat) (f : Hart → Hart) (s : State) : (modHart h f s).mem = s.mem := rfl
@[simp] theorem modHart_ecc (h : Nat) (f : Hart → Hart) (s : State) : (modHart h f s).ecc = s.ecc := rfl
@[simp] theorem modHart_ftl (h : Nat) (f : Hart → Hart) (s : State) : (modHart h f s).ftl = s.ftl := rfl
@[simp] theorem modHart_store (h : Nat) (f : Hart → Hart) (s : State) : (modHart h f s).store = s.store := rfl
@[simp] theorem modHart_search (h : Nat) (f : Hart → Hart) (s : State) : (modHart h f s).search = s.search := rfl
@[simp] theorem modHart_ports (h : Nat) (f : Hart → Hart) (s : State) : (modHart h f s).ports = s.ports := rfl
@[simp] theorem modHart_tune (h : Nat) (f : Hart → Hart) (s : State) : (modHart h f s).tune = s.tune := rfl
@[simp] theorem modHart_sec (h : Nat) (f : Hart → Hart) (s : State) : (modHart h f s).sec = s.sec := rfl
@[simp] theorem modHart_pwr (h : Nat) (f : Hart → Hart) (s : State) : (modHart h f s).pwr = s.pwr := rfl
@[simp] theorem modHart_fw (h : Nat) (f : Hart → Hart) (s : State) : (modHart h f s).fw = s.fw := rfl
@[simp] theorem modHart_mon (h : Nat) (f : Hart → Hart) (s : State) : (modHart h f s).mon = s.mon := rfl

/-! ### Dma -/

@[simp] theorem modDma_freeCtr (e : Nat) (f : Ring → Ring) (s : State) : (modDma e f s).freeCtr = s.freeCtr := rfl
@[simp] theorem modDma_clocks (e : Nat) (f : Ring → Ring) (s : State) : (modDma e f s).clocks = s.clocks := rfl
@[simp] theorem modDma_caps (e : Nat) (f : Ring → Ring) (s : State) : (modDma e f s).caps = s.caps := rfl
@[simp] theorem modDma_host (e : Nat) (f : Ring → Ring) (s : State) : (modDma e f s).host = s.host := rfl
@[simp] theorem modDma_ledger (e : Nat) (f : Ring → Ring) (s : State) : (modDma e f s).ledger = s.ledger := rfl
@[simp] theorem modDma_task (e : Nat) (f : Ring → Ring) (s : State) : (modDma e f s).task = s.task := rfl
@[simp] theorem modDma_ctxs (e : Nat) (f : Ring → Ring) (s : State) : (modDma e f s).ctxs = s.ctxs := rfl
@[simp] theorem modDma_agents (e : Nat) (f : Ring → Ring) (s : State) : (modDma e f s).agents = s.agents := rfl
@[simp] theorem modDma_mem (e : Nat) (f : Ring → Ring) (s : State) : (modDma e f s).mem = s.mem := rfl
@[simp] theorem modDma_ecc (e : Nat) (f : Ring → Ring) (s : State) : (modDma e f s).ecc = s.ecc := rfl
@[simp] theorem modDma_ftl (e : Nat) (f : Ring → Ring) (s : State) : (modDma e f s).ftl = s.ftl := rfl
@[simp] theorem modDma_store (e : Nat) (f : Ring → Ring) (s : State) : (modDma e f s).store = s.store := rfl
@[simp] theorem modDma_search (e : Nat) (f : Ring → Ring) (s : State) : (modDma e f s).search = s.search := rfl
@[simp] theorem modDma_ports (e : Nat) (f : Ring → Ring) (s : State) : (modDma e f s).ports = s.ports := rfl
@[simp] theorem modDma_tune (e : Nat) (f : Ring → Ring) (s : State) : (modDma e f s).tune = s.tune := rfl
@[simp] theorem modDma_sec (e : Nat) (f : Ring → Ring) (s : State) : (modDma e f s).sec = s.sec := rfl
@[simp] theorem modDma_pwr (e : Nat) (f : Ring → Ring) (s : State) : (modDma e f s).pwr = s.pwr := rfl
@[simp] theorem modDma_fw (e : Nat) (f : Ring → Ring) (s : State) : (modDma e f s).fw = s.fw := rfl
@[simp] theorem modDma_mon (e : Nat) (f : Ring → Ring) (s : State) : (modDma e f s).mon = s.mon := rfl
@[simp] theorem modTq_freeCtr (c : Nat) (f : Ring → Ring) (s : State) : (modTq c f s).freeCtr = s.freeCtr := rfl
@[simp] theorem modTq_clocks (c : Nat) (f : Ring → Ring) (s : State) : (modTq c f s).clocks = s.clocks := rfl
@[simp] theorem modTq_caps (c : Nat) (f : Ring → Ring) (s : State) : (modTq c f s).caps = s.caps := rfl
@[simp] theorem modTq_host (c : Nat) (f : Ring → Ring) (s : State) : (modTq c f s).host = s.host := rfl
@[simp] theorem modTq_ledger (c : Nat) (f : Ring → Ring) (s : State) : (modTq c f s).ledger = s.ledger := rfl
@[simp] theorem modTq_eng (c : Nat) (f : Ring → Ring) (s : State) : (modTq c f s).eng = s.eng := rfl
@[simp] theorem modTq_task (c : Nat) (f : Ring → Ring) (s : State) : (modTq c f s).task = s.task := rfl
@[simp] theorem modTq_agents (c : Nat) (f : Ring → Ring) (s : State) : (modTq c f s).agents = s.agents := rfl
@[simp] theorem modTq_mem (c : Nat) (f : Ring → Ring) (s : State) : (modTq c f s).mem = s.mem := rfl
@[simp] theorem modTq_ecc (c : Nat) (f : Ring → Ring) (s : State) : (modTq c f s).ecc = s.ecc := rfl
@[simp] theorem modTq_ftl (c : Nat) (f : Ring → Ring) (s : State) : (modTq c f s).ftl = s.ftl := rfl
@[simp] theorem modTq_store (c : Nat) (f : Ring → Ring) (s : State) : (modTq c f s).store = s.store := rfl
@[simp] theorem modTq_search (c : Nat) (f : Ring → Ring) (s : State) : (modTq c f s).search = s.search := rfl
@[simp] theorem modTq_ports (c : Nat) (f : Ring → Ring) (s : State) : (modTq c f s).ports = s.ports := rfl
@[simp] theorem modTq_tune (c : Nat) (f : Ring → Ring) (s : State) : (modTq c f s).tune = s.tune := rfl
@[simp] theorem modTq_sec (c : Nat) (f : Ring → Ring) (s : State) : (modTq c f s).sec = s.sec := rfl
@[simp] theorem modTq_pwr (c : Nat) (f : Ring → Ring) (s : State) : (modTq c f s).pwr = s.pwr := rfl
@[simp] theorem modTq_fw (c : Nat) (f : Ring → Ring) (s : State) : (modTq c f s).fw = s.fw := rfl
@[simp] theorem modTq_mon (c : Nat) (f : Ring → Ring) (s : State) : (modTq c f s).mon = s.mon := rfl

/-! ### FlashOps -/

@[simp] theorem modFtl_freeCtr (f : Ftl → Ftl) (s : State) : (modFtl f s).freeCtr = s.freeCtr := rfl
@[simp] theorem modFtl_clocks (f : Ftl → Ftl) (s : State) : (modFtl f s).clocks = s.clocks := rfl
@[simp] theorem modFtl_caps (f : Ftl → Ftl) (s : State) : (modFtl f s).caps = s.caps := rfl
@[simp] theorem modFtl_host (f : Ftl → Ftl) (s : State) : (modFtl f s).host = s.host := rfl
@[simp] theorem modFtl_ledger (f : Ftl → Ftl) (s : State) : (modFtl f s).ledger = s.ledger := rfl
@[simp] theorem modFtl_eng (f : Ftl → Ftl) (s : State) : (modFtl f s).eng = s.eng := rfl
@[simp] theorem modFtl_task (f : Ftl → Ftl) (s : State) : (modFtl f s).task = s.task := rfl
@[simp] theorem modFtl_ctxs (f : Ftl → Ftl) (s : State) : (modFtl f s).ctxs = s.ctxs := rfl
@[simp] theorem modFtl_agents (f : Ftl → Ftl) (s : State) : (modFtl f s).agents = s.agents := rfl
@[simp] theorem modFtl_mem (f : Ftl → Ftl) (s : State) : (modFtl f s).mem = s.mem := rfl
@[simp] theorem modFtl_ecc (f : Ftl → Ftl) (s : State) : (modFtl f s).ecc = s.ecc := rfl
@[simp] theorem modFtl_ftl (f : Ftl → Ftl) (s : State) : (modFtl f s).ftl = f s.ftl := rfl
@[simp] theorem modFtl_store (f : Ftl → Ftl) (s : State) : (modFtl f s).store = s.store := rfl
@[simp] theorem modFtl_search (f : Ftl → Ftl) (s : State) : (modFtl f s).search = s.search := rfl
@[simp] theorem modFtl_ports (f : Ftl → Ftl) (s : State) : (modFtl f s).ports = s.ports := rfl
@[simp] theorem modFtl_tune (f : Ftl → Ftl) (s : State) : (modFtl f s).tune = s.tune := rfl
@[simp] theorem modFtl_sec (f : Ftl → Ftl) (s : State) : (modFtl f s).sec = s.sec := rfl
@[simp] theorem modFtl_pwr (f : Ftl → Ftl) (s : State) : (modFtl f s).pwr = s.pwr := rfl
@[simp] theorem modFtl_fw (f : Ftl → Ftl) (s : State) : (modFtl f s).fw = s.fw := rfl
@[simp] theorem modFtl_mon (f : Ftl → Ftl) (s : State) : (modFtl f s).mon = s.mon := rfl
@[simp] theorem modCnt_freeCtr (f : FlashCnt → FlashCnt) (s : State) : (modCnt f s).freeCtr = s.freeCtr := rfl
@[simp] theorem modCnt_clocks (f : FlashCnt → FlashCnt) (s : State) : (modCnt f s).clocks = s.clocks := rfl
@[simp] theorem modCnt_caps (f : FlashCnt → FlashCnt) (s : State) : (modCnt f s).caps = s.caps := rfl
@[simp] theorem modCnt_host (f : FlashCnt → FlashCnt) (s : State) : (modCnt f s).host = s.host := rfl
@[simp] theorem modCnt_ledger (f : FlashCnt → FlashCnt) (s : State) : (modCnt f s).ledger = s.ledger := rfl
@[simp] theorem modCnt_eng (f : FlashCnt → FlashCnt) (s : State) : (modCnt f s).eng = s.eng := rfl
@[simp] theorem modCnt_task (f : FlashCnt → FlashCnt) (s : State) : (modCnt f s).task = s.task := rfl
@[simp] theorem modCnt_ctxs (f : FlashCnt → FlashCnt) (s : State) : (modCnt f s).ctxs = s.ctxs := rfl
@[simp] theorem modCnt_agents (f : FlashCnt → FlashCnt) (s : State) : (modCnt f s).agents = s.agents := rfl
@[simp] theorem modCnt_mem (f : FlashCnt → FlashCnt) (s : State) : (modCnt f s).mem = s.mem := rfl
@[simp] theorem modCnt_ecc (f : FlashCnt → FlashCnt) (s : State) : (modCnt f s).ecc = s.ecc := rfl
@[simp] theorem modCnt_ftl (f : FlashCnt → FlashCnt) (s : State) : (modCnt f s).ftl = { s.ftl with cnt := f s.ftl.cnt } := rfl
@[simp] theorem modCnt_store (f : FlashCnt → FlashCnt) (s : State) : (modCnt f s).store = s.store := rfl
@[simp] theorem modCnt_search (f : FlashCnt → FlashCnt) (s : State) : (modCnt f s).search = s.search := rfl
@[simp] theorem modCnt_ports (f : FlashCnt → FlashCnt) (s : State) : (modCnt f s).ports = s.ports := rfl
@[simp] theorem modCnt_tune (f : FlashCnt → FlashCnt) (s : State) : (modCnt f s).tune = s.tune := rfl
@[simp] theorem modCnt_sec (f : FlashCnt → FlashCnt) (s : State) : (modCnt f s).sec = s.sec := rfl
@[simp] theorem modCnt_pwr (f : FlashCnt → FlashCnt) (s : State) : (modCnt f s).pwr = s.pwr := rfl
@[simp] theorem modCnt_fw (f : FlashCnt → FlashCnt) (s : State) : (modCnt f s).fw = s.fw := rfl
@[simp] theorem modCnt_mon (f : FlashCnt → FlashCnt) (s : State) : (modCnt f s).mon = s.mon := rfl
@[simp] theorem modSb_freeCtr (sb : Nat) (f : Sb → Sb) (s : State) : (modSb sb f s).freeCtr = s.freeCtr := rfl
@[simp] theorem modSb_clocks (sb : Nat) (f : Sb → Sb) (s : State) : (modSb sb f s).clocks = s.clocks := rfl
@[simp] theorem modSb_caps (sb : Nat) (f : Sb → Sb) (s : State) : (modSb sb f s).caps = s.caps := rfl
@[simp] theorem modSb_host (sb : Nat) (f : Sb → Sb) (s : State) : (modSb sb f s).host = s.host := rfl
@[simp] theorem modSb_ledger (sb : Nat) (f : Sb → Sb) (s : State) : (modSb sb f s).ledger = s.ledger := rfl
@[simp] theorem modSb_eng (sb : Nat) (f : Sb → Sb) (s : State) : (modSb sb f s).eng = s.eng := rfl
@[simp] theorem modSb_task (sb : Nat) (f : Sb → Sb) (s : State) : (modSb sb f s).task = s.task := rfl
@[simp] theorem modSb_ctxs (sb : Nat) (f : Sb → Sb) (s : State) : (modSb sb f s).ctxs = s.ctxs := rfl
@[simp] theorem modSb_agents (sb : Nat) (f : Sb → Sb) (s : State) : (modSb sb f s).agents = s.agents := rfl
@[simp] theorem modSb_mem (sb : Nat) (f : Sb → Sb) (s : State) : (modSb sb f s).mem = s.mem := rfl
@[simp] theorem modSb_ecc (sb : Nat) (f : Sb → Sb) (s : State) : (modSb sb f s).ecc = s.ecc := rfl
@[simp] theorem modSb_ftl (sb : Nat) (f : Sb → Sb) (s : State) : (modSb sb f s).ftl = { s.ftl with sbs := tset s.ftl.sbs sb (f (sbOf sb s)) } := rfl
@[simp] theorem modSb_store (sb : Nat) (f : Sb → Sb) (s : State) : (modSb sb f s).store = s.store := rfl
@[simp] theorem modSb_search (sb : Nat) (f : Sb → Sb) (s : State) : (modSb sb f s).search = s.search := rfl
@[simp] theorem modSb_ports (sb : Nat) (f : Sb → Sb) (s : State) : (modSb sb f s).ports = s.ports := rfl
@[simp] theorem modSb_tune (sb : Nat) (f : Sb → Sb) (s : State) : (modSb sb f s).tune = s.tune := rfl
@[simp] theorem modSb_sec (sb : Nat) (f : Sb → Sb) (s : State) : (modSb sb f s).sec = s.sec := rfl
@[simp] theorem modSb_pwr (sb : Nat) (f : Sb → Sb) (s : State) : (modSb sb f s).pwr = s.pwr := rfl
@[simp] theorem modSb_fw (sb : Nat) (f : Sb → Sb) (s : State) : (modSb sb f s).fw = s.fw := rfl
@[simp] theorem modSb_mon (sb : Nat) (f : Sb → Sb) (s : State) : (modSb sb f s).mon = s.mon := rfl

/-! ### MirrorStore -/

@[simp] theorem modAgents_freeCtr (f : Agents → Agents) (s : State) : (modAgents f s).freeCtr = s.freeCtr := rfl
@[simp] theorem modAgents_clocks (f : Agents → Agents) (s : State) : (modAgents f s).clocks = s.clocks := rfl
@[simp] theorem modAgents_caps (f : Agents → Agents) (s : State) : (modAgents f s).caps = s.caps := rfl
@[simp] theorem modAgents_host (f : Agents → Agents) (s : State) : (modAgents f s).host = s.host := rfl
@[simp] theorem modAgents_ledger (f : Agents → Agents) (s : State) : (modAgents f s).ledger = s.ledger := rfl
@[simp] theorem modAgents_eng (f : Agents → Agents) (s : State) : (modAgents f s).eng = s.eng := rfl
@[simp] theorem modAgents_task (f : Agents → Agents) (s : State) : (modAgents f s).task = s.task := rfl
@[simp] theorem modAgents_ctxs (f : Agents → Agents) (s : State) : (modAgents f s).ctxs = s.ctxs := rfl
@[simp] theorem modAgents_agents (f : Agents → Agents) (s : State) : (modAgents f s).agents = f s.agents := rfl
@[simp] theorem modAgents_mem (f : Agents → Agents) (s : State) : (modAgents f s).mem = s.mem := rfl
@[simp] theorem modAgents_ecc (f : Agents → Agents) (s : State) : (modAgents f s).ecc = s.ecc := rfl
@[simp] theorem modAgents_ftl (f : Agents → Agents) (s : State) : (modAgents f s).ftl = s.ftl := rfl
@[simp] theorem modAgents_store (f : Agents → Agents) (s : State) : (modAgents f s).store = s.store := rfl
@[simp] theorem modAgents_search (f : Agents → Agents) (s : State) : (modAgents f s).search = s.search := rfl
@[simp] theorem modAgents_ports (f : Agents → Agents) (s : State) : (modAgents f s).ports = s.ports := rfl
@[simp] theorem modAgents_tune (f : Agents → Agents) (s : State) : (modAgents f s).tune = s.tune := rfl
@[simp] theorem modAgents_sec (f : Agents → Agents) (s : State) : (modAgents f s).sec = s.sec := rfl
@[simp] theorem modAgents_pwr (f : Agents → Agents) (s : State) : (modAgents f s).pwr = s.pwr := rfl
@[simp] theorem modAgents_fw (f : Agents → Agents) (s : State) : (modAgents f s).fw = s.fw := rfl
@[simp] theorem modAgents_mon (f : Agents → Agents) (s : State) : (modAgents f s).mon = s.mon := rfl
@[simp] theorem setEarly_freeCtr (m : Mirrored) (l : List Nat) (s : State) : (setEarly m l s).freeCtr = s.freeCtr := rfl
@[simp] theorem setEarly_clocks (m : Mirrored) (l : List Nat) (s : State) : (setEarly m l s).clocks = s.clocks := rfl
@[simp] theorem setEarly_caps (m : Mirrored) (l : List Nat) (s : State) : (setEarly m l s).caps = s.caps := rfl
@[simp] theorem setEarly_host (m : Mirrored) (l : List Nat) (s : State) : (setEarly m l s).host = s.host := rfl
@[simp] theorem setEarly_ledger (m : Mirrored) (l : List Nat) (s : State) : (setEarly m l s).ledger = s.ledger := rfl
@[simp] theorem setEarly_eng (m : Mirrored) (l : List Nat) (s : State) : (setEarly m l s).eng = s.eng := rfl
@[simp] theorem setEarly_task (m : Mirrored) (l : List Nat) (s : State) : (setEarly m l s).task = s.task := rfl
@[simp] theorem setEarly_ctxs (m : Mirrored) (l : List Nat) (s : State) : (setEarly m l s).ctxs = s.ctxs := rfl
@[simp] theorem setEarly_mem (m : Mirrored) (l : List Nat) (s : State) : (setEarly m l s).mem = s.mem := rfl
@[simp] theorem setEarly_ecc (m : Mirrored) (l : List Nat) (s : State) : (setEarly m l s).ecc = s.ecc := rfl
@[simp] theorem setEarly_ftl (m : Mirrored) (l : List Nat) (s : State) : (setEarly m l s).ftl = s.ftl := rfl
@[simp] theorem setEarly_store (m : Mirrored) (l : List Nat) (s : State) : (setEarly m l s).store = s.store := rfl
@[simp] theorem setEarly_search (m : Mirrored) (l : List Nat) (s : State) : (setEarly m l s).search = s.search := rfl
@[simp] theorem setEarly_ports (m : Mirrored) (l : List Nat) (s : State) : (setEarly m l s).ports = s.ports := rfl
@[simp] theorem setEarly_tune (m : Mirrored) (l : List Nat) (s : State) : (setEarly m l s).tune = s.tune := rfl
@[simp] theorem setEarly_sec (m : Mirrored) (l : List Nat) (s : State) : (setEarly m l s).sec = s.sec := rfl
@[simp] theorem setEarly_pwr (m : Mirrored) (l : List Nat) (s : State) : (setEarly m l s).pwr = s.pwr := rfl
@[simp] theorem setEarly_fw (m : Mirrored) (l : List Nat) (s : State) : (setEarly m l s).fw = s.fw := rfl
@[simp] theorem setEarly_mon (m : Mirrored) (l : List Nat) (s : State) : (setEarly m l s).mon = s.mon := rfl

/-! ### AgentOps -/

@[simp] theorem modModel_freeCtr (m : Nat) (f : Model → Model) (s : State) : (modModel m f s).freeCtr = s.freeCtr := rfl
@[simp] theorem modModel_clocks (m : Nat) (f : Model → Model) (s : State) : (modModel m f s).clocks = s.clocks := rfl
@[simp] theorem modModel_caps (m : Nat) (f : Model → Model) (s : State) : (modModel m f s).caps = s.caps := rfl
@[simp] theorem modModel_host (m : Nat) (f : Model → Model) (s : State) : (modModel m f s).host = s.host := rfl
@[simp] theorem modModel_ledger (m : Nat) (f : Model → Model) (s : State) : (modModel m f s).ledger = s.ledger := rfl
@[simp] theorem modModel_eng (m : Nat) (f : Model → Model) (s : State) : (modModel m f s).eng = s.eng := rfl
@[simp] theorem modModel_task (m : Nat) (f : Model → Model) (s : State) : (modModel m f s).task = s.task := rfl
@[simp] theorem modModel_ctxs (m : Nat) (f : Model → Model) (s : State) : (modModel m f s).ctxs = s.ctxs := rfl
@[simp] theorem modModel_mem (m : Nat) (f : Model → Model) (s : State) : (modModel m f s).mem = s.mem := rfl
@[simp] theorem modModel_ecc (m : Nat) (f : Model → Model) (s : State) : (modModel m f s).ecc = s.ecc := rfl
@[simp] theorem modModel_ftl (m : Nat) (f : Model → Model) (s : State) : (modModel m f s).ftl = s.ftl := rfl
@[simp] theorem modModel_store (m : Nat) (f : Model → Model) (s : State) : (modModel m f s).store = s.store := rfl
@[simp] theorem modModel_search (m : Nat) (f : Model → Model) (s : State) : (modModel m f s).search = s.search := rfl
@[simp] theorem modModel_ports (m : Nat) (f : Model → Model) (s : State) : (modModel m f s).ports = s.ports := rfl
@[simp] theorem modModel_tune (m : Nat) (f : Model → Model) (s : State) : (modModel m f s).tune = s.tune := rfl
@[simp] theorem modModel_sec (m : Nat) (f : Model → Model) (s : State) : (modModel m f s).sec = s.sec := rfl
@[simp] theorem modModel_pwr (m : Nat) (f : Model → Model) (s : State) : (modModel m f s).pwr = s.pwr := rfl
@[simp] theorem modModel_fw (m : Nat) (f : Model → Model) (s : State) : (modModel m f s).fw = s.fw := rfl
@[simp] theorem modModel_mon (m : Nat) (f : Model → Model) (s : State) : (modModel m f s).mon = s.mon := rfl
@[simp] theorem modSess_freeCtr (id : Nat) (f : Sess → Sess) (s : State) : (modSess id f s).freeCtr = s.freeCtr := rfl
@[simp] theorem modSess_clocks (id : Nat) (f : Sess → Sess) (s : State) : (modSess id f s).clocks = s.clocks := rfl
@[simp] theorem modSess_caps (id : Nat) (f : Sess → Sess) (s : State) : (modSess id f s).caps = s.caps := rfl
@[simp] theorem modSess_host (id : Nat) (f : Sess → Sess) (s : State) : (modSess id f s).host = s.host := rfl
@[simp] theorem modSess_ledger (id : Nat) (f : Sess → Sess) (s : State) : (modSess id f s).ledger = s.ledger := rfl
@[simp] theorem modSess_eng (id : Nat) (f : Sess → Sess) (s : State) : (modSess id f s).eng = s.eng := rfl
@[simp] theorem modSess_task (id : Nat) (f : Sess → Sess) (s : State) : (modSess id f s).task = s.task := rfl
@[simp] theorem modSess_ctxs (id : Nat) (f : Sess → Sess) (s : State) : (modSess id f s).ctxs = s.ctxs := rfl
@[simp] theorem modSess_mem (id : Nat) (f : Sess → Sess) (s : State) : (modSess id f s).mem = s.mem := rfl
@[simp] theorem modSess_ecc (id : Nat) (f : Sess → Sess) (s : State) : (modSess id f s).ecc = s.ecc := rfl
@[simp] theorem modSess_ftl (id : Nat) (f : Sess → Sess) (s : State) : (modSess id f s).ftl = s.ftl := rfl
@[simp] theorem modSess_store (id : Nat) (f : Sess → Sess) (s : State) : (modSess id f s).store = s.store := rfl
@[simp] theorem modSess_search (id : Nat) (f : Sess → Sess) (s : State) : (modSess id f s).search = s.search := rfl
@[simp] theorem modSess_ports (id : Nat) (f : Sess → Sess) (s : State) : (modSess id f s).ports = s.ports := rfl
@[simp] theorem modSess_tune (id : Nat) (f : Sess → Sess) (s : State) : (modSess id f s).tune = s.tune := rfl
@[simp] theorem modSess_sec (id : Nat) (f : Sess → Sess) (s : State) : (modSess id f s).sec = s.sec := rfl
@[simp] theorem modSess_pwr (id : Nat) (f : Sess → Sess) (s : State) : (modSess id f s).pwr = s.pwr := rfl
@[simp] theorem modSess_fw (id : Nat) (f : Sess → Sess) (s : State) : (modSess id f s).fw = s.fw := rfl
@[simp] theorem modSess_mon (id : Nat) (f : Sess → Sess) (s : State) : (modSess id f s).mon = s.mon := rfl

/-! ### Transmit -/

@[simp] theorem record_freeCtr (m : Tx) (s : State) : (record m s).freeCtr = s.freeCtr := rfl
@[simp] theorem record_clocks (m : Tx) (s : State) : (record m s).clocks = s.clocks := rfl
@[simp] theorem record_caps (m : Tx) (s : State) : (record m s).caps = s.caps := rfl
@[simp] theorem record_host (m : Tx) (s : State) : (record m s).host = { s.host with gone := s.host.gone ++ [m] } := rfl
@[simp] theorem record_ledger (m : Tx) (s : State) : (record m s).ledger = s.ledger := rfl
@[simp] theorem record_eng (m : Tx) (s : State) : (record m s).eng = s.eng := rfl
@[simp] theorem record_task (m : Tx) (s : State) : (record m s).task = s.task := rfl
@[simp] theorem record_ctxs (m : Tx) (s : State) : (record m s).ctxs = s.ctxs := rfl
@[simp] theorem record_agents (m : Tx) (s : State) : (record m s).agents = s.agents := rfl
@[simp] theorem record_mem (m : Tx) (s : State) : (record m s).mem = s.mem := rfl
@[simp] theorem record_ecc (m : Tx) (s : State) : (record m s).ecc = s.ecc := rfl
@[simp] theorem record_ftl (m : Tx) (s : State) : (record m s).ftl = s.ftl := rfl
@[simp] theorem record_store (m : Tx) (s : State) : (record m s).store = s.store := rfl
@[simp] theorem record_search (m : Tx) (s : State) : (record m s).search = s.search := rfl
@[simp] theorem record_ports (m : Tx) (s : State) : (record m s).ports = s.ports := rfl
@[simp] theorem record_tune (m : Tx) (s : State) : (record m s).tune = s.tune := rfl
@[simp] theorem record_sec (m : Tx) (s : State) : (record m s).sec = s.sec := rfl
@[simp] theorem record_pwr (m : Tx) (s : State) : (record m s).pwr = s.pwr := rfl
@[simp] theorem record_fw (m : Tx) (s : State) : (record m s).fw = s.fw := rfl
@[simp] theorem record_mon (m : Tx) (s : State) : (record m s).mon = s.mon := rfl

/-! ### Links -/

@[simp] theorem modPorts_freeCtr (f : Ports → Ports) (s : State) : (modPorts f s).freeCtr = s.freeCtr := rfl
@[simp] theorem modPorts_clocks (f : Ports → Ports) (s : State) : (modPorts f s).clocks = s.clocks := rfl
@[simp] theorem modPorts_caps (f : Ports → Ports) (s : State) : (modPorts f s).caps = s.caps := rfl
@[simp] theorem modPorts_host (f : Ports → Ports) (s : State) : (modPorts f s).host = s.host := rfl
@[simp] theorem modPorts_ledger (f : Ports → Ports) (s : State) : (modPorts f s).ledger = s.ledger := rfl
@[simp] theorem modPorts_eng (f : Ports → Ports) (s : State) : (modPorts f s).eng = s.eng := rfl
@[simp] theorem modPorts_task (f : Ports → Ports) (s : State) : (modPorts f s).task = s.task := rfl
@[simp] theorem modPorts_ctxs (f : Ports → Ports) (s : State) : (modPorts f s).ctxs = s.ctxs := rfl
@[simp] theorem modPorts_agents (f : Ports → Ports) (s : State) : (modPorts f s).agents = s.agents := rfl
@[simp] theorem modPorts_mem (f : Ports → Ports) (s : State) : (modPorts f s).mem = s.mem := rfl
@[simp] theorem modPorts_ecc (f : Ports → Ports) (s : State) : (modPorts f s).ecc = s.ecc := rfl
@[simp] theorem modPorts_ftl (f : Ports → Ports) (s : State) : (modPorts f s).ftl = s.ftl := rfl
@[simp] theorem modPorts_store (f : Ports → Ports) (s : State) : (modPorts f s).store = s.store := rfl
@[simp] theorem modPorts_search (f : Ports → Ports) (s : State) : (modPorts f s).search = s.search := rfl
@[simp] theorem modPorts_ports (f : Ports → Ports) (s : State) : (modPorts f s).ports = f s.ports := rfl
@[simp] theorem modPorts_tune (f : Ports → Ports) (s : State) : (modPorts f s).tune = s.tune := rfl
@[simp] theorem modPorts_sec (f : Ports → Ports) (s : State) : (modPorts f s).sec = s.sec := rfl
@[simp] theorem modPorts_pwr (f : Ports → Ports) (s : State) : (modPorts f s).pwr = s.pwr := rfl
@[simp] theorem modPorts_fw (f : Ports → Ports) (s : State) : (modPorts f s).fw = s.fw := rfl
@[simp] theorem modPorts_mon (f : Ports → Ports) (s : State) : (modPorts f s).mon = s.mon := rfl

/-! ### Models -/

@[simp] theorem setLoad_freeCtr (rid : Nat) (f : Load → Load) (s : State) : (setLoad rid f s).freeCtr = s.freeCtr := rfl
@[simp] theorem setLoad_clocks (rid : Nat) (f : Load → Load) (s : State) : (setLoad rid f s).clocks = s.clocks := rfl
@[simp] theorem setLoad_caps (rid : Nat) (f : Load → Load) (s : State) : (setLoad rid f s).caps = s.caps := rfl
@[simp] theorem setLoad_host (rid : Nat) (f : Load → Load) (s : State) : (setLoad rid f s).host = s.host := rfl
@[simp] theorem setLoad_ledger (rid : Nat) (f : Load → Load) (s : State) : (setLoad rid f s).ledger = s.ledger := rfl
@[simp] theorem setLoad_eng (rid : Nat) (f : Load → Load) (s : State) : (setLoad rid f s).eng = s.eng := rfl
@[simp] theorem setLoad_task (rid : Nat) (f : Load → Load) (s : State) : (setLoad rid f s).task = s.task := rfl
@[simp] theorem setLoad_ctxs (rid : Nat) (f : Load → Load) (s : State) : (setLoad rid f s).ctxs = s.ctxs := rfl
@[simp] theorem setLoad_mem (rid : Nat) (f : Load → Load) (s : State) : (setLoad rid f s).mem = s.mem := rfl
@[simp] theorem setLoad_ecc (rid : Nat) (f : Load → Load) (s : State) : (setLoad rid f s).ecc = s.ecc := rfl
@[simp] theorem setLoad_ftl (rid : Nat) (f : Load → Load) (s : State) : (setLoad rid f s).ftl = s.ftl := rfl
@[simp] theorem setLoad_store (rid : Nat) (f : Load → Load) (s : State) : (setLoad rid f s).store = s.store := rfl
@[simp] theorem setLoad_search (rid : Nat) (f : Load → Load) (s : State) : (setLoad rid f s).search = s.search := rfl
@[simp] theorem setLoad_ports (rid : Nat) (f : Load → Load) (s : State) : (setLoad rid f s).ports = s.ports := rfl
@[simp] theorem setLoad_tune (rid : Nat) (f : Load → Load) (s : State) : (setLoad rid f s).tune = s.tune := rfl
@[simp] theorem setLoad_sec (rid : Nat) (f : Load → Load) (s : State) : (setLoad rid f s).sec = s.sec := rfl
@[simp] theorem setLoad_pwr (rid : Nat) (f : Load → Load) (s : State) : (setLoad rid f s).pwr = s.pwr := rfl
@[simp] theorem setLoad_fw (rid : Nat) (f : Load → Load) (s : State) : (setLoad rid f s).fw = s.fw := rfl
@[simp] theorem setLoad_mon (rid : Nat) (f : Load → Load) (s : State) : (setLoad rid f s).mon = s.mon := rfl

/-! ### StoreOps -/

@[simp] theorem modQp_freeCtr (q : Nat) (f : Qp → Qp) (s : State) : (modQp q f s).freeCtr = s.freeCtr := rfl
@[simp] theorem modQp_clocks (q : Nat) (f : Qp → Qp) (s : State) : (modQp q f s).clocks = s.clocks := rfl
@[simp] theorem modQp_caps (q : Nat) (f : Qp → Qp) (s : State) : (modQp q f s).caps = s.caps := rfl
@[simp] theorem modQp_host (q : Nat) (f : Qp → Qp) (s : State) : (modQp q f s).host = s.host := rfl
@[simp] theorem modQp_ledger (q : Nat) (f : Qp → Qp) (s : State) : (modQp q f s).ledger = s.ledger := rfl
@[simp] theorem modQp_eng (q : Nat) (f : Qp → Qp) (s : State) : (modQp q f s).eng = s.eng := rfl
@[simp] theorem modQp_task (q : Nat) (f : Qp → Qp) (s : State) : (modQp q f s).task = s.task := rfl
@[simp] theorem modQp_ctxs (q : Nat) (f : Qp → Qp) (s : State) : (modQp q f s).ctxs = s.ctxs := rfl
@[simp] theorem modQp_agents (q : Nat) (f : Qp → Qp) (s : State) : (modQp q f s).agents = s.agents := rfl
@[simp] theorem modQp_mem (q : Nat) (f : Qp → Qp) (s : State) : (modQp q f s).mem = s.mem := rfl
@[simp] theorem modQp_ecc (q : Nat) (f : Qp → Qp) (s : State) : (modQp q f s).ecc = s.ecc := rfl
@[simp] theorem modQp_ftl (q : Nat) (f : Qp → Qp) (s : State) : (modQp q f s).ftl = s.ftl := rfl
@[simp] theorem modQp_store (q : Nat) (f : Qp → Qp) (s : State) : (modQp q f s).store = { s.store with qps := tmod s.store.qps q f } := rfl
@[simp] theorem modQp_search (q : Nat) (f : Qp → Qp) (s : State) : (modQp q f s).search = s.search := rfl
@[simp] theorem modQp_ports (q : Nat) (f : Qp → Qp) (s : State) : (modQp q f s).ports = s.ports := rfl
@[simp] theorem modQp_tune (q : Nat) (f : Qp → Qp) (s : State) : (modQp q f s).tune = s.tune := rfl
@[simp] theorem modQp_sec (q : Nat) (f : Qp → Qp) (s : State) : (modQp q f s).sec = s.sec := rfl
@[simp] theorem modQp_pwr (q : Nat) (f : Qp → Qp) (s : State) : (modQp q f s).pwr = s.pwr := rfl
@[simp] theorem modQp_fw (q : Nat) (f : Qp → Qp) (s : State) : (modQp q f s).fw = s.fw := rfl
@[simp] theorem modQp_mon (q : Nat) (f : Qp → Qp) (s : State) : (modQp q f s).mon = s.mon := rfl
@[simp] theorem modStore_freeCtr (f : Store → Store) (s : State) : (modStore f s).freeCtr = s.freeCtr := rfl
@[simp] theorem modStore_clocks (f : Store → Store) (s : State) : (modStore f s).clocks = s.clocks := rfl
@[simp] theorem modStore_caps (f : Store → Store) (s : State) : (modStore f s).caps = s.caps := rfl
@[simp] theorem modStore_host (f : Store → Store) (s : State) : (modStore f s).host = s.host := rfl
@[simp] theorem modStore_ledger (f : Store → Store) (s : State) : (modStore f s).ledger = s.ledger := rfl
@[simp] theorem modStore_eng (f : Store → Store) (s : State) : (modStore f s).eng = s.eng := rfl
@[simp] theorem modStore_task (f : Store → Store) (s : State) : (modStore f s).task = s.task := rfl
@[simp] theorem modStore_ctxs (f : Store → Store) (s : State) : (modStore f s).ctxs = s.ctxs := rfl
@[simp] theorem modStore_agents (f : Store → Store) (s : State) : (modStore f s).agents = s.agents := rfl
@[simp] theorem modStore_mem (f : Store → Store) (s : State) : (modStore f s).mem = s.mem := rfl
@[simp] theorem modStore_ecc (f : Store → Store) (s : State) : (modStore f s).ecc = s.ecc := rfl
@[simp] theorem modStore_ftl (f : Store → Store) (s : State) : (modStore f s).ftl = s.ftl := rfl
@[simp] theorem modStore_store (f : Store → Store) (s : State) : (modStore f s).store = f s.store := rfl
@[simp] theorem modStore_search (f : Store → Store) (s : State) : (modStore f s).search = s.search := rfl
@[simp] theorem modStore_ports (f : Store → Store) (s : State) : (modStore f s).ports = s.ports := rfl
@[simp] theorem modStore_tune (f : Store → Store) (s : State) : (modStore f s).tune = s.tune := rfl
@[simp] theorem modStore_sec (f : Store → Store) (s : State) : (modStore f s).sec = s.sec := rfl
@[simp] theorem modStore_pwr (f : Store → Store) (s : State) : (modStore f s).pwr = s.pwr := rfl
@[simp] theorem modStore_fw (f : Store → Store) (s : State) : (modStore f s).fw = s.fw := rfl
@[simp] theorem modStore_mon (f : Store → Store) (s : State) : (modStore f s).mon = s.mon := rfl
@[simp] theorem modFeat_freeCtr (c : Nat) (f : Feat → Feat) (s : State) : (modFeat c f s).freeCtr = s.freeCtr := rfl
@[simp] theorem modFeat_clocks (c : Nat) (f : Feat → Feat) (s : State) : (modFeat c f s).clocks = s.clocks := rfl
@[simp] theorem modFeat_caps (c : Nat) (f : Feat → Feat) (s : State) : (modFeat c f s).caps = s.caps := rfl
@[simp] theorem modFeat_host (c : Nat) (f : Feat → Feat) (s : State) : (modFeat c f s).host = s.host := rfl
@[simp] theorem modFeat_ledger (c : Nat) (f : Feat → Feat) (s : State) : (modFeat c f s).ledger = s.ledger := rfl
@[simp] theorem modFeat_eng (c : Nat) (f : Feat → Feat) (s : State) : (modFeat c f s).eng = s.eng := rfl
@[simp] theorem modFeat_task (c : Nat) (f : Feat → Feat) (s : State) : (modFeat c f s).task = s.task := rfl
@[simp] theorem modFeat_ctxs (c : Nat) (f : Feat → Feat) (s : State) : (modFeat c f s).ctxs = s.ctxs := rfl
@[simp] theorem modFeat_agents (c : Nat) (f : Feat → Feat) (s : State) : (modFeat c f s).agents = s.agents := rfl
@[simp] theorem modFeat_mem (c : Nat) (f : Feat → Feat) (s : State) : (modFeat c f s).mem = s.mem := rfl
@[simp] theorem modFeat_ecc (c : Nat) (f : Feat → Feat) (s : State) : (modFeat c f s).ecc = s.ecc := rfl
@[simp] theorem modFeat_ftl (c : Nat) (f : Feat → Feat) (s : State) : (modFeat c f s).ftl = s.ftl := rfl
@[simp] theorem modFeat_search (c : Nat) (f : Feat → Feat) (s : State) : (modFeat c f s).search = s.search := rfl
@[simp] theorem modFeat_ports (c : Nat) (f : Feat → Feat) (s : State) : (modFeat c f s).ports = s.ports := rfl
@[simp] theorem modFeat_tune (c : Nat) (f : Feat → Feat) (s : State) : (modFeat c f s).tune = s.tune := rfl
@[simp] theorem modFeat_sec (c : Nat) (f : Feat → Feat) (s : State) : (modFeat c f s).sec = s.sec := rfl
@[simp] theorem modFeat_pwr (c : Nat) (f : Feat → Feat) (s : State) : (modFeat c f s).pwr = s.pwr := rfl
@[simp] theorem modFeat_fw (c : Nat) (f : Feat → Feat) (s : State) : (modFeat c f s).fw = s.fw := rfl
@[simp] theorem modFeat_mon (c : Nat) (f : Feat → Feat) (s : State) : (modFeat c f s).mon = s.mon := rfl

/-! ### SearchOps -/

@[simp] theorem modSearch_freeCtr (f : Search → Search) (s : State) : (modSearch f s).freeCtr = s.freeCtr := rfl
@[simp] theorem modSearch_clocks (f : Search → Search) (s : State) : (modSearch f s).clocks = s.clocks := rfl
@[simp] theorem modSearch_caps (f : Search → Search) (s : State) : (modSearch f s).caps = s.caps := rfl
@[simp] theorem modSearch_host (f : Search → Search) (s : State) : (modSearch f s).host = s.host := rfl
@[simp] theorem modSearch_ledger (f : Search → Search) (s : State) : (modSearch f s).ledger = s.ledger := rfl
@[simp] theorem modSearch_eng (f : Search → Search) (s : State) : (modSearch f s).eng = s.eng := rfl
@[simp] theorem modSearch_task (f : Search → Search) (s : State) : (modSearch f s).task = s.task := rfl
@[simp] theorem modSearch_ctxs (f : Search → Search) (s : State) : (modSearch f s).ctxs = s.ctxs := rfl
@[simp] theorem modSearch_agents (f : Search → Search) (s : State) : (modSearch f s).agents = s.agents := rfl
@[simp] theorem modSearch_mem (f : Search → Search) (s : State) : (modSearch f s).mem = s.mem := rfl
@[simp] theorem modSearch_ecc (f : Search → Search) (s : State) : (modSearch f s).ecc = s.ecc := rfl
@[simp] theorem modSearch_ftl (f : Search → Search) (s : State) : (modSearch f s).ftl = s.ftl := rfl
@[simp] theorem modSearch_store (f : Search → Search) (s : State) : (modSearch f s).store = s.store := rfl
@[simp] theorem modSearch_search (f : Search → Search) (s : State) : (modSearch f s).search = f s.search := rfl
@[simp] theorem modSearch_ports (f : Search → Search) (s : State) : (modSearch f s).ports = s.ports := rfl
@[simp] theorem modSearch_tune (f : Search → Search) (s : State) : (modSearch f s).tune = s.tune := rfl
@[simp] theorem modSearch_sec (f : Search → Search) (s : State) : (modSearch f s).sec = s.sec := rfl
@[simp] theorem modSearch_pwr (f : Search → Search) (s : State) : (modSearch f s).pwr = s.pwr := rfl
@[simp] theorem modSearch_fw (f : Search → Search) (s : State) : (modSearch f s).fw = s.fw := rfl
@[simp] theorem modSearch_mon (f : Search → Search) (s : State) : (modSearch f s).mon = s.mon := rfl
@[simp] theorem modIdx_freeCtr (h : Nat) (f : Index → Index) (s : State) : (modIdx h f s).freeCtr = s.freeCtr := rfl
@[simp] theorem modIdx_clocks (h : Nat) (f : Index → Index) (s : State) : (modIdx h f s).clocks = s.clocks := rfl
@[simp] theorem modIdx_caps (h : Nat) (f : Index → Index) (s : State) : (modIdx h f s).caps = s.caps := rfl
@[simp] theorem modIdx_host (h : Nat) (f : Index → Index) (s : State) : (modIdx h f s).host = s.host := rfl
@[simp] theorem modIdx_ledger (h : Nat) (f : Index → Index) (s : State) : (modIdx h f s).ledger = s.ledger := rfl
@[simp] theorem modIdx_eng (h : Nat) (f : Index → Index) (s : State) : (modIdx h f s).eng = s.eng := rfl
@[simp] theorem modIdx_task (h : Nat) (f : Index → Index) (s : State) : (modIdx h f s).task = s.task := rfl
@[simp] theorem modIdx_ctxs (h : Nat) (f : Index → Index) (s : State) : (modIdx h f s).ctxs = s.ctxs := rfl
@[simp] theorem modIdx_agents (h : Nat) (f : Index → Index) (s : State) : (modIdx h f s).agents = s.agents := rfl
@[simp] theorem modIdx_mem (h : Nat) (f : Index → Index) (s : State) : (modIdx h f s).mem = s.mem := rfl
@[simp] theorem modIdx_ecc (h : Nat) (f : Index → Index) (s : State) : (modIdx h f s).ecc = s.ecc := rfl
@[simp] theorem modIdx_ftl (h : Nat) (f : Index → Index) (s : State) : (modIdx h f s).ftl = s.ftl := rfl
@[simp] theorem modIdx_store (h : Nat) (f : Index → Index) (s : State) : (modIdx h f s).store = s.store := rfl
@[simp] theorem modIdx_ports (h : Nat) (f : Index → Index) (s : State) : (modIdx h f s).ports = s.ports := rfl
@[simp] theorem modIdx_tune (h : Nat) (f : Index → Index) (s : State) : (modIdx h f s).tune = s.tune := rfl
@[simp] theorem modIdx_sec (h : Nat) (f : Index → Index) (s : State) : (modIdx h f s).sec = s.sec := rfl
@[simp] theorem modIdx_pwr (h : Nat) (f : Index → Index) (s : State) : (modIdx h f s).pwr = s.pwr := rfl
@[simp] theorem modIdx_fw (h : Nat) (f : Index → Index) (s : State) : (modIdx h f s).fw = s.fw := rfl
@[simp] theorem modIdx_mon (h : Nat) (f : Index → Index) (s : State) : (modIdx h f s).mon = s.mon := rfl

/-! ### TuneOps -/

@[simp] theorem modGroup_freeCtr (g : Nat) (f : Group → Group) (s : State) : (modGroup g f s).freeCtr = s.freeCtr := rfl
@[simp] theorem modGroup_clocks (g : Nat) (f : Group → Group) (s : State) : (modGroup g f s).clocks = s.clocks := rfl
@[simp] theorem modGroup_caps (g : Nat) (f : Group → Group) (s : State) : (modGroup g f s).caps = s.caps := rfl
@[simp] theorem modGroup_host (g : Nat) (f : Group → Group) (s : State) : (modGroup g f s).host = s.host := rfl
@[simp] theorem modGroup_ledger (g : Nat) (f : Group → Group) (s : State) : (modGroup g f s).ledger = s.ledger := rfl
@[simp] theorem modGroup_eng (g : Nat) (f : Group → Group) (s : State) : (modGroup g f s).eng = s.eng := rfl
@[simp] theorem modGroup_task (g : Nat) (f : Group → Group) (s : State) : (modGroup g f s).task = s.task := rfl
@[simp] theorem modGroup_ctxs (g : Nat) (f : Group → Group) (s : State) : (modGroup g f s).ctxs = s.ctxs := rfl
@[simp] theorem modGroup_agents (g : Nat) (f : Group → Group) (s : State) : (modGroup g f s).agents = s.agents := rfl
@[simp] theorem modGroup_mem (g : Nat) (f : Group → Group) (s : State) : (modGroup g f s).mem = s.mem := rfl
@[simp] theorem modGroup_ecc (g : Nat) (f : Group → Group) (s : State) : (modGroup g f s).ecc = s.ecc := rfl
@[simp] theorem modGroup_ftl (g : Nat) (f : Group → Group) (s : State) : (modGroup g f s).ftl = s.ftl := rfl
@[simp] theorem modGroup_store (g : Nat) (f : Group → Group) (s : State) : (modGroup g f s).store = s.store := rfl
@[simp] theorem modGroup_search (g : Nat) (f : Group → Group) (s : State) : (modGroup g f s).search = s.search := rfl
@[simp] theorem modGroup_ports (g : Nat) (f : Group → Group) (s : State) : (modGroup g f s).ports = s.ports := rfl
@[simp] theorem modGroup_tune (g : Nat) (f : Group → Group) (s : State) : (modGroup g f s).tune = { s.tune with groups := tmod s.tune.groups g f } := rfl
@[simp] theorem modGroup_sec (g : Nat) (f : Group → Group) (s : State) : (modGroup g f s).sec = s.sec := rfl
@[simp] theorem modGroup_pwr (g : Nat) (f : Group → Group) (s : State) : (modGroup g f s).pwr = s.pwr := rfl
@[simp] theorem modGroup_fw (g : Nat) (f : Group → Group) (s : State) : (modGroup g f s).fw = s.fw := rfl
@[simp] theorem modGroup_mon (g : Nat) (f : Group → Group) (s : State) : (modGroup g f s).mon = s.mon := rfl
@[simp] theorem modBucket_freeCtr (g : Nat) (seq : Nat) (f : Bucket → Bucket) (s : State) : (modBucket g seq f s).freeCtr = s.freeCtr := rfl
@[simp] theorem modBucket_clocks (g : Nat) (seq : Nat) (f : Bucket → Bucket) (s : State) : (modBucket g seq f s).clocks = s.clocks := rfl
@[simp] theorem modBucket_caps (g : Nat) (seq : Nat) (f : Bucket → Bucket) (s : State) : (modBucket g seq f s).caps = s.caps := rfl
@[simp] theorem modBucket_host (g : Nat) (seq : Nat) (f : Bucket → Bucket) (s : State) : (modBucket g seq f s).host = s.host := rfl
@[simp] theorem modBucket_ledger (g : Nat) (seq : Nat) (f : Bucket → Bucket) (s : State) : (modBucket g seq f s).ledger = s.ledger := rfl
@[simp] theorem modBucket_eng (g : Nat) (seq : Nat) (f : Bucket → Bucket) (s : State) : (modBucket g seq f s).eng = s.eng := rfl
@[simp] theorem modBucket_task (g : Nat) (seq : Nat) (f : Bucket → Bucket) (s : State) : (modBucket g seq f s).task = s.task := rfl
@[simp] theorem modBucket_ctxs (g : Nat) (seq : Nat) (f : Bucket → Bucket) (s : State) : (modBucket g seq f s).ctxs = s.ctxs := rfl
@[simp] theorem modBucket_agents (g : Nat) (seq : Nat) (f : Bucket → Bucket) (s : State) : (modBucket g seq f s).agents = s.agents := rfl
@[simp] theorem modBucket_mem (g : Nat) (seq : Nat) (f : Bucket → Bucket) (s : State) : (modBucket g seq f s).mem = s.mem := rfl
@[simp] theorem modBucket_ecc (g : Nat) (seq : Nat) (f : Bucket → Bucket) (s : State) : (modBucket g seq f s).ecc = s.ecc := rfl
@[simp] theorem modBucket_ftl (g : Nat) (seq : Nat) (f : Bucket → Bucket) (s : State) : (modBucket g seq f s).ftl = s.ftl := rfl
@[simp] theorem modBucket_store (g : Nat) (seq : Nat) (f : Bucket → Bucket) (s : State) : (modBucket g seq f s).store = s.store := rfl
@[simp] theorem modBucket_search (g : Nat) (seq : Nat) (f : Bucket → Bucket) (s : State) : (modBucket g seq f s).search = s.search := rfl
@[simp] theorem modBucket_ports (g : Nat) (seq : Nat) (f : Bucket → Bucket) (s : State) : (modBucket g seq f s).ports = s.ports := rfl
@[simp] theorem modBucket_sec (g : Nat) (seq : Nat) (f : Bucket → Bucket) (s : State) : (modBucket g seq f s).sec = s.sec := rfl
@[simp] theorem modBucket_pwr (g : Nat) (seq : Nat) (f : Bucket → Bucket) (s : State) : (modBucket g seq f s).pwr = s.pwr := rfl
@[simp] theorem modBucket_fw (g : Nat) (seq : Nat) (f : Bucket → Bucket) (s : State) : (modBucket g seq f s).fw = s.fw := rfl
@[simp] theorem modBucket_mon (g : Nat) (seq : Nat) (f : Bucket → Bucket) (s : State) : (modBucket g seq f s).mon = s.mon := rfl
@[simp] theorem modRec_freeCtr (g : Nat) (seq : Nat) (f : BucketRec → BucketRec) (s : State) : (modRec g seq f s).freeCtr = s.freeCtr := rfl
@[simp] theorem modRec_clocks (g : Nat) (seq : Nat) (f : BucketRec → BucketRec) (s : State) : (modRec g seq f s).clocks = s.clocks := rfl
@[simp] theorem modRec_caps (g : Nat) (seq : Nat) (f : BucketRec → BucketRec) (s : State) : (modRec g seq f s).caps = s.caps := rfl
@[simp] theorem modRec_host (g : Nat) (seq : Nat) (f : BucketRec → BucketRec) (s : State) : (modRec g seq f s).host = s.host := rfl
@[simp] theorem modRec_ledger (g : Nat) (seq : Nat) (f : BucketRec → BucketRec) (s : State) : (modRec g seq f s).ledger = s.ledger := rfl
@[simp] theorem modRec_eng (g : Nat) (seq : Nat) (f : BucketRec → BucketRec) (s : State) : (modRec g seq f s).eng = s.eng := rfl
@[simp] theorem modRec_task (g : Nat) (seq : Nat) (f : BucketRec → BucketRec) (s : State) : (modRec g seq f s).task = s.task := rfl
@[simp] theorem modRec_ctxs (g : Nat) (seq : Nat) (f : BucketRec → BucketRec) (s : State) : (modRec g seq f s).ctxs = s.ctxs := rfl
@[simp] theorem modRec_agents (g : Nat) (seq : Nat) (f : BucketRec → BucketRec) (s : State) : (modRec g seq f s).agents = s.agents := rfl
@[simp] theorem modRec_mem (g : Nat) (seq : Nat) (f : BucketRec → BucketRec) (s : State) : (modRec g seq f s).mem = s.mem := rfl
@[simp] theorem modRec_ecc (g : Nat) (seq : Nat) (f : BucketRec → BucketRec) (s : State) : (modRec g seq f s).ecc = s.ecc := rfl
@[simp] theorem modRec_ftl (g : Nat) (seq : Nat) (f : BucketRec → BucketRec) (s : State) : (modRec g seq f s).ftl = s.ftl := rfl
@[simp] theorem modRec_store (g : Nat) (seq : Nat) (f : BucketRec → BucketRec) (s : State) : (modRec g seq f s).store = s.store := rfl
@[simp] theorem modRec_search (g : Nat) (seq : Nat) (f : BucketRec → BucketRec) (s : State) : (modRec g seq f s).search = s.search := rfl
@[simp] theorem modRec_ports (g : Nat) (seq : Nat) (f : BucketRec → BucketRec) (s : State) : (modRec g seq f s).ports = s.ports := rfl
@[simp] theorem modRec_sec (g : Nat) (seq : Nat) (f : BucketRec → BucketRec) (s : State) : (modRec g seq f s).sec = s.sec := rfl
@[simp] theorem modRec_pwr (g : Nat) (seq : Nat) (f : BucketRec → BucketRec) (s : State) : (modRec g seq f s).pwr = s.pwr := rfl
@[simp] theorem modRec_fw (g : Nat) (seq : Nat) (f : BucketRec → BucketRec) (s : State) : (modRec g seq f s).fw = s.fw := rfl
@[simp] theorem modRec_mon (g : Nat) (seq : Nat) (f : BucketRec → BucketRec) (s : State) : (modRec g seq f s).mon = s.mon := rfl
@[simp] theorem modStep_freeCtr (g : Nat) (n : Nat) (f : TStep → TStep) (s : State) : (modStep g n f s).freeCtr = s.freeCtr := rfl
@[simp] theorem modStep_clocks (g : Nat) (n : Nat) (f : TStep → TStep) (s : State) : (modStep g n f s).clocks = s.clocks := rfl
@[simp] theorem modStep_caps (g : Nat) (n : Nat) (f : TStep → TStep) (s : State) : (modStep g n f s).caps = s.caps := rfl
@[simp] theorem modStep_host (g : Nat) (n : Nat) (f : TStep → TStep) (s : State) : (modStep g n f s).host = s.host := rfl
@[simp] theorem modStep_ledger (g : Nat) (n : Nat) (f : TStep → TStep) (s : State) : (modStep g n f s).ledger = s.ledger := rfl
@[simp] theorem modStep_eng (g : Nat) (n : Nat) (f : TStep → TStep) (s : State) : (modStep g n f s).eng = s.eng := rfl
@[simp] theorem modStep_task (g : Nat) (n : Nat) (f : TStep → TStep) (s : State) : (modStep g n f s).task = s.task := rfl
@[simp] theorem modStep_ctxs (g : Nat) (n : Nat) (f : TStep → TStep) (s : State) : (modStep g n f s).ctxs = s.ctxs := rfl
@[simp] theorem modStep_agents (g : Nat) (n : Nat) (f : TStep → TStep) (s : State) : (modStep g n f s).agents = s.agents := rfl
@[simp] theorem modStep_mem (g : Nat) (n : Nat) (f : TStep → TStep) (s : State) : (modStep g n f s).mem = s.mem := rfl
@[simp] theorem modStep_ecc (g : Nat) (n : Nat) (f : TStep → TStep) (s : State) : (modStep g n f s).ecc = s.ecc := rfl
@[simp] theorem modStep_ftl (g : Nat) (n : Nat) (f : TStep → TStep) (s : State) : (modStep g n f s).ftl = s.ftl := rfl
@[simp] theorem modStep_store (g : Nat) (n : Nat) (f : TStep → TStep) (s : State) : (modStep g n f s).store = s.store := rfl
@[simp] theorem modStep_search (g : Nat) (n : Nat) (f : TStep → TStep) (s : State) : (modStep g n f s).search = s.search := rfl
@[simp] theorem modStep_ports (g : Nat) (n : Nat) (f : TStep → TStep) (s : State) : (modStep g n f s).ports = s.ports := rfl
@[simp] theorem modStep_tune (g : Nat) (n : Nat) (f : TStep → TStep) (s : State) : (modStep g n f s).tune = { s.tune with steps := s.tune.steps.map fun x => if isStep g n x then f x else x } := rfl
@[simp] theorem modStep_sec (g : Nat) (n : Nat) (f : TStep → TStep) (s : State) : (modStep g n f s).sec = s.sec := rfl
@[simp] theorem modStep_pwr (g : Nat) (n : Nat) (f : TStep → TStep) (s : State) : (modStep g n f s).pwr = s.pwr := rfl
@[simp] theorem modStep_fw (g : Nat) (n : Nat) (f : TStep → TStep) (s : State) : (modStep g n f s).fw = s.fw := rfl
@[simp] theorem modStep_mon (g : Nat) (n : Nat) (f : TStep → TStep) (s : State) : (modStep g n f s).mon = s.mon := rfl
@[simp] theorem modTensor_freeCtr (a : Nat) (i : Nat) (f : Tensor → Tensor) (s : State) : (modTensor a i f s).freeCtr = s.freeCtr := rfl
@[simp] theorem modTensor_clocks (a : Nat) (i : Nat) (f : Tensor → Tensor) (s : State) : (modTensor a i f s).clocks = s.clocks := rfl
@[simp] theorem modTensor_caps (a : Nat) (i : Nat) (f : Tensor → Tensor) (s : State) : (modTensor a i f s).caps = s.caps := rfl
@[simp] theorem modTensor_host (a : Nat) (i : Nat) (f : Tensor → Tensor) (s : State) : (modTensor a i f s).host = s.host := rfl
@[simp] theorem modTensor_ledger (a : Nat) (i : Nat) (f : Tensor → Tensor) (s : State) : (modTensor a i f s).ledger = s.ledger := rfl
@[simp] theorem modTensor_eng (a : Nat) (i : Nat) (f : Tensor → Tensor) (s : State) : (modTensor a i f s).eng = s.eng := rfl
@[simp] theorem modTensor_task (a : Nat) (i : Nat) (f : Tensor → Tensor) (s : State) : (modTensor a i f s).task = s.task := rfl
@[simp] theorem modTensor_ctxs (a : Nat) (i : Nat) (f : Tensor → Tensor) (s : State) : (modTensor a i f s).ctxs = s.ctxs := rfl
@[simp] theorem modTensor_agents (a : Nat) (i : Nat) (f : Tensor → Tensor) (s : State) : (modTensor a i f s).agents = s.agents := rfl
@[simp] theorem modTensor_mem (a : Nat) (i : Nat) (f : Tensor → Tensor) (s : State) : (modTensor a i f s).mem = s.mem := rfl
@[simp] theorem modTensor_ecc (a : Nat) (i : Nat) (f : Tensor → Tensor) (s : State) : (modTensor a i f s).ecc = s.ecc := rfl
@[simp] theorem modTensor_ftl (a : Nat) (i : Nat) (f : Tensor → Tensor) (s : State) : (modTensor a i f s).ftl = s.ftl := rfl
@[simp] theorem modTensor_store (a : Nat) (i : Nat) (f : Tensor → Tensor) (s : State) : (modTensor a i f s).store = s.store := rfl
@[simp] theorem modTensor_search (a : Nat) (i : Nat) (f : Tensor → Tensor) (s : State) : (modTensor a i f s).search = s.search := rfl
@[simp] theorem modTensor_ports (a : Nat) (i : Nat) (f : Tensor → Tensor) (s : State) : (modTensor a i f s).ports = s.ports := rfl
@[simp] theorem modTensor_tune (a : Nat) (i : Nat) (f : Tensor → Tensor) (s : State) : (modTensor a i f s).tune = { s.tune with adapters := tmod s.tune.adapters a fun x => { x with tensors := x.tensors.zipIdx.map fun e => if e.2 = i then f e.1 else e.1 } } := rfl
@[simp] theorem modTensor_sec (a : Nat) (i : Nat) (f : Tensor → Tensor) (s : State) : (modTensor a i f s).sec = s.sec := rfl
@[simp] theorem modTensor_pwr (a : Nat) (i : Nat) (f : Tensor → Tensor) (s : State) : (modTensor a i f s).pwr = s.pwr := rfl
@[simp] theorem modTensor_fw (a : Nat) (i : Nat) (f : Tensor → Tensor) (s : State) : (modTensor a i f s).fw = s.fw := rfl
@[simp] theorem modTensor_mon (a : Nat) (i : Nat) (f : Tensor → Tensor) (s : State) : (modTensor a i f s).mon = s.mon := rfl

/-! ### Switch -/

@[simp] theorem modCtxs_freeCtr (f : Contexts → Contexts) (s : State) : (modCtxs f s).freeCtr = s.freeCtr := rfl
@[simp] theorem modCtxs_clocks (f : Contexts → Contexts) (s : State) : (modCtxs f s).clocks = s.clocks := rfl
@[simp] theorem modCtxs_caps (f : Contexts → Contexts) (s : State) : (modCtxs f s).caps = s.caps := rfl
@[simp] theorem modCtxs_host (f : Contexts → Contexts) (s : State) : (modCtxs f s).host = s.host := rfl
@[simp] theorem modCtxs_ledger (f : Contexts → Contexts) (s : State) : (modCtxs f s).ledger = s.ledger := rfl
@[simp] theorem modCtxs_eng (f : Contexts → Contexts) (s : State) : (modCtxs f s).eng = s.eng := rfl
@[simp] theorem modCtxs_task (f : Contexts → Contexts) (s : State) : (modCtxs f s).task = s.task := rfl
@[simp] theorem modCtxs_ctxs (f : Contexts → Contexts) (s : State) : (modCtxs f s).ctxs = f s.ctxs := rfl
@[simp] theorem modCtxs_agents (f : Contexts → Contexts) (s : State) : (modCtxs f s).agents = s.agents := rfl
@[simp] theorem modCtxs_mem (f : Contexts → Contexts) (s : State) : (modCtxs f s).mem = s.mem := rfl
@[simp] theorem modCtxs_ecc (f : Contexts → Contexts) (s : State) : (modCtxs f s).ecc = s.ecc := rfl
@[simp] theorem modCtxs_ftl (f : Contexts → Contexts) (s : State) : (modCtxs f s).ftl = s.ftl := rfl
@[simp] theorem modCtxs_store (f : Contexts → Contexts) (s : State) : (modCtxs f s).store = s.store := rfl
@[simp] theorem modCtxs_search (f : Contexts → Contexts) (s : State) : (modCtxs f s).search = s.search := rfl
@[simp] theorem modCtxs_ports (f : Contexts → Contexts) (s : State) : (modCtxs f s).ports = s.ports := rfl
@[simp] theorem modCtxs_tune (f : Contexts → Contexts) (s : State) : (modCtxs f s).tune = s.tune := rfl
@[simp] theorem modCtxs_sec (f : Contexts → Contexts) (s : State) : (modCtxs f s).sec = s.sec := rfl
@[simp] theorem modCtxs_pwr (f : Contexts → Contexts) (s : State) : (modCtxs f s).pwr = s.pwr := rfl
@[simp] theorem modCtxs_fw (f : Contexts → Contexts) (s : State) : (modCtxs f s).fw = s.fw := rfl
@[simp] theorem modCtxs_mon (f : Contexts → Contexts) (s : State) : (modCtxs f s).mon = s.mon := rfl
@[simp] theorem setSemResult_freeCtr (c : Nat) (h : Nat) (w : U64) (s : State) : (setSemResult c h w s).freeCtr = s.freeCtr := rfl
@[simp] theorem setSemResult_clocks (c : Nat) (h : Nat) (w : U64) (s : State) : (setSemResult c h w s).clocks = s.clocks := rfl
@[simp] theorem setSemResult_caps (c : Nat) (h : Nat) (w : U64) (s : State) : (setSemResult c h w s).caps = s.caps := rfl
@[simp] theorem setSemResult_host (c : Nat) (h : Nat) (w : U64) (s : State) : (setSemResult c h w s).host = s.host := rfl
@[simp] theorem setSemResult_ledger (c : Nat) (h : Nat) (w : U64) (s : State) : (setSemResult c h w s).ledger = s.ledger := rfl
@[simp] theorem setSemResult_eng (c : Nat) (h : Nat) (w : U64) (s : State) : (setSemResult c h w s).eng = s.eng := rfl
@[simp] theorem setSemResult_task (c : Nat) (h : Nat) (w : U64) (s : State) : (setSemResult c h w s).task = s.task := rfl
@[simp] theorem setSemResult_agents (c : Nat) (h : Nat) (w : U64) (s : State) : (setSemResult c h w s).agents = s.agents := rfl
@[simp] theorem setSemResult_mem (c : Nat) (h : Nat) (w : U64) (s : State) : (setSemResult c h w s).mem = s.mem := rfl
@[simp] theorem setSemResult_ecc (c : Nat) (h : Nat) (w : U64) (s : State) : (setSemResult c h w s).ecc = s.ecc := rfl
@[simp] theorem setSemResult_ftl (c : Nat) (h : Nat) (w : U64) (s : State) : (setSemResult c h w s).ftl = s.ftl := rfl
@[simp] theorem setSemResult_store (c : Nat) (h : Nat) (w : U64) (s : State) : (setSemResult c h w s).store = s.store := rfl
@[simp] theorem setSemResult_search (c : Nat) (h : Nat) (w : U64) (s : State) : (setSemResult c h w s).search = s.search := rfl
@[simp] theorem setSemResult_ports (c : Nat) (h : Nat) (w : U64) (s : State) : (setSemResult c h w s).ports = s.ports := rfl
@[simp] theorem setSemResult_tune (c : Nat) (h : Nat) (w : U64) (s : State) : (setSemResult c h w s).tune = s.tune := rfl
@[simp] theorem setSemResult_sec (c : Nat) (h : Nat) (w : U64) (s : State) : (setSemResult c h w s).sec = s.sec := rfl
@[simp] theorem setSemResult_pwr (c : Nat) (h : Nat) (w : U64) (s : State) : (setSemResult c h w s).pwr = s.pwr := rfl
@[simp] theorem setSemResult_fw (c : Nat) (h : Nat) (w : U64) (s : State) : (setSemResult c h w s).fw = s.fw := rfl
@[simp] theorem setSemResult_mon (c : Nat) (h : Nat) (w : U64) (s : State) : (setSemResult c h w s).mon = s.mon := rfl
@[simp] theorem modSem_freeCtr (n : Nat) (f : Sem → Sem) (s : State) : (modSem n f s).freeCtr = s.freeCtr := rfl
@[simp] theorem modSem_clocks (n : Nat) (f : Sem → Sem) (s : State) : (modSem n f s).clocks = s.clocks := rfl
@[simp] theorem modSem_caps (n : Nat) (f : Sem → Sem) (s : State) : (modSem n f s).caps = s.caps := rfl
@[simp] theorem modSem_host (n : Nat) (f : Sem → Sem) (s : State) : (modSem n f s).host = s.host := rfl
@[simp] theorem modSem_ledger (n : Nat) (f : Sem → Sem) (s : State) : (modSem n f s).ledger = s.ledger := rfl
@[simp] theorem modSem_eng (n : Nat) (f : Sem → Sem) (s : State) : (modSem n f s).eng = s.eng := rfl
@[simp] theorem modSem_task (n : Nat) (f : Sem → Sem) (s : State) : (modSem n f s).task = s.task := rfl
@[simp] theorem modSem_agents (n : Nat) (f : Sem → Sem) (s : State) : (modSem n f s).agents = s.agents := rfl
@[simp] theorem modSem_mem (n : Nat) (f : Sem → Sem) (s : State) : (modSem n f s).mem = s.mem := rfl
@[simp] theorem modSem_ecc (n : Nat) (f : Sem → Sem) (s : State) : (modSem n f s).ecc = s.ecc := rfl
@[simp] theorem modSem_ftl (n : Nat) (f : Sem → Sem) (s : State) : (modSem n f s).ftl = s.ftl := rfl
@[simp] theorem modSem_store (n : Nat) (f : Sem → Sem) (s : State) : (modSem n f s).store = s.store := rfl
@[simp] theorem modSem_search (n : Nat) (f : Sem → Sem) (s : State) : (modSem n f s).search = s.search := rfl
@[simp] theorem modSem_ports (n : Nat) (f : Sem → Sem) (s : State) : (modSem n f s).ports = s.ports := rfl
@[simp] theorem modSem_tune (n : Nat) (f : Sem → Sem) (s : State) : (modSem n f s).tune = s.tune := rfl
@[simp] theorem modSem_sec (n : Nat) (f : Sem → Sem) (s : State) : (modSem n f s).sec = s.sec := rfl
@[simp] theorem modSem_pwr (n : Nat) (f : Sem → Sem) (s : State) : (modSem n f s).pwr = s.pwr := rfl
@[simp] theorem modSem_fw (n : Nat) (f : Sem → Sem) (s : State) : (modSem n f s).fw = s.fw := rfl
@[simp] theorem modSem_mon (n : Nat) (f : Sem → Sem) (s : State) : (modSem n f s).mon = s.mon := rfl

/-! ### PowerOps -/

@[simp] theorem modPwr_freeCtr (f : Power → Power) (s : State) : (modPwr f s).freeCtr = s.freeCtr := rfl
@[simp] theorem modPwr_clocks (f : Power → Power) (s : State) : (modPwr f s).clocks = s.clocks := rfl
@[simp] theorem modPwr_caps (f : Power → Power) (s : State) : (modPwr f s).caps = s.caps := rfl
@[simp] theorem modPwr_host (f : Power → Power) (s : State) : (modPwr f s).host = s.host := rfl
@[simp] theorem modPwr_ledger (f : Power → Power) (s : State) : (modPwr f s).ledger = s.ledger := rfl
@[simp] theorem modPwr_eng (f : Power → Power) (s : State) : (modPwr f s).eng = s.eng := rfl
@[simp] theorem modPwr_task (f : Power → Power) (s : State) : (modPwr f s).task = s.task := rfl
@[simp] theorem modPwr_ctxs (f : Power → Power) (s : State) : (modPwr f s).ctxs = s.ctxs := rfl
@[simp] theorem modPwr_agents (f : Power → Power) (s : State) : (modPwr f s).agents = s.agents := rfl
@[simp] theorem modPwr_mem (f : Power → Power) (s : State) : (modPwr f s).mem = s.mem := rfl
@[simp] theorem modPwr_ecc (f : Power → Power) (s : State) : (modPwr f s).ecc = s.ecc := rfl
@[simp] theorem modPwr_ftl (f : Power → Power) (s : State) : (modPwr f s).ftl = s.ftl := rfl
@[simp] theorem modPwr_store (f : Power → Power) (s : State) : (modPwr f s).store = s.store := rfl
@[simp] theorem modPwr_search (f : Power → Power) (s : State) : (modPwr f s).search = s.search := rfl
@[simp] theorem modPwr_ports (f : Power → Power) (s : State) : (modPwr f s).ports = s.ports := rfl
@[simp] theorem modPwr_tune (f : Power → Power) (s : State) : (modPwr f s).tune = s.tune := rfl
@[simp] theorem modPwr_sec (f : Power → Power) (s : State) : (modPwr f s).sec = s.sec := rfl
@[simp] theorem modPwr_pwr (f : Power → Power) (s : State) : (modPwr f s).pwr = f s.pwr := rfl
@[simp] theorem modPwr_fw (f : Power → Power) (s : State) : (modPwr f s).fw = s.fw := rfl
@[simp] theorem modPwr_mon (f : Power → Power) (s : State) : (modPwr f s).mon = s.mon := rfl

/-! ### Security -/

@[simp] theorem modSec_freeCtr (f : Sec → Sec) (s : State) : (modSec f s).freeCtr = s.freeCtr := rfl
@[simp] theorem modSec_clocks (f : Sec → Sec) (s : State) : (modSec f s).clocks = s.clocks := rfl
@[simp] theorem modSec_caps (f : Sec → Sec) (s : State) : (modSec f s).caps = s.caps := rfl
@[simp] theorem modSec_host (f : Sec → Sec) (s : State) : (modSec f s).host = s.host := rfl
@[simp] theorem modSec_ledger (f : Sec → Sec) (s : State) : (modSec f s).ledger = s.ledger := rfl
@[simp] theorem modSec_eng (f : Sec → Sec) (s : State) : (modSec f s).eng = s.eng := rfl
@[simp] theorem modSec_task (f : Sec → Sec) (s : State) : (modSec f s).task = s.task := rfl
@[simp] theorem modSec_ctxs (f : Sec → Sec) (s : State) : (modSec f s).ctxs = s.ctxs := rfl
@[simp] theorem modSec_agents (f : Sec → Sec) (s : State) : (modSec f s).agents = s.agents := rfl
@[simp] theorem modSec_mem (f : Sec → Sec) (s : State) : (modSec f s).mem = s.mem := rfl
@[simp] theorem modSec_ecc (f : Sec → Sec) (s : State) : (modSec f s).ecc = s.ecc := rfl
@[simp] theorem modSec_ftl (f : Sec → Sec) (s : State) : (modSec f s).ftl = s.ftl := rfl
@[simp] theorem modSec_store (f : Sec → Sec) (s : State) : (modSec f s).store = s.store := rfl
@[simp] theorem modSec_search (f : Sec → Sec) (s : State) : (modSec f s).search = s.search := rfl
@[simp] theorem modSec_ports (f : Sec → Sec) (s : State) : (modSec f s).ports = s.ports := rfl
@[simp] theorem modSec_tune (f : Sec → Sec) (s : State) : (modSec f s).tune = s.tune := rfl
@[simp] theorem modSec_sec (f : Sec → Sec) (s : State) : (modSec f s).sec = f s.sec := rfl
@[simp] theorem modSec_pwr (f : Sec → Sec) (s : State) : (modSec f s).pwr = s.pwr := rfl
@[simp] theorem modSec_fw (f : Sec → Sec) (s : State) : (modSec f s).fw = s.fw := rfl
@[simp] theorem modSec_mon (f : Sec → Sec) (s : State) : (modSec f s).mon = s.mon := rfl
@[simp] theorem modSpdm_freeCtr (p : Nat) (f : Spdm → Spdm) (s : State) : (modSpdm p f s).freeCtr = s.freeCtr := rfl
@[simp] theorem modSpdm_clocks (p : Nat) (f : Spdm → Spdm) (s : State) : (modSpdm p f s).clocks = s.clocks := rfl
@[simp] theorem modSpdm_caps (p : Nat) (f : Spdm → Spdm) (s : State) : (modSpdm p f s).caps = s.caps := rfl
@[simp] theorem modSpdm_host (p : Nat) (f : Spdm → Spdm) (s : State) : (modSpdm p f s).host = s.host := rfl
@[simp] theorem modSpdm_ledger (p : Nat) (f : Spdm → Spdm) (s : State) : (modSpdm p f s).ledger = s.ledger := rfl
@[simp] theorem modSpdm_eng (p : Nat) (f : Spdm → Spdm) (s : State) : (modSpdm p f s).eng = s.eng := rfl
@[simp] theorem modSpdm_task (p : Nat) (f : Spdm → Spdm) (s : State) : (modSpdm p f s).task = s.task := rfl
@[simp] theorem modSpdm_ctxs (p : Nat) (f : Spdm → Spdm) (s : State) : (modSpdm p f s).ctxs = s.ctxs := rfl
@[simp] theorem modSpdm_agents (p : Nat) (f : Spdm → Spdm) (s : State) : (modSpdm p f s).agents = s.agents := rfl
@[simp] theorem modSpdm_mem (p : Nat) (f : Spdm → Spdm) (s : State) : (modSpdm p f s).mem = s.mem := rfl
@[simp] theorem modSpdm_ecc (p : Nat) (f : Spdm → Spdm) (s : State) : (modSpdm p f s).ecc = s.ecc := rfl
@[simp] theorem modSpdm_ftl (p : Nat) (f : Spdm → Spdm) (s : State) : (modSpdm p f s).ftl = s.ftl := rfl
@[simp] theorem modSpdm_store (p : Nat) (f : Spdm → Spdm) (s : State) : (modSpdm p f s).store = s.store := rfl
@[simp] theorem modSpdm_search (p : Nat) (f : Spdm → Spdm) (s : State) : (modSpdm p f s).search = s.search := rfl
@[simp] theorem modSpdm_ports (p : Nat) (f : Spdm → Spdm) (s : State) : (modSpdm p f s).ports = s.ports := rfl
@[simp] theorem modSpdm_tune (p : Nat) (f : Spdm → Spdm) (s : State) : (modSpdm p f s).tune = s.tune := rfl
@[simp] theorem modSpdm_pwr (p : Nat) (f : Spdm → Spdm) (s : State) : (modSpdm p f s).pwr = s.pwr := rfl
@[simp] theorem modSpdm_fw (p : Nat) (f : Spdm → Spdm) (s : State) : (modSpdm p f s).fw = s.fw := rfl
@[simp] theorem modSpdm_mon (p : Nat) (f : Spdm → Spdm) (s : State) : (modSpdm p f s).mon = s.mon := rfl
@[simp] theorem modDom_freeCtr (k : Nat) (f : KeyDom → KeyDom) (s : State) : (modDom k f s).freeCtr = s.freeCtr := rfl
@[simp] theorem modDom_clocks (k : Nat) (f : KeyDom → KeyDom) (s : State) : (modDom k f s).clocks = s.clocks := rfl
@[simp] theorem modDom_caps (k : Nat) (f : KeyDom → KeyDom) (s : State) : (modDom k f s).caps = s.caps := rfl
@[simp] theorem modDom_host (k : Nat) (f : KeyDom → KeyDom) (s : State) : (modDom k f s).host = s.host := rfl
@[simp] theorem modDom_ledger (k : Nat) (f : KeyDom → KeyDom) (s : State) : (modDom k f s).ledger = s.ledger := rfl
@[simp] theorem modDom_eng (k : Nat) (f : KeyDom → KeyDom) (s : State) : (modDom k f s).eng = s.eng := rfl
@[simp] theorem modDom_task (k : Nat) (f : KeyDom → KeyDom) (s : State) : (modDom k f s).task = s.task := rfl
@[simp] theorem modDom_ctxs (k : Nat) (f : KeyDom → KeyDom) (s : State) : (modDom k f s).ctxs = s.ctxs := rfl
@[simp] theorem modDom_agents (k : Nat) (f : KeyDom → KeyDom) (s : State) : (modDom k f s).agents = s.agents := rfl
@[simp] theorem modDom_mem (k : Nat) (f : KeyDom → KeyDom) (s : State) : (modDom k f s).mem = s.mem := rfl
@[simp] theorem modDom_ecc (k : Nat) (f : KeyDom → KeyDom) (s : State) : (modDom k f s).ecc = s.ecc := rfl
@[simp] theorem modDom_ftl (k : Nat) (f : KeyDom → KeyDom) (s : State) : (modDom k f s).ftl = s.ftl := rfl
@[simp] theorem modDom_store (k : Nat) (f : KeyDom → KeyDom) (s : State) : (modDom k f s).store = s.store := rfl
@[simp] theorem modDom_search (k : Nat) (f : KeyDom → KeyDom) (s : State) : (modDom k f s).search = s.search := rfl
@[simp] theorem modDom_ports (k : Nat) (f : KeyDom → KeyDom) (s : State) : (modDom k f s).ports = s.ports := rfl
@[simp] theorem modDom_tune (k : Nat) (f : KeyDom → KeyDom) (s : State) : (modDom k f s).tune = s.tune := rfl
@[simp] theorem modDom_pwr (k : Nat) (f : KeyDom → KeyDom) (s : State) : (modDom k f s).pwr = s.pwr := rfl
@[simp] theorem modDom_fw (k : Nat) (f : KeyDom → KeyDom) (s : State) : (modDom k f s).fw = s.fw := rfl
@[simp] theorem modDom_mon (k : Nat) (f : KeyDom → KeyDom) (s : State) : (modDom k f s).mon = s.mon := rfl

/-! ### Power -/

@[simp] theorem modFeed_freeCtr (f : Nat) (g : Feed → Feed) (s : State) : (modFeed f g s).freeCtr = s.freeCtr := rfl
@[simp] theorem modFeed_clocks (f : Nat) (g : Feed → Feed) (s : State) : (modFeed f g s).clocks = s.clocks := rfl
@[simp] theorem modFeed_caps (f : Nat) (g : Feed → Feed) (s : State) : (modFeed f g s).caps = s.caps := rfl
@[simp] theorem modFeed_host (f : Nat) (g : Feed → Feed) (s : State) : (modFeed f g s).host = s.host := rfl
@[simp] theorem modFeed_ledger (f : Nat) (g : Feed → Feed) (s : State) : (modFeed f g s).ledger = s.ledger := rfl
@[simp] theorem modFeed_eng (f : Nat) (g : Feed → Feed) (s : State) : (modFeed f g s).eng = s.eng := rfl
@[simp] theorem modFeed_task (f : Nat) (g : Feed → Feed) (s : State) : (modFeed f g s).task = s.task := rfl
@[simp] theorem modFeed_ctxs (f : Nat) (g : Feed → Feed) (s : State) : (modFeed f g s).ctxs = s.ctxs := rfl
@[simp] theorem modFeed_agents (f : Nat) (g : Feed → Feed) (s : State) : (modFeed f g s).agents = s.agents := rfl
@[simp] theorem modFeed_mem (f : Nat) (g : Feed → Feed) (s : State) : (modFeed f g s).mem = s.mem := rfl
@[simp] theorem modFeed_ecc (f : Nat) (g : Feed → Feed) (s : State) : (modFeed f g s).ecc = s.ecc := rfl
@[simp] theorem modFeed_ftl (f : Nat) (g : Feed → Feed) (s : State) : (modFeed f g s).ftl = s.ftl := rfl
@[simp] theorem modFeed_store (f : Nat) (g : Feed → Feed) (s : State) : (modFeed f g s).store = s.store := rfl
@[simp] theorem modFeed_search (f : Nat) (g : Feed → Feed) (s : State) : (modFeed f g s).search = s.search := rfl
@[simp] theorem modFeed_ports (f : Nat) (g : Feed → Feed) (s : State) : (modFeed f g s).ports = s.ports := rfl
@[simp] theorem modFeed_tune (f : Nat) (g : Feed → Feed) (s : State) : (modFeed f g s).tune = s.tune := rfl
@[simp] theorem modFeed_sec (f : Nat) (g : Feed → Feed) (s : State) : (modFeed f g s).sec = s.sec := rfl
@[simp] theorem modFeed_fw (f : Nat) (g : Feed → Feed) (s : State) : (modFeed f g s).fw = s.fw := rfl
@[simp] theorem modFeed_mon (f : Nat) (g : Feed → Feed) (s : State) : (modFeed f g s).mon = s.mon := rfl

/-! ### Firmware -/

@[simp] theorem setPending_freeCtr (a : Option Activation) (s : State) : (setPending a s).freeCtr = s.freeCtr := rfl
@[simp] theorem setPending_clocks (a : Option Activation) (s : State) : (setPending a s).clocks = s.clocks := rfl
@[simp] theorem setPending_caps (a : Option Activation) (s : State) : (setPending a s).caps = s.caps := rfl
@[simp] theorem setPending_host (a : Option Activation) (s : State) : (setPending a s).host = s.host := rfl
@[simp] theorem setPending_ledger (a : Option Activation) (s : State) : (setPending a s).ledger = s.ledger := rfl
@[simp] theorem setPending_eng (a : Option Activation) (s : State) : (setPending a s).eng = s.eng := rfl
@[simp] theorem setPending_task (a : Option Activation) (s : State) : (setPending a s).task = s.task := rfl
@[simp] theorem setPending_ctxs (a : Option Activation) (s : State) : (setPending a s).ctxs = s.ctxs := rfl
@[simp] theorem setPending_agents (a : Option Activation) (s : State) : (setPending a s).agents = s.agents := rfl
@[simp] theorem setPending_mem (a : Option Activation) (s : State) : (setPending a s).mem = s.mem := rfl
@[simp] theorem setPending_ecc (a : Option Activation) (s : State) : (setPending a s).ecc = s.ecc := rfl
@[simp] theorem setPending_ftl (a : Option Activation) (s : State) : (setPending a s).ftl = s.ftl := rfl
@[simp] theorem setPending_store (a : Option Activation) (s : State) : (setPending a s).store = s.store := rfl
@[simp] theorem setPending_search (a : Option Activation) (s : State) : (setPending a s).search = s.search := rfl
@[simp] theorem setPending_ports (a : Option Activation) (s : State) : (setPending a s).ports = s.ports := rfl
@[simp] theorem setPending_tune (a : Option Activation) (s : State) : (setPending a s).tune = s.tune := rfl
@[simp] theorem setPending_sec (a : Option Activation) (s : State) : (setPending a s).sec = s.sec := rfl
@[simp] theorem setPending_pwr (a : Option Activation) (s : State) : (setPending a s).pwr = s.pwr := rfl
@[simp] theorem setPending_mon (a : Option Activation) (s : State) : (setPending a s).mon = s.mon := rfl

/-! ### Reset -/

@[simp] theorem setStep_freeCtr (n : Nat) (s : State) : (setStep n s).freeCtr = s.freeCtr := rfl
@[simp] theorem setStep_clocks (n : Nat) (s : State) : (setStep n s).clocks = s.clocks := rfl
@[simp] theorem setStep_caps (n : Nat) (s : State) : (setStep n s).caps = s.caps := rfl
@[simp] theorem setStep_host (n : Nat) (s : State) : (setStep n s).host = { s.host with bootStep := n } := rfl
@[simp] theorem setStep_ledger (n : Nat) (s : State) : (setStep n s).ledger = s.ledger := rfl
@[simp] theorem setStep_eng (n : Nat) (s : State) : (setStep n s).eng = s.eng := rfl
@[simp] theorem setStep_task (n : Nat) (s : State) : (setStep n s).task = s.task := rfl
@[simp] theorem setStep_ctxs (n : Nat) (s : State) : (setStep n s).ctxs = s.ctxs := rfl
@[simp] theorem setStep_agents (n : Nat) (s : State) : (setStep n s).agents = s.agents := rfl
@[simp] theorem setStep_mem (n : Nat) (s : State) : (setStep n s).mem = s.mem := rfl
@[simp] theorem setStep_ecc (n : Nat) (s : State) : (setStep n s).ecc = s.ecc := rfl
@[simp] theorem setStep_ftl (n : Nat) (s : State) : (setStep n s).ftl = s.ftl := rfl
@[simp] theorem setStep_store (n : Nat) (s : State) : (setStep n s).store = s.store := rfl
@[simp] theorem setStep_search (n : Nat) (s : State) : (setStep n s).search = s.search := rfl
@[simp] theorem setStep_ports (n : Nat) (s : State) : (setStep n s).ports = s.ports := rfl
@[simp] theorem setStep_tune (n : Nat) (s : State) : (setStep n s).tune = s.tune := rfl
@[simp] theorem setStep_sec (n : Nat) (s : State) : (setStep n s).sec = s.sec := rfl
@[simp] theorem setStep_pwr (n : Nat) (s : State) : (setStep n s).pwr = s.pwr := rfl
@[simp] theorem setStep_fw (n : Nat) (s : State) : (setStep n s).fw = s.fw := rfl
@[simp] theorem setStep_mon (n : Nat) (s : State) : (setStep n s).mon = s.mon := rfl

/-! ### Monitors -/

@[simp] theorem setMon_freeCtr (i : Nat) (m : Mon) (s : State) : (setMon i m s).freeCtr = s.freeCtr := rfl
@[simp] theorem setMon_clocks (i : Nat) (m : Mon) (s : State) : (setMon i m s).clocks = s.clocks := rfl
@[simp] theorem setMon_caps (i : Nat) (m : Mon) (s : State) : (setMon i m s).caps = s.caps := rfl
@[simp] theorem setMon_host (i : Nat) (m : Mon) (s : State) : (setMon i m s).host = s.host := rfl
@[simp] theorem setMon_ledger (i : Nat) (m : Mon) (s : State) : (setMon i m s).ledger = s.ledger := rfl
@[simp] theorem setMon_eng (i : Nat) (m : Mon) (s : State) : (setMon i m s).eng = s.eng := rfl
@[simp] theorem setMon_task (i : Nat) (m : Mon) (s : State) : (setMon i m s).task = s.task := rfl
@[simp] theorem setMon_ctxs (i : Nat) (m : Mon) (s : State) : (setMon i m s).ctxs = s.ctxs := rfl
@[simp] theorem setMon_agents (i : Nat) (m : Mon) (s : State) : (setMon i m s).agents = s.agents := rfl
@[simp] theorem setMon_mem (i : Nat) (m : Mon) (s : State) : (setMon i m s).mem = s.mem := rfl
@[simp] theorem setMon_ecc (i : Nat) (m : Mon) (s : State) : (setMon i m s).ecc = s.ecc := rfl
@[simp] theorem setMon_ftl (i : Nat) (m : Mon) (s : State) : (setMon i m s).ftl = s.ftl := rfl
@[simp] theorem setMon_store (i : Nat) (m : Mon) (s : State) : (setMon i m s).store = s.store := rfl
@[simp] theorem setMon_search (i : Nat) (m : Mon) (s : State) : (setMon i m s).search = s.search := rfl
@[simp] theorem setMon_ports (i : Nat) (m : Mon) (s : State) : (setMon i m s).ports = s.ports := rfl
@[simp] theorem setMon_tune (i : Nat) (m : Mon) (s : State) : (setMon i m s).tune = s.tune := rfl
@[simp] theorem setMon_sec (i : Nat) (m : Mon) (s : State) : (setMon i m s).sec = s.sec := rfl
@[simp] theorem setMon_pwr (i : Nat) (m : Mon) (s : State) : (setMon i m s).pwr = s.pwr := rfl
@[simp] theorem setMon_fw (i : Nat) (m : Mon) (s : State) : (setMon i m s).fw = s.fw := rfl
@[simp] theorem setMon_mon (i : Nat) (m : Mon) (s : State) : (setMon i m s).mon = { s.mon with mon := tset s.mon.mon i m } := rfl
@[simp] theorem modMons_freeCtr (f : Mons → Mons) (s : State) : (modMons f s).freeCtr = s.freeCtr := rfl
@[simp] theorem modMons_clocks (f : Mons → Mons) (s : State) : (modMons f s).clocks = s.clocks := rfl
@[simp] theorem modMons_caps (f : Mons → Mons) (s : State) : (modMons f s).caps = s.caps := rfl
@[simp] theorem modMons_host (f : Mons → Mons) (s : State) : (modMons f s).host = s.host := rfl
@[simp] theorem modMons_ledger (f : Mons → Mons) (s : State) : (modMons f s).ledger = s.ledger := rfl
@[simp] theorem modMons_eng (f : Mons → Mons) (s : State) : (modMons f s).eng = s.eng := rfl
@[simp] theorem modMons_task (f : Mons → Mons) (s : State) : (modMons f s).task = s.task := rfl
@[simp] theorem modMons_ctxs (f : Mons → Mons) (s : State) : (modMons f s).ctxs = s.ctxs := rfl
@[simp] theorem modMons_agents (f : Mons → Mons) (s : State) : (modMons f s).agents = s.agents := rfl
@[simp] theorem modMons_mem (f : Mons → Mons) (s : State) : (modMons f s).mem = s.mem := rfl
@[simp] theorem modMons_ecc (f : Mons → Mons) (s : State) : (modMons f s).ecc = s.ecc := rfl
@[simp] theorem modMons_ftl (f : Mons → Mons) (s : State) : (modMons f s).ftl = s.ftl := rfl
@[simp] theorem modMons_store (f : Mons → Mons) (s : State) : (modMons f s).store = s.store := rfl
@[simp] theorem modMons_search (f : Mons → Mons) (s : State) : (modMons f s).search = s.search := rfl
@[simp] theorem modMons_ports (f : Mons → Mons) (s : State) : (modMons f s).ports = s.ports := rfl
@[simp] theorem modMons_tune (f : Mons → Mons) (s : State) : (modMons f s).tune = s.tune := rfl
@[simp] theorem modMons_sec (f : Mons → Mons) (s : State) : (modMons f s).sec = s.sec := rfl
@[simp] theorem modMons_pwr (f : Mons → Mons) (s : State) : (modMons f s).pwr = s.pwr := rfl
@[simp] theorem modMons_fw (f : Mons → Mons) (s : State) : (modMons f s).fw = s.fw := rfl
@[simp] theorem modMons_mon (f : Mons → Mons) (s : State) : (modMons f s).mon = f s.mon := rfl

/-! ### Tune -/

@[simp] theorem modHellos_freeCtr (f : Tbl Nat → Tbl Nat) (s : State) : (modHellos f s).freeCtr = s.freeCtr := rfl
@[simp] theorem modHellos_clocks (f : Tbl Nat → Tbl Nat) (s : State) : (modHellos f s).clocks = s.clocks := rfl
@[simp] theorem modHellos_caps (f : Tbl Nat → Tbl Nat) (s : State) : (modHellos f s).caps = s.caps := rfl
@[simp] theorem modHellos_host (f : Tbl Nat → Tbl Nat) (s : State) : (modHellos f s).host = s.host := rfl
@[simp] theorem modHellos_ledger (f : Tbl Nat → Tbl Nat) (s : State) : (modHellos f s).ledger = s.ledger := rfl
@[simp] theorem modHellos_eng (f : Tbl Nat → Tbl Nat) (s : State) : (modHellos f s).eng = s.eng := rfl
@[simp] theorem modHellos_task (f : Tbl Nat → Tbl Nat) (s : State) : (modHellos f s).task = s.task := rfl
@[simp] theorem modHellos_ctxs (f : Tbl Nat → Tbl Nat) (s : State) : (modHellos f s).ctxs = s.ctxs := rfl
@[simp] theorem modHellos_agents (f : Tbl Nat → Tbl Nat) (s : State) : (modHellos f s).agents = s.agents := rfl
@[simp] theorem modHellos_mem (f : Tbl Nat → Tbl Nat) (s : State) : (modHellos f s).mem = s.mem := rfl
@[simp] theorem modHellos_ecc (f : Tbl Nat → Tbl Nat) (s : State) : (modHellos f s).ecc = s.ecc := rfl
@[simp] theorem modHellos_ftl (f : Tbl Nat → Tbl Nat) (s : State) : (modHellos f s).ftl = s.ftl := rfl
@[simp] theorem modHellos_store (f : Tbl Nat → Tbl Nat) (s : State) : (modHellos f s).store = s.store := rfl
@[simp] theorem modHellos_search (f : Tbl Nat → Tbl Nat) (s : State) : (modHellos f s).search = s.search := rfl
@[simp] theorem modHellos_ports (f : Tbl Nat → Tbl Nat) (s : State) : (modHellos f s).ports = s.ports := rfl
@[simp] theorem modHellos_tune (f : Tbl Nat → Tbl Nat) (s : State) : (modHellos f s).tune = { s.tune with hellos := f s.tune.hellos } := rfl
@[simp] theorem modHellos_sec (f : Tbl Nat → Tbl Nat) (s : State) : (modHellos f s).sec = s.sec := rfl
@[simp] theorem modHellos_pwr (f : Tbl Nat → Tbl Nat) (s : State) : (modHellos f s).pwr = s.pwr := rfl
@[simp] theorem modHellos_fw (f : Tbl Nat → Tbl Nat) (s : State) : (modHellos f s).fw = s.fw := rfl
@[simp] theorem modHellos_mon (f : Tbl Nat → Tbl Nat) (s : State) : (modHellos f s).mon = s.mon := rfl

/-! ### Updates of one entry -/

@[simp] theorem modReq_ledger (rid : Nat) (f : Req → Req) (s : State) :
    (modReq rid f s).ledger = { s.ledger with reqs := s.ledger.reqs.map fun r => if r.rid = rid then f r else r } := rfl
@[simp] theorem dropReq_ledger (rid : Nat) (s : State) :
    (dropReq rid s).ledger = { s.ledger with reqs := s.ledger.reqs.filter fun r => decide (r.rid ≠ rid) } := rfl
@[simp] theorem modEng_eng (e : Nat) (f : Eng → Eng) (s : State) :
    (modEng e f s).eng = { s.eng with eng := tset s.eng.eng e (f (engOf e s)) } := rfl
@[simp] theorem modHart_task (h : Nat) (f : Hart → Hart) (s : State) :
    (modHart h f s).task = { s.task with harts := tset s.task.harts h (f (hartOf h s)) } := rfl
@[simp] theorem modTq_ctxs (c : Nat) (f : Ring → Ring) (s : State) :
    (modTq c f s).ctxs = { s.ctxs with slots := tmod s.ctxs.slots c fun k => { k with tq := f k.tq } } := rfl
@[simp] theorem modModel_agents (m : Nat) (f : Model → Model) (s : State) :
    (modModel m f s).agents = { s.agents with models := tmod s.agents.models m f } := rfl
@[simp] theorem modSess_agents (id : Nat) (f : Sess → Sess) (s : State) :
    (modSess id f s).agents = { s.agents with sess := tmod s.agents.sess id f } := rfl
@[simp] theorem modFeat_store (c : Nat) (f : Feat → Feat) (s : State) :
    (modFeat c f s).store = { s.store with feat := tupd s.store.feat c Feat.init f } := rfl
@[simp] theorem modIdx_search (h : Nat) (f : Index → Index) (s : State) :
    (modIdx h f s).search = { s.search with idx := tmod s.search.idx h f } := rfl
@[simp] theorem modSem_ctxs (n : Nat) (f : Sem → Sem) (s : State) :
    (modSem n f s).ctxs = { s.ctxs with sems := tmod s.ctxs.sems n f } := rfl
@[simp] theorem modSpdm_sec (p : Nat) (f : Spdm → Spdm) (s : State) :
    (modSpdm p f s).sec = { s.sec with spdm := tupd s.sec.spdm p Spdm.init f } := rfl
@[simp] theorem modDom_sec (k : Nat) (f : KeyDom → KeyDom) (s : State) :
    (modDom k f s).sec = { s.sec with doms := tupd s.sec.doms k KeyDom.fresh f } := rfl
@[simp] theorem modFa_fw (f : FaArray → FaArray) (s : State) : (modFa f s).fw = { s.fw with fa := f s.fw.fa } := rfl

end Sys2Proof.Machine
end

