-- ==== Sys2Proof/Laws/Table.lean ====
section
/-! SUPPORT. Laws of tables and byte memories: a read after a write, what a write leaves alone, the canonical form. -/
namespace Sys2Proof.Machine

/-! ### Tables -/

@[simp] theorem tget_nil {α : Type} (k : Nat) : tget ([] : Tbl α) k = none := rfl

theorem tget_cons {α : Type} (a : Nat) (v : α) (r : Tbl α) (k : Nat) : tget ((a, v) :: r) k = if a = k then some v else tget r k := rfl

@[simp] theorem tget_tset_same {α : Type} (t : Tbl α) (k : Nat) (v : α) : tget (tset t k v) k = some v := by
  induction t with
  | nil => simp [tset, tget_cons]
  | cons e r ih =>
    obtain ⟨a, w⟩ := e
    unfold tset
    split
    · have : a ≠ k := by omega
      simp [tget_cons, this, ih]
    · split <;> simp [tget_cons]

theorem tget_tset_other {α : Type} (t : Tbl α) (k : Nat) (v : α) (j : Nat) (h : j ≠ k) : tget (tset t k v) j = tget t j := by
  induction t with
  | nil => simp [tset, tget_cons, Ne.symm h]
  | cons e r ih =>
    obtain ⟨a, w⟩ := e
    unfold tset
    split
    · simp [tget_cons, ih]
    · split
      · rename_i h2
        subst h2
        simp [tget_cons, Ne.symm h]
      · simp [tget_cons, Ne.symm h]

@[simp] theorem tget_tdel_same {α : Type} (t : Tbl α) (k : Nat) : tget (tdel t k) k = none := by
  induction t with
  | nil => rfl
  | cons e r ih =>
    obtain ⟨a, w⟩ := e
    unfold tdel
    split
    · exact ih
    · rename_i h
      simp [tget_cons, h, ih]

theorem tget_tdel_other {α : Type} (t : Tbl α) (k j : Nat) (h : j ≠ k) : tget (tdel t k) j = tget t j := by
  induction t with
  | nil => rfl
  | cons e r ih =>
    obtain ⟨a, w⟩ := e
    unfold tdel
    split
    · rename_i h2
      subst h2
      rw [ih, tget_cons, if_neg (Ne.symm h)]
    · simp [tget_cons, ih]

/-- One lemma for a table after a put. -/
theorem tget_tset {α : Type} (t : Tbl α) (k : Nat) (v : α) (j : Nat) : tget (tset t k v) j = if j = k then some v else tget t j := by
  split
  · rename_i h; rw [h]; simp
  · rename_i h; exact tget_tset_other t k v j h

theorem tget_tdel {α : Type} (t : Tbl α) (k j : Nat) : tget (tdel t k) j = if j = k then none else tget t j := by
  split
  · rename_i h; rw [h]; simp
  · rename_i h; exact tget_tdel_other t k j h

theorem tget_tmod {α : Type} (t : Tbl α) (k : Nat) (f : α → α) (j : Nat) :
    tget (tmod t k f) j = if j = k then (tget t k).map f else tget t j := by
  unfold tmod
  cases h : tget t k with
  | none =>
    dsimp only
    split
    · rename_i hj; rw [hj, h]; rfl
    · rfl
  | some v => simp [tget_tset]

theorem tget_tmap {α : Type} (t : Tbl α) (f : Nat → α → α) (k : Nat) : tget (tmap t f) k = (tget t k).map (f k) := by
  induction t with
  | nil => rfl
  | cons e r ih =>
    obtain ⟨a, w⟩ := e
    show tget ((a, f a w) :: tmap r f) k = _
    rw [tget_cons, tget_cons, ih]
    split
    · rename_i h; rw [h]; rfl
    · rfl

theorem aget_aset {α : Type} [DecidableEq α] (d : α) (t : Tbl α) (k : Nat) (v : α) (j : Nat) :
    aget d (aset d t k v) j = if j = k then v else aget d t j := by
  unfold aget aset tgetD
  split
  · rename_i hv
    rw [tget_tdel]
    split
    · rw [hv]; rfl
    · rfl
  · rw [tget_tset]
    split <;> rfl

@[simp] theorem aget_nil {α : Type} (d : α) (k : Nat) : aget d ([] : Tbl α) k = d := rfl

/-- A second put at the same key replaces the first. -/
@[simp] theorem tset_tset {α : Type} (t : Tbl α) (k : Nat) (v w : α) : tset (tset t k v) k w = tset t k w := by
  induction t with
  | nil => simp [tset]
  | cons e r ih =>
    obtain ⟨a, x⟩ := e
    by_cases h1 : a < k
    · simp [tset, h1, ih]
    · by_cases h2 : a = k
      · simp [tset, h2]
      · simp [tset, h1, h2]

theorem tgetD_tset {α : Type} (t : Tbl α) (k : Nat) (v : α) (j : Nat) (d : α) : tgetD (tset t k v) j d = if j = k then v else tgetD t j d := by
  unfold tgetD
  rw [tget_tset]
  split <;> rfl

/-! ### Canonical form -/

theorem keysRise_cons {α : Type} (a : Nat) (v : α) (r : Tbl α) :
    keysRise ((a, v) :: r) = true ↔ (∀ e ∈ r, a < e.1) ∧ keysRise r = true := by
  induction r generalizing a v with
  | nil => simp [keysRise]
  | cons e r ih =>
    obtain ⟨b, w⟩ := e
    have e : keysRise ((a, v) :: (b, w) :: r) = (decide (a < b) && keysRise ((b, w) :: r)) := rfl
    rw [e]
    simp only [Bool.and_eq_true, decide_eq_true_eq]
    constructor
    · rintro ⟨h1, h2⟩
      refine ⟨?_, h2⟩
      intro e he
      rcases List.mem_cons.mp he with h | h
      · rw [h]; exact h1
      · exact Nat.lt_trans h1 (((ih b w).mp h2).1 e h)
    · rintro ⟨h1, h2⟩
      exact ⟨h1 (b, w) (List.mem_cons_self ..), h2⟩

theorem mem_tset {α : Type} (t : Tbl α) (k : Nat) (v : α) (e : Nat × α) (h : e ∈ tset t k v) : e = (k, v) ∨ e ∈ t := by
  induction t with
  | nil => simpa [tset] using h
  | cons x r ih =>
    obtain ⟨a, w⟩ := x
    unfold tset at h
    split at h
    · rcases List.mem_cons.mp h with h | h
      · exact .inr (by rw [h]; exact List.mem_cons_self ..)
      · rcases ih h with h | h
        · exact .inl h
        · exact .inr (List.mem_cons_of_mem _ h)
    · split at h
      · rcases List.mem_cons.mp h with h | h
        · exact .inl h
        · exact .inr (List.mem_cons_of_mem _ h)
      · rcases List.mem_cons.mp h with h | h
        · exact .inl h
        · exact .inr h

theorem mem_tdel {α : Type} (t : Tbl α) (k : Nat) (e : Nat × α) (h : e ∈ tdel t k) : e ∈ t := by
  induction t with
  | nil => exact h
  | cons x r ih =>
    obtain ⟨a, w⟩ := x
    unfold tdel at h
    split at h
    · exact List.mem_cons_of_mem _ (ih h)
    · rcases List.mem_cons.mp h with h | h
      · rw [h]; exact List.mem_cons_self ..
      · exact List.mem_cons_of_mem _ (ih h)

theorem keysRise_tset {α : Type} (t : Tbl α) (k : Nat) (v : α) (h : keysRise t = true) : keysRise (tset t k v) = true := by
  induction t with
  | nil => rfl
  | cons x r ih =>
    obtain ⟨a, w⟩ := x
    have hc := (keysRise_cons a w r).mp h
    unfold tset
    split
    · rename_i hak
      refine (keysRise_cons _ _ _).mpr ⟨?_, ih hc.2⟩
      intro e he
      rcases mem_tset r k v e he with h | h
      · rw [h]; exact hak
      · exact hc.1 e h
    · split
      · rename_i hak
        subst hak
        exact (keysRise_cons _ _ _).mpr hc
      · refine (keysRise_cons _ _ _).mpr ⟨?_, h⟩
        intro e he
        rcases List.mem_cons.mp he with h | h
        · rw [h]; show k < a; omega
        · have := hc.1 e h; omega

theorem keysRise_tdel {α : Type} (t : Tbl α) (k : Nat) (h : keysRise t = true) : keysRise (tdel t k) = true := by
  induction t with
  | nil => rfl
  | cons x r ih =>
    obtain ⟨a, w⟩ := x
    have hc := (keysRise_cons a w r).mp h
    unfold tdel
    split
    · exact ih hc.2
    · exact (keysRise_cons _ _ _).mpr ⟨fun e he => hc.1 e (mem_tdel r k e he), ih hc.2⟩

theorem keysRise_tmod {α : Type} (t : Tbl α) (k : Nat) (f : α → α) (h : keysRise t = true) : keysRise (tmod t k f) = true := by
  unfold tmod
  split
  · exact h
  · exact keysRise_tset t k _ h

theorem keysRise_tupd {α : Type} (t : Tbl α) (k : Nat) (d : α) (f : α → α) (h : keysRise t = true) : keysRise (tupd t k d f) = true :=
  keysRise_tset t k _ h

theorem keysRise_tmap {α : Type} (t : Tbl α) (f : Nat → α → α) (h : keysRise t = true) : keysRise (tmap t f) = true := by
  induction t with
  | nil => rfl
  | cons x r ih =>
    obtain ⟨a, w⟩ := x
    have hc := (keysRise_cons a w r).mp h
    refine (keysRise_cons _ _ _).mpr ⟨?_, ih hc.2⟩
    intro e he
    obtain ⟨y, hy, rfl⟩ := List.mem_map.mp he
    exact hc.1 y hy

/-! ### Byte memories -/

theorem read_write (d : Byte) (m : Memory) (a : Nat) (b : Byte) (x : Nat) :
    Memory.read d (Memory.write d m a b) x = if x = a then b else Memory.read d m x := aget_aset d m a b x

@[simp] theorem read_write_same (d : Byte) (m : Memory) (a : Nat) (b : Byte) : Memory.read d (Memory.write d m a b) a = b := by
  simp [read_write]

theorem read_write_other (d : Byte) (m : Memory) (a : Nat) (b : Byte) (x : Nat) (h : x ≠ a) :
    Memory.read d (Memory.write d m a b) x = Memory.read d m x := by
  simp [read_write, h]

/-- What a byte reads as after a string was written: the string's byte inside it, the old byte outside. -/
theorem read_writeN (d : Byte) (m : Memory) (a : Nat) (bs : Bytes) (x : Nat) :
    Memory.read d (Memory.writeN d m a bs) x = if a ≤ x ∧ x < a + bs.length then bs.getD (x - a) 0 else Memory.read d m x := by
  induction bs generalizing m a with
  | nil =>
    have : ¬(a ≤ x ∧ x < a + ([] : Bytes).length) := by simp
    rw [if_neg this]; rfl
  | cons b r ih =>
    show Memory.read d (Memory.writeN d (Memory.write d m a b) (a + 1) r) x = _
    rw [ih, read_write]
    by_cases h1 : x = a
    · subst h1
      have h2 : ¬(x + 1 ≤ x ∧ x < x + 1 + r.length) := by omega
      have h3 : x ≤ x ∧ x < x + (b :: r).length := by simp
      rw [if_neg h2, if_pos rfl, if_pos h3]
      simp
    · by_cases h2 : a + 1 ≤ x ∧ x < a + 1 + r.length
      · have h3 : a ≤ x ∧ x < a + (b :: r).length := by simp only [List.length_cons]; omega
        rw [if_pos h2, if_pos h3]
        have : x - a = (x - (a + 1)) + 1 := by omega
        rw [this, List.getD_cons_succ]
      · have h3 : ¬(a ≤ x ∧ x < a + (b :: r).length) := by simp only [List.length_cons]; omega
        rw [if_neg h2, if_neg h3, if_neg h1]

theorem read_writeN_outside (d : Byte) (m : Memory) (a : Nat) (bs : Bytes) (x : Nat) (h : x < a ∨ a + bs.length ≤ x) :
    Memory.read d (Memory.writeN d m a bs) x = Memory.read d m x := by
  rw [read_writeN, if_neg (by omega)]

@[simp] theorem length_readN (d : Byte) (m : Memory) (a n : Nat) : (Memory.readN d m a n).length = n := by
  induction n generalizing a with
  | zero => rfl
  | succ k ih => simp [Memory.readN, ih]

theorem readN_congr (d : Byte) (m k : Memory) (a n : Nat) (h : ∀ x, a ≤ x → x < a + n → Memory.read d m x = Memory.read d k x) :
    Memory.readN d m a n = Memory.readN d k a n := by
  induction n generalizing a with
  | zero => rfl
  | succ j ih =>
    show Memory.read d m a :: Memory.readN d m (a + 1) j = Memory.read d k a :: Memory.readN d k (a + 1) j
    rw [h a (Nat.le_refl a) (by omega), ih (a + 1) (fun x h1 h2 => h x (by omega) (by omega))]

/-- Reading back what was written. -/
theorem readN_writeN_same (d : Byte) (m : Memory) (a : Nat) (bs : Bytes) : Memory.readN d (Memory.writeN d m a bs) a bs.length = bs := by
  induction bs generalizing m a with
  | nil => rfl
  | cons b r ih =>
    show Memory.read d (Memory.writeN d (Memory.write d m a b) (a + 1) r) a :: Memory.readN d (Memory.writeN d (Memory.write d m a b) (a + 1) r) (a + 1) r.length
      = b :: r
    rw [ih, read_writeN_outside d _ (a + 1) r a (by omega), read_write_same]

theorem Memory_write_wf (d : Byte) (m : Memory) (a : Nat) (b : Byte) (h : Memory.wf d m = true) : Memory.wf d (Memory.write d m a b) = true := by
  unfold Memory.wf at h ⊢
  simp only [Bool.and_eq_true, List.all_eq_true, decide_eq_true_eq] at h ⊢
  unfold Memory.write aset
  split
  · exact ⟨keysRise_tdel m a h.1, fun e he => h.2 e (mem_tdel m a e he)⟩
  · rename_i hb
    refine ⟨keysRise_tset m a b h.1, fun e he => ?_⟩
    rcases mem_tset m a b e he with g | g
    · rw [g]; exact hb
    · exact h.2 e g

theorem Memory_writeN_wf (d : Byte) (m : Memory) (a : Nat) (bs : Bytes) (h : Memory.wf d m = true) : Memory.wf d (Memory.writeN d m a bs) = true := by
  induction bs generalizing m a with
  | nil => exact h
  | cons b r ih => exact ih _ _ (Memory_write_wf d m a b h)

theorem keysRise_filter {α : Type} (p : Nat × α → Bool) (t : Tbl α) (h : keysRise t = true) : keysRise (t.filter p) = true := by
  induction t with
  | nil => rfl
  | cons x r ih =>
    obtain ⟨a, w⟩ := x
    have hc := (keysRise_cons a w r).mp h
    rw [List.filter_cons]
    split
    · exact (keysRise_cons _ _ _).mpr ⟨fun e he => hc.1 e ((List.mem_filter.mp he).1), ih hc.2⟩
    · exact ih hc.2

theorem Memory_clear_wf (d : Byte) (m : Memory) (a n : Nat) (h : Memory.wf d m = true) : Memory.wf d (Memory.clear m a n) = true := by
  unfold Memory.wf at h ⊢
  simp only [Bool.and_eq_true, List.all_eq_true, decide_eq_true_eq] at h ⊢
  exact ⟨keysRise_filter _ m h.1, fun e he => h.2 e ((List.mem_filter.mp he).1)⟩

/-- The empty memory is canonical. -/
theorem Memory_nil_wf (d : Byte) : Memory.wf d [] = true := rfl

/-! ### Byte strings -/

@[simp] theorem length_leBytes (n v : Nat) : (leBytes n v).length = n := by
  induction n generalizing v with
  | zero => rfl
  | succ k ih => simp [leBytes, ih]

theorem leNat_leBytes (n v : Nat) : leNat (leBytes n v) = v % 256 ^ n := by
  induction n generalizing v with
  | zero => simp [leBytes, leNat, Nat.mod_one]
  | succ k ih =>
    show (BitVec.ofNat 8 v).toNat + 256 * leNat (leBytes k (v / 256)) = _
    have e : 256 ^ (k + 1) = 256 * 256 ^ k := by rw [Nat.pow_succ, Nat.mul_comm]
    rw [ih, BitVec.toNat_ofNat, e, Nat.mod_mul]

@[simp] theorem length_zeros (n : Nat) : (zeros n).length = n := by simp [zeros]

end Sys2Proof.Machine
end

