-- ==== Sys2Proof/Laws/Ops.lean ====
section
/-! SUPPORT. Laws of the operations that the meanings share: events, the command ledger, services, references. Each says once what its
operation does; a proof cites it and does not unfold the operation. -/
namespace Sys2Proof.Machine

/-! ### The ledger -/

/-- A changed entry is found under the same identity. -/
theorem findReq_modReq (rid j : Nat) (f : Req → Req) (hf : ∀ r, (f r).rid = r.rid) (s : State) :
    findReq j (modReq rid f s) = if j = rid then (findReq j s).map f else findReq j s := by
  unfold findReq
  rw [modReq_ledger]
  dsimp only
  generalize s.ledger.reqs = l
  induction l with
  | nil => simp
  | cons r t ih =>
    rw [List.map_cons, List.find?_cons, List.find?_cons]
    by_cases h : r.rid = rid
    · rw [if_pos h, hf]
      by_cases hj : r.rid = j
      · have : j = rid := by omega
        simp [hj, this]
      · simp [hj, ih]
    · rw [if_neg h]
      by_cases hj : r.rid = j
      · have : ¬j = rid := by omega
        simp [hj, this]
      · simp [hj, ih]

/-- A dropped entry is no more found, and no other is lost. -/
theorem findReq_dropReq (rid j : Nat) (s : State) : findReq j (dropReq rid s) = if j = rid then none else findReq j s := by
  unfold findReq
  rw [dropReq_ledger]
  dsimp only
  generalize s.ledger.reqs = l
  induction l with
  | nil => simp
  | cons r t ih =>
    rw [List.filter_cons]
    by_cases h : r.rid = rid
    · simp only [h, ne_eq, not_true_eq_false, decide_false, Bool.false_eq_true, if_false, ih, List.find?_cons]
      by_cases hj : j = rid
      · simp [hj]
      · have : ¬rid = j := fun e => hj e.symm
        simp [hj, this]
    · by_cases hj : r.rid = j
      · have : ¬j = rid := by omega
        simp [hj, this]
      · simp only [h, ne_eq, not_false_eq_true, decide_true, if_true, List.find?_cons, hj, decide_false, ih]

/-- The ledger of another state with the same entries finds the same. -/
theorem findReq_congr (rid : Nat) {s t : State} (h : t.ledger = s.ledger) : findReq rid t = findReq rid s := by
  unfold findReq; rw [h]

/-- The entry found has the identity asked for. -/
theorem findReq_rid {rid : Nat} {s : State} {r : Req} (h : findReq rid s = some r) : r.rid = rid := by
  have := List.find?_some h
  simpa using this

/-- A fold of updates that each leave a view of the state alone leaves it alone. -/
theorem foldl_keeps {α β : Type} (g : State → β) (f : State → α → State) (l : List α) (s : State) (h : ∀ t a, g (f t a) = g t) :
    g (l.foldl f s) = g s := by
  induction l generalizing s with
  | nil => rfl
  | cons a r ih => rw [List.foldl_cons, ih, h]

/-! ### What `setCause` leaves alone -/

@[simp] theorem setCause_freeCtr (b : Nat) (s : State) : (setCause b s).freeCtr = s.freeCtr := by unfold setCause; (try dsimp only); (repeat' split) <;> first | rfl | (simp; done)
@[simp] theorem setCause_clocks (b : Nat) (s : State) : (setCause b s).clocks = s.clocks := by unfold setCause; (try dsimp only); (repeat' split) <;> first | rfl | (simp; done)
@[simp] theorem setCause_caps (b : Nat) (s : State) : (setCause b s).caps = s.caps := by unfold setCause; (try dsimp only); (repeat' split) <;> first | rfl | (simp; done)
@[simp] theorem setCause_ledger (b : Nat) (s : State) : (setCause b s).ledger = s.ledger := by unfold setCause; (try dsimp only); (repeat' split) <;> first | rfl | (simp; done)
@[simp] theorem setCause_eng (b : Nat) (s : State) : (setCause b s).eng = s.eng := by unfold setCause; (try dsimp only); (repeat' split) <;> first | rfl | (simp; done)
@[simp] theorem setCause_task (b : Nat) (s : State) : (setCause b s).task = s.task := by unfold setCause; (try dsimp only); (repeat' split) <;> first | rfl | (simp; done)
@[simp] theorem setCause_ctxs (b : Nat) (s : State) : (setCause b s).ctxs = s.ctxs := by unfold setCause; (try dsimp only); (repeat' split) <;> first | rfl | (simp; done)
@[simp] theorem setCause_agents (b : Nat) (s : State) : (setCause b s).agents = s.agents := by unfold setCause; (try dsimp only); (repeat' split) <;> first | rfl | (simp; done)
@[simp] theorem setCause_mem (b : Nat) (s : State) : (setCause b s).mem = s.mem := by unfold setCause; (try dsimp only); (repeat' split) <;> first | rfl | (simp; done)
@[simp] theorem setCause_ecc (b : Nat) (s : State) : (setCause b s).ecc = s.ecc := by unfold setCause; (try dsimp only); (repeat' split) <;> first | rfl | (simp; done)
@[simp] theorem setCause_ftl (b : Nat) (s : State) : (setCause b s).ftl = s.ftl := by unfold setCause; (try dsimp only); (repeat' split) <;> first | rfl | (simp; done)
@[simp] theorem setCause_store (b : Nat) (s : State) : (setCause b s).store = s.store := by unfold setCause; (try dsimp only); (repeat' split) <;> first | rfl | (simp; done)
@[simp] theorem setCause_search (b : Nat) (s : State) : (setCause b s).search = s.search := by unfold setCause; (try dsimp only); (repeat' split) <;> first | rfl | (simp; done)
@[simp] theorem setCause_ports (b : Nat) (s : State) : (setCause b s).ports = s.ports := by unfold setCause; (try dsimp only); (repeat' split) <;> first | rfl | (simp; done)
@[simp] theorem setCause_tune (b : Nat) (s : State) : (setCause b s).tune = s.tune := by unfold setCause; (try dsimp only); (repeat' split) <;> first | rfl | (simp; done)
@[simp] theorem setCause_sec (b : Nat) (s : State) : (setCause b s).sec = s.sec := by unfold setCause; (try dsimp only); (repeat' split) <;> first | rfl | (simp; done)
@[simp] theorem setCause_pwr (b : Nat) (s : State) : (setCause b s).pwr = s.pwr := by unfold setCause; (try dsimp only); (repeat' split) <;> first | rfl | (simp; done)
@[simp] theorem setCause_fw (b : Nat) (s : State) : (setCause b s).fw = s.fw := by unfold setCause; (try dsimp only); (repeat' split) <;> first | rfl | (simp; done)
@[simp] theorem setCause_mon (b : Nat) (s : State) : (setCause b s).mon = s.mon := by unfold setCause; (try dsimp only); (repeat' split) <;> first | rfl | (simp; done)

/-! ### What `eventOut` leaves alone -/

@[simp] theorem eventOut_freeCtr (refused : Bool) (s : State) : (eventOut refused s).freeCtr = s.freeCtr := by unfold eventOut; (try dsimp only); (repeat' split) <;> first | rfl | (simp; done)
@[simp] theorem eventOut_clocks (refused : Bool) (s : State) : (eventOut refused s).clocks = s.clocks := by unfold eventOut; (try dsimp only); (repeat' split) <;> first | rfl | (simp; done)
@[simp] theorem eventOut_caps (refused : Bool) (s : State) : (eventOut refused s).caps = s.caps := by unfold eventOut; (try dsimp only); (repeat' split) <;> first | rfl | (simp; done)
@[simp] theorem eventOut_ledger (refused : Bool) (s : State) : (eventOut refused s).ledger = s.ledger := by unfold eventOut; (try dsimp only); (repeat' split) <;> first | rfl | (simp; done)
@[simp] theorem eventOut_eng (refused : Bool) (s : State) : (eventOut refused s).eng = s.eng := by unfold eventOut; (try dsimp only); (repeat' split) <;> first | rfl | (simp; done)
@[simp] theorem eventOut_task (refused : Bool) (s : State) : (eventOut refused s).task = s.task := by unfold eventOut; (try dsimp only); (repeat' split) <;> first | rfl | (simp; done)
@[simp] theorem eventOut_ctxs (refused : Bool) (s : State) : (eventOut refused s).ctxs = s.ctxs := by unfold eventOut; (try dsimp only); (repeat' split) <;> first | rfl | (simp; done)
@[simp] theorem eventOut_agents (refused : Bool) (s : State) : (eventOut refused s).agents = s.agents := by unfold eventOut; (try dsimp only); (repeat' split) <;> first | rfl | (simp; done)
@[simp] theorem eventOut_mem (refused : Bool) (s : State) : (eventOut refused s).mem = s.mem := by unfold eventOut; (try dsimp only); (repeat' split) <;> first | rfl | (simp; done)
@[simp] theorem eventOut_ecc (refused : Bool) (s : State) : (eventOut refused s).ecc = s.ecc := by unfold eventOut; (try dsimp only); (repeat' split) <;> first | rfl | (simp; done)
@[simp] theorem eventOut_ftl (refused : Bool) (s : State) : (eventOut refused s).ftl = s.ftl := by unfold eventOut; (try dsimp only); (repeat' split) <;> first | rfl | (simp; done)
@[simp] theorem eventOut_store (refused : Bool) (s : State) : (eventOut refused s).store = s.store := by unfold eventOut; (try dsimp only); (repeat' split) <;> first | rfl | (simp; done)
@[simp] theorem eventOut_search (refused : Bool) (s : State) : (eventOut refused s).search = s.search := by unfold eventOut; (try dsimp only); (repeat' split) <;> first | rfl | (simp; done)
@[simp] theorem eventOut_ports (refused : Bool) (s : State) : (eventOut refused s).ports = s.ports := by unfold eventOut; (try dsimp only); (repeat' split) <;> first | rfl | (simp; done)
@[simp] theorem eventOut_tune (refused : Bool) (s : State) : (eventOut refused s).tune = s.tune := by unfold eventOut; (try dsimp only); (repeat' split) <;> first | rfl | (simp; done)
@[simp] theorem eventOut_sec (refused : Bool) (s : State) : (eventOut refused s).sec = s.sec := by unfold eventOut; (try dsimp only); (repeat' split) <;> first | rfl | (simp; done)
@[simp] theorem eventOut_pwr (refused : Bool) (s : State) : (eventOut refused s).pwr = s.pwr := by unfold eventOut; (try dsimp only); (repeat' split) <;> first | rfl | (simp; done)
@[simp] theorem eventOut_fw (refused : Bool) (s : State) : (eventOut refused s).fw = s.fw := by unfold eventOut; (try dsimp only); (repeat' split) <;> first | rfl | (simp; done)
@[simp] theorem eventOut_mon (refused : Bool) (s : State) : (eventOut refused s).mon = s.mon := by unfold eventOut; (try dsimp only); (repeat' split) <;> first | rfl | (simp; done)

/-! ### What `raiseEvent` leaves alone -/

@[simp] theorem raiseEvent_freeCtr (code : Nat) (srcType : Nat) (srcIdx : Nat) (ctx : Nat) (status : Nat) (payload : Bytes) (s : State) : (raiseEvent code srcType srcIdx ctx status payload s).freeCtr = s.freeCtr := by unfold raiseEvent; (try dsimp only); (repeat' split) <;> first | rfl | (simp; done)
@[simp] theorem raiseEvent_clocks (code : Nat) (srcType : Nat) (srcIdx : Nat) (ctx : Nat) (status : Nat) (payload : Bytes) (s : State) : (raiseEvent code srcType srcIdx ctx status payload s).clocks = s.clocks := by unfold raiseEvent; (try dsimp only); (repeat' split) <;> first | rfl | (simp; done)
@[simp] theorem raiseEvent_caps (code : Nat) (srcType : Nat) (srcIdx : Nat) (ctx : Nat) (status : Nat) (payload : Bytes) (s : State) : (raiseEvent code srcType srcIdx ctx status payload s).caps = s.caps := by unfold raiseEvent; (try dsimp only); (repeat' split) <;> first | rfl | (simp; done)
@[simp] theorem raiseEvent_ledger (code : Nat) (srcType : Nat) (srcIdx : Nat) (ctx : Nat) (status : Nat) (payload : Bytes) (s : State) : (raiseEvent code srcType srcIdx ctx status payload s).ledger = s.ledger := by unfold raiseEvent; (try dsimp only); (repeat' split) <;> first | rfl | (simp; done)
@[simp] theorem raiseEvent_eng (code : Nat) (srcType : Nat) (srcIdx : Nat) (ctx : Nat) (status : Nat) (payload : Bytes) (s : State) : (raiseEvent code srcType srcIdx ctx status payload s).eng = s.eng := by unfold raiseEvent; (try dsimp only); (repeat' split) <;> first | rfl | (simp; done)
@[simp] theorem raiseEvent_task (code : Nat) (srcType : Nat) (srcIdx : Nat) (ctx : Nat) (status : Nat) (payload : Bytes) (s : State) : (raiseEvent code srcType srcIdx ctx status payload s).task = s.task := by unfold raiseEvent; (try dsimp only); (repeat' split) <;> first | rfl | (simp; done)
@[simp] theorem raiseEvent_ctxs (code : Nat) (srcType : Nat) (srcIdx : Nat) (ctx : Nat) (status : Nat) (payload : Bytes) (s : State) : (raiseEvent code srcType srcIdx ctx status payload s).ctxs = s.ctxs := by unfold raiseEvent; (try dsimp only); (repeat' split) <;> first | rfl | (simp; done)
@[simp] theorem raiseEvent_agents (code : Nat) (srcType : Nat) (srcIdx : Nat) (ctx : Nat) (status : Nat) (payload : Bytes) (s : State) : (raiseEvent code srcType srcIdx ctx status payload s).agents = s.agents := by unfold raiseEvent; (try dsimp only); (repeat' split) <;> first | rfl | (simp; done)
@[simp] theorem raiseEvent_mem (code : Nat) (srcType : Nat) (srcIdx : Nat) (ctx : Nat) (status : Nat) (payload : Bytes) (s : State) : (raiseEvent code srcType srcIdx ctx status payload s).mem = s.mem := by unfold raiseEvent; (try dsimp only); (repeat' split) <;> first | rfl | (simp; done)
@[simp] theorem raiseEvent_ecc (code : Nat) (srcType : Nat) (srcIdx : Nat) (ctx : Nat) (status : Nat) (payload : Bytes) (s : State) : (raiseEvent code srcType srcIdx ctx status payload s).ecc = s.ecc := by unfold raiseEvent; (try dsimp only); (repeat' split) <;> first | rfl | (simp; done)
@[simp] theorem raiseEvent_ftl (code : Nat) (srcType : Nat) (srcIdx : Nat) (ctx : Nat) (status : Nat) (payload : Bytes) (s : State) : (raiseEvent code srcType srcIdx ctx status payload s).ftl = s.ftl := by unfold raiseEvent; (try dsimp only); (repeat' split) <;> first | rfl | (simp; done)
@[simp] theorem raiseEvent_store (code : Nat) (srcType : Nat) (srcIdx : Nat) (ctx : Nat) (status : Nat) (payload : Bytes) (s : State) : (raiseEvent code srcType srcIdx ctx status payload s).store = s.store := by unfold raiseEvent; (try dsimp only); (repeat' split) <;> first | rfl | (simp; done)
@[simp] theorem raiseEvent_search (code : Nat) (srcType : Nat) (srcIdx : Nat) (ctx : Nat) (status : Nat) (payload : Bytes) (s : State) : (raiseEvent code srcType srcIdx ctx status payload s).search = s.search := by unfold raiseEvent; (try dsimp only); (repeat' split) <;> first | rfl | (simp; done)
@[simp] theorem raiseEvent_ports (code : Nat) (srcType : Nat) (srcIdx : Nat) (ctx : Nat) (status : Nat) (payload : Bytes) (s : State) : (raiseEvent code srcType srcIdx ctx status payload s).ports = s.ports := by unfold raiseEvent; (try dsimp only); (repeat' split) <;> first | rfl | (simp; done)
@[simp] theorem raiseEvent_tune (code : Nat) (srcType : Nat) (srcIdx : Nat) (ctx : Nat) (status : Nat) (payload : Bytes) (s : State) : (raiseEvent code srcType srcIdx ctx status payload s).tune = s.tune := by unfold raiseEvent; (try dsimp only); (repeat' split) <;> first | rfl | (simp; done)
@[simp] theorem raiseEvent_sec (code : Nat) (srcType : Nat) (srcIdx : Nat) (ctx : Nat) (status : Nat) (payload : Bytes) (s : State) : (raiseEvent code srcType srcIdx ctx status payload s).sec = s.sec := by unfold raiseEvent; (try dsimp only); (repeat' split) <;> first | rfl | (simp; done)
@[simp] theorem raiseEvent_pwr (code : Nat) (srcType : Nat) (srcIdx : Nat) (ctx : Nat) (status : Nat) (payload : Bytes) (s : State) : (raiseEvent code srcType srcIdx ctx status payload s).pwr = s.pwr := by unfold raiseEvent; (try dsimp only); (repeat' split) <;> first | rfl | (simp; done)
@[simp] theorem raiseEvent_fw (code : Nat) (srcType : Nat) (srcIdx : Nat) (ctx : Nat) (status : Nat) (payload : Bytes) (s : State) : (raiseEvent code srcType srcIdx ctx status payload s).fw = s.fw := by unfold raiseEvent; (try dsimp only); (repeat' split) <;> first | rfl | (simp; done)
@[simp] theorem raiseEvent_mon (code : Nat) (srcType : Nat) (srcIdx : Nat) (ctx : Nat) (status : Nat) (payload : Bytes) (s : State) : (raiseEvent code srcType srcIdx ctx status payload s).mon = s.mon := by unfold raiseEvent; (try dsimp only); (repeat' split) <;> first | rfl | (simp; done)

/-! ### What `devEvent` leaves alone -/

@[simp] theorem devEvent_freeCtr (code : Nat) (srcType : Nat) (srcIdx : Nat) (payload : Bytes) (s : State) : (devEvent code srcType srcIdx payload s).freeCtr = s.freeCtr := by unfold devEvent; (try dsimp only); (repeat' split) <;> first | rfl | (simp; done)
@[simp] theorem devEvent_clocks (code : Nat) (srcType : Nat) (srcIdx : Nat) (payload : Bytes) (s : State) : (devEvent code srcType srcIdx payload s).clocks = s.clocks := by unfold devEvent; (try dsimp only); (repeat' split) <;> first | rfl | (simp; done)
@[simp] theorem devEvent_caps (code : Nat) (srcType : Nat) (srcIdx : Nat) (payload : Bytes) (s : State) : (devEvent code srcType srcIdx payload s).caps = s.caps := by unfold devEvent; (try dsimp only); (repeat' split) <;> first | rfl | (simp; done)
@[simp] theorem devEvent_ledger (code : Nat) (srcType : Nat) (srcIdx : Nat) (payload : Bytes) (s : State) : (devEvent code srcType srcIdx payload s).ledger = s.ledger := by unfold devEvent; (try dsimp only); (repeat' split) <;> first | rfl | (simp; done)
@[simp] theorem devEvent_eng (code : Nat) (srcType : Nat) (srcIdx : Nat) (payload : Bytes) (s : State) : (devEvent code srcType srcIdx payload s).eng = s.eng := by unfold devEvent; (try dsimp only); (repeat' split) <;> first | rfl | (simp; done)
@[simp] theorem devEvent_task (code : Nat) (srcType : Nat) (srcIdx : Nat) (payload : Bytes) (s : State) : (devEvent code srcType srcIdx payload s).task = s.task := by unfold devEvent; (try dsimp only); (repeat' split) <;> first | rfl | (simp; done)
@[simp] theorem devEvent_ctxs (code : Nat) (srcType : Nat) (srcIdx : Nat) (payload : Bytes) (s : State) : (devEvent code srcType srcIdx payload s).ctxs = s.ctxs := by unfold devEvent; (try dsimp only); (repeat' split) <;> first | rfl | (simp; done)
@[simp] theorem devEvent_agents (code : Nat) (srcType : Nat) (srcIdx : Nat) (payload : Bytes) (s : State) : (devEvent code srcType srcIdx payload s).agents = s.agents := by unfold devEvent; (try dsimp only); (repeat' split) <;> first | rfl | (simp; done)
@[simp] theorem devEvent_mem (code : Nat) (srcType : Nat) (srcIdx : Nat) (payload : Bytes) (s : State) : (devEvent code srcType srcIdx payload s).mem = s.mem := by unfold devEvent; (try dsimp only); (repeat' split) <;> first | rfl | (simp; done)
@[simp] theorem devEvent_ecc (code : Nat) (srcType : Nat) (srcIdx : Nat) (payload : Bytes) (s : State) : (devEvent code srcType srcIdx payload s).ecc = s.ecc := by unfold devEvent; (try dsimp only); (repeat' split) <;> first | rfl | (simp; done)
@[simp] theorem devEvent_ftl (code : Nat) (srcType : Nat) (srcIdx : Nat) (payload : Bytes) (s : State) : (devEvent code srcType srcIdx payload s).ftl = s.ftl := by unfold devEvent; (try dsimp only); (repeat' split) <;> first | rfl | (simp; done)
@[simp] theorem devEvent_store (code : Nat) (srcType : Nat) (srcIdx : Nat) (payload : Bytes) (s : State) : (devEvent code srcType srcIdx payload s).store = s.store := by unfold devEvent; (try dsimp only); (repeat' split) <;> first | rfl | (simp; done)
@[simp] theorem devEvent_search (code : Nat) (srcType : Nat) (srcIdx : Nat) (payload : Bytes) (s : State) : (devEvent code srcType srcIdx payload s).search = s.search := by unfold devEvent; (try dsimp only); (repeat' split) <;> first | rfl | (simp; done)
@[simp] theorem devEvent_ports (code : Nat) (srcType : Nat) (srcIdx : Nat) (payload : Bytes) (s : State) : (devEvent code srcType srcIdx payload s).ports = s.ports := by unfold devEvent; (try dsimp only); (repeat' split) <;> first | rfl | (simp; done)
@[simp] theorem devEvent_tune (code : Nat) (srcType : Nat) (srcIdx : Nat) (payload : Bytes) (s : State) : (devEvent code srcType srcIdx payload s).tune = s.tune := by unfold devEvent; (try dsimp only); (repeat' split) <;> first | rfl | (simp; done)
@[simp] theorem devEvent_sec (code : Nat) (srcType : Nat) (srcIdx : Nat) (payload : Bytes) (s : State) : (devEvent code srcType srcIdx payload s).sec = s.sec := by unfold devEvent; (try dsimp only); (repeat' split) <;> first | rfl | (simp; done)
@[simp] theorem devEvent_pwr (code : Nat) (srcType : Nat) (srcIdx : Nat) (payload : Bytes) (s : State) : (devEvent code srcType srcIdx payload s).pwr = s.pwr := by unfold devEvent; (try dsimp only); (repeat' split) <;> first | rfl | (simp; done)
@[simp] theorem devEvent_fw (code : Nat) (srcType : Nat) (srcIdx : Nat) (payload : Bytes) (s : State) : (devEvent code srcType srcIdx payload s).fw = s.fw := by unfold devEvent; (try dsimp only); (repeat' split) <;> first | rfl | (simp; done)
@[simp] theorem devEvent_mon (code : Nat) (srcType : Nat) (srcIdx : Nat) (payload : Bytes) (s : State) : (devEvent code srcType srcIdx payload s).mon = s.mon := by unfold devEvent; (try dsimp only); (repeat' split) <;> first | rfl | (simp; done)

/-! ### What `announce` leaves alone -/

@[simp] theorem announce_freeCtr (old : State) (s : State) : (announce old s).freeCtr = s.freeCtr := by unfold announce; (try dsimp only); (repeat' split) <;> first | rfl | (simp; done)
@[simp] theorem announce_clocks (old : State) (s : State) : (announce old s).clocks = s.clocks := by unfold announce; (try dsimp only); (repeat' split) <;> first | rfl | (simp; done)
@[simp] theorem announce_caps (old : State) (s : State) : (announce old s).caps = s.caps := by unfold announce; (try dsimp only); (repeat' split) <;> first | rfl | (simp; done)
@[simp] theorem announce_ledger (old : State) (s : State) : (announce old s).ledger = s.ledger := by unfold announce; (try dsimp only); (repeat' split) <;> first | rfl | (simp; done)
@[simp] theorem announce_eng (old : State) (s : State) : (announce old s).eng = s.eng := by unfold announce; (try dsimp only); (repeat' split) <;> first | rfl | (simp; done)
@[simp] theorem announce_task (old : State) (s : State) : (announce old s).task = s.task := by unfold announce; (try dsimp only); (repeat' split) <;> first | rfl | (simp; done)
@[simp] theorem announce_ctxs (old : State) (s : State) : (announce old s).ctxs = s.ctxs := by unfold announce; (try dsimp only); (repeat' split) <;> first | rfl | (simp; done)
@[simp] theorem announce_agents (old : State) (s : State) : (announce old s).agents = s.agents := by unfold announce; (try dsimp only); (repeat' split) <;> first | rfl | (simp; done)
@[simp] theorem announce_mem (old : State) (s : State) : (announce old s).mem = s.mem := by unfold announce; (try dsimp only); (repeat' split) <;> first | rfl | (simp; done)
@[simp] theorem announce_ecc (old : State) (s : State) : (announce old s).ecc = s.ecc := by unfold announce; (try dsimp only); (repeat' split) <;> first | rfl | (simp; done)
@[simp] theorem announce_ftl (old : State) (s : State) : (announce old s).ftl = s.ftl := by unfold announce; (try dsimp only); (repeat' split) <;> first | rfl | (simp; done)
@[simp] theorem announce_store (old : State) (s : State) : (announce old s).store = s.store := by unfold announce; (try dsimp only); (repeat' split) <;> first | rfl | (simp; done)
@[simp] theorem announce_search (old : State) (s : State) : (announce old s).search = s.search := by unfold announce; (try dsimp only); (repeat' split) <;> first | rfl | (simp; done)
@[simp] theorem announce_ports (old : State) (s : State) : (announce old s).ports = s.ports := by unfold announce; (try dsimp only); (repeat' split) <;> first | rfl | (simp; done)
@[simp] theorem announce_tune (old : State) (s : State) : (announce old s).tune = s.tune := by unfold announce; (try dsimp only); (repeat' split) <;> first | rfl | (simp; done)
@[simp] theorem announce_sec (old : State) (s : State) : (announce old s).sec = s.sec := by unfold announce; (try dsimp only); (repeat' split) <;> first | rfl | (simp; done)
@[simp] theorem announce_pwr (old : State) (s : State) : (announce old s).pwr = s.pwr := by unfold announce; (try dsimp only); (repeat' split) <;> first | rfl | (simp; done)
@[simp] theorem announce_fw (old : State) (s : State) : (announce old s).fw = s.fw := by unfold announce; (try dsimp only); (repeat' split) <;> first | rfl | (simp; done)
@[simp] theorem announce_mon (old : State) (s : State) : (announce old s).mon = s.mon := by unfold announce; (try dsimp only); (repeat' split) <;> first | rfl | (simp; done)

/-! ### What `monSample` leaves alone -/

@[simp] theorem monSample_freeCtr (i : Nat) (v : Int) (row : Nat) (s : State) : (monSample i v row s).freeCtr = s.freeCtr := by unfold monSample; (try dsimp only); (repeat' split) <;> first | rfl | (simp; done)
@[simp] theorem monSample_clocks (i : Nat) (v : Int) (row : Nat) (s : State) : (monSample i v row s).clocks = s.clocks := by unfold monSample; (try dsimp only); (repeat' split) <;> first | rfl | (simp; done)
@[simp] theorem monSample_caps (i : Nat) (v : Int) (row : Nat) (s : State) : (monSample i v row s).caps = s.caps := by unfold monSample; (try dsimp only); (repeat' split) <;> first | rfl | (simp; done)
@[simp] theorem monSample_host (i : Nat) (v : Int) (row : Nat) (s : State) : (monSample i v row s).host = s.host := by unfold monSample; (try dsimp only); (repeat' split) <;> first | rfl | (simp; done)
@[simp] theorem monSample_ledger (i : Nat) (v : Int) (row : Nat) (s : State) : (monSample i v row s).ledger = s.ledger := by unfold monSample; (try dsimp only); (repeat' split) <;> first | rfl | (simp; done)
@[simp] theorem monSample_eng (i : Nat) (v : Int) (row : Nat) (s : State) : (monSample i v row s).eng = s.eng := by unfold monSample; (try dsimp only); (repeat' split) <;> first | rfl | (simp; done)
@[simp] theorem monSample_task (i : Nat) (v : Int) (row : Nat) (s : State) : (monSample i v row s).task = s.task := by unfold monSample; (try dsimp only); (repeat' split) <;> first | rfl | (simp; done)
@[simp] theorem monSample_ctxs (i : Nat) (v : Int) (row : Nat) (s : State) : (monSample i v row s).ctxs = s.ctxs := by unfold monSample; (try dsimp only); (repeat' split) <;> first | rfl | (simp; done)
@[simp] theorem monSample_agents (i : Nat) (v : Int) (row : Nat) (s : State) : (monSample i v row s).agents = s.agents := by unfold monSample; (try dsimp only); (repeat' split) <;> first | rfl | (simp; done)
@[simp] theorem monSample_mem (i : Nat) (v : Int) (row : Nat) (s : State) : (monSample i v row s).mem = s.mem := by unfold monSample; (try dsimp only); (repeat' split) <;> first | rfl | (simp; done)
@[simp] theorem monSample_ecc (i : Nat) (v : Int) (row : Nat) (s : State) : (monSample i v row s).ecc = s.ecc := by unfold monSample; (try dsimp only); (repeat' split) <;> first | rfl | (simp; done)
@[simp] theorem monSample_ftl (i : Nat) (v : Int) (row : Nat) (s : State) : (monSample i v row s).ftl = s.ftl := by unfold monSample; (try dsimp only); (repeat' split) <;> first | rfl | (simp; done)
@[simp] theorem monSample_store (i : Nat) (v : Int) (row : Nat) (s : State) : (monSample i v row s).store = s.store := by unfold monSample; (try dsimp only); (repeat' split) <;> first | rfl | (simp; done)
@[simp] theorem monSample_search (i : Nat) (v : Int) (row : Nat) (s : State) : (monSample i v row s).search = s.search := by unfold monSample; (try dsimp only); (repeat' split) <;> first | rfl | (simp; done)
@[simp] theorem monSample_ports (i : Nat) (v : Int) (row : Nat) (s : State) : (monSample i v row s).ports = s.ports := by unfold monSample; (try dsimp only); (repeat' split) <;> first | rfl | (simp; done)
@[simp] theorem monSample_tune (i : Nat) (v : Int) (row : Nat) (s : State) : (monSample i v row s).tune = s.tune := by unfold monSample; (try dsimp only); (repeat' split) <;> first | rfl | (simp; done)
@[simp] theorem monSample_sec (i : Nat) (v : Int) (row : Nat) (s : State) : (monSample i v row s).sec = s.sec := by unfold monSample; (try dsimp only); (repeat' split) <;> first | rfl | (simp; done)
@[simp] theorem monSample_pwr (i : Nat) (v : Int) (row : Nat) (s : State) : (monSample i v row s).pwr = s.pwr := by unfold monSample; (try dsimp only); (repeat' split) <;> first | rfl | (simp; done)
@[simp] theorem monSample_fw (i : Nat) (v : Int) (row : Nat) (s : State) : (monSample i v row s).fw = s.fw := by unfold monSample; (try dsimp only); (repeat' split) <;> first | rfl | (simp; done)

/-! ### What `modCairn` leaves alone -/

@[simp] theorem modCairn_freeCtr (r : Req) (f : Cairn → Cairn) (s : State) : (modCairn r f s).freeCtr = s.freeCtr := by unfold modCairn; (try dsimp only); (repeat' split) <;> first | rfl | (simp; done)
@[simp] theorem modCairn_clocks (r : Req) (f : Cairn → Cairn) (s : State) : (modCairn r f s).clocks = s.clocks := by unfold modCairn; (try dsimp only); (repeat' split) <;> first | rfl | (simp; done)
@[simp] theorem modCairn_caps (r : Req) (f : Cairn → Cairn) (s : State) : (modCairn r f s).caps = s.caps := by unfold modCairn; (try dsimp only); (repeat' split) <;> first | rfl | (simp; done)
@[simp] theorem modCairn_host (r : Req) (f : Cairn → Cairn) (s : State) : (modCairn r f s).host = s.host := by unfold modCairn; (try dsimp only); (repeat' split) <;> first | rfl | (simp; done)
@[simp] theorem modCairn_eng (r : Req) (f : Cairn → Cairn) (s : State) : (modCairn r f s).eng = s.eng := by unfold modCairn; (try dsimp only); (repeat' split) <;> first | rfl | (simp; done)
@[simp] theorem modCairn_task (r : Req) (f : Cairn → Cairn) (s : State) : (modCairn r f s).task = s.task := by unfold modCairn; (try dsimp only); (repeat' split) <;> first | rfl | (simp; done)
@[simp] theorem modCairn_ctxs (r : Req) (f : Cairn → Cairn) (s : State) : (modCairn r f s).ctxs = s.ctxs := by unfold modCairn; (try dsimp only); (repeat' split) <;> first | rfl | (simp; done)
@[simp] theorem modCairn_agents (r : Req) (f : Cairn → Cairn) (s : State) : (modCairn r f s).agents = s.agents := by unfold modCairn; (try dsimp only); (repeat' split) <;> first | rfl | (simp; done)
@[simp] theorem modCairn_mem (r : Req) (f : Cairn → Cairn) (s : State) : (modCairn r f s).mem = s.mem := by unfold modCairn; (try dsimp only); (repeat' split) <;> first | rfl | (simp; done)
@[simp] theorem modCairn_ecc (r : Req) (f : Cairn → Cairn) (s : State) : (modCairn r f s).ecc = s.ecc := by unfold modCairn; (try dsimp only); (repeat' split) <;> first | rfl | (simp; done)
@[simp] theorem modCairn_ftl (r : Req) (f : Cairn → Cairn) (s : State) : (modCairn r f s).ftl = s.ftl := by unfold modCairn; (try dsimp only); (repeat' split) <;> first | rfl | (simp; done)
@[simp] theorem modCairn_store (r : Req) (f : Cairn → Cairn) (s : State) : (modCairn r f s).store = s.store := by unfold modCairn; (try dsimp only); (repeat' split) <;> first | rfl | (simp; done)
@[simp] theorem modCairn_search (r : Req) (f : Cairn → Cairn) (s : State) : (modCairn r f s).search = s.search := by unfold modCairn; (try dsimp only); (repeat' split) <;> first | rfl | (simp; done)
@[simp] theorem modCairn_ports (r : Req) (f : Cairn → Cairn) (s : State) : (modCairn r f s).ports = s.ports := by unfold modCairn; (try dsimp only); (repeat' split) <;> first | rfl | (simp; done)
@[simp] theorem modCairn_tune (r : Req) (f : Cairn → Cairn) (s : State) : (modCairn r f s).tune = s.tune := by unfold modCairn; (try dsimp only); (repeat' split) <;> first | rfl | (simp; done)
@[simp] theorem modCairn_sec (r : Req) (f : Cairn → Cairn) (s : State) : (modCairn r f s).sec = s.sec := by unfold modCairn; (try dsimp only); (repeat' split) <;> first | rfl | (simp; done)
@[simp] theorem modCairn_pwr (r : Req) (f : Cairn → Cairn) (s : State) : (modCairn r f s).pwr = s.pwr := by unfold modCairn; (try dsimp only); (repeat' split) <;> first | rfl | (simp; done)
@[simp] theorem modCairn_fw (r : Req) (f : Cairn → Cairn) (s : State) : (modCairn r f s).fw = s.fw := by unfold modCairn; (try dsimp only); (repeat' split) <;> first | rfl | (simp; done)
@[simp] theorem modCairn_mon (r : Req) (f : Cairn → Cairn) (s : State) : (modCairn r f s).mon = s.mon := by unfold modCairn; (try dsimp only); (repeat' split) <;> first | rfl | (simp; done)

/-! ### What `commitN` leaves alone -/

@[simp] theorem commitN_freeCtr (rid : Nat) (k : Nat) (n : Nat) (body : Option Bytes) (s : State) : (commitN rid k n body s).freeCtr = s.freeCtr := by unfold commitN; (try dsimp only); (repeat' split) <;> first | rfl | (simp; done)
@[simp] theorem commitN_clocks (rid : Nat) (k : Nat) (n : Nat) (body : Option Bytes) (s : State) : (commitN rid k n body s).clocks = s.clocks := by unfold commitN; (try dsimp only); (repeat' split) <;> first | rfl | (simp; done)
@[simp] theorem commitN_caps (rid : Nat) (k : Nat) (n : Nat) (body : Option Bytes) (s : State) : (commitN rid k n body s).caps = s.caps := by unfold commitN; (try dsimp only); (repeat' split) <;> first | rfl | (simp; done)
@[simp] theorem commitN_host (rid : Nat) (k : Nat) (n : Nat) (body : Option Bytes) (s : State) : (commitN rid k n body s).host = s.host := by unfold commitN; (try dsimp only); (repeat' split) <;> first | rfl | (simp; done)
@[simp] theorem commitN_eng (rid : Nat) (k : Nat) (n : Nat) (body : Option Bytes) (s : State) : (commitN rid k n body s).eng = s.eng := by unfold commitN; (try dsimp only); (repeat' split) <;> first | rfl | (simp; done)
@[simp] theorem commitN_task (rid : Nat) (k : Nat) (n : Nat) (body : Option Bytes) (s : State) : (commitN rid k n body s).task = s.task := by unfold commitN; (try dsimp only); (repeat' split) <;> first | rfl | (simp; done)
@[simp] theorem commitN_ctxs (rid : Nat) (k : Nat) (n : Nat) (body : Option Bytes) (s : State) : (commitN rid k n body s).ctxs = s.ctxs := by unfold commitN; (try dsimp only); (repeat' split) <;> first | rfl | (simp; done)
@[simp] theorem commitN_agents (rid : Nat) (k : Nat) (n : Nat) (body : Option Bytes) (s : State) : (commitN rid k n body s).agents = s.agents := by unfold commitN; (try dsimp only); (repeat' split) <;> first | rfl | (simp; done)
@[simp] theorem commitN_mem (rid : Nat) (k : Nat) (n : Nat) (body : Option Bytes) (s : State) : (commitN rid k n body s).mem = s.mem := by unfold commitN; (try dsimp only); (repeat' split) <;> first | rfl | (simp; done)
@[simp] theorem commitN_ecc (rid : Nat) (k : Nat) (n : Nat) (body : Option Bytes) (s : State) : (commitN rid k n body s).ecc = s.ecc := by unfold commitN; (try dsimp only); (repeat' split) <;> first | rfl | (simp; done)
@[simp] theorem commitN_ftl (rid : Nat) (k : Nat) (n : Nat) (body : Option Bytes) (s : State) : (commitN rid k n body s).ftl = s.ftl := by unfold commitN; (try dsimp only); (repeat' split) <;> first | rfl | (simp; done)
@[simp] theorem commitN_store (rid : Nat) (k : Nat) (n : Nat) (body : Option Bytes) (s : State) : (commitN rid k n body s).store = s.store := by unfold commitN; (try dsimp only); (repeat' split) <;> first | rfl | (simp; done)
@[simp] theorem commitN_search (rid : Nat) (k : Nat) (n : Nat) (body : Option Bytes) (s : State) : (commitN rid k n body s).search = s.search := by unfold commitN; (try dsimp only); (repeat' split) <;> first | rfl | (simp; done)
@[simp] theorem commitN_ports (rid : Nat) (k : Nat) (n : Nat) (body : Option Bytes) (s : State) : (commitN rid k n body s).ports = s.ports := by unfold commitN; (try dsimp only); (repeat' split) <;> first | rfl | (simp; done)
@[simp] theorem commitN_tune (rid : Nat) (k : Nat) (n : Nat) (body : Option Bytes) (s : State) : (commitN rid k n body s).tune = s.tune := by unfold commitN; (try dsimp only); (repeat' split) <;> first | rfl | (simp; done)
@[simp] theorem commitN_sec (rid : Nat) (k : Nat) (n : Nat) (body : Option Bytes) (s : State) : (commitN rid k n body s).sec = s.sec := by unfold commitN; (try dsimp only); (repeat' split) <;> first | rfl | (simp; done)
@[simp] theorem commitN_pwr (rid : Nat) (k : Nat) (n : Nat) (body : Option Bytes) (s : State) : (commitN rid k n body s).pwr = s.pwr := by unfold commitN; (try dsimp only); (repeat' split) <;> first | rfl | (simp; done)
@[simp] theorem commitN_fw (rid : Nat) (k : Nat) (n : Nat) (body : Option Bytes) (s : State) : (commitN rid k n body s).fw = s.fw := by unfold commitN; (try dsimp only); (repeat' split) <;> first | rfl | (simp; done)
@[simp] theorem commitN_mon (rid : Nat) (k : Nat) (n : Nat) (body : Option Bytes) (s : State) : (commitN rid k n body s).mon = s.mon := by unfold commitN; (try dsimp only); (repeat' split) <;> first | rfl | (simp; done)

/-! ### What `commit` leaves alone -/

@[simp] theorem commit_freeCtr (rid : Nat) (n : Nat) (body : Option Bytes) (s : State) : (commit rid n body s).freeCtr = s.freeCtr := by unfold commit; (try dsimp only); (repeat' split) <;> first | rfl | (simp; done)
@[simp] theorem commit_clocks (rid : Nat) (n : Nat) (body : Option Bytes) (s : State) : (commit rid n body s).clocks = s.clocks := by unfold commit; (try dsimp only); (repeat' split) <;> first | rfl | (simp; done)
@[simp] theorem commit_caps (rid : Nat) (n : Nat) (body : Option Bytes) (s : State) : (commit rid n body s).caps = s.caps := by unfold commit; (try dsimp only); (repeat' split) <;> first | rfl | (simp; done)
@[simp] theorem commit_host (rid : Nat) (n : Nat) (body : Option Bytes) (s : State) : (commit rid n body s).host = s.host := by unfold commit; (try dsimp only); (repeat' split) <;> first | rfl | (simp; done)
@[simp] theorem commit_eng (rid : Nat) (n : Nat) (body : Option Bytes) (s : State) : (commit rid n body s).eng = s.eng := by unfold commit; (try dsimp only); (repeat' split) <;> first | rfl | (simp; done)
@[simp] theorem commit_task (rid : Nat) (n : Nat) (body : Option Bytes) (s : State) : (commit rid n body s).task = s.task := by unfold commit; (try dsimp only); (repeat' split) <;> first | rfl | (simp; done)
@[simp] theorem commit_ctxs (rid : Nat) (n : Nat) (body : Option Bytes) (s : State) : (commit rid n body s).ctxs = s.ctxs := by unfold commit; (try dsimp only); (repeat' split) <;> first | rfl | (simp; done)
@[simp] theorem commit_agents (rid : Nat) (n : Nat) (body : Option Bytes) (s : State) : (commit rid n body s).agents = s.agents := by unfold commit; (try dsimp only); (repeat' split) <;> first | rfl | (simp; done)
@[simp] theorem commit_mem (rid : Nat) (n : Nat) (body : Option Bytes) (s : State) : (commit rid n body s).mem = s.mem := by unfold commit; (try dsimp only); (repeat' split) <;> first | rfl | (simp; done)
@[simp] theorem commit_ecc (rid : Nat) (n : Nat) (body : Option Bytes) (s : State) : (commit rid n body s).ecc = s.ecc := by unfold commit; (try dsimp only); (repeat' split) <;> first | rfl | (simp; done)
@[simp] theorem commit_ftl (rid : Nat) (n : Nat) (body : Option Bytes) (s : State) : (commit rid n body s).ftl = s.ftl := by unfold commit; (try dsimp only); (repeat' split) <;> first | rfl | (simp; done)
@[simp] theorem commit_store (rid : Nat) (n : Nat) (body : Option Bytes) (s : State) : (commit rid n body s).store = s.store := by unfold commit; (try dsimp only); (repeat' split) <;> first | rfl | (simp; done)
@[simp] theorem commit_search (rid : Nat) (n : Nat) (body : Option Bytes) (s : State) : (commit rid n body s).search = s.search := by unfold commit; (try dsimp only); (repeat' split) <;> first | rfl | (simp; done)
@[simp] theorem commit_ports (rid : Nat) (n : Nat) (body : Option Bytes) (s : State) : (commit rid n body s).ports = s.ports := by unfold commit; (try dsimp only); (repeat' split) <;> first | rfl | (simp; done)
@[simp] theorem commit_tune (rid : Nat) (n : Nat) (body : Option Bytes) (s : State) : (commit rid n body s).tune = s.tune := by unfold commit; (try dsimp only); (repeat' split) <;> first | rfl | (simp; done)
@[simp] theorem commit_sec (rid : Nat) (n : Nat) (body : Option Bytes) (s : State) : (commit rid n body s).sec = s.sec := by unfold commit; (try dsimp only); (repeat' split) <;> first | rfl | (simp; done)
@[simp] theorem commit_pwr (rid : Nat) (n : Nat) (body : Option Bytes) (s : State) : (commit rid n body s).pwr = s.pwr := by unfold commit; (try dsimp only); (repeat' split) <;> first | rfl | (simp; done)
@[simp] theorem commit_fw (rid : Nat) (n : Nat) (body : Option Bytes) (s : State) : (commit rid n body s).fw = s.fw := by unfold commit; (try dsimp only); (repeat' split) <;> first | rfl | (simp; done)
@[simp] theorem commit_mon (rid : Nat) (n : Nat) (body : Option Bytes) (s : State) : (commit rid n body s).mon = s.mon := by unfold commit; (try dsimp only); (repeat' split) <;> first | rfl | (simp; done)

/-! ### What `complete` leaves alone -/

@[simp] theorem complete_freeCtr (rid : Nat) (st : Nat) (payload : Bytes) (s : State) : (complete rid st payload s).freeCtr = s.freeCtr := by unfold complete; (try dsimp only); (repeat' split) <;> first | rfl | (simp; done)
@[simp] theorem complete_clocks (rid : Nat) (st : Nat) (payload : Bytes) (s : State) : (complete rid st payload s).clocks = s.clocks := by unfold complete; (try dsimp only); (repeat' split) <;> first | rfl | (simp; done)
@[simp] theorem complete_caps (rid : Nat) (st : Nat) (payload : Bytes) (s : State) : (complete rid st payload s).caps = s.caps := by unfold complete; (try dsimp only); (repeat' split) <;> first | rfl | (simp; done)
@[simp] theorem complete_host (rid : Nat) (st : Nat) (payload : Bytes) (s : State) : (complete rid st payload s).host = s.host := by unfold complete; (try dsimp only); (repeat' split) <;> first | rfl | (simp; done)
@[simp] theorem complete_eng (rid : Nat) (st : Nat) (payload : Bytes) (s : State) : (complete rid st payload s).eng = s.eng := by unfold complete; (try dsimp only); (repeat' split) <;> first | rfl | (simp; done)
@[simp] theorem complete_task (rid : Nat) (st : Nat) (payload : Bytes) (s : State) : (complete rid st payload s).task = s.task := by unfold complete; (try dsimp only); (repeat' split) <;> first | rfl | (simp; done)
@[simp] theorem complete_ctxs (rid : Nat) (st : Nat) (payload : Bytes) (s : State) : (complete rid st payload s).ctxs = s.ctxs := by unfold complete; (try dsimp only); (repeat' split) <;> first | rfl | (simp; done)
@[simp] theorem complete_agents (rid : Nat) (st : Nat) (payload : Bytes) (s : State) : (complete rid st payload s).agents = s.agents := by unfold complete; (try dsimp only); (repeat' split) <;> first | rfl | (simp; done)
@[simp] theorem complete_mem (rid : Nat) (st : Nat) (payload : Bytes) (s : State) : (complete rid st payload s).mem = s.mem := by unfold complete; (try dsimp only); (repeat' split) <;> first | rfl | (simp; done)
@[simp] theorem complete_ecc (rid : Nat) (st : Nat) (payload : Bytes) (s : State) : (complete rid st payload s).ecc = s.ecc := by unfold complete; (try dsimp only); (repeat' split) <;> first | rfl | (simp; done)
@[simp] theorem complete_ftl (rid : Nat) (st : Nat) (payload : Bytes) (s : State) : (complete rid st payload s).ftl = s.ftl := by unfold complete; (try dsimp only); (repeat' split) <;> first | rfl | (simp; done)
@[simp] theorem complete_store (rid : Nat) (st : Nat) (payload : Bytes) (s : State) : (complete rid st payload s).store = s.store := by unfold complete; (try dsimp only); (repeat' split) <;> first | rfl | (simp; done)
@[simp] theorem complete_search (rid : Nat) (st : Nat) (payload : Bytes) (s : State) : (complete rid st payload s).search = s.search := by unfold complete; (try dsimp only); (repeat' split) <;> first | rfl | (simp; done)
@[simp] theorem complete_ports (rid : Nat) (st : Nat) (payload : Bytes) (s : State) : (complete rid st payload s).ports = s.ports := by unfold complete; (try dsimp only); (repeat' split) <;> first | rfl | (simp; done)
@[simp] theorem complete_tune (rid : Nat) (st : Nat) (payload : Bytes) (s : State) : (complete rid st payload s).tune = s.tune := by unfold complete; (try dsimp only); (repeat' split) <;> first | rfl | (simp; done)
@[simp] theorem complete_sec (rid : Nat) (st : Nat) (payload : Bytes) (s : State) : (complete rid st payload s).sec = s.sec := by unfold complete; (try dsimp only); (repeat' split) <;> first | rfl | (simp; done)
@[simp] theorem complete_pwr (rid : Nat) (st : Nat) (payload : Bytes) (s : State) : (complete rid st payload s).pwr = s.pwr := by unfold complete; (try dsimp only); (repeat' split) <;> first | rfl | (simp; done)
@[simp] theorem complete_fw (rid : Nat) (st : Nat) (payload : Bytes) (s : State) : (complete rid st payload s).fw = s.fw := by unfold complete; (try dsimp only); (repeat' split) <;> first | rfl | (simp; done)
@[simp] theorem complete_mon (rid : Nat) (st : Nat) (payload : Bytes) (s : State) : (complete rid st payload s).mon = s.mon := by unfold complete; (try dsimp only); (repeat' split) <;> first | rfl | (simp; done)

/-! ### What `fail` leaves alone -/

@[simp] theorem fail_freeCtr (rid : Nat) (st : Nat) (s : State) : (fail rid st s).freeCtr = s.freeCtr := by unfold fail; (try dsimp only); (repeat' split) <;> first | rfl | (simp; done)
@[simp] theorem fail_clocks (rid : Nat) (st : Nat) (s : State) : (fail rid st s).clocks = s.clocks := by unfold fail; (try dsimp only); (repeat' split) <;> first | rfl | (simp; done)
@[simp] theorem fail_caps (rid : Nat) (st : Nat) (s : State) : (fail rid st s).caps = s.caps := by unfold fail; (try dsimp only); (repeat' split) <;> first | rfl | (simp; done)
@[simp] theorem fail_host (rid : Nat) (st : Nat) (s : State) : (fail rid st s).host = s.host := by unfold fail; (try dsimp only); (repeat' split) <;> first | rfl | (simp; done)
@[simp] theorem fail_eng (rid : Nat) (st : Nat) (s : State) : (fail rid st s).eng = s.eng := by unfold fail; (try dsimp only); (repeat' split) <;> first | rfl | (simp; done)
@[simp] theorem fail_task (rid : Nat) (st : Nat) (s : State) : (fail rid st s).task = s.task := by unfold fail; (try dsimp only); (repeat' split) <;> first | rfl | (simp; done)
@[simp] theorem fail_ctxs (rid : Nat) (st : Nat) (s : State) : (fail rid st s).ctxs = s.ctxs := by unfold fail; (try dsimp only); (repeat' split) <;> first | rfl | (simp; done)
@[simp] theorem fail_agents (rid : Nat) (st : Nat) (s : State) : (fail rid st s).agents = s.agents := by unfold fail; (try dsimp only); (repeat' split) <;> first | rfl | (simp; done)
@[simp] theorem fail_mem (rid : Nat) (st : Nat) (s : State) : (fail rid st s).mem = s.mem := by unfold fail; (try dsimp only); (repeat' split) <;> first | rfl | (simp; done)
@[simp] theorem fail_ecc (rid : Nat) (st : Nat) (s : State) : (fail rid st s).ecc = s.ecc := by unfold fail; (try dsimp only); (repeat' split) <;> first | rfl | (simp; done)
@[simp] theorem fail_ftl (rid : Nat) (st : Nat) (s : State) : (fail rid st s).ftl = s.ftl := by unfold fail; (try dsimp only); (repeat' split) <;> first | rfl | (simp; done)
@[simp] theorem fail_store (rid : Nat) (st : Nat) (s : State) : (fail rid st s).store = s.store := by unfold fail; (try dsimp only); (repeat' split) <;> first | rfl | (simp; done)
@[simp] theorem fail_search (rid : Nat) (st : Nat) (s : State) : (fail rid st s).search = s.search := by unfold fail; (try dsimp only); (repeat' split) <;> first | rfl | (simp; done)
@[simp] theorem fail_ports (rid : Nat) (st : Nat) (s : State) : (fail rid st s).ports = s.ports := by unfold fail; (try dsimp only); (repeat' split) <;> first | rfl | (simp; done)
@[simp] theorem fail_tune (rid : Nat) (st : Nat) (s : State) : (fail rid st s).tune = s.tune := by unfold fail; (try dsimp only); (repeat' split) <;> first | rfl | (simp; done)
@[simp] theorem fail_sec (rid : Nat) (st : Nat) (s : State) : (fail rid st s).sec = s.sec := by unfold fail; (try dsimp only); (repeat' split) <;> first | rfl | (simp; done)
@[simp] theorem fail_pwr (rid : Nat) (st : Nat) (s : State) : (fail rid st s).pwr = s.pwr := by unfold fail; (try dsimp only); (repeat' split) <;> first | rfl | (simp; done)
@[simp] theorem fail_fw (rid : Nat) (st : Nat) (s : State) : (fail rid st s).fw = s.fw := by unfold fail; (try dsimp only); (repeat' split) <;> first | rfl | (simp; done)
@[simp] theorem fail_mon (rid : Nat) (st : Nat) (s : State) : (fail rid st s).mon = s.mon := by unfold fail; (try dsimp only); (repeat' split) <;> first | rfl | (simp; done)

/-! ### What `writeReply` leaves alone -/

@[simp] theorem writeReply_freeCtr (r : Req) (st : Nat) (payload : Bytes) (s : State) : (writeReply r st payload s).freeCtr = s.freeCtr := by unfold writeReply; (try dsimp only); (repeat' split) <;> first | rfl | (simp; done)
@[simp] theorem writeReply_clocks (r : Req) (st : Nat) (payload : Bytes) (s : State) : (writeReply r st payload s).clocks = s.clocks := by unfold writeReply; (try dsimp only); (repeat' split) <;> first | rfl | (simp; done)
@[simp] theorem writeReply_caps (r : Req) (st : Nat) (payload : Bytes) (s : State) : (writeReply r st payload s).caps = s.caps := by unfold writeReply; (try dsimp only); (repeat' split) <;> first | rfl | (simp; done)
@[simp] theorem writeReply_ledger (r : Req) (st : Nat) (payload : Bytes) (s : State) : (writeReply r st payload s).ledger = s.ledger := by unfold writeReply; (try dsimp only); (repeat' split) <;> first | rfl | (simp; done)
@[simp] theorem writeReply_eng (r : Req) (st : Nat) (payload : Bytes) (s : State) : (writeReply r st payload s).eng = s.eng := by unfold writeReply; (try dsimp only); (repeat' split) <;> first | rfl | (simp; done)
@[simp] theorem writeReply_task (r : Req) (st : Nat) (payload : Bytes) (s : State) : (writeReply r st payload s).task = s.task := by unfold writeReply; (try dsimp only); (repeat' split) <;> first | rfl | (simp; done)
@[simp] theorem writeReply_ctxs (r : Req) (st : Nat) (payload : Bytes) (s : State) : (writeReply r st payload s).ctxs = s.ctxs := by unfold writeReply; (try dsimp only); (repeat' split) <;> first | rfl | (simp; done)
@[simp] theorem writeReply_agents (r : Req) (st : Nat) (payload : Bytes) (s : State) : (writeReply r st payload s).agents = s.agents := by unfold writeReply; (try dsimp only); (repeat' split) <;> first | rfl | (simp; done)
@[simp] theorem writeReply_mem (r : Req) (st : Nat) (payload : Bytes) (s : State) : (writeReply r st payload s).mem = s.mem := by unfold writeReply; (try dsimp only); (repeat' split) <;> first | rfl | (simp; done)
@[simp] theorem writeReply_ecc (r : Req) (st : Nat) (payload : Bytes) (s : State) : (writeReply r st payload s).ecc = s.ecc := by unfold writeReply; (try dsimp only); (repeat' split) <;> first | rfl | (simp; done)
@[simp] theorem writeReply_ftl (r : Req) (st : Nat) (payload : Bytes) (s : State) : (writeReply r st payload s).ftl = s.ftl := by unfold writeReply; (try dsimp only); (repeat' split) <;> first | rfl | (simp; done)
@[simp] theorem writeReply_store (r : Req) (st : Nat) (payload : Bytes) (s : State) : (writeReply r st payload s).store = s.store := by unfold writeReply; (try dsimp only); (repeat' split) <;> first | rfl | (simp; done)
@[simp] theorem writeReply_search (r : Req) (st : Nat) (payload : Bytes) (s : State) : (writeReply r st payload s).search = s.search := by unfold writeReply; (try dsimp only); (repeat' split) <;> first | rfl | (simp; done)
@[simp] theorem writeReply_ports (r : Req) (st : Nat) (payload : Bytes) (s : State) : (writeReply r st payload s).ports = s.ports := by unfold writeReply; (try dsimp only); (repeat' split) <;> first | rfl | (simp; done)
@[simp] theorem writeReply_tune (r : Req) (st : Nat) (payload : Bytes) (s : State) : (writeReply r st payload s).tune = s.tune := by unfold writeReply; (try dsimp only); (repeat' split) <;> first | rfl | (simp; done)
@[simp] theorem writeReply_sec (r : Req) (st : Nat) (payload : Bytes) (s : State) : (writeReply r st payload s).sec = s.sec := by unfold writeReply; (try dsimp only); (repeat' split) <;> first | rfl | (simp; done)
@[simp] theorem writeReply_pwr (r : Req) (st : Nat) (payload : Bytes) (s : State) : (writeReply r st payload s).pwr = s.pwr := by unfold writeReply; (try dsimp only); (repeat' split) <;> first | rfl | (simp; done)
@[simp] theorem writeReply_fw (r : Req) (st : Nat) (payload : Bytes) (s : State) : (writeReply r st payload s).fw = s.fw := by unfold writeReply; (try dsimp only); (repeat' split) <;> first | rfl | (simp; done)

/-! ### What `settleDone` leaves alone -/

@[simp] theorem settleDone_freeCtr (r : Req) (st : Nat) (payload : Bytes) (s : State) : (settleDone r st payload s).freeCtr = s.freeCtr := by unfold settleDone; (try dsimp only); (repeat' split) <;> first | rfl | (simp; done)
@[simp] theorem settleDone_clocks (r : Req) (st : Nat) (payload : Bytes) (s : State) : (settleDone r st payload s).clocks = s.clocks := by unfold settleDone; (try dsimp only); (repeat' split) <;> first | rfl | (simp; done)
@[simp] theorem settleDone_caps (r : Req) (st : Nat) (payload : Bytes) (s : State) : (settleDone r st payload s).caps = s.caps := by unfold settleDone; (try dsimp only); (repeat' split) <;> first | rfl | (simp; done)
@[simp] theorem settleDone_eng (r : Req) (st : Nat) (payload : Bytes) (s : State) : (settleDone r st payload s).eng = s.eng := by unfold settleDone; (try dsimp only); (repeat' split) <;> first | rfl | (simp; done)
@[simp] theorem settleDone_task (r : Req) (st : Nat) (payload : Bytes) (s : State) : (settleDone r st payload s).task = s.task := by unfold settleDone; (try dsimp only); (repeat' split) <;> first | rfl | (simp; done)
@[simp] theorem settleDone_ctxs (r : Req) (st : Nat) (payload : Bytes) (s : State) : (settleDone r st payload s).ctxs = s.ctxs := by unfold settleDone; (try dsimp only); (repeat' split) <;> first | rfl | (simp; done)
@[simp] theorem settleDone_agents (r : Req) (st : Nat) (payload : Bytes) (s : State) : (settleDone r st payload s).agents = s.agents := by unfold settleDone; (try dsimp only); (repeat' split) <;> first | rfl | (simp; done)
@[simp] theorem settleDone_mem (r : Req) (st : Nat) (payload : Bytes) (s : State) : (settleDone r st payload s).mem = s.mem := by unfold settleDone; (try dsimp only); (repeat' split) <;> first | rfl | (simp; done)
@[simp] theorem settleDone_ecc (r : Req) (st : Nat) (payload : Bytes) (s : State) : (settleDone r st payload s).ecc = s.ecc := by unfold settleDone; (try dsimp only); (repeat' split) <;> first | rfl | (simp; done)
@[simp] theorem settleDone_ftl (r : Req) (st : Nat) (payload : Bytes) (s : State) : (settleDone r st payload s).ftl = s.ftl := by unfold settleDone; (try dsimp only); (repeat' split) <;> first | rfl | (simp; done)
@[simp] theorem settleDone_store (r : Req) (st : Nat) (payload : Bytes) (s : State) : (settleDone r st payload s).store = s.store := by unfold settleDone; (try dsimp only); (repeat' split) <;> first | rfl | (simp; done)
@[simp] theorem settleDone_search (r : Req) (st : Nat) (payload : Bytes) (s : State) : (settleDone r st payload s).search = s.search := by unfold settleDone; (try dsimp only); (repeat' split) <;> first | rfl | (simp; done)
@[simp] theorem settleDone_ports (r : Req) (st : Nat) (payload : Bytes) (s : State) : (settleDone r st payload s).ports = s.ports := by unfold settleDone; (try dsimp only); (repeat' split) <;> first | rfl | (simp; done)
@[simp] theorem settleDone_tune (r : Req) (st : Nat) (payload : Bytes) (s : State) : (settleDone r st payload s).tune = s.tune := by unfold settleDone; (try dsimp only); (repeat' split) <;> first | rfl | (simp; done)
@[simp] theorem settleDone_sec (r : Req) (st : Nat) (payload : Bytes) (s : State) : (settleDone r st payload s).sec = s.sec := by unfold settleDone; (try dsimp only); (repeat' split) <;> first | rfl | (simp; done)
@[simp] theorem settleDone_pwr (r : Req) (st : Nat) (payload : Bytes) (s : State) : (settleDone r st payload s).pwr = s.pwr := by unfold settleDone; (try dsimp only); (repeat' split) <;> first | rfl | (simp; done)
@[simp] theorem settleDone_fw (r : Req) (st : Nat) (payload : Bytes) (s : State) : (settleDone r st payload s).fw = s.fw := by unfold settleDone; (try dsimp only); (repeat' split) <;> first | rfl | (simp; done)

/-! ### What `writeSettled` leaves alone -/

@[simp] theorem writeSettled_freeCtr (r : Req) (st : Nat) (s : State) : (writeSettled r st s).freeCtr = s.freeCtr := by unfold writeSettled; (try dsimp only); (repeat' split) <;> first | rfl | (simp; done)
@[simp] theorem writeSettled_clocks (r : Req) (st : Nat) (s : State) : (writeSettled r st s).clocks = s.clocks := by unfold writeSettled; (try dsimp only); (repeat' split) <;> first | rfl | (simp; done)
@[simp] theorem writeSettled_caps (r : Req) (st : Nat) (s : State) : (writeSettled r st s).caps = s.caps := by unfold writeSettled; (try dsimp only); (repeat' split) <;> first | rfl | (simp; done)
@[simp] theorem writeSettled_eng (r : Req) (st : Nat) (s : State) : (writeSettled r st s).eng = s.eng := by unfold writeSettled; (try dsimp only); (repeat' split) <;> first | rfl | (simp; done)
@[simp] theorem writeSettled_task (r : Req) (st : Nat) (s : State) : (writeSettled r st s).task = s.task := by unfold writeSettled; (try dsimp only); (repeat' split) <;> first | rfl | (simp; done)
@[simp] theorem writeSettled_ctxs (r : Req) (st : Nat) (s : State) : (writeSettled r st s).ctxs = s.ctxs := by unfold writeSettled; (try dsimp only); (repeat' split) <;> first | rfl | (simp; done)
@[simp] theorem writeSettled_agents (r : Req) (st : Nat) (s : State) : (writeSettled r st s).agents = s.agents := by unfold writeSettled; (try dsimp only); (repeat' split) <;> first | rfl | (simp; done)
@[simp] theorem writeSettled_mem (r : Req) (st : Nat) (s : State) : (writeSettled r st s).mem = s.mem := by unfold writeSettled; (try dsimp only); (repeat' split) <;> first | rfl | (simp; done)
@[simp] theorem writeSettled_ecc (r : Req) (st : Nat) (s : State) : (writeSettled r st s).ecc = s.ecc := by unfold writeSettled; (try dsimp only); (repeat' split) <;> first | rfl | (simp; done)
@[simp] theorem writeSettled_ftl (r : Req) (st : Nat) (s : State) : (writeSettled r st s).ftl = s.ftl := by unfold writeSettled; (try dsimp only); (repeat' split) <;> first | rfl | (simp; done)
@[simp] theorem writeSettled_store (r : Req) (st : Nat) (s : State) : (writeSettled r st s).store = s.store := by unfold writeSettled; (try dsimp only); (repeat' split) <;> first | rfl | (simp; done)
@[simp] theorem writeSettled_search (r : Req) (st : Nat) (s : State) : (writeSettled r st s).search = s.search := by unfold writeSettled; (try dsimp only); (repeat' split) <;> first | rfl | (simp; done)
@[simp] theorem writeSettled_ports (r : Req) (st : Nat) (s : State) : (writeSettled r st s).ports = s.ports := by unfold writeSettled; (try dsimp only); (repeat' split) <;> first | rfl | (simp; done)
@[simp] theorem writeSettled_tune (r : Req) (st : Nat) (s : State) : (writeSettled r st s).tune = s.tune := by unfold writeSettled; (try dsimp only); (repeat' split) <;> first | rfl | (simp; done)
@[simp] theorem writeSettled_sec (r : Req) (st : Nat) (s : State) : (writeSettled r st s).sec = s.sec := by unfold writeSettled; (try dsimp only); (repeat' split) <;> first | rfl | (simp; done)
@[simp] theorem writeSettled_pwr (r : Req) (st : Nat) (s : State) : (writeSettled r st s).pwr = s.pwr := by unfold writeSettled; (try dsimp only); (repeat' split) <;> first | rfl | (simp; done)
@[simp] theorem writeSettled_fw (r : Req) (st : Nat) (s : State) : (writeSettled r st s).fw = s.fw := by unfold writeSettled; (try dsimp only); (repeat' split) <;> first | rfl | (simp; done)

/-! ### What `settleStop` leaves alone -/

@[simp] theorem settleStop_freeCtr (r : Req) (st : Nat) (s : State) : (settleStop r st s).freeCtr = s.freeCtr := by unfold settleStop; (try dsimp only); (repeat' split) <;> first | rfl | (simp; done)
@[simp] theorem settleStop_clocks (r : Req) (st : Nat) (s : State) : (settleStop r st s).clocks = s.clocks := by unfold settleStop; (try dsimp only); (repeat' split) <;> first | rfl | (simp; done)
@[simp] theorem settleStop_caps (r : Req) (st : Nat) (s : State) : (settleStop r st s).caps = s.caps := by unfold settleStop; (try dsimp only); (repeat' split) <;> first | rfl | (simp; done)
@[simp] theorem settleStop_eng (r : Req) (st : Nat) (s : State) : (settleStop r st s).eng = s.eng := by unfold settleStop; (try dsimp only); (repeat' split) <;> first | rfl | (simp; done)
@[simp] theorem settleStop_task (r : Req) (st : Nat) (s : State) : (settleStop r st s).task = s.task := by unfold settleStop; (try dsimp only); (repeat' split) <;> first | rfl | (simp; done)
@[simp] theorem settleStop_ctxs (r : Req) (st : Nat) (s : State) : (settleStop r st s).ctxs = s.ctxs := by unfold settleStop; (try dsimp only); (repeat' split) <;> first | rfl | (simp; done)
@[simp] theorem settleStop_agents (r : Req) (st : Nat) (s : State) : (settleStop r st s).agents = s.agents := by unfold settleStop; (try dsimp only); (repeat' split) <;> first | rfl | (simp; done)
@[simp] theorem settleStop_mem (r : Req) (st : Nat) (s : State) : (settleStop r st s).mem = s.mem := by unfold settleStop; (try dsimp only); (repeat' split) <;> first | rfl | (simp; done)
@[simp] theorem settleStop_ecc (r : Req) (st : Nat) (s : State) : (settleStop r st s).ecc = s.ecc := by unfold settleStop; (try dsimp only); (repeat' split) <;> first | rfl | (simp; done)
@[simp] theorem settleStop_ftl (r : Req) (st : Nat) (s : State) : (settleStop r st s).ftl = s.ftl := by unfold settleStop; (try dsimp only); (repeat' split) <;> first | rfl | (simp; done)
@[simp] theorem settleStop_store (r : Req) (st : Nat) (s : State) : (settleStop r st s).store = s.store := by unfold settleStop; (try dsimp only); (repeat' split) <;> first | rfl | (simp; done)
@[simp] theorem settleStop_search (r : Req) (st : Nat) (s : State) : (settleStop r st s).search = s.search := by unfold settleStop; (try dsimp only); (repeat' split) <;> first | rfl | (simp; done)
@[simp] theorem settleStop_ports (r : Req) (st : Nat) (s : State) : (settleStop r st s).ports = s.ports := by unfold settleStop; (try dsimp only); (repeat' split) <;> first | rfl | (simp; done)
@[simp] theorem settleStop_tune (r : Req) (st : Nat) (s : State) : (settleStop r st s).tune = s.tune := by unfold settleStop; (try dsimp only); (repeat' split) <;> first | rfl | (simp; done)
@[simp] theorem settleStop_sec (r : Req) (st : Nat) (s : State) : (settleStop r st s).sec = s.sec := by unfold settleStop; (try dsimp only); (repeat' split) <;> first | rfl | (simp; done)
@[simp] theorem settleStop_pwr (r : Req) (st : Nat) (s : State) : (settleStop r st s).pwr = s.pwr := by unfold settleStop; (try dsimp only); (repeat' split) <;> first | rfl | (simp; done)
@[simp] theorem settleStop_fw (r : Req) (st : Nat) (s : State) : (settleStop r st s).fw = s.fw := by unfold settleStop; (try dsimp only); (repeat' split) <;> first | rfl | (simp; done)

/-! ### What `t2Room` leaves alone -/

@[simp] theorem t2Room_freeCtr (fuel : Nat) (c : Nat) (n : Nat) (s : State) : (t2Room fuel c n s).freeCtr = s.freeCtr := by induction fuel generalizing s with | zero => rfl | succ k ih => unfold t2Room; (repeat' split) <;> first | rfl | (rw [ih]; rfl)
@[simp] theorem t2Room_clocks (fuel : Nat) (c : Nat) (n : Nat) (s : State) : (t2Room fuel c n s).clocks = s.clocks := by induction fuel generalizing s with | zero => rfl | succ k ih => unfold t2Room; (repeat' split) <;> first | rfl | (rw [ih]; rfl)
@[simp] theorem t2Room_caps (fuel : Nat) (c : Nat) (n : Nat) (s : State) : (t2Room fuel c n s).caps = s.caps := by induction fuel generalizing s with | zero => rfl | succ k ih => unfold t2Room; (repeat' split) <;> first | rfl | (rw [ih]; rfl)
@[simp] theorem t2Room_host (fuel : Nat) (c : Nat) (n : Nat) (s : State) : (t2Room fuel c n s).host = s.host := by induction fuel generalizing s with | zero => rfl | succ k ih => unfold t2Room; (repeat' split) <;> first | rfl | (rw [ih]; rfl)
@[simp] theorem t2Room_ledger (fuel : Nat) (c : Nat) (n : Nat) (s : State) : (t2Room fuel c n s).ledger = s.ledger := by induction fuel generalizing s with | zero => rfl | succ k ih => unfold t2Room; (repeat' split) <;> first | rfl | (rw [ih]; rfl)
@[simp] theorem t2Room_eng (fuel : Nat) (c : Nat) (n : Nat) (s : State) : (t2Room fuel c n s).eng = s.eng := by induction fuel generalizing s with | zero => rfl | succ k ih => unfold t2Room; (repeat' split) <;> first | rfl | (rw [ih]; rfl)
@[simp] theorem t2Room_task (fuel : Nat) (c : Nat) (n : Nat) (s : State) : (t2Room fuel c n s).task = s.task := by induction fuel generalizing s with | zero => rfl | succ k ih => unfold t2Room; (repeat' split) <;> first | rfl | (rw [ih]; rfl)
@[simp] theorem t2Room_ctxs (fuel : Nat) (c : Nat) (n : Nat) (s : State) : (t2Room fuel c n s).ctxs = s.ctxs := by induction fuel generalizing s with | zero => rfl | succ k ih => unfold t2Room; (repeat' split) <;> first | rfl | (rw [ih]; rfl)
@[simp] theorem t2Room_ecc (fuel : Nat) (c : Nat) (n : Nat) (s : State) : (t2Room fuel c n s).ecc = s.ecc := by induction fuel generalizing s with | zero => rfl | succ k ih => unfold t2Room; (repeat' split) <;> first | rfl | (rw [ih]; rfl)
@[simp] theorem t2Room_ftl (fuel : Nat) (c : Nat) (n : Nat) (s : State) : (t2Room fuel c n s).ftl = s.ftl := by induction fuel generalizing s with | zero => rfl | succ k ih => unfold t2Room; (repeat' split) <;> first | rfl | (rw [ih]; rfl)
@[simp] theorem t2Room_store (fuel : Nat) (c : Nat) (n : Nat) (s : State) : (t2Room fuel c n s).store = s.store := by induction fuel generalizing s with | zero => rfl | succ k ih => unfold t2Room; (repeat' split) <;> first | rfl | (rw [ih]; rfl)
@[simp] theorem t2Room_search (fuel : Nat) (c : Nat) (n : Nat) (s : State) : (t2Room fuel c n s).search = s.search := by induction fuel generalizing s with | zero => rfl | succ k ih => unfold t2Room; (repeat' split) <;> first | rfl | (rw [ih]; rfl)
@[simp] theorem t2Room_ports (fuel : Nat) (c : Nat) (n : Nat) (s : State) : (t2Room fuel c n s).ports = s.ports := by induction fuel generalizing s with | zero => rfl | succ k ih => unfold t2Room; (repeat' split) <;> first | rfl | (rw [ih]; rfl)
@[simp] theorem t2Room_tune (fuel : Nat) (c : Nat) (n : Nat) (s : State) : (t2Room fuel c n s).tune = s.tune := by induction fuel generalizing s with | zero => rfl | succ k ih => unfold t2Room; (repeat' split) <;> first | rfl | (rw [ih]; rfl)
@[simp] theorem t2Room_sec (fuel : Nat) (c : Nat) (n : Nat) (s : State) : (t2Room fuel c n s).sec = s.sec := by induction fuel generalizing s with | zero => rfl | succ k ih => unfold t2Room; (repeat' split) <;> first | rfl | (rw [ih]; rfl)
@[simp] theorem t2Room_pwr (fuel : Nat) (c : Nat) (n : Nat) (s : State) : (t2Room fuel c n s).pwr = s.pwr := by induction fuel generalizing s with | zero => rfl | succ k ih => unfold t2Room; (repeat' split) <;> first | rfl | (rw [ih]; rfl)
@[simp] theorem t2Room_fw (fuel : Nat) (c : Nat) (n : Nat) (s : State) : (t2Room fuel c n s).fw = s.fw := by induction fuel generalizing s with | zero => rfl | succ k ih => unfold t2Room; (repeat' split) <;> first | rfl | (rw [ih]; rfl)
@[simp] theorem t2Room_mon (fuel : Nat) (c : Nat) (n : Nat) (s : State) : (t2Room fuel c n s).mon = s.mon := by induction fuel generalizing s with | zero => rfl | succ k ih => unfold t2Room; (repeat' split) <;> first | rfl | (rw [ih]; rfl)

/-! ### What `healT1` leaves alone -/

@[simp] theorem healT1_freeCtr (f : Option Nat) (s : State) : (healT1 f s).freeCtr = s.freeCtr := by unfold healT1; (try dsimp only); (repeat' split) <;> first | rfl | (simp; done)
@[simp] theorem healT1_clocks (f : Option Nat) (s : State) : (healT1 f s).clocks = s.clocks := by unfold healT1; (try dsimp only); (repeat' split) <;> first | rfl | (simp; done)
@[simp] theorem healT1_caps (f : Option Nat) (s : State) : (healT1 f s).caps = s.caps := by unfold healT1; (try dsimp only); (repeat' split) <;> first | rfl | (simp; done)
@[simp] theorem healT1_host (f : Option Nat) (s : State) : (healT1 f s).host = s.host := by unfold healT1; (try dsimp only); (repeat' split) <;> first | rfl | (simp; done)
@[simp] theorem healT1_ledger (f : Option Nat) (s : State) : (healT1 f s).ledger = s.ledger := by unfold healT1; (try dsimp only); (repeat' split) <;> first | rfl | (simp; done)
@[simp] theorem healT1_eng (f : Option Nat) (s : State) : (healT1 f s).eng = s.eng := by unfold healT1; (try dsimp only); (repeat' split) <;> first | rfl | (simp; done)
@[simp] theorem healT1_task (f : Option Nat) (s : State) : (healT1 f s).task = s.task := by unfold healT1; (try dsimp only); (repeat' split) <;> first | rfl | (simp; done)
@[simp] theorem healT1_ctxs (f : Option Nat) (s : State) : (healT1 f s).ctxs = s.ctxs := by unfold healT1; (try dsimp only); (repeat' split) <;> first | rfl | (simp; done)
@[simp] theorem healT1_agents (f : Option Nat) (s : State) : (healT1 f s).agents = s.agents := by unfold healT1; (try dsimp only); (repeat' split) <;> first | rfl | (simp; done)
@[simp] theorem healT1_mem (f : Option Nat) (s : State) : (healT1 f s).mem = s.mem := by unfold healT1; (try dsimp only); (repeat' split) <;> first | rfl | (simp; done)
@[simp] theorem healT1_ftl (f : Option Nat) (s : State) : (healT1 f s).ftl = s.ftl := by unfold healT1; (try dsimp only); (repeat' split) <;> first | rfl | (simp; done)
@[simp] theorem healT1_store (f : Option Nat) (s : State) : (healT1 f s).store = s.store := by unfold healT1; (try dsimp only); (repeat' split) <;> first | rfl | (simp; done)
@[simp] theorem healT1_search (f : Option Nat) (s : State) : (healT1 f s).search = s.search := by unfold healT1; (try dsimp only); (repeat' split) <;> first | rfl | (simp; done)
@[simp] theorem healT1_ports (f : Option Nat) (s : State) : (healT1 f s).ports = s.ports := by unfold healT1; (try dsimp only); (repeat' split) <;> first | rfl | (simp; done)
@[simp] theorem healT1_tune (f : Option Nat) (s : State) : (healT1 f s).tune = s.tune := by unfold healT1; (try dsimp only); (repeat' split) <;> first | rfl | (simp; done)
@[simp] theorem healT1_sec (f : Option Nat) (s : State) : (healT1 f s).sec = s.sec := by unfold healT1; (try dsimp only); (repeat' split) <;> first | rfl | (simp; done)
@[simp] theorem healT1_pwr (f : Option Nat) (s : State) : (healT1 f s).pwr = s.pwr := by unfold healT1; (try dsimp only); (repeat' split) <;> first | rfl | (simp; done)
@[simp] theorem healT1_fw (f : Option Nat) (s : State) : (healT1 f s).fw = s.fw := by unfold healT1; (try dsimp only); (repeat' split) <;> first | rfl | (simp; done)
@[simp] theorem healT1_mon (f : Option Nat) (s : State) : (healT1 f s).mon = s.mon := by unfold healT1; (try dsimp only); (repeat' split) <;> first | rfl | (simp; done)

/-! ### What `healT2` leaves alone -/

@[simp] theorem healT2_freeCtr (u : Nat) (n : Nat) (s : State) : (healT2 u n s).freeCtr = s.freeCtr := by unfold healT2; (try dsimp only); (repeat' split) <;> first | rfl | (simp; done)
@[simp] theorem healT2_clocks (u : Nat) (n : Nat) (s : State) : (healT2 u n s).clocks = s.clocks := by unfold healT2; (try dsimp only); (repeat' split) <;> first | rfl | (simp; done)
@[simp] theorem healT2_caps (u : Nat) (n : Nat) (s : State) : (healT2 u n s).caps = s.caps := by unfold healT2; (try dsimp only); (repeat' split) <;> first | rfl | (simp; done)
@[simp] theorem healT2_host (u : Nat) (n : Nat) (s : State) : (healT2 u n s).host = s.host := by unfold healT2; (try dsimp only); (repeat' split) <;> first | rfl | (simp; done)
@[simp] theorem healT2_ledger (u : Nat) (n : Nat) (s : State) : (healT2 u n s).ledger = s.ledger := by unfold healT2; (try dsimp only); (repeat' split) <;> first | rfl | (simp; done)
@[simp] theorem healT2_eng (u : Nat) (n : Nat) (s : State) : (healT2 u n s).eng = s.eng := by unfold healT2; (try dsimp only); (repeat' split) <;> first | rfl | (simp; done)
@[simp] theorem healT2_task (u : Nat) (n : Nat) (s : State) : (healT2 u n s).task = s.task := by unfold healT2; (try dsimp only); (repeat' split) <;> first | rfl | (simp; done)
@[simp] theorem healT2_ctxs (u : Nat) (n : Nat) (s : State) : (healT2 u n s).ctxs = s.ctxs := by unfold healT2; (try dsimp only); (repeat' split) <;> first | rfl | (simp; done)
@[simp] theorem healT2_agents (u : Nat) (n : Nat) (s : State) : (healT2 u n s).agents = s.agents := by unfold healT2; (try dsimp only); (repeat' split) <;> first | rfl | (simp; done)
@[simp] theorem healT2_mem (u : Nat) (n : Nat) (s : State) : (healT2 u n s).mem = s.mem := by unfold healT2; (try dsimp only); (repeat' split) <;> first | rfl | (simp; done)
@[simp] theorem healT2_ftl (u : Nat) (n : Nat) (s : State) : (healT2 u n s).ftl = s.ftl := by unfold healT2; (try dsimp only); (repeat' split) <;> first | rfl | (simp; done)
@[simp] theorem healT2_store (u : Nat) (n : Nat) (s : State) : (healT2 u n s).store = s.store := by unfold healT2; (try dsimp only); (repeat' split) <;> first | rfl | (simp; done)
@[simp] theorem healT2_search (u : Nat) (n : Nat) (s : State) : (healT2 u n s).search = s.search := by unfold healT2; (try dsimp only); (repeat' split) <;> first | rfl | (simp; done)
@[simp] theorem healT2_ports (u : Nat) (n : Nat) (s : State) : (healT2 u n s).ports = s.ports := by unfold healT2; (try dsimp only); (repeat' split) <;> first | rfl | (simp; done)
@[simp] theorem healT2_tune (u : Nat) (n : Nat) (s : State) : (healT2 u n s).tune = s.tune := by unfold healT2; (try dsimp only); (repeat' split) <;> first | rfl | (simp; done)
@[simp] theorem healT2_sec (u : Nat) (n : Nat) (s : State) : (healT2 u n s).sec = s.sec := by unfold healT2; (try dsimp only); (repeat' split) <;> first | rfl | (simp; done)
@[simp] theorem healT2_pwr (u : Nat) (n : Nat) (s : State) : (healT2 u n s).pwr = s.pwr := by unfold healT2; (try dsimp only); (repeat' split) <;> first | rfl | (simp; done)
@[simp] theorem healT2_fw (u : Nat) (n : Nat) (s : State) : (healT2 u n s).fw = s.fw := by unfold healT2; (try dsimp only); (repeat' split) <;> first | rfl | (simp; done)
@[simp] theorem healT2_mon (u : Nat) (n : Nat) (s : State) : (healT2 u n s).mon = s.mon := by unfold healT2; (try dsimp only); (repeat' split) <;> first | rfl | (simp; done)

/-! ### What `addT2` leaves alone -/

@[simp] theorem addT2_freeCtr (pid : Nat) (s : State) : (addT2 pid s).freeCtr = s.freeCtr := by unfold addT2; (try dsimp only); (repeat' split) <;> first | rfl | (simp; done)
@[simp] theorem addT2_clocks (pid : Nat) (s : State) : (addT2 pid s).clocks = s.clocks := by unfold addT2; (try dsimp only); (repeat' split) <;> first | rfl | (simp; done)
@[simp] theorem addT2_caps (pid : Nat) (s : State) : (addT2 pid s).caps = s.caps := by unfold addT2; (try dsimp only); (repeat' split) <;> first | rfl | (simp; done)
@[simp] theorem addT2_host (pid : Nat) (s : State) : (addT2 pid s).host = s.host := by unfold addT2; (try dsimp only); (repeat' split) <;> first | rfl | (simp; done)
@[simp] theorem addT2_ledger (pid : Nat) (s : State) : (addT2 pid s).ledger = s.ledger := by unfold addT2; (try dsimp only); (repeat' split) <;> first | rfl | (simp; done)
@[simp] theorem addT2_eng (pid : Nat) (s : State) : (addT2 pid s).eng = s.eng := by unfold addT2; (try dsimp only); (repeat' split) <;> first | rfl | (simp; done)
@[simp] theorem addT2_task (pid : Nat) (s : State) : (addT2 pid s).task = s.task := by unfold addT2; (try dsimp only); (repeat' split) <;> first | rfl | (simp; done)
@[simp] theorem addT2_ctxs (pid : Nat) (s : State) : (addT2 pid s).ctxs = s.ctxs := by unfold addT2; (try dsimp only); (repeat' split) <;> first | rfl | (simp; done)
@[simp] theorem addT2_ftl (pid : Nat) (s : State) : (addT2 pid s).ftl = s.ftl := by unfold addT2; (try dsimp only); (repeat' split) <;> first | rfl | (simp; done)
@[simp] theorem addT2_store (pid : Nat) (s : State) : (addT2 pid s).store = s.store := by unfold addT2; (try dsimp only); (repeat' split) <;> first | rfl | (simp; done)
@[simp] theorem addT2_search (pid : Nat) (s : State) : (addT2 pid s).search = s.search := by unfold addT2; (try dsimp only); (repeat' split) <;> first | rfl | (simp; done)
@[simp] theorem addT2_ports (pid : Nat) (s : State) : (addT2 pid s).ports = s.ports := by unfold addT2; (try dsimp only); (repeat' split) <;> first | rfl | (simp; done)
@[simp] theorem addT2_tune (pid : Nat) (s : State) : (addT2 pid s).tune = s.tune := by unfold addT2; (try dsimp only); (repeat' split) <;> first | rfl | (simp; done)
@[simp] theorem addT2_sec (pid : Nat) (s : State) : (addT2 pid s).sec = s.sec := by unfold addT2; (try dsimp only); (repeat' split) <;> first | rfl | (simp; done)
@[simp] theorem addT2_pwr (pid : Nat) (s : State) : (addT2 pid s).pwr = s.pwr := by unfold addT2; (try dsimp only); (repeat' split) <;> first | rfl | (simp; done)
@[simp] theorem addT2_fw (pid : Nat) (s : State) : (addT2 pid s).fw = s.fw := by unfold addT2; (try dsimp only); (repeat' split) <;> first | rfl | (simp; done)
@[simp] theorem addT2_mon (pid : Nat) (s : State) : (addT2 pid s).mon = s.mon := by unfold addT2; (try dsimp only); (repeat' split) <;> first | rfl | (simp; done)

/-! ### What `fillPage` leaves alone -/

@[simp] theorem fillPage_freeCtr (hot : Bool) (pid : Nat) (s : State) : (fillPage hot pid s).freeCtr = s.freeCtr := by unfold fillPage; (try dsimp only); (repeat' split) <;> first | rfl | (simp; done)
@[simp] theorem fillPage_clocks (hot : Bool) (pid : Nat) (s : State) : (fillPage hot pid s).clocks = s.clocks := by unfold fillPage; (try dsimp only); (repeat' split) <;> first | rfl | (simp; done)
@[simp] theorem fillPage_caps (hot : Bool) (pid : Nat) (s : State) : (fillPage hot pid s).caps = s.caps := by unfold fillPage; (try dsimp only); (repeat' split) <;> first | rfl | (simp; done)
@[simp] theorem fillPage_host (hot : Bool) (pid : Nat) (s : State) : (fillPage hot pid s).host = s.host := by unfold fillPage; (try dsimp only); (repeat' split) <;> first | rfl | (simp; done)
@[simp] theorem fillPage_ledger (hot : Bool) (pid : Nat) (s : State) : (fillPage hot pid s).ledger = s.ledger := by unfold fillPage; (try dsimp only); (repeat' split) <;> first | rfl | (simp; done)
@[simp] theorem fillPage_eng (hot : Bool) (pid : Nat) (s : State) : (fillPage hot pid s).eng = s.eng := by unfold fillPage; (try dsimp only); (repeat' split) <;> first | rfl | (simp; done)
@[simp] theorem fillPage_task (hot : Bool) (pid : Nat) (s : State) : (fillPage hot pid s).task = s.task := by unfold fillPage; (try dsimp only); (repeat' split) <;> first | rfl | (simp; done)
@[simp] theorem fillPage_ctxs (hot : Bool) (pid : Nat) (s : State) : (fillPage hot pid s).ctxs = s.ctxs := by unfold fillPage; (try dsimp only); (repeat' split) <;> first | rfl | (simp; done)
@[simp] theorem fillPage_ftl (hot : Bool) (pid : Nat) (s : State) : (fillPage hot pid s).ftl = s.ftl := by unfold fillPage; (try dsimp only); (repeat' split) <;> first | rfl | (simp; done)
@[simp] theorem fillPage_store (hot : Bool) (pid : Nat) (s : State) : (fillPage hot pid s).store = s.store := by unfold fillPage; (try dsimp only); (repeat' split) <;> first | rfl | (simp; done)
@[simp] theorem fillPage_search (hot : Bool) (pid : Nat) (s : State) : (fillPage hot pid s).search = s.search := by unfold fillPage; (try dsimp only); (repeat' split) <;> first | rfl | (simp; done)
@[simp] theorem fillPage_ports (hot : Bool) (pid : Nat) (s : State) : (fillPage hot pid s).ports = s.ports := by unfold fillPage; (try dsimp only); (repeat' split) <;> first | rfl | (simp; done)
@[simp] theorem fillPage_tune (hot : Bool) (pid : Nat) (s : State) : (fillPage hot pid s).tune = s.tune := by unfold fillPage; (try dsimp only); (repeat' split) <;> first | rfl | (simp; done)
@[simp] theorem fillPage_sec (hot : Bool) (pid : Nat) (s : State) : (fillPage hot pid s).sec = s.sec := by unfold fillPage; (try dsimp only); (repeat' split) <;> first | rfl | (simp; done)
@[simp] theorem fillPage_pwr (hot : Bool) (pid : Nat) (s : State) : (fillPage hot pid s).pwr = s.pwr := by unfold fillPage; (try dsimp only); (repeat' split) <;> first | rfl | (simp; done)
@[simp] theorem fillPage_fw (hot : Bool) (pid : Nat) (s : State) : (fillPage hot pid s).fw = s.fw := by unfold fillPage; (try dsimp only); (repeat' split) <;> first | rfl | (simp; done)
@[simp] theorem fillPage_mon (hot : Bool) (pid : Nat) (s : State) : (fillPage hot pid s).mon = s.mon := by unfold fillPage; (try dsimp only); (repeat' split) <;> first | rfl | (simp; done)

/-! ### What `unrefPage` leaves alone -/

@[simp] theorem unrefPage_freeCtr (pid : Nat) (s : State) : (unrefPage pid s).freeCtr = s.freeCtr := by unfold unrefPage; (try dsimp only); (repeat' split) <;> first | rfl | (simp; done)
@[simp] theorem unrefPage_clocks (pid : Nat) (s : State) : (unrefPage pid s).clocks = s.clocks := by unfold unrefPage; (try dsimp only); (repeat' split) <;> first | rfl | (simp; done)
@[simp] theorem unrefPage_caps (pid : Nat) (s : State) : (unrefPage pid s).caps = s.caps := by unfold unrefPage; (try dsimp only); (repeat' split) <;> first | rfl | (simp; done)
@[simp] theorem unrefPage_host (pid : Nat) (s : State) : (unrefPage pid s).host = s.host := by unfold unrefPage; (try dsimp only); (repeat' split) <;> first | rfl | (simp; done)
@[simp] theorem unrefPage_ledger (pid : Nat) (s : State) : (unrefPage pid s).ledger = s.ledger := by unfold unrefPage; (try dsimp only); (repeat' split) <;> first | rfl | (simp; done)
@[simp] theorem unrefPage_eng (pid : Nat) (s : State) : (unrefPage pid s).eng = s.eng := by unfold unrefPage; (try dsimp only); (repeat' split) <;> first | rfl | (simp; done)
@[simp] theorem unrefPage_task (pid : Nat) (s : State) : (unrefPage pid s).task = s.task := by unfold unrefPage; (try dsimp only); (repeat' split) <;> first | rfl | (simp; done)
@[simp] theorem unrefPage_ctxs (pid : Nat) (s : State) : (unrefPage pid s).ctxs = s.ctxs := by unfold unrefPage; (try dsimp only); (repeat' split) <;> first | rfl | (simp; done)
@[simp] theorem unrefPage_agents (pid : Nat) (s : State) : (unrefPage pid s).agents = s.agents := by unfold unrefPage; (try dsimp only); (repeat' split) <;> first | rfl | (simp; done)
@[simp] theorem unrefPage_ecc (pid : Nat) (s : State) : (unrefPage pid s).ecc = s.ecc := by unfold unrefPage; (try dsimp only); (repeat' split) <;> first | rfl | (simp; done)
@[simp] theorem unrefPage_ftl (pid : Nat) (s : State) : (unrefPage pid s).ftl = s.ftl := by unfold unrefPage; (try dsimp only); (repeat' split) <;> first | rfl | (simp; done)
@[simp] theorem unrefPage_store (pid : Nat) (s : State) : (unrefPage pid s).store = s.store := by unfold unrefPage; (try dsimp only); (repeat' split) <;> first | rfl | (simp; done)
@[simp] theorem unrefPage_search (pid : Nat) (s : State) : (unrefPage pid s).search = s.search := by unfold unrefPage; (try dsimp only); (repeat' split) <;> first | rfl | (simp; done)
@[simp] theorem unrefPage_ports (pid : Nat) (s : State) : (unrefPage pid s).ports = s.ports := by unfold unrefPage; (try dsimp only); (repeat' split) <;> first | rfl | (simp; done)
@[simp] theorem unrefPage_tune (pid : Nat) (s : State) : (unrefPage pid s).tune = s.tune := by unfold unrefPage; (try dsimp only); (repeat' split) <;> first | rfl | (simp; done)
@[simp] theorem unrefPage_sec (pid : Nat) (s : State) : (unrefPage pid s).sec = s.sec := by unfold unrefPage; (try dsimp only); (repeat' split) <;> first | rfl | (simp; done)
@[simp] theorem unrefPage_pwr (pid : Nat) (s : State) : (unrefPage pid s).pwr = s.pwr := by unfold unrefPage; (try dsimp only); (repeat' split) <;> first | rfl | (simp; done)
@[simp] theorem unrefPage_fw (pid : Nat) (s : State) : (unrefPage pid s).fw = s.fw := by unfold unrefPage; (try dsimp only); (repeat' split) <;> first | rfl | (simp; done)
@[simp] theorem unrefPage_mon (pid : Nat) (s : State) : (unrefPage pid s).mon = s.mon := by unfold unrefPage; (try dsimp only); (repeat' split) <;> first | rfl | (simp; done)

/-! ### What `wrByte` leaves alone -/

@[simp] theorem wrByte_freeCtr (c : Nat) (va : Nat) (b : Byte) (s : State) : (wrByte c va b s).freeCtr = s.freeCtr := by unfold wrByte; (try dsimp only); (repeat' split) <;> first | rfl | (simp; done)
@[simp] theorem wrByte_clocks (c : Nat) (va : Nat) (b : Byte) (s : State) : (wrByte c va b s).clocks = s.clocks := by unfold wrByte; (try dsimp only); (repeat' split) <;> first | rfl | (simp; done)
@[simp] theorem wrByte_caps (c : Nat) (va : Nat) (b : Byte) (s : State) : (wrByte c va b s).caps = s.caps := by unfold wrByte; (try dsimp only); (repeat' split) <;> first | rfl | (simp; done)
@[simp] theorem wrByte_host (c : Nat) (va : Nat) (b : Byte) (s : State) : (wrByte c va b s).host = s.host := by unfold wrByte; (try dsimp only); (repeat' split) <;> first | rfl | (simp; done)
@[simp] theorem wrByte_ledger (c : Nat) (va : Nat) (b : Byte) (s : State) : (wrByte c va b s).ledger = s.ledger := by unfold wrByte; (try dsimp only); (repeat' split) <;> first | rfl | (simp; done)
@[simp] theorem wrByte_eng (c : Nat) (va : Nat) (b : Byte) (s : State) : (wrByte c va b s).eng = s.eng := by unfold wrByte; (try dsimp only); (repeat' split) <;> first | rfl | (simp; done)
@[simp] theorem wrByte_task (c : Nat) (va : Nat) (b : Byte) (s : State) : (wrByte c va b s).task = s.task := by unfold wrByte; (try dsimp only); (repeat' split) <;> first | rfl | (simp; done)
@[simp] theorem wrByte_ctxs (c : Nat) (va : Nat) (b : Byte) (s : State) : (wrByte c va b s).ctxs = s.ctxs := by unfold wrByte; (try dsimp only); (repeat' split) <;> first | rfl | (simp; done)
@[simp] theorem wrByte_agents (c : Nat) (va : Nat) (b : Byte) (s : State) : (wrByte c va b s).agents = s.agents := by unfold wrByte; (try dsimp only); (repeat' split) <;> first | rfl | (simp; done)
@[simp] theorem wrByte_ecc (c : Nat) (va : Nat) (b : Byte) (s : State) : (wrByte c va b s).ecc = s.ecc := by unfold wrByte; (try dsimp only); (repeat' split) <;> first | rfl | (simp; done)
@[simp] theorem wrByte_ftl (c : Nat) (va : Nat) (b : Byte) (s : State) : (wrByte c va b s).ftl = s.ftl := by unfold wrByte; (try dsimp only); (repeat' split) <;> first | rfl | (simp; done)
@[simp] theorem wrByte_store (c : Nat) (va : Nat) (b : Byte) (s : State) : (wrByte c va b s).store = s.store := by unfold wrByte; (try dsimp only); (repeat' split) <;> first | rfl | (simp; done)
@[simp] theorem wrByte_search (c : Nat) (va : Nat) (b : Byte) (s : State) : (wrByte c va b s).search = s.search := by unfold wrByte; (try dsimp only); (repeat' split) <;> first | rfl | (simp; done)
@[simp] theorem wrByte_ports (c : Nat) (va : Nat) (b : Byte) (s : State) : (wrByte c va b s).ports = s.ports := by unfold wrByte; (try dsimp only); (repeat' split) <;> first | rfl | (simp; done)
@[simp] theorem wrByte_tune (c : Nat) (va : Nat) (b : Byte) (s : State) : (wrByte c va b s).tune = s.tune := by unfold wrByte; (try dsimp only); (repeat' split) <;> first | rfl | (simp; done)
@[simp] theorem wrByte_sec (c : Nat) (va : Nat) (b : Byte) (s : State) : (wrByte c va b s).sec = s.sec := by unfold wrByte; (try dsimp only); (repeat' split) <;> first | rfl | (simp; done)
@[simp] theorem wrByte_pwr (c : Nat) (va : Nat) (b : Byte) (s : State) : (wrByte c va b s).pwr = s.pwr := by unfold wrByte; (try dsimp only); (repeat' split) <;> first | rfl | (simp; done)
@[simp] theorem wrByte_fw (c : Nat) (va : Nat) (b : Byte) (s : State) : (wrByte c va b s).fw = s.fw := by unfold wrByte; (try dsimp only); (repeat' split) <;> first | rfl | (simp; done)
@[simp] theorem wrByte_mon (c : Nat) (va : Nat) (b : Byte) (s : State) : (wrByte c va b s).mon = s.mon := by unfold wrByte; (try dsimp only); (repeat' split) <;> first | rfl | (simp; done)

/-! ### What `startRemote` leaves alone -/

@[simp] theorem startRemote_freeCtr (q : Remote) (s : State) : (startRemote q s).freeCtr = s.freeCtr := by unfold startRemote; (try dsimp only); (repeat' split) <;> first | rfl | (simp; done)
@[simp] theorem startRemote_clocks (q : Remote) (s : State) : (startRemote q s).clocks = s.clocks := by unfold startRemote; (try dsimp only); (repeat' split) <;> first | rfl | (simp; done)
@[simp] theorem startRemote_caps (q : Remote) (s : State) : (startRemote q s).caps = s.caps := by unfold startRemote; (try dsimp only); (repeat' split) <;> first | rfl | (simp; done)
@[simp] theorem startRemote_ledger (q : Remote) (s : State) : (startRemote q s).ledger = s.ledger := by unfold startRemote; (try dsimp only); (repeat' split) <;> first | rfl | (simp; done)
@[simp] theorem startRemote_eng (q : Remote) (s : State) : (startRemote q s).eng = s.eng := by unfold startRemote; (try dsimp only); (repeat' split) <;> first | rfl | (simp; done)
@[simp] theorem startRemote_task (q : Remote) (s : State) : (startRemote q s).task = s.task := by unfold startRemote; (try dsimp only); (repeat' split) <;> first | rfl | (simp; done)
@[simp] theorem startRemote_ctxs (q : Remote) (s : State) : (startRemote q s).ctxs = s.ctxs := by unfold startRemote; (try dsimp only); (repeat' split) <;> first | rfl | (simp; done)
@[simp] theorem startRemote_agents (q : Remote) (s : State) : (startRemote q s).agents = s.agents := by unfold startRemote; (try dsimp only); (repeat' split) <;> first | rfl | (simp; done)
@[simp] theorem startRemote_mem (q : Remote) (s : State) : (startRemote q s).mem = s.mem := by unfold startRemote; (try dsimp only); (repeat' split) <;> first | rfl | (simp; done)
@[simp] theorem startRemote_ecc (q : Remote) (s : State) : (startRemote q s).ecc = s.ecc := by unfold startRemote; (try dsimp only); (repeat' split) <;> first | rfl | (simp; done)
@[simp] theorem startRemote_ftl (q : Remote) (s : State) : (startRemote q s).ftl = s.ftl := by unfold startRemote; (try dsimp only); (repeat' split) <;> first | rfl | (simp; done)
@[simp] theorem startRemote_store (q : Remote) (s : State) : (startRemote q s).store = s.store := by unfold startRemote; (try dsimp only); (repeat' split) <;> first | rfl | (simp; done)
@[simp] theorem startRemote_search (q : Remote) (s : State) : (startRemote q s).search = s.search := by unfold startRemote; (try dsimp only); (repeat' split) <;> first | rfl | (simp; done)
@[simp] theorem startRemote_tune (q : Remote) (s : State) : (startRemote q s).tune = s.tune := by unfold startRemote; (try dsimp only); (repeat' split) <;> first | rfl | (simp; done)
@[simp] theorem startRemote_sec (q : Remote) (s : State) : (startRemote q s).sec = s.sec := by unfold startRemote; (try dsimp only); (repeat' split) <;> first | rfl | (simp; done)
@[simp] theorem startRemote_pwr (q : Remote) (s : State) : (startRemote q s).pwr = s.pwr := by unfold startRemote; (try dsimp only); (repeat' split) <;> first | rfl | (simp; done)
@[simp] theorem startRemote_fw (q : Remote) (s : State) : (startRemote q s).fw = s.fw := by unfold startRemote; (try dsimp only); (repeat' split) <;> first | rfl | (simp; done)
@[simp] theorem startRemote_mon (q : Remote) (s : State) : (startRemote q s).mon = s.mon := by unfold startRemote; (try dsimp only); (repeat' split) <;> first | rfl | (simp; done)

/-! ### What `pumpRemote` leaves alone -/

@[simp] theorem pumpRemote_freeCtr (fuel : Nat) (c : Nat) (s : State) : (pumpRemote fuel c s).freeCtr = s.freeCtr := by induction fuel generalizing s with | zero => rfl | succ n ih => unfold pumpRemote; (repeat' split) <;> first | rfl | (rw [ih]; first | rfl | simp)
@[simp] theorem pumpRemote_clocks (fuel : Nat) (c : Nat) (s : State) : (pumpRemote fuel c s).clocks = s.clocks := by induction fuel generalizing s with | zero => rfl | succ n ih => unfold pumpRemote; (repeat' split) <;> first | rfl | (rw [ih]; first | rfl | simp)
@[simp] theorem pumpRemote_caps (fuel : Nat) (c : Nat) (s : State) : (pumpRemote fuel c s).caps = s.caps := by induction fuel generalizing s with | zero => rfl | succ n ih => unfold pumpRemote; (repeat' split) <;> first | rfl | (rw [ih]; first | rfl | simp)
@[simp] theorem pumpRemote_ledger (fuel : Nat) (c : Nat) (s : State) : (pumpRemote fuel c s).ledger = s.ledger := by induction fuel generalizing s with | zero => rfl | succ n ih => unfold pumpRemote; (repeat' split) <;> first | rfl | (rw [ih]; first | rfl | simp)
@[simp] theorem pumpRemote_eng (fuel : Nat) (c : Nat) (s : State) : (pumpRemote fuel c s).eng = s.eng := by induction fuel generalizing s with | zero => rfl | succ n ih => unfold pumpRemote; (repeat' split) <;> first | rfl | (rw [ih]; first | rfl | simp)
@[simp] theorem pumpRemote_task (fuel : Nat) (c : Nat) (s : State) : (pumpRemote fuel c s).task = s.task := by induction fuel generalizing s with | zero => rfl | succ n ih => unfold pumpRemote; (repeat' split) <;> first | rfl | (rw [ih]; first | rfl | simp)
@[simp] theorem pumpRemote_ctxs (fuel : Nat) (c : Nat) (s : State) : (pumpRemote fuel c s).ctxs = s.ctxs := by induction fuel generalizing s with | zero => rfl | succ n ih => unfold pumpRemote; (repeat' split) <;> first | rfl | (rw [ih]; first | rfl | simp)
@[simp] theorem pumpRemote_agents (fuel : Nat) (c : Nat) (s : State) : (pumpRemote fuel c s).agents = s.agents := by induction fuel generalizing s with | zero => rfl | succ n ih => unfold pumpRemote; (repeat' split) <;> first | rfl | (rw [ih]; first | rfl | simp)
@[simp] theorem pumpRemote_mem (fuel : Nat) (c : Nat) (s : State) : (pumpRemote fuel c s).mem = s.mem := by induction fuel generalizing s with | zero => rfl | succ n ih => unfold pumpRemote; (repeat' split) <;> first | rfl | (rw [ih]; first | rfl | simp)
@[simp] theorem pumpRemote_ecc (fuel : Nat) (c : Nat) (s : State) : (pumpRemote fuel c s).ecc = s.ecc := by induction fuel generalizing s with | zero => rfl | succ n ih => unfold pumpRemote; (repeat' split) <;> first | rfl | (rw [ih]; first | rfl | simp)
@[simp] theorem pumpRemote_ftl (fuel : Nat) (c : Nat) (s : State) : (pumpRemote fuel c s).ftl = s.ftl := by induction fuel generalizing s with | zero => rfl | succ n ih => unfold pumpRemote; (repeat' split) <;> first | rfl | (rw [ih]; first | rfl | simp)
@[simp] theorem pumpRemote_store (fuel : Nat) (c : Nat) (s : State) : (pumpRemote fuel c s).store = s.store := by induction fuel generalizing s with | zero => rfl | succ n ih => unfold pumpRemote; (repeat' split) <;> first | rfl | (rw [ih]; first | rfl | simp)
@[simp] theorem pumpRemote_search (fuel : Nat) (c : Nat) (s : State) : (pumpRemote fuel c s).search = s.search := by induction fuel generalizing s with | zero => rfl | succ n ih => unfold pumpRemote; (repeat' split) <;> first | rfl | (rw [ih]; first | rfl | simp)
@[simp] theorem pumpRemote_tune (fuel : Nat) (c : Nat) (s : State) : (pumpRemote fuel c s).tune = s.tune := by induction fuel generalizing s with | zero => rfl | succ n ih => unfold pumpRemote; (repeat' split) <;> first | rfl | (rw [ih]; first | rfl | simp)
@[simp] theorem pumpRemote_sec (fuel : Nat) (c : Nat) (s : State) : (pumpRemote fuel c s).sec = s.sec := by induction fuel generalizing s with | zero => rfl | succ n ih => unfold pumpRemote; (repeat' split) <;> first | rfl | (rw [ih]; first | rfl | simp)
@[simp] theorem pumpRemote_pwr (fuel : Nat) (c : Nat) (s : State) : (pumpRemote fuel c s).pwr = s.pwr := by induction fuel generalizing s with | zero => rfl | succ n ih => unfold pumpRemote; (repeat' split) <;> first | rfl | (rw [ih]; first | rfl | simp)
@[simp] theorem pumpRemote_fw (fuel : Nat) (c : Nat) (s : State) : (pumpRemote fuel c s).fw = s.fw := by induction fuel generalizing s with | zero => rfl | succ n ih => unfold pumpRemote; (repeat' split) <;> first | rfl | (rw [ih]; first | rfl | simp)
@[simp] theorem pumpRemote_mon (fuel : Nat) (c : Nat) (s : State) : (pumpRemote fuel c s).mon = s.mon := by induction fuel generalizing s with | zero => rfl | succ n ih => unfold pumpRemote; (repeat' split) <;> first | rfl | (rw [ih]; first | rfl | simp)

/-! ### What `newRemote` leaves alone -/

@[simp] theorem newRemote_freeCtr (q : Remote) (s : State) : (newRemote q s).freeCtr = s.freeCtr := by unfold newRemote; (try dsimp only); (repeat' split) <;> first | rfl | (simp; done)
@[simp] theorem newRemote_clocks (q : Remote) (s : State) : (newRemote q s).clocks = s.clocks := by unfold newRemote; (try dsimp only); (repeat' split) <;> first | rfl | (simp; done)
@[simp] theorem newRemote_caps (q : Remote) (s : State) : (newRemote q s).caps = s.caps := by unfold newRemote; (try dsimp only); (repeat' split) <;> first | rfl | (simp; done)
@[simp] theorem newRemote_ledger (q : Remote) (s : State) : (newRemote q s).ledger = s.ledger := by unfold newRemote; (try dsimp only); (repeat' split) <;> first | rfl | (simp; done)
@[simp] theorem newRemote_eng (q : Remote) (s : State) : (newRemote q s).eng = s.eng := by unfold newRemote; (try dsimp only); (repeat' split) <;> first | rfl | (simp; done)
@[simp] theorem newRemote_task (q : Remote) (s : State) : (newRemote q s).task = s.task := by unfold newRemote; (try dsimp only); (repeat' split) <;> first | rfl | (simp; done)
@[simp] theorem newRemote_ctxs (q : Remote) (s : State) : (newRemote q s).ctxs = s.ctxs := by unfold newRemote; (try dsimp only); (repeat' split) <;> first | rfl | (simp; done)
@[simp] theorem newRemote_agents (q : Remote) (s : State) : (newRemote q s).agents = s.agents := by unfold newRemote; (try dsimp only); (repeat' split) <;> first | rfl | (simp; done)
@[simp] theorem newRemote_mem (q : Remote) (s : State) : (newRemote q s).mem = s.mem := by unfold newRemote; (try dsimp only); (repeat' split) <;> first | rfl | (simp; done)
@[simp] theorem newRemote_ecc (q : Remote) (s : State) : (newRemote q s).ecc = s.ecc := by unfold newRemote; (try dsimp only); (repeat' split) <;> first | rfl | (simp; done)
@[simp] theorem newRemote_ftl (q : Remote) (s : State) : (newRemote q s).ftl = s.ftl := by unfold newRemote; (try dsimp only); (repeat' split) <;> first | rfl | (simp; done)
@[simp] theorem newRemote_store (q : Remote) (s : State) : (newRemote q s).store = s.store := by unfold newRemote; (try dsimp only); (repeat' split) <;> first | rfl | (simp; done)
@[simp] theorem newRemote_search (q : Remote) (s : State) : (newRemote q s).search = s.search := by unfold newRemote; (try dsimp only); (repeat' split) <;> first | rfl | (simp; done)
@[simp] theorem newRemote_tune (q : Remote) (s : State) : (newRemote q s).tune = s.tune := by unfold newRemote; (try dsimp only); (repeat' split) <;> first | rfl | (simp; done)
@[simp] theorem newRemote_sec (q : Remote) (s : State) : (newRemote q s).sec = s.sec := by unfold newRemote; (try dsimp only); (repeat' split) <;> first | rfl | (simp; done)
@[simp] theorem newRemote_pwr (q : Remote) (s : State) : (newRemote q s).pwr = s.pwr := by unfold newRemote; (try dsimp only); (repeat' split) <;> first | rfl | (simp; done)
@[simp] theorem newRemote_fw (q : Remote) (s : State) : (newRemote q s).fw = s.fw := by unfold newRemote; (try dsimp only); (repeat' split) <;> first | rfl | (simp; done)
@[simp] theorem newRemote_mon (q : Remote) (s : State) : (newRemote q s).mon = s.mon := by unfold newRemote; (try dsimp only); (repeat' split) <;> first | rfl | (simp; done)

/-! ### What `remoteWrite` leaves alone -/

@[simp] theorem remoteWrite_freeCtr (c : Nat) (rid : Option Nat) (addr : Nat) (data : Bytes) (s : State) : (remoteWrite c rid addr data s).freeCtr = s.freeCtr := by unfold remoteWrite; (try dsimp only); (repeat' split) <;> first | rfl | (simp; done)
@[simp] theorem remoteWrite_clocks (c : Nat) (rid : Option Nat) (addr : Nat) (data : Bytes) (s : State) : (remoteWrite c rid addr data s).clocks = s.clocks := by unfold remoteWrite; (try dsimp only); (repeat' split) <;> first | rfl | (simp; done)
@[simp] theorem remoteWrite_caps (c : Nat) (rid : Option Nat) (addr : Nat) (data : Bytes) (s : State) : (remoteWrite c rid addr data s).caps = s.caps := by unfold remoteWrite; (try dsimp only); (repeat' split) <;> first | rfl | (simp; done)
@[simp] theorem remoteWrite_ledger (c : Nat) (rid : Option Nat) (addr : Nat) (data : Bytes) (s : State) : (remoteWrite c rid addr data s).ledger = s.ledger := by unfold remoteWrite; (try dsimp only); (repeat' split) <;> first | rfl | (simp; done)
@[simp] theorem remoteWrite_eng (c : Nat) (rid : Option Nat) (addr : Nat) (data : Bytes) (s : State) : (remoteWrite c rid addr data s).eng = s.eng := by unfold remoteWrite; (try dsimp only); (repeat' split) <;> first | rfl | (simp; done)
@[simp] theorem remoteWrite_task (c : Nat) (rid : Option Nat) (addr : Nat) (data : Bytes) (s : State) : (remoteWrite c rid addr data s).task = s.task := by unfold remoteWrite; (try dsimp only); (repeat' split) <;> first | rfl | (simp; done)
@[simp] theorem remoteWrite_ctxs (c : Nat) (rid : Option Nat) (addr : Nat) (data : Bytes) (s : State) : (remoteWrite c rid addr data s).ctxs = s.ctxs := by unfold remoteWrite; (try dsimp only); (repeat' split) <;> first | rfl | (simp; done)
@[simp] theorem remoteWrite_agents (c : Nat) (rid : Option Nat) (addr : Nat) (data : Bytes) (s : State) : (remoteWrite c rid addr data s).agents = s.agents := by unfold remoteWrite; (try dsimp only); (repeat' split) <;> first | rfl | (simp; done)
@[simp] theorem remoteWrite_mem (c : Nat) (rid : Option Nat) (addr : Nat) (data : Bytes) (s : State) : (remoteWrite c rid addr data s).mem = s.mem := by unfold remoteWrite; (try dsimp only); (repeat' split) <;> first | rfl | (simp; done)
@[simp] theorem remoteWrite_ecc (c : Nat) (rid : Option Nat) (addr : Nat) (data : Bytes) (s : State) : (remoteWrite c rid addr data s).ecc = s.ecc := by unfold remoteWrite; (try dsimp only); (repeat' split) <;> first | rfl | (simp; done)
@[simp] theorem remoteWrite_ftl (c : Nat) (rid : Option Nat) (addr : Nat) (data : Bytes) (s : State) : (remoteWrite c rid addr data s).ftl = s.ftl := by unfold remoteWrite; (try dsimp only); (repeat' split) <;> first | rfl | (simp; done)
@[simp] theorem remoteWrite_store (c : Nat) (rid : Option Nat) (addr : Nat) (data : Bytes) (s : State) : (remoteWrite c rid addr data s).store = s.store := by unfold remoteWrite; (try dsimp only); (repeat' split) <;> first | rfl | (simp; done)
@[simp] theorem remoteWrite_search (c : Nat) (rid : Option Nat) (addr : Nat) (data : Bytes) (s : State) : (remoteWrite c rid addr data s).search = s.search := by unfold remoteWrite; (try dsimp only); (repeat' split) <;> first | rfl | (simp; done)
@[simp] theorem remoteWrite_tune (c : Nat) (rid : Option Nat) (addr : Nat) (data : Bytes) (s : State) : (remoteWrite c rid addr data s).tune = s.tune := by unfold remoteWrite; (try dsimp only); (repeat' split) <;> first | rfl | (simp; done)
@[simp] theorem remoteWrite_sec (c : Nat) (rid : Option Nat) (addr : Nat) (data : Bytes) (s : State) : (remoteWrite c rid addr data s).sec = s.sec := by unfold remoteWrite; (try dsimp only); (repeat' split) <;> first | rfl | (simp; done)
@[simp] theorem remoteWrite_pwr (c : Nat) (rid : Option Nat) (addr : Nat) (data : Bytes) (s : State) : (remoteWrite c rid addr data s).pwr = s.pwr := by unfold remoteWrite; (try dsimp only); (repeat' split) <;> first | rfl | (simp; done)
@[simp] theorem remoteWrite_fw (c : Nat) (rid : Option Nat) (addr : Nat) (data : Bytes) (s : State) : (remoteWrite c rid addr data s).fw = s.fw := by unfold remoteWrite; (try dsimp only); (repeat' split) <;> first | rfl | (simp; done)
@[simp] theorem remoteWrite_mon (c : Nat) (rid : Option Nat) (addr : Nat) (data : Bytes) (s : State) : (remoteWrite c rid addr data s).mon = s.mon := by unfold remoteWrite; (try dsimp only); (repeat' split) <;> first | rfl | (simp; done)

/-! ### What `remoteRead` leaves alone -/

@[simp] theorem remoteRead_freeCtr (c : Nat) (rid : Option Nat) (addr : Nat) (n : Nat) (s : State) : (remoteRead c rid addr n s).freeCtr = s.freeCtr := by unfold remoteRead; (try dsimp only); (repeat' split) <;> first | rfl | (simp; done)
@[simp] theorem remoteRead_clocks (c : Nat) (rid : Option Nat) (addr : Nat) (n : Nat) (s : State) : (remoteRead c rid addr n s).clocks = s.clocks := by unfold remoteRead; (try dsimp only); (repeat' split) <;> first | rfl | (simp; done)
@[simp] theorem remoteRead_caps (c : Nat) (rid : Option Nat) (addr : Nat) (n : Nat) (s : State) : (remoteRead c rid addr n s).caps = s.caps := by unfold remoteRead; (try dsimp only); (repeat' split) <;> first | rfl | (simp; done)
@[simp] theorem remoteRead_ledger (c : Nat) (rid : Option Nat) (addr : Nat) (n : Nat) (s : State) : (remoteRead c rid addr n s).ledger = s.ledger := by unfold remoteRead; (try dsimp only); (repeat' split) <;> first | rfl | (simp; done)
@[simp] theorem remoteRead_eng (c : Nat) (rid : Option Nat) (addr : Nat) (n : Nat) (s : State) : (remoteRead c rid addr n s).eng = s.eng := by unfold remoteRead; (try dsimp only); (repeat' split) <;> first | rfl | (simp; done)
@[simp] theorem remoteRead_task (c : Nat) (rid : Option Nat) (addr : Nat) (n : Nat) (s : State) : (remoteRead c rid addr n s).task = s.task := by unfold remoteRead; (try dsimp only); (repeat' split) <;> first | rfl | (simp; done)
@[simp] theorem remoteRead_ctxs (c : Nat) (rid : Option Nat) (addr : Nat) (n : Nat) (s : State) : (remoteRead c rid addr n s).ctxs = s.ctxs := by unfold remoteRead; (try dsimp only); (repeat' split) <;> first | rfl | (simp; done)
@[simp] theorem remoteRead_agents (c : Nat) (rid : Option Nat) (addr : Nat) (n : Nat) (s : State) : (remoteRead c rid addr n s).agents = s.agents := by unfold remoteRead; (try dsimp only); (repeat' split) <;> first | rfl | (simp; done)
@[simp] theorem remoteRead_mem (c : Nat) (rid : Option Nat) (addr : Nat) (n : Nat) (s : State) : (remoteRead c rid addr n s).mem = s.mem := by unfold remoteRead; (try dsimp only); (repeat' split) <;> first | rfl | (simp; done)
@[simp] theorem remoteRead_ecc (c : Nat) (rid : Option Nat) (addr : Nat) (n : Nat) (s : State) : (remoteRead c rid addr n s).ecc = s.ecc := by unfold remoteRead; (try dsimp only); (repeat' split) <;> first | rfl | (simp; done)
@[simp] theorem remoteRead_ftl (c : Nat) (rid : Option Nat) (addr : Nat) (n : Nat) (s : State) : (remoteRead c rid addr n s).ftl = s.ftl := by unfold remoteRead; (try dsimp only); (repeat' split) <;> first | rfl | (simp; done)
@[simp] theorem remoteRead_store (c : Nat) (rid : Option Nat) (addr : Nat) (n : Nat) (s : State) : (remoteRead c rid addr n s).store = s.store := by unfold remoteRead; (try dsimp only); (repeat' split) <;> first | rfl | (simp; done)
@[simp] theorem remoteRead_search (c : Nat) (rid : Option Nat) (addr : Nat) (n : Nat) (s : State) : (remoteRead c rid addr n s).search = s.search := by unfold remoteRead; (try dsimp only); (repeat' split) <;> first | rfl | (simp; done)
@[simp] theorem remoteRead_tune (c : Nat) (rid : Option Nat) (addr : Nat) (n : Nat) (s : State) : (remoteRead c rid addr n s).tune = s.tune := by unfold remoteRead; (try dsimp only); (repeat' split) <;> first | rfl | (simp; done)
@[simp] theorem remoteRead_sec (c : Nat) (rid : Option Nat) (addr : Nat) (n : Nat) (s : State) : (remoteRead c rid addr n s).sec = s.sec := by unfold remoteRead; (try dsimp only); (repeat' split) <;> first | rfl | (simp; done)
@[simp] theorem remoteRead_pwr (c : Nat) (rid : Option Nat) (addr : Nat) (n : Nat) (s : State) : (remoteRead c rid addr n s).pwr = s.pwr := by unfold remoteRead; (try dsimp only); (repeat' split) <;> first | rfl | (simp; done)
@[simp] theorem remoteRead_fw (c : Nat) (rid : Option Nat) (addr : Nat) (n : Nat) (s : State) : (remoteRead c rid addr n s).fw = s.fw := by unfold remoteRead; (try dsimp only); (repeat' split) <;> first | rfl | (simp; done)
@[simp] theorem remoteRead_mon (c : Nat) (rid : Option Nat) (addr : Nat) (n : Nat) (s : State) : (remoteRead c rid addr n s).mon = s.mon := by unfold remoteRead; (try dsimp only); (repeat' split) <;> first | rfl | (simp; done)

/-! ### Events -/

/-- An event that finds room is the last of those held, under its source's next number (02 R80, R81). -/
theorem raiseEvent_held (code ty idx ctx st : Nat) (p : Bytes) (s : State) (h : s.host.held.length < 256) :
    (raiseEvent code ty idx ctx st p s).host.held = s.host.held ++ [⟨code, ty, idx, tgetD s.host.seqs (256 * ty + idx) 0, ctx, st, p⟩] := by
  unfold raiseEvent
  simp [h]

/-- Where there is room, nothing else of the control window changes but the numbering. -/
theorem raiseEvent_out (code ty idx ctx st : Nat) (p : Bytes) (s : State) (h : s.host.held.length < 256) :
    (raiseEvent code ty idx ctx st p s).host.out = s.host.out := by
  unfold raiseEvent
  simp [h]

/-- A change that leaves `CW_STATE` as it was is not announced. -/
theorem announce_same (old s : State) (h : cwState old = cwState s) : announce old s = s := by
  unfold announce; rw [if_pos h]

/-- A cause that stands already changes nothing (02 R82). -/
theorem setCause_stands (b : Nat) (s : State) (h : s.host.evtCause.toNat.testBit b = true) : setCause b s = s := by
  unfold setCause; rw [if_pos h]

/-! ### Services -/

/-- A service takes a request up: found, of its service and opcode, neither begun nor ended, its component up. -/
theorem serve_runs {svc op rid : Nat} {s : State} {r : Req} (f : Req → State → State) (h : findReq rid s = some r)
    (hs : r.svc = svc) (ho : r.op = op) (hd : r.done = none) (ht : r.settled = none) (hr : r.running = false)
    (hi : servicesRun s.host.ifState = true) (hc : compUp (svcComponent svc) s = true) : serve svc op rid f s = f r s := by
  unfold serve
  rw [h]
  simp [hs, ho, hd, ht, hr, hi, hc]

/-- What `serve` can do: nothing, or the service's work on a request that is found. -/
theorem serve_cases (svc op rid : Nat) (f : Req → State → State) (s : State) :
    serve svc op rid f s = s ∨ ∃ r, findReq rid s = some r ∧ r.svc = svc ∧ r.op = op ∧ r.done = none ∧ r.settled = none
      ∧ r.running = false ∧ serve svc op rid f s = f r s := by
  unfold serve
  split
  · exact .inl rfl
  · rename_i r h
    split
    · rename_i g
      exact .inr ⟨r, h, g.1, g.2.1, g.2.2.1, g.2.2.2.1, g.2.2.2.2.1, rfl⟩
    · exact .inl rfl

/-- No condition holds: the service goes on (02 R569). -/
theorem checked_none {rid : Nat} {l : List (Bool × Nat)} (ok : State → State) (s : State) (h : firstErr l = none) : checked rid l ok s = ok s := by
  unfold checked; rw [h]

/-- The first condition that holds gives the status (02 R569). -/
theorem checked_some {rid st : Nat} {l : List (Bool × Nat)} (ok : State → State) (s : State) (h : firstErr l = some st) :
    checked rid l ok s = fail rid st s := by
  unfold checked; rw [h]

@[simp] theorem firstErr_nil : firstErr [] = none := rfl
@[simp] theorem firstErr_true (st : Nat) (l : List (Bool × Nat)) : firstErr ((true, st) :: l) = some st := rfl
@[simp] theorem firstErr_false (st : Nat) (l : List (Bool × Nat)) : firstErr ((false, st) :: l) = firstErr l := rfl

/-- A completion: the status final, the commit point at completion passed, the cairn counting it (02 R75; 18 R541, R542). -/
theorem complete_found {rid st : Nat} {p : Bytes} {s : State} {r : Req} (h : findReq rid s = some r) (hd : r.done = none) :
    complete rid st p s
      = modCairn r (fun k => { k with commits := k.commits + (if ownReq r then 0 else 1)
                                      units := k.units + (if ownReq r then 0 else b2n (decide (finalStatus r st ≤ 1))) })
          (modReq rid (fun q => { q with done := some (finalStatus r st, p), running := false
                                         units := q.units + (if ownReq r then 0 else b2n (decide (finalStatus r st ≤ 1)))
                                         commits := q.commits + (if ownReq r then 0 else 1) }) s) := by
  unfold complete
  rw [h]
  simp [hd]

/-- A completion of what is not in the ledger is nothing. -/
theorem complete_absent {rid st : Nat} {p : Bytes} {s : State} (h : findReq rid s = none) : complete rid st p s = s := by
  unfold complete; rw [h]

/-- A request that has ended is not ended again. -/
theorem complete_twice {rid st : Nat} {p : Bytes} {s : State} {r : Req} (h : findReq rid s = some r) (hd : r.done.isSome = true) :
    complete rid st p s = s := by
  unfold complete; rw [h]; simp [hd]

/-- After a completion the entry shows its status and payload. -/
theorem complete_done {rid st : Nat} {p : Bytes} {s : State} {r : Req} (h : findReq rid s = some r) (hd : r.done = none) :
    (findReq rid (complete rid st p s)).bind (·.done) = some (finalStatus r st, p) := by
  rw [complete_found h hd]
  have e : ∀ (r : Req) (f : Cairn → Cairn) (t : State), findReq rid (modCairn r f t) = findReq rid t := by
    intro r f t
    unfold modCairn
    split <;> rfl
  rw [e, findReq_modReq]
  · simp [h]
  · intro q; rfl

/-! ### References -/

/-- A revoked reference writes nothing (02 R77). -/
theorem refWrite_revoked (q : Req) (r : Ref) (off : Nat) (d : Bytes) (s : State) (h : q.refsOpen = false) : refWrite q r off d s = .ok s := by
  unfold refWrite; rw [if_pos h]

/-- A write through a reference to the control node goes out, outstanding until its completion (13 R391, R395). -/
theorem refWrite_remote (q : Req) (r : Ref) (off : Nat) (d : Bytes) (s : State) (h : q.refsOpen = true) (hr : r.space ≠ 0) :
    refWrite q r off d s = .ok (remoteWrite q.mbx (some q.rid) (r.addr + off) d s) := by
  unfold refWrite; simp [h, hr]

@[simp] theorem afterWrite_ok (rid : Nat) (t : State) (ok : State → State) (s : State) : afterWrite rid (.ok t) ok s = ok t := rfl
@[simp] theorem afterWrite_xlate (rid : Nat) (ok : State → State) (s : State) : afterWrite rid .xlate ok s = fail rid stAccessDenied s := rfl
@[simp] theorem afterWrite_lost (rid : Nat) (ok : State → State) (s : State) : afterWrite rid .lost ok s = fail rid stDataLost s := rfl

/-! ### Register files and tables -/

@[simp] theorem engOf_setEng_same (e : Nat) (g : Eng) (s : State) : engOf e (setEng e g s) = g := by
  unfold engOf setEng; simp

theorem engOf_setEng_other (e j : Nat) (g : Eng) (s : State) (h : j ≠ e) : engOf j (setEng e g s) = engOf j s := by
  unfold engOf setEng; simp [tget_tset, h]

@[simp] theorem hartOf_setHart_same (h : Nat) (v : Hart) (s : State) : hartOf h (setHart h v s) = v := by
  unfold hartOf setHart; simp [tgetD]

theorem hartOf_setHart_other (h j : Nat) (v : Hart) (s : State) (g : j ≠ h) : hartOf j (setHart h v s) = hartOf j s := by
  unfold hartOf setHart; simp [tgetD, tget_tset, g]

/-- Another mailbox's registers are not touched. -/
theorem mbxOf_modMbx_other (n j : Nat) (f : Mbx → Mbx) (s : State) (h : j ≠ n) : mbxOf j (modMbx n f s) = mbxOf j s := by
  unfold mbxOf modMbx; simp [tgetD, tget_tmod, h]

end Sys2Proof.Machine
end

