-- ==== Sys2Proof/Machine/SaveArea.lean ====
section
/-! DEFINITION. The bytes of a context's save area (06 R214): header, link transfer records, hart records, engine records. -/
namespace Sys2Proof.Machine

/-- A record filled up with reserved zeros to its size. -/
def padZ (n : Nat) (bs : Bytes) : Bytes := bs.take n ++ zeros (n - bs.length)

/-- Doublewords of a table, from index `i` on. -/
def dwords (t : Tbl U64) (i n : Nat) : Bytes := (List.range n).flatMap fun k => leBytes 8 (aget 0 t (i + k)).toNat

/-- A link transfer record: the fields in the order of the table, from the sizes of this model (log 227). -/
def linkRecord (q : Remote) (s : State) : Bytes :=
  padZ 64 (leBytes 1 (if portUp 0 s then 0 else s.ports.upstream.getD 0) ++ leBytes 1 4 ++ leBytes 1 (b2n q.write) ++ zeros 5 ++ leBytes 8 q.len ++ leBytes 8 q.addr
    ++ zeros 8 ++ leBytes 8 (q.rid.getD (2 ^ 64 - 1)))

/-- A hart record (R214). -/
def hartRecord (v : Hart) (s : State) : Bytes :=
  let join := match v.task.bind (tget s.task.pool) with | some t => t.join | none => 0
  let low := leBytes 8 v.pc.toNat ++ dwords v.x 1 31 ++ dwords v.f 0 32
    ++ leBytes 8 v.fcsr.toNat ++ leBytes 8 v.vtype.toNat ++ leBytes 8 v.vl.toNat ++ leBytes 8 v.vstart.toNat ++ leBytes 8 v.vcsr.toNat
    ++ leBytes 8 (v.task.getD (2 ^ 64 - 1)) ++ leBytes 8 join ++ leBytes 8 (b2n v.tjoin.isSome + 2 * b2n v.sem.isSome)
  padZ 0x400 low ++ (List.range 32).flatMap (fun i => leBytes 64 (aget 0 v.v i).toNat) ++ zeros 0x400

/-- The first page of an engine record; what only the Save mode keeps is empty in a record of the Stream mode (R214). -/
def engHead (e : Nat) (v : EngSt) (r : Ring) (s : State) : Bytes :=
  padZ 0x1000 (leBytes 2 ((logicalOf s.caps.engMap e).getD 0) ++ leBytes 2 v.head.toNat ++ leBytes 2 v.tail.toNat ++ leBytes 1 (b2n v.run) ++ zeros 1
    ++ (List.range 8).flatMap (fun i => leBytes 2 (aget 0 v.sync i).toNat) ++ leBytes 8 v.sr.toNat
    ++ leBytes 8 r.base.toNat ++ leBytes 4 r.cfg.toNat ++ leBytes 2 r.head.toNat ++ leBytes 2 r.tail.toNat ++ zeros 4 ++ zeros 12
    ++ (List.range 512).map (fun k => BitVec.ofNat 8 (aget 0 v.colFmt k))
    ++ leBytes 64 (bitsMask ((List.range 512).filter fun a => aget false v.rowInt a)))

/-- Weight registers of a tag as column records: 256 rows of 2 bytes for each column (R214; 03 R109). -/
def savedWeights (tag : Nat) (v : EngSt) : Bytes := (List.range 65536).flatMap fun k => leBytes 2 (aget 0 v.wreg (65536 * tag + k)).toNat

def engineRecord (save : Bool) (e : Nat) (v : EngSt) (r : Ring) (s : State) : Bytes :=
  if save then
    padZ (2336 * 1024) (engHead e v r s ++ Memory.readN 0 v.mem 0 0x200000 ++ savedWeights 0 v ++ savedWeights 1 v ++ (List.range 16384).map (fun k => aget 0 v.wscale k))
  else engHead e v r s

/-- The header (R214). -/
def saveHeader (c : Nat) (k : Slot) (v : Saved) (links : Nat) : Bytes :=
  padZ 0x1000 (ascii "CTXS" ++ leBytes 1 c ++ leBytes 1 (b2n v.save) ++ leBytes 2 k.homeE.length ++ leBytes 2 k.homeC.length ++ leBytes 2 links ++ leBytes 4 k.switchOuts)

/-- The save area of a context that is out; none where nothing has been saved (R214). -/
def saveArea (c : Nat) (s : State) : Option Bytes :=
  match slotOf c s with
  | none => none
  | some k => k.saved.map fun v =>
    let links := s.ports.remote.filter fun q => decide (q.ctx = c ∧ q.stage = .cut)
    saveHeader c k v links.length ++ padZ 0x3000 (links.flatMap fun q => linkRecord q s)
      ++ k.homeC.flatMap (fun u => (List.range 8).flatMap fun i => hartRecord (tgetD v.harts (8 * u + i) Hart.init) s)
      ++ k.homeE.flatMap (fun e => let (g, r) := tgetD v.engines e (EngSt.blank, Ring.init); engineRecord v.save e g r s)

end Sys2Proof.Machine
end

