-- ==== Sys2Proof/Tests/Slice0.lean ====
section
/-! SUPPORT. The model's own tests. First, for each check of WellFormed a term that it refuses. Then, for the statements for the provers, states
and operands that meet the hypotheses of a clause together (`wit_…`). Then small facts whose expected values the spec gives (`test_…`). -/
namespace Sys2Proof.Tests
set_option Elab.async false
set_option linter.all false
open Sys2Proof Sys2Proof.Machine Sys2Proof.Certs

/-! ### States -/

/-- After reset, in READY. -/
def base : State := { State.reset with host := { State.reset.host with ifState := .ready, bootStep := 0 } }

/-- A request of the administration context, with flags and payload. -/
def reqF (svc op fl : Nat) (p : Bytes) : Req := ⟨1, 0, 0, svc, op, 7, fl, p.length, 0, 0, p, 0, none, false, true, none, false, false, 0, 0⟩
/-- The same of context 1. -/
def reqT (svc op : Nat) (p : Bytes) : Req := { reqF svc op 0 p with mbx := 1, hctx := 1 }
def reqA (svc op : Nat) (p : Bytes) : Req := reqF svc op 0 p

/-- A state with one request waiting. -/
def withReq (r : Req) (s : State) : State := { s with ledger := { s.ledger with reqs := [r] } }

/-- Context 1 allocated. -/
def slot1 : Slot := { Slot.new CtxCfg.admin with state := .alloc }
def withSlot (k : Slot) (s : State) : State := { s with ctxs := { s.ctxs with slots := tset s.ctxs.slots 1 k } }
def tenant : State := withSlot slot1 base

/-- A powered state of the interface. -/
def inState (i : IfState) (s : State) : State := { s with host := { s.host with ifState := i } }

/-- Two states that agree in `h` on what the interface state is. -/
def b8 (l : List Nat) : Bytes := l.map (BitVec.ofNat 8)


/-! ### Well-formedness: for each check a command that it refuses -/

def trainBad (n : Nat) (s : Bytes) (c : List Nat) : TrainReport := ⟨true, n, false, s, 0, 0, c, true⟩
def trainFine : TrainReport := trainBad 4 (zeros 16) (List.replicate 8 65)
def bootBad (h lp : List Nat) (a b : Nat) (sp : List Nat) (t : Option TrainReport) : BootReport := ⟨h, lp, a, b, true, 0, true, sp, t, 6⟩
def eight : List Nat := List.replicate 8 1200000
def flitBad (t c r : Nat) : Flit := ⟨t, c, r, false, 0, 0, 0, false, 0, 0, 0, true, true, none⟩
def mirBad (o d c i q n : Nat) : Mirrored := ⟨o, d, c, i, .snap, q, 0, 0, [], [], [], 0, zeros n, 0, 0, (0, 0, 0, 0, 0), [], 0, false, 0, 0, 0⟩
def pkBad (vc sp ctx tag len : Nat) : Packet := ⟨vc, sp, ctx, tag, 0, len, 0, 0, 0, true⟩
def rw (b : Blk) (u off n : Nat) (c : Option Nat) : Instr := .registerWrite ⟨b, u, off, n, 0, c, none⟩
def loadBad (n l k : Nat) (t : List WTensor) : ModelImage := ⟨List.replicate n [], List.replicate n true, false, l, 8, 128, 5, k, t⟩
theorem test_wf_takes : [Instr.boot (bootBad eight [15] 4 4 [79] (some trainFine)), .freqChange 0x49 1, .ldw 79, .tend 2047, .acquire 2047 16383 ⟨0, none⟩, .modelLoad 1 (loadBad 4 80 65536 [⟨9, true, true, 1, 1, 0, 1⟩]), .abort 1 ⟨3, 1, 0, 0, 15, 4⟩, .flitReceive 4 (flitBad 3 3 255), .packetRead (pkBad 7 255 255 65535 4096),
    rw .streamPage 63 0xFFF 8 (some 63), .dramRead 31 0 64 ⟨80, some 3⟩, .dramRead 1023 0 0 ⟨72, none⟩, .eccCeCntRead 345 true, .flipApply 1055 0, .windowClose 95, .sensorSample 78 0, .railFault 10, .throttle 4 true, .feedLost 1 2, .secTamper 2].all Instr.wf = true := by decide +kernel
theorem test_wf_reports : ([bootBad [] [] 0 0 [] none, bootBad eight [16] 0 0 [] none, bootBad [1300000, 0, 0, 0, 0, 0, 0, 0] [] 0 0 [] none, { bootBad eight [] 0 0 [] none with till := 7 }, bootBad eight [] 5 0 [] none, bootBad eight [] 0 5 [] none, bootBad eight [] 0 0 [80] none,
      bootBad eight [] 0 0 [] (some (trainBad 5 (zeros 16) eight))].all fun r => !(Instr.boot r).wf) = true
    ∧ ([trainBad 5 (zeros 16) eight, trainBad 4 [] eight, trainBad 4 (zeros 16) []].all fun t => !(Instr.training 0 t).wf && !(Instr.retrain 0 t).wf && !(Instr.adminPortCtrl 1 t).wf) = true
    ∧ ([flitBad 4 0 0, flitBad 0 4 0, flitBad 0 0 256].all fun f => !(Instr.flitReceive 0 f).wf) = true
    ∧ (mirBad 15 15 63 0 0 32).wf = true ∧ ([mirBad 16 0 1 0 0 32, mirBad 0 16 1 0 0 32, mirBad 0 0 0 0 0 32, mirBad 0 0 64 0 0 32, mirBad 0 0 1 (2 ^ 64) 0 32, mirBad 0 0 1 0 (2 ^ 32) 32, mirBad 0 0 1 0 0 31, { mirBad 0 0 1 0 0 32 with openToks := [1] },
      { mirBad 0 0 1 0 0 32 with openToks := List.replicate 257 1, openKv := List.replicate 257 0 }, { mirBad 0 0 1 0 0 32 with blocks := [⟨1, [], 2 ^ 1024⟩] }].all fun m => !(Instr.flitReceive 0 { flitBad 0 0 0 with mirror := some m }).wf) = true
    ∧ ([pkBad 8 0 0 0 1, pkBad 0 256 0 0 1, pkBad 0 0 256 0 1, pkBad 0 0 0 65536 1, pkBad 0 0 0 0 4097].all fun p => !(Instr.packetRead p).wf && !(Instr.writeAck p).wf) = true
    ∧ ([FifoWork.hart 2048, .dma 80, .tier 64, .qorgal 65536].all fun w => !(Instr.syncFifoFault 0 1 0 false w).wf) = true
    ∧ (Instr.tuneDataPacket 1 ⟨false, 0, 1, 0, 0, 0, [⟨[], 0, false, false, false⟩]⟩).wf = false
    ∧ ([loadBad 3 80 65536 [], loadBad 4 65536 65536 [], loadBad 4 80 65537 [], loadBad 4 80 65536 [⟨0, true, true, 1, 1, 0, 1⟩], loadBad 4 80 65536 [⟨10, true, true, 1, 1, 0, 1⟩], loadBad 4 80 65536 [⟨9, true, true, 0, 1, 0, 1⟩]].all fun x => !(Instr.modelLoad 1 x).wf) = true
    ∧ (Instr.stepBoundary 1 ⟨[(1, 0, false), (1, 0, false)], [], 0⟩).wf = false ∧ (Instr.stepBoundary 1 ⟨[], [], 2 ^ 32⟩).wf = false ∧ (Instr.embedDocs 1 ⟨2, false, [[0], []]⟩).wf = false
    ∧ ([⟨2, 0, 0, 0, 0, 0⟩, ⟨3, 2, 0, 0, 0, 0⟩, ⟨3, 0, 0, 0, 16, 0⟩, ⟨3, 0, 0, 0, 0, 5⟩].all fun x => !(Instr.abort 1 x).wf) = true := by decide +kernel
theorem test_wf_registers : [rw .controlWindow 0 0x10000 4 none, rw .engine 80 0 4 none, rw .engine 0 0x1000 4 none, rw .dma 80 0 4 none, rw .dma 0 0x100 4 none, rw .taskletPage 64 0 4 none, rw .taskletPage 0 0x1000 4 none,
    rw .tierPage 64 0 4 none, rw .tierPage 0 0x1000 4 none, rw .semPage 2048 0 8 none, rw .semPage 0 0x1000 8 none, rw .streamPage 64 0 4 none, rw .streamPage 0 0x1000 4 none, rw .migration 0 0x1000 4 none, rw .ecc 8 0 4 none,
    rw .ecc 0 0x2000 4 none, rw .flashEcc 32 0 4 none, rw .flashEcc 0 0x2000 4 none, rw .firmwareArray 0 0x200 4 none, rw .smbus 0 0x100 2 none, rw .migration 0 0 3 none, rw .migration 0 0 4 (some 64), rw .engineMemory 80 0 4 none, rw .engineMemory 0 0x200000 4 none, rw .hart 2048 0 8 none, rw .hart 0 0x1040 8 none,
    .registerWrite ⟨.engine, 0, 0, 4, 0, none, some 2048⟩, .registerWrite ⟨.migration, 0, 0, 4, 0, none, some 0⟩, .jtagAccess false ⟨.engine, 80, 0, 4⟩ false 0].all (fun i => !i.wf) = true := by decide +kernel
theorem test_wf_units : [Instr.freqChange 9 1, .currentFreqUpdate 0x46, .syncFifoFault 9 0 0 false (.service 1), .syncFifoFault 0 9 0 false (.service 1), .syncFifoFault 0 1 65536 false (.service 1), .mailboxReset 64, .mailboxResetDone 64,
    .reqTailWrite 64 0, .rplHeadWrite 64 0, .mbxStatRead 64 .full, .requestAccept 64 none, .linkStatRead 5, .linkDown 5, .trainRetry 5, .ackTimer 5, .lightLost 5, .keyUpdatePhase 5 true, .getVersion 5, .getCapabilities 5, .negotiateAlgorithms 5,
    .getDigests 5, .getCertificate 5, .heartbeat 5, .keyUpdate 5, .endSession 5, .challenge 5 true, .getMeasurements 5 0 false, .keyExchange 5 0 true, .finish 5 true, .training 5 trainFine, .retrain 5 trainFine].all (fun i => !i.wf) = true := by
  decide +kernel
theorem test_wf_engines : [Instr.ldw 80, .drn 80, .addVec 80, .mulVec 80, .addImm 80, .mulImm 80, .relu 80, .gelu 80, .silu 80, .clamp 80, .deq 80, .addRows 80, .scq 80, .streamRecordApply 80, .fence 80, .wait 80, .inc 80, .signal 80, .run 80,
    .stopRequest 80, .engineStopped 80, .skip 80, .clr 80, .clearDone 80, .spareReplace 80, .dmaDescriptor 80, .seqTailWrite 80 0, .syncInc 80 0, .engFaultClear 80 0, .dmaTailWrite 80 0, .syncCntWrite 80 0 0, .syncCntWrite 0 8 0].all
    (fun i => !i.wf) = true := by decide +kernel
theorem test_wf_harts : [Instr.tspawn 2048 0 0, .tspawn 0 32 0, .tspawn 0 0 32, .tjoin 2048 0 0, .tjoin 0 32 0, .tjoin 0 0 32, .pfstream 2048 0 0, .pfstream 0 32 0, .pfind 0 0 32, .pfstop 2048 0, .pfstop 0 32, .tjoinTimeout 2048, .tend 2048,
    .taskletStart 64 0, .taskletStart 0 2048, .vxpopcVv 2048 0 0 0 true, .vxpopcVx 0 32 0 0 true, .vxpopcaccVv 0 0 32 0 true, .vxpopcaccVx 0 0 0 32 true, .coreFence 2048 0 0, .coreFence 0 16 0, .coreFence 0 0 16, .acquire 2048 0 ⟨0, none⟩,
    .acquire 0 16384 ⟨0, none⟩, .acquire 0 0 ⟨2 ^ 32, none⟩, .taskletFault 2048 2 0, .taskletFault 0 (2 ^ 63) 0, .tryAcquire 0 16384, .release 2048 0, .semTimeout 0 16384, .donatedRun 2048 0, .semHolderStarved 16384].all (fun i => !i.wf) = true := by decide +kernel
theorem test_wf_contexts : [Instr.tdFaultsRead 64, .switch [64] none 0, .switch [] (some 64) 0, .eccUe 80 true true, .fill 64 0 true, .tierCopy 64, .tierDecompress 64, .tierCompress 64, .tierZero 64, .workObserved 64, .beSliceExpiry 64, .lcIdleExpiry 64, .storeKeepAliveExpired 64, .tqTailWrite 64 0, .cowPromotion 64 0,
    .signalDispatch 4, .signalRetry 4, .dieLost 4].all (fun i => !i.wf) = true := by decide +kernel
theorem test_wf_store_and_links : [Instr.qpDoorbell 65536, .flush 65536, .writeZeroes 65536, .storeCqNotify 65536, .sqFetch 65536 (zeros 64), .sqFetch 0 [], .write 65536 [] false, .read 65536 [] false, .compare 65536 [] false,
    .datasetManagement 65536 [] false, .vendorScan 65536 [] false, .vendorSearch 65536 [] [] false, .nak 5 0, .nak 0 65536, .packetRead (pkBad 0 0 0 0 0), .packetWrite (pkBad 0 0 0 0 2) [1], .readData (pkBad 0 0 0 0 2) [1],
    .slotGrant 1 ⟨2, 1, 0, 0, 16, 0⟩, .slotGrant 1 ⟨3, 1, 0, 0, 0, 0⟩, .hello 1 ⟨1, 0, 0, 0, 16, 0⟩, .hello 1 ⟨0, 0, 0, 0, 0, 0⟩, .remoteAccessTimeout 65536, .creditReturn 5 0 0, .creditReturn 0 8 0, .creditReturn 0 0 65536, .ropeHeartbeatReceive 0 0 0 0 0, .ropeHeartbeatReceive 1 256 0 0 0, .peerLost 16, .hello 1 ⟨1, 0, 0, 65536, 0, 0⟩].all (fun i => !i.wf) = true := by decide +kernel
theorem test_wf_flash_and_ecc : [Instr.nandDieFailed 32 0 true, .nandDieFailed 0 18 true, .memoryPlace 1 [(0, 0)], .memoryPlace 1 [(0, 8)], .dieRebuildDone 32 0, .flashRead 0 0, .flashRead 0 8, .blockRetired 0 3, .lpddrPackageLoss 16, .dramRead 8 0 0 ⟨0, none⟩, .dramRead 0 0 65 ⟨0, none⟩, .dramRead 0 0 0 ⟨81, none⟩, .dramRead 256 0 0 ⟨73, none⟩, .dramRead 256 0 0 ⟨0, some 0⟩, .patrolRead 346 ⟨0, none⟩, .pageEvaluate 32 0 0 true,
    .remapInstall 255 0, .eccCeCntRead 32 true, .trackerEntryExpiry 8 0, .trackerEntryExpiry 0 64, .eccFlipCtrlWrite 1056 0 0, .eccFlipCtrlWrite 0 0 64, .flipApply 511 0].all (fun i => !i.wf) = true := by decide +kernel
theorem test_wf_power_and_firmware : [Instr.secTamper 3, .feedLost 2 0, .feedLost 0 3, .feedRestored 2, .efuseTrip 2 true, .throttle 5 true, .railFault 11, .faRelock 0x200 0, .faRead 0x4000000 0, .faRead 0 9, .busyFetchTrap 0x4000000,
    .recordSectorErase 128, .componentRestart 0 0 [], .componentRestart 9 0 [], .componentRestart 1 256 [], .fwupActivate 1 3 0, .pendingActivation 3 0, .belayTakeover 256 true, .prepCoreRetire 256 [], .prepCoreRetire 0 [2048], .windowClose 96, .sensorOverrideExpiry 77,
    .sensorSample 96 0].all (fun i => !i.wf) = true := by decide +kernel
/-! ### The step and the control window -/

theorem wit_StepsAnswer : ({ base with pending := [Instr.warmReset] } : State).pending = Instr.warmReset :: [] ∧ base.pending = []
    ∧ (tget base.clocks 0x49).isSome = true := by decide +kernel
/-- Nothing is due right after reset, in READY. -/
theorem wit_Uneventful : Uneventful base ∧ base.pending = [] ∧ (tget base.clocks domMgmt).isSome = true ∧ (hartOf 0 base).task = none := by
  refine ⟨⟨?_, ?_, ?_, ?_, ?_, ?_, ?_, ?_, ?_⟩, ?_⟩ <;> decide +kernel

theorem wit_Served : Served base ∧ Served State.reset ∧ Shut (inState .safe base) ∧ (inState .scrub base).host.ifState = .scrub := by
  refine ⟨.inr (.inl rfl), .inl rfl, .inl rfl, rfl⟩

def ringState (z : U32) (prod cons : U16) : State := { base with host := { base.host with ringSize := z, prod := prod, cons := cons } }
/-- Ring enabled, or not; written with EN and LOG2N 15, 6 and 5, or without; CONS at PROD, and one beyond it. -/
theorem wit_EventRegisterAccesses :
    (On (ringState 0x80000006 0 0).host.ringSize 31 ∧ On 0x80000006 31) ∧ (On 0x80000006 31 ∧ ¬ On (6 : U32) 31)
    ∧ (¬ On (ringState 6 0 0).host.ringSize 31 ∧ 6 ≤ (0x80000006 : U32).toNat % 16 ∧ 6 ≤ (0x8000000F : U32).toNat % 16 ∧ (0x80000005 : U32).toNat % 16 < 6)
    ∧ (((2 : U16) - (ringState 6 2 1).host.cons).toNat ≤ ((ringState 6 2 1).host.prod - (ringState 6 2 1).host.cons).toNat)
    ∧ (((ringState 6 2 1).host.prod - (ringState 6 2 1).host.cons).toNat < ((3 : U16) - (ringState 6 2 1).host.cons).toNat)
    ∧ (tget base.host.mbx 63 = some Mbx.init ∧ (63 : Nat) < 64) ∧ ((tget base.ports.port 4).isSome = true ∧ (4 : Nat) < 5) := by unfold On; decide +kernel

/-- REQ_TAIL written 32 and 33, RPL_HEAD written 1 and 0; mailbox 0 enabled, mailbox 5 disabled. -/
theorem wit_DoorbellWrite : tget base.host.mbx 0 = some Mbx.init ∧ mbxState 0 base = 1 ∧ mbxState 5 base = 0 ∧ mbxState 0 (inState .boot base) = 2
    ∧ On 0x80000020 31 ∧ (BitVec.ofNat 8 (0x80000020 : U32).toNat - Mbx.init.reqHead).toNat ≤ 32
    ∧ On 0x80000021 31 ∧ ¬ (BitVec.ofNat 8 (0x80000021 : U32).toNat - Mbx.init.reqHead).toNat ≤ 32
    ∧ On 0x40000000 30 ∧ (BitVec.ofNat 8 ((0x40000000 : U32).toNat / 65536) - Mbx.init.rplHead).toNat ≤ (Mbx.init.rplTail - Mbx.init.rplHead).toNat
    ∧ On 0x40010000 30 ∧ ¬ (BitVec.ofNat 8 ((0x40010000 : U32).toNat / 65536) - Mbx.init.rplHead).toNat ≤ (Mbx.init.rplTail - Mbx.init.rplHead).toNat := by
  unfold On; decide +kernel

/-- A path to the control node: port H up. -/
def pathed (s : State) : State := { s with ports := { s.ports with port := tmod s.ports.port 0 fun q => { q with train := 6 } } }
def evState : State := { pathed (ringState 0x80000006 0 0) with host := { (ringState 0x80000006 0 0).host with held := [⟨1, 0, 0, 0, 0xFF, 0, []⟩], evtMask := 5 } }
theorem wit_EventEntryWritten : evState.host.held = ⟨1, 0, 0, 0, 0xFF, 0, []⟩ :: [] ∧ ringWritable evState = true
    ∧ evState.host.evtCause.toNat.testBit 0 = false ∧ evState.host.evtMask.toNat.testBit 0 = true := by decide +kernel

/-- A request message in slot 0 of mailbox 0, with REQ_TAIL 1: service, opcode, tag, flags, length, ctx. -/
def posted (svc op fl len ctx : Nat) (s : State) : State :=
  { s with host := { s.host with
    aperture := Memory.writeN 0 [] 0 (leBytes 2 0x0400 ++ leBytes 1 svc ++ leBytes 1 op ++ leBytes 2 7 ++ leBytes 2 fl ++ leBytes 4 len ++ zeros 14 ++ leBytes 1 ctx)
    mbx := tmod s.host.mbx 0 fun m => { m with reqTail := 1 } } }
def mbx1 : Mbx := { Mbx.init with reqTail := 1 }
def postOk (svc op fl len ctx : Nat) : Prop := canAccept 0 (posted svc op fl len ctx base) = true ∧ hasTurn 0 (posted svc op fl len ctx base) = true ∧ tget (posted svc op fl len ctx base).host.mbx 0 = some mbx1
/-- Nothing to accept; the five outcomes of acceptance. SPDM is answered elsewhere: service 0x7F does not exist; MEMORY needs a tenant. -/
theorem wit_RequestAcceptance :
    canAccept 0 base = false ∧ hasTurn 1 (posted 1 1 0 0 0 base) = false ∧ (postOk 1 1 0 0 9 ∧ (slotReq 0 (posted 1 1 0 0 9 base)).hctx ≠ 0)
    ∧ (postOk 0x7F 1 0 0 0 ∧ (slotReq 0 (posted 0x7F 1 0 0 0 base)).hctx = 0 ∧ opKnown 0x7F 1 = false)
    ∧ (postOk 1 1 0 481 0 ∧ opKnown 1 1 = true ∧ opPermitted 0 1 1 (posted 1 1 0 481 0 base) = true ∧ 480 < (slotReq 0 (posted 1 1 0 481 0 base)).length)
    ∧ (postOk 1 1 0 480 0 ∧ opPermitted 0 1 1 (posted 1 1 0 480 0 base) = true ∧ ¬ 480 < (slotReq 0 (posted 1 1 0 480 0 base)).length
      ∧ hasRef (slotReq 0 (posted 1 1 0 480 0 base)) = false ∧ bit (slotReq 0 (posted 1 1 0 480 0 base)).flags 1 = false
      ∧ (posted 1 1 0 480 0 base).ledger.reqs = []) := by unfold postOk; decide +kernel

/-! ### Engines -/

/-- Engine 0 runs, with one instruction in its ring; its accumulator rows hold FP32, or INT32 where `int`. -/
def engSav (w : Nat) (int : Bool) : EngSt :=
  { EngSt.blank with run := true, tail := 1, mem := Memory.writeN 0 [] 0x1C0000 (leBytes 16 w), rowInt := if int then [(0, true), (1, true)] else [] }
def engWith (g : Eng) : State := setEng 0 g base
def engAt (w : Nat) (int : Bool) : State := engWith ⟨engSav w int, .run, 0, 0, some 1, Ring.init⟩

/-- LDW of 256 columns; DRN of one row with ZERO 0; STRM of one FP16 vector that checks nothing or that checks its row type; EPI operation
`op`; SCQ; SYNC operation `op`. -/
def iLdw : Nat := 1 + 2 ^ 8 * 9 + 2 ^ 32 * 256
def iDrn : Nat := 3 + 2 ^ 32
def iStrm : Nat := 2 + 2 ^ 8 * 8 + 2 ^ 12 * 8 + 2 ^ 32 + 2 ^ 64
def iEpi (op : Nat) : Nat := 4 + 2 ^ 8 * op + 2 ^ 32
def iScq : Nat := 5 + 2 ^ 8 * 9 + 2 ^ 32 + 2 ^ 76
def iSync (op : Nat) : Nat := 6 + 2 ^ 4 * op + 2 ^ 16 + 2 ^ 32

/-- The column formats of the pass agree. -/
def engStrm : State := engWith ⟨{ engSav iStrm false with colFmt := (List.range 16).map fun c => (c, 8) }, .run, 0, 0, none, Ring.init⟩

theorem wit_EngineLoadStreamDrain : AtHead 0 iLdw 1 0 (engAt iLdw false) ∧ AtHead 0 iDrn 3 0 (engAt iDrn false) ∧ AtHead 0 6 6 0 (engAt 6 false)
    ∧ (AtHead 0 iStrm 2 0 engStrm ∧ strmOk iStrm (engOf 0 engStrm).sav = true)
    ∧ (AtHead 0 iStrm 2 0 (engAt iStrm false) ∧ strmOk iStrm (engOf 0 (engAt iStrm false)).sav = false) := by unfold AtHead; decide +kernel
/-- Column 255 is the last, register 255 its last. -/
theorem wit_LdwLoadsColumns : ldwLegal iLdw = true ∧ 255 < bits iLdw 32 9 ∧ (255 : Nat) < 256
    ∧ (∀ k, k < bits (1 + 2 ^ 8 * 9 + 2 ^ 32) 32 9 → 65535 / 256 ≠ 256 * bits iLdw 4 1 + bits iLdw 16 8 + k) := by decide +kernel
theorem wit_DrnStoresOnlyDestination : bit iDrn 4 = false ∧ bits iDrn 32 10 = 1
    ∧ (∀ i, i < viewBytes (bit iDrn 6) → 4096 ≠ areaAddr (bits iDrn 48 12) (0 * viewBytes (bit iDrn 6) + i)) := by decide +kernel

/-- Operation `op` at the head, with rows of the type it takes, and of the other. -/
def epiAt (op : Nat) (int : Bool) : Prop :=
  AtHead 0 (iEpi op) 4 op (engAt (iEpi op) int) ∧ (∀ r ∈ rowList (iEpi op), rowType (engOf 0 (engAt (iEpi op) int)).sav (bit (iEpi op) 6) r = some int)
theorem wit_EngineEpilogue_0 : epiAt 0 false ∧ epiAt 0 true := by unfold epiAt AtHead; decide +kernel
theorem wit_EngineEpilogue_1 : epiAt 1 false ∧ epiAt 1 true := by unfold epiAt AtHead; decide +kernel
theorem wit_EngineEpilogue_2 : epiAt 2 false ∧ epiAt 2 true := by unfold epiAt AtHead; decide +kernel
theorem wit_EngineEpilogue_3 : epiAt 3 false ∧ epiAt 3 true := by unfold epiAt AtHead; decide +kernel
theorem wit_EngineEpilogue_4 : epiAt 4 false ∧ epiAt 4 true := by unfold epiAt AtHead; decide +kernel
theorem wit_EngineEpilogue_5 : epiAt 5 false ∧ epiAt 5 true := by unfold epiAt AtHead; decide +kernel
theorem wit_EngineEpilogue_6 : epiAt 6 false ∧ epiAt 6 true := by unfold epiAt AtHead; decide +kernel
theorem wit_EngineEpilogue_7 : epiAt 7 false ∧ epiAt 7 true := by unfold epiAt AtHead; decide +kernel
theorem wit_EngineEpilogue_8 : epiAt 8 false ∧ epiAt 8 true := by unfold epiAt AtHead; decide +kernel
theorem wit_EngineEpilogue_9 : epiAt 9 false ∧ epiAt 9 true := by unfold epiAt AtHead; decide +kernel

/-- Engine 0 has a count record; the stream table of the context is disabled, or enabled with a window longer than the counts. -/
def recAt (cfg : U32) : State := { base with eng := { base.eng with recs := [⟨0, 1, 5, 255, 3⟩], sq := [(261, { Sq.init with cfg := cfg })] } }
theorem wit_ScqCountsSaturations : AtHead 0 iScq 5 0 (engAt iScq false)
    ∧ (∀ r ∈ rowList iScq, rowType (engOf 0 (engAt iScq false)).sav (bit iScq 6) r = some false)
    ∧ ((recAt 0).eng.recs.find? (fun x => decide (x.eng = 0)) = some ⟨0, 1, 5, 255, 3⟩ ∧ bit (0 : U32).toNat 0 = false)
    ∧ ((recAt 0x801).eng.recs.find? (fun x => decide (x.eng = 0)) = some ⟨0, 1, 5, 255, 3⟩ ∧ bit (0x801 : U32).toNat 0 = true
      ∧ 0 + 255 < 2 ^ bits (0x801 : U32).toNat 8 5) := by unfold AtHead; decide +kernel

/-- WAIT for 0 is satisfied at 0; WAIT for 1 is not. INC of the other engine of the owner; SIGNAL with room, and with none. -/
def iWait (n : Nat) : Nat := 6 + 2 ^ 4 + 2 ^ 16 * n
def engTwo : State := setEng 1 ⟨EngSt.blank, .idle, 0, 0, some 1, Ring.init⟩ (engAt (iSync 2) false)
def engFull : State := { engAt (iSync 3) false with eng := { (engAt (iSync 3) false).eng with cq := [(0, List.replicate 16 (0, 0, 1))] } }
theorem wit_EngineSync :
    (AtHead 0 (iWait 0) 6 1 (engAt (iWait 0) false) ∧ (syncCnt (engSav (iWait 0) false) 0 - BitVec.ofNat 16 (bits (iWait 0) 16 16)).toNat < 2 ^ 15)
    ∧ (AtHead 0 (iWait 1) 6 1 (engAt (iWait 1) false) ∧ ¬ (syncCnt (engSav (iWait 1) false) 0 - BitVec.ofNat 16 (bits (iWait 1) 16 16)).toNat < 2 ^ 15)
    ∧ (AtHead 0 (iSync 2) 6 2 engTwo ∧ (dieEngs (engDie 0) engTwo)[bits (iSync 2) 32 5]? = some 1 ∧ (1 : Nat) ≠ 0 ∧ (engOf 1 engTwo).owner = (engOf 0 engTwo).owner)
    ∧ (AtHead 0 (iSync 3) 6 3 (engAt (iSync 3) false) ∧ (tgetD (engAt (iSync 3) false).eng.cq (engDie 0) []).length < 16)
    ∧ (AtHead 0 (iSync 3) 6 3 engFull ∧ 16 ≤ (tgetD engFull.eng.cq (engDie 0) []).length) := by unfold AtHead; decide +kernel

/-- The states of an engine that the control commands tell apart; the instruction 0 is illegal. -/
def engSt (st : EngState) (run : Bool) (tail : U16) : State := engWith ⟨{ EngSt.blank with run := run, tail := tail }, st, 0, 0, none, Ring.init⟩
theorem wit_EngineControl :
    (engOn 0 (engSt .stopped false 0) = true ∧ (engOf 0 (engSt .stopped false 0)).st ≠ .fault ∧ (engOf 0 (engSt .stopped false 0)).st ≠ .clearing)
    ∧ (engOn 0 (engSt .fault false 0) = true ∧ (engOf 0 (engSt .fault false 0)).st = .fault)
    ∧ (engOn 0 (engSt .stopping false 1) = true ∧ (engOf 0 (engSt .stopping false 1)).st = .stopping ∧ (engOf 0 (engSt .stopping false 1)).sav.run = false)
    ∧ (engOn 0 (engSt .stopped false 1) = true ∧ (engOf 0 (engSt .stopped false 1)).sav.head ≠ (engOf 0 (engSt .stopped false 1)).sav.tail)
    ∧ (engOn 0 (engSt .clearing false 0) = true ∧ (engOf 0 (engSt .clearing false 0)).st = .clearing)
    ∧ ((BitVec.ofNat 16 8192 - (0 : U16)).toNat ≤ 8192 ∧ ¬ (BitVec.ofNat 16 8193 - (0 : U16)).toNat ≤ 8192) ∧ (7 : Nat) < 8
    ∧ (engOn 0 (engSt .run true 1) = true ∧ canIssue (engOf 0 (engSt .run true 1)) = true
      ∧ engDecode (dieEngs (engDie 0) (engSt .run true 1)).length (ringInstr (engOf 0 (engSt .run true 1)).sav 0) = none
      ∧ (engSt .run true 1).host.held.length < 256) := by decide +kernel
/-- A WAIT and a SIGNAL that the engine holds, its head past them. -/
def engHeld (w : Nat) : State := engWith ⟨{ engSav w false with head := 1, tail := 2 }, .wait, 0, 0, some 1, Ring.init⟩
theorem wit_EngineSync_held : Held 0 (iWait 0) 1 (engHeld (iWait 0)) ∧ Held 0 (iWait 1) 1 (engHeld (iWait 1)) ∧ Held 0 (iSync 3) 3 (engHeld (iSync 3))
    ∧ canIssue (engOf 0 (engHeld 0x26)) = true ∧ engDecode (dieEngs (engDie 0) base).length (ringInstr (engOf 0 (engHeld 0x7F)).sav (engIdx (engOf 0 (engHeld 0x7F)))) = none := by unfold Held; decide +kernel
/-- An error of an idle engine, and during the LDW at its head; a spare of die 3. -/
theorem wit_EngineErrorAndSpare : (engOn 0 (engSt .stopped false 0) = true ∧ canIssue (engOf 0 (engSt .stopped false 0)) = false) ∧ AtHead 0 iLdw 1 0 (engAt iLdw false)
    ∧ engOn 79 base = false ∧ engOn 77 base = true ∧ runtimeRuns base.host.ifState = true ∧ base.caps.engMap[71]? = some 77
    ∧ spareFor 77 base = some 78 ∧ (∀ x ∈ base.ctxs.slots, x.2.state ≠ .resident) := by unfold AtHead; decide +kernel

def mbxBusy : State := { base with host := { base.host with rstBusy := some 2, mbx := tmod base.host.mbx 63 fun m => { m with resetting := true } } }
def doneReq : Req := { reqA 1 5 [] with done := some (0, zeros 480) }
def lateReq : Req := { doneReq with settled := some 0x0300 }
/-- A request with a timeout that runs, and one that CANCEL names by its tag. -/
def slowReq : Req := { reqA 1 5 [] with timeoutUs := 1, running := true }
def cancelReq1 : Req := { reqA 1 4 (leBytes 2 9) with rid := 2 }
def cancelState : State := { base with ledger := { base.ledger with reqs := [{ reqA 1 5 [] with tag := 9 }, cancelReq1] } }
/-- A settled request whose reply waited for its accesses. -/
def owedReq : Req := { reqA 1 5 [] with settled := some 0x0301, owed := true, running := true }
theorem wit_ReplyTimeoutCancel :
    (findReq 1 (withReq doneReq base) = some doneReq ∧ doneReq.rid = 1 ∧ tget base.host.mbx 0 = some Mbx.init ∧ mbxUnitRuns base.host.ifState = true
      ∧ doneReq.done = some (0, zeros 480) ∧ doneReq.settled = none ∧ (zeros 480).length ≤ 480 ∧ accessing 1 (withReq doneReq base) = false)
    ∧ (findReq 1 (withReq lateReq base) = some lateReq ∧ lateReq.done = some (0, zeros 480) ∧ lateReq.settled.isSome = true ∧ lateReq.owed = false)
    ∧ (findReq 1 (withReq owedReq base) = some owedReq ∧ owedReq.settled = some 0x0301 ∧ owedReq.owed = true ∧ accessing 1 (withReq owedReq base) = false)
    ∧ (findReq 1 (withReq slowReq base) = some slowReq ∧ slowReq.timeoutUs ≠ 0 ∧ slowReq.settled = none ∧ slowReq.done = none ∧ slowReq.running = true
      ∧ clockNow domMgmt (withReq slowReq base) ≤ expiry slowReq ∧ (∀ q ∈ (withReq slowReq base).ledger.reqs, timed q = true → expiry slowReq ≤ expiry q) ∧ base.tune.groups = [])
    ∧ (findReq 2 cancelState = some cancelReq1 ∧ cancelReq1.svc = 1 ∧ cancelReq1.op = 4 ∧ cancelReq1.redone = false ∧ cancelReq1.done = none
      ∧ cancelTarget cancelReq1 cancelState = some { reqA 1 5 [] with tag := 9 } ∧ accessing 1 cancelState = false) := by decide +kernel
theorem wit_MailboxAndRingReset : base.host.rstBusy = none ∧ tget base.host.mbx 63 = some Mbx.init ∧ (63 : Nat) < 64
    ∧ (tget mbxBusy.host.mbx 63 = some { Mbx.init with resetting := true } ∧ mbxBusy.host.rstBusy = some 2 ∧ mbxBusy.host.held.length < 256) := by decide +kernel

/-! ### Harts, DMA, the tier queue -/

/-- Context 1, resident with home core 0 and home engine 0, its address space one writable page at 0x200000. -/
def resSlot : Slot := { slot1 with state := .resident, homeC := [0], homeE := [0] }
def page1 (k : PageKind) (d : Memory) : Page := ⟨1, k, some 0, none, 0, 0, false, false, 0, false, 1, 2097152, 2097152, d⟩
def obj1 : Obj := ⟨1, 0x200000, 0, [1], []⟩
def withMem (d : Memory) (s : State) : State :=
  { s with mem := { s.mem with pages := [(1, page1 .writable d)], objs := [(1, obj1)], nextPage := 2 } }
def resState (d : Memory) : State := withMem d (withSlot resSlot base)
/-- Hart 0 runs a tasklet, with one value in x10. -/
def task1 (join : Nat) : Tasklet := ⟨1, 0x1000, [], join, 0, false, none⟩
def hart1 (x10 : U64) : Hart := { Hart.init with task := some 0, x := [(10, x10)] }
def running (join : Nat) (x10 : U64) (d : Memory) : State :=
  { resState d with task := { (resState d).task with harts := [(0, hart1 x10)], pool := [(0, task1 join)], nextSlot := 1 } }

/-- No page of context 1 lies at two places. -/
theorem noAlias_withMem (d : Memory) (s : State) : NoAlias 1 (withMem d s) := by
  refine ⟨by simp [withMem, obj1, pageBytes], ?_⟩
  have key : ∀ x p, pidAt 1 x (withMem d s) = some p → x / pageBytes = 1 := by
    intro x p h
    unfold pidAt at h
    split at h
    · rename_i o ho
      unfold objAt at ho
      have hm := List.mem_of_find?_eq_some ho
      have hc := List.find?_some ho
      simp only [withMem, List.mem_singleton, Prod.mk.injEq] at hm
      obtain ⟨-, rfl⟩ := hm
      simp only [Bool.and_eq_true, decide_eq_true_eq, obj1, pageBytes, List.length_singleton] at hc ⊢
      have h1 := of_decide_eq_true hc.1.2
      have h2 := of_decide_eq_true hc.2
      omega
    · simp at h
  intro a b p ha hb
  rw [key a p ha, key b p hb]

/-- Every byte of the page may be written. -/
theorem writableAt_withMem (d : Memory) (s : State) (n : Nat) (hn : n ≤ 0x200000) : WritableAt 1 0x200000 n (withMem d s) := by
  intro i hi
  refine ⟨1, page1 .writable d, ?_, rfl, rfl⟩
  have e : objAt 1 (0x200000 + i) (withMem d s) = some (1, obj1) := by
    unfold objAt
    simp [withMem, obj1, pageBytes]
    omega
  unfold pidAt
  rw [e]
  have h0 : (0x200000 + i - 0x200000) / pageBytes = 0 := by unfold pageBytes; omega
  show [1][(0x200000 + i - 0x200000) / pageBytes]? = some 1
  rw [h0]
  rfl

/-- A descriptor accepted, one refused for its rules (an odd entry), no room, and a misaligned one. -/
theorem wit_TspawnAcceptsOrRefuses :
    (runningOn 0 (running 0 0x200000 []) = some (task1 0) ∧ (hartOf 0 (running 0 0x200000 [])).sbuf = [] ∧ (xreg (hartOf 0 (running 0 0x200000 [])) 10).toNat % 64 = 0 ∧ checkRead 1 0x200000 64 (running 0 0x200000 []) = .fine
      ∧ descOk (rdBytes 1 0x200000 64 (running 0 0x200000 [])) (running 0 0x200000 []) = true ∧ spawnRoom 1 (running 0 0x200000 []) = true)
    ∧ (descOk (rdBytes 1 0x200000 64 (running 0 0x200000 [(0, 1)])) (running 0 0x200000 [(0, 1)]) = false)
    ∧ (runningOn 0 (running 0 0x200001 []) = some (task1 0) ∧ (xreg (hartOf 0 (running 0 0x200001 [])) 10).toNat % 64 ≠ 0 ∧ slotOf 1 (running 0 0x200001 []) = some resSlot ∧ (hartOf 0 (running 0 0x200001 [])).sbuf = []
      ∧ resSlot.tdFaults ≠ 0xFFFFFFFF) := by decide +kernel

/-- A record of count 0 and of count 2; a hart that waits. -/
def waiting : State := { running 0 0 [] with task := { (running 0 0 []).task with harts := [(0, { hart1 0 with tjoin := some (0x200000, 5, 3) })] } }
theorem wit_JoinAndEnd_records :
    (runningOn 0 (running 0 0x200000 []) = some (task1 0) ∧ (0x200000 : Nat) % 16 = 0 ∧ checkRead 1 0x200000 8 (running 0 0x200000 []) = .fine
      ∧ leNat (rdBytes 1 0x200000 8 (running 0 0x200000 [])) % 2 ^ 63 = 0 ∧ leNat (rdBytes 1 0x200000 8 (running 0 0x200000 [(0, 2)])) % 2 ^ 63 ≠ 0)
    ∧ (hartOf 0 waiting).tjoin = some (0x200000, 5, 3) ∧ (hartOf 0 (running 0 0 [])).task = some 0 ∧ (task1 0).join = 0 ∧ (hartOf 0 (running 0 0 [])).sbuf = [] := by decide +kernel
theorem wit_JoinAndEnd_end : let s := running 0x200000 0 [(0, 2)]
    runningOn 0 s = some (task1 0x200000) ∧ (hartOf 0 s).task = some 0 ∧ (task1 0x200000).join ≠ 0 ∧ (task1 0x200000).join % 16 = 0
    ∧ WritableAt 1 0x200000 16 s ∧ NoAlias 1 s ∧ checkRead 1 0x200000 16 s = .fine ∧ 2 ≤ leNat (rdBytes 1 0x200000 8 s) % 2 ^ 63 ∧ (∀ x ∈ s.task.harts, x.2.tjoin = none) ∧ (hartOf 0 s).sbuf = [] := by
  refine ⟨by decide +kernel, by decide +kernel, by decide +kernel, by decide +kernel, ?_, ?_, by decide +kernel, by decide +kernel, by decide +kernel, by decide +kernel⟩
  · exact writableAt_withMem [(0, 2)] _ 16 (by decide)
  · exact noAlias_withMem [(0, 2)] _

def readyTask : State := { resState [] with task := { (resState []).task with pool := [(0, task1 0)], ready := [(4, [0])] } }
theorem wit_TaskletStartAndFault :
    (slotOf 1 readyTask = some resSlot ∧ resident 1 readyTask = true ∧ resSlot.homeC.contains (coreOfHart 7) = true ∧ (hartOf 7 readyTask).task = none ∧ (hartOf 7 readyTask).halted = false
      ∧ clockPowered (domCore (dieOfHart 7)) readyTask = true ∧ readyTask.task.parked = [] ∧ resSlot.act.steal = false ∧ (hartOf 7 readyTask).sbuf = []
      ∧ tgetD readyTask.task.ready (4 * 1 + dieOfHart 7) [] = 0 :: [] ∧ tget readyTask.task.pool 0 = some (task1 0))
    ∧ (runningOn 0 (running 0 0 []) = some (task1 0) ∧ (resolveTrap 1 2 0 (running 0 0 [])).isNone = true ∧ compUp (0x10 + dieOfHart 0) (running 0 0 []) = true ∧ (hartOf 0 (running 0 0 [])).sbuf = [] ∧ (task1 0).join = 0 ∧ (hartOf 0 (running 0 0 [])).task = some 0
      ∧ slotOf 1 (running 0 0 []) = some resSlot ∧ resSlot.tdFaults ≠ 0xFFFFFFFF ∧ (running 0 0 []).host.held.length < 256) := by decide +kernel

/-- SEW 8, LMUL 1, 64 elements, tails and masked elements undisturbed. -/
def vecState : State := { running 0 0 [] with task := { (running 0 0 []).task with harts := [(0, { hart1 0 with vtype := 0, vl := 64 })] } }
theorem wit_XorPopcount : runningOn 0 vecState = some (task1 0) ∧ vIllegal (hartOf 0 vecState) true 31 [31, 30, 29] = false
    ∧ 64 * (hartOf 0 vecState).vl.toNat * sewOf (hartOf 0 vecState).vtype.toNat ≤ 512 * 8 * (lmul8 (hartOf 0 vecState).vtype.toNat).getD 0
    ∧ bit (hartOf 0 vecState).vtype.toNat 6 = false ∧ bit (hartOf 0 vecState).vtype.toNat 7 = false := by decide +kernel
def sigSlot (desc : U64) (quota : Nat) : Slot := { resSlot with sigDesc := if desc = 0 then [] else [(0, desc)], act := { resSlot.act with tdQuota := quota } }
/-- Die 0 has a signal record of engine 0 with value 5 for context 1. -/
def sigState (desc : U64) (quota : Nat) (retry : List Nat) : State :=
  let s := withSlot (sigSlot desc quota) (resState [])
  { s with eng := { s.eng with cq := [(0, [(0, 5, 1)])], retry := retry } }
theorem wit_HintsFenceAndSignals :
    (runningOn 0 (running 0 0 []) = some (task1 0) ∧ bits 0x0000000100000000 54 2 ≤ 1 ∧ bits 0x0000000100000000 32 16 ≠ 0 ∧ ¬ (bits (0x0080000000000000) 54 2 ≤ 1))
    ∧ slotOf 1 (resState []) = some resSlot
    ∧ ((sigState 0 9 []).eng.retry.contains 0 = false ∧ tgetD (sigState 0 9 []).eng.cq 0 [] = (0, 5, 1) :: [] ∧ slotOf 1 (sigState 0 9 []) = some (sigSlot 0 9) ∧ sigDescOf (sigSlot 0 9) 0 (sigState 0 9 []) = 0)
    ∧ ((sigState 0x200000 9 [0]).eng.retry.contains 0 = true ∧ (∀ x ∈ (sigState 0x200000 9 [0]).ctxs.slots, x.2.resumeWait = false) ∧ sigDescOf (sigSlot 0x200000 9) 0 (sigState 0x200000 9 [0]) = 0x200000
      ∧ checkRead 1 0x200000 64 (sigState 0x200000 9 [0]) = .fine ∧ descOk (rdBytes 1 0x200000 64 (sigState 0x200000 9 [0])) (sigState 0x200000 9 [0]) = true ∧ spawnRoom 1 (sigState 0x200000 9 [0]) = true)
    ∧ (checkRead 1 0x200000 64 (sigState 0x200000 0 []) = .fine ∧ descOk (rdBytes 1 0x200000 64 (sigState 0x200000 0 [])) (sigState 0x200000 0 []) = true ∧ spawnRoom 1 (sigState 0x200000 0 []) = false) := by
  decide +kernel

/-- A descriptor at 0x200000: memory 0x200040, local `loc`, 4 bytes, one row, pitch 4, direction `dir`, with SYNC 7. -/
def dmaDesc (loc dir : Nat) : Memory := Memory.writeN 0 [] 0 (leBytes 8 0x200040 ++ leBytes 4 loc ++ leBytes 4 4 ++ leBytes 4 1 ++ leBytes 4 4 ++ leBytes 1 dir ++ leBytes 1 0x87)
def dmaEng : Eng := ⟨EngSt.blank, .stopped, 0, 0, some 1, ⟨0x200000, 0x80000006, 0, 1, 0⟩⟩
def dmaState (loc dir : Nat) : State := withMem (dmaDesc loc dir) (setEng 0 dmaEng (withSlot resSlot base))
def dmaOk (loc dir : Nat) : Prop :=
  engOn 0 (dmaState loc dir) = true ∧ (engOf 0 (dmaState loc dir)).owner = some 1 ∧ dmaEng.dma.cfg.toNat.testBit 31 = true ∧ dmaEng.dma.head ≠ dmaEng.dma.tail ∧ ringAt dmaEng.dma = 0x200000
    ∧ checkRead 1 0x200000 32 (dmaState loc dir) = .fine ∧ dmaDescOk (rdBytes 1 0x200000 32 (dmaState loc dir)) = true
    ∧ fld (rdBytes 1 0x200000 32 (dmaState loc dir)) 8 4 = loc ∧ fld (rdBytes 1 0x200000 32 (dmaState loc dir)) 24 1 = dir
    ∧ checkRead 1 0x200040 4 (dmaState loc dir) = .fine
/-- Local rows that end at the top of the local memory, and one row beyond it; both directions. -/
theorem wit_DmaMovesRows : tailOk dmaEng.dma 1 = true ∧ (dmaOk 0x1FFFFC 0 ∧ 0x1FFFFC + 4 * 1 ≤ 0x200000) ∧ (dmaOk 0x1FFFFC 1 ∧ 4 ≤ 4) ∧ (dmaOk 0x1FFFFD 0 ∧ 0x200000 < 0x1FFFFD + 4 * 1) := by
  unfold dmaOk; decide +kernel
theorem wit_DmaMovesRows_out : NoAlias 1 (dmaState 0x1FFFFC 1) ∧ WritableAt 1 0x200040 4 (dmaState 0x1FFFFC 1) := by
  refine ⟨noAlias_withMem _ _, ?_⟩
  intro i hi
  obtain ⟨pid, p, h⟩ := writableAt_withMem (dmaDesc 0x1FFFFC 1) (setEng 0 dmaEng (withSlot resSlot base)) 68 (by decide) (0x40 + i) (by omega)
  exact ⟨pid, p, by rw [show 0x200040 + i = 0x200000 + (0x40 + i) by omega]; exact h⟩

/-- A tier-queue descriptor at 0x200000: operation, source 0x200040, destination 0x200080, 4 bytes. -/
def tqSlot : Slot := { resSlot with tq := ⟨0x200000, 0x80000006, 0, 1, 0⟩ }
def tqState (op : Nat) : State := withMem (Memory.writeN 0 [] 0 (leBytes 8 op ++ leBytes 8 0x200040 ++ leBytes 8 0x200080 ++ leBytes 4 4)) (withSlot tqSlot base)
def tqOk (op : Nat) : Prop :=
  slotOf 1 (tqState op) = some tqSlot ∧ tqSlot.tq.cfg.toNat.testBit 31 = true ∧ tqSlot.tq.head ≠ tqSlot.tq.tail ∧ tqSlot.hold = false ∧ tqSlot.secHold = false ∧ ringAt tqSlot.tq = 0x200000
    ∧ checkRead 1 0x200000 32 (tqState op) = .fine ∧ fld (rdBytes 1 0x200000 32 (tqState op)) 0 1 = op ∧ fld (rdBytes 1 0x200000 32 (tqState op)) 1 7 = 0
    ∧ fld (rdBytes 1 0x200000 32 (tqState op)) 24 4 = 4 ∧ fld (rdBytes 1 0x200000 32 (tqState op)) 28 4 = 0 ∧ checkRead 1 0x200080 8 (tqState op) = .fine ∧ checkRead 1 0x200040 4 (tqState op) = .fine
theorem wit_TierQueue : tailOk tqSlot.tq 1 = true ∧ tqOk 1 ∧ tqOk 2 ∧ tqOk 3 ∧ tqOk 4 := by unfold tqOk; decide +kernel
theorem wit_TierQueue_memory : NoAlias 1 (tqState 1) ∧ WritableAt 1 0x200080 8 (tqState 1) := by
  refine ⟨noAlias_withMem _ _, ?_⟩
  intro i hi
  obtain ⟨pid, p, h⟩ := writableAt_withMem (Memory.writeN 0 [] 0 (leBytes 8 1 ++ leBytes 8 0x200040 ++ leBytes 8 0x200080 ++ leBytes 4 4)) (withSlot tqSlot base) 0x88 (by decide) (0x80 + i) (by omega)
  exact ⟨pid, p, by rw [show 0x200080 + i = 0x200000 + (0x80 + i) by omega]; exact h⟩
/-- A source that holds one stored chunk. -/
def chunk1 : Bytes := chunkHeader 0 4 4 (crc32c [1, 2, 3, 4]) ++ [1, 2, 3, 4]
def tqChunk : State := withMem (Memory.writeN 0 [] 0 (leBytes 8 2 ++ leBytes 8 0x200040 ++ leBytes 8 0x200080 ++ leBytes 4 28 ++ zeros 36 ++ chunk1)) (withSlot tqSlot base)
theorem wit_TierQueue_chunk : checkRead 1 0x200040 28 tqChunk = .fine ∧ decompressChunk (rdBytes 1 0x200040 28 tqChunk) = some ([1, 2, 3, 4], 28) ∧ 28 ≤ (28 + 7) / 8 * 8 := by decide +kernel

/-! ### Memory and error correction -/

def allocP (va n fl : Nat) : Bytes := leBytes 8 va ++ leBytes 8 n ++ leBytes 2 fl
def allocS (va n fl : Nat) : State := withReq (reqT 5 1 (allocP va n fl)) (resState [])
/-- The sizes 0, 1, 2^40 and 2^40 + 1; the range of the object that exists; a quota of 1 byte. -/
theorem wit_MemoryObjects_alloc :
    (Waits 5 1 1 (reqT 5 1 (allocP 0 0 0)) (allocS 0 0 0) ∧ hasRef (reqT 5 1 (allocP 0 0 0)) = false) ∧ 2 ^ 40 < fld (allocP 0 (2 ^ 40 + 1) 0) 8 8
    ∧ (Waits 5 1 1 (reqT 5 1 (allocP 0x200000 1 0)) (allocS 0x200000 1 0) ∧ manyPlaces 0 = false ∧ vaFree 1 0x200000 (pageBytes * pagesFor 1) (allocS 0x200000 1 0) = false)
    ∧ (Waits 5 1 1 (reqT 5 1 (allocP 0 (2 ^ 40) 0)) (allocS 0 (2 ^ 40) 0) ∧ t1Fits 1 (pageBytes * pagesFor (2 ^ 40)) (allocS 0 (2 ^ 40) 0) = false)
    ∧ (Waits 5 1 1 (reqT 5 1 (allocP 0x400000 1 0)) (allocS 0x400000 1 0) ∧ vaFree 1 0x400000 (pageBytes * pagesFor 1) (allocS 0x400000 1 0) = true
      ∧ t1Fits 1 (pageBytes * pagesFor 1) (allocS 0x400000 1 0) = true ∧ objCount 1 (allocS 0x400000 1 0) < 2 ^ 20) := by unfold Waits; (repeat' apply And.intro) <;> decide +kernel

def sealedMem (fl flash : Nat) (t1 : Option Nat) (t2 : Option Nat) (s : State) : State :=
  { s with mem := { s.mem with
    pages := [(1, { page1 .sealed [] with t1 := t1, t2 := t2, flash := flash })], objs := [(1, { obj1 with aflags := fl })], nextPage := 2 } }
def sealedState (fl : Nat) : State := sealedMem fl 0 (some 0) none (withSlot resSlot base)
def hS (op : Nat) (p : Bytes) (s : State) : State := withReq (reqT 5 op (leBytes 8 1 ++ p)) s
def hR (op : Nat) (p : Bytes) : Req := reqT 5 op (leBytes 8 1 ++ p)
theorem wit_MemoryObjects_free_clone :
    (Waits 5 2 1 (reqT 5 2 (leBytes 8 9)) (withReq (reqT 5 2 (leBytes 8 9)) (resState [])) ∧ objTurn (reqT 5 2 (leBytes 8 9)) (withReq (reqT 5 2 (leBytes 8 9)) (resState [])) = true
      ∧ objOf 1 9 (withReq (reqT 5 2 (leBytes 8 9)) (resState [])) = none)
    ∧ (Waits 5 2 1 (hR 2 []) (hS 2 [] (resState [])) ∧ objTurn (hR 2 []) (hS 2 [] (resState [])) = true ∧ objOf 1 1 (hS 2 [] (resState [])) = some obj1 ∧ obj1.pages.Nodup
      ∧ (∀ p ∈ obj1.pages, isPrivKind (pageKindOf p (hS 2 [] (resState []))) = false))
    ∧ (Waits 5 4 1 (hR 4 (leBytes 8 0x400000 ++ leBytes 2 64)) (hS 4 (leBytes 8 0x400000 ++ leBytes 2 64) (resState [])) ∧ objSealed obj1 (resState []) = false
      ∧ fld (leBytes 8 1 ++ (leBytes 8 0x400000 ++ leBytes 2 64)) 16 2 &&& 0xFF3F = 0 ∧ fld (leBytes 8 1 ++ (leBytes 8 0x400000 ++ leBytes 2 64)) 8 8 % pageBytes = 0)
    ∧ (Waits 5 4 1 (hR 4 (leBytes 8 0x400000 ++ leBytes 2 64)) (hS 4 (leBytes 8 0x400000 ++ leBytes 2 64) (sealedState 0)) ∧ objSealed obj1 (sealedState 0) = true
      ∧ vaFree 1 0x400000 (pageBytes * 1) (hS 4 (leBytes 8 0x400000 ++ leBytes 2 64) (sealedState 0)) = true ∧ objCount 1 (hS 4 (leBytes 8 0x400000 ++ leBytes 2 64) (sealedState 0)) < 2 ^ 20) := by unfold Waits; (repeat' apply And.intro) <;> decide +kernel

theorem wit_MemorySealAndPlace :
    (Waits 5 3 1 (hR 3 (leBytes 2 3)) (hS 3 (leBytes 2 3) (sealedState 0)) ∧ fld (hR 3 (leBytes 2 3)).payload 8 2 < 4 ∧ objOf 1 1 (hS 3 (leBytes 2 3) (sealedState 0)) = some obj1
      ∧ objTurn (hR 3 (leBytes 2 3)) (hS 3 (leBytes 2 3) (sealedState 0)) = true ∧ objSealed obj1 (hS 3 (leBytes 2 3) (sealedState 0)) = true)
    ∧ (Waits 5 3 1 (hR 3 (leBytes 2 0)) (hS 3 (leBytes 2 0) (resState [])) ∧ objSealed obj1 (hS 3 (leBytes 2 0) (resState [])) = false ∧ aWarm 0 = false ∧ aCold 0 = false ∧ aDurable 0 = false
      ∧ pageGet 1 (hS 3 (leBytes 2 0) (resState [])) = some (page1 .writable []) ∧ (page1 .writable []).t1.isSome = true)
    ∧ (Waits 5 5 1 (hR 5 (leBytes 2 16)) (hS 5 (leBytes 2 16) (sealedState 0)) ∧ 16 ≤ fld (hR 5 (leBytes 2 16)).payload 8 2)
    ∧ (Waits 5 5 1 (hR 5 (leBytes 2 1)) (hS 5 (leBytes 2 1) (resState [])) ∧ objSealed obj1 (hS 5 (leBytes 2 1) (resState [])) = false)
    ∧ (Waits 5 5 1 (hR 5 (leBytes 2 1)) (hS 5 (leBytes 2 1) (sealedState 0)) ∧ obj1.pages ≠ [] ∧ pageGet 1 (hS 5 (leBytes 2 1) (sealedState 0)) = some (page1 .sealed [])
      ) := by unfold Waits; (repeat' apply And.intro) <;> decide +kernel
/-- The last bytes of an object whose seal meets a write in flight. -/
theorem wit_MemorySeal_writes : Waits 5 3 1 (hR 3 (leBytes 2 0)) (hS 3 (leBytes 2 0) (resState [])) ∧ obj1.va ≤ 0x3FFFFE ∧ 0x3FFFFE + 2 ≤ obj1.va + pageBytes * obj1.pages.length
    ∧ checkRead 1 0x3FFFFE 2 (hS 3 (leBytes 2 0) (resState [])) = .fine ∧ WritableAt 1 0x3FFFFE 2 (hS 3 (leBytes 2 0) (resState [])) ∧ NoAlias 1 (hS 3 (leBytes 2 0) (resState [])) := by
  refine ⟨by unfold Waits; (repeat' apply And.intro) <;> decide +kernel, by decide, by decide, by decide +kernel, ?_, noAlias_withMem [] (withSlot resSlot base)⟩
  intro i hi
  have hi : i = 0 ∨ i = 1 := by omega
  rcases hi with rfl | rfl <;> exact ⟨1, page1 .writable [], by decide +kernel, by decide +kernel, rfl⟩
/-- A sealed page whose only copy lies in flash. -/
def flashPage : Page := { page1 .sealed [] with t1 := none, flash := 3 }
def flashCopy : SlotPg := ⟨0, 0, 0, 1, 0, .page 1 0, []⟩
def placeS : State :=
  let s := hS 5 (leBytes 2 1) (sealedState 0)
  { s with mem := { s.mem with pages := [(1, flashPage)] }, ftl := { s.ftl with user := [(0, 5)], media := [(5, flashCopy)], bulkExt := [(0, .page 1 0)] } }
theorem wit_MemoryPlace_lost : Waits 5 5 1 (hR 5 (leBytes 2 1)) placeS ∧ fld (hR 5 (leBytes 2 1)).payload 8 2 = 1 ∧ hasRef (hR 5 (leBytes 2 1)) = false ∧ objTurn (hR 5 (leBytes 2 1)) placeS = true ∧ objOf 1 1 placeS = some obj1
    ∧ objSealed obj1 placeS = true ∧ obj1.pages = [1] ∧ pageGet 1 placeS = some flashPage ∧ flashPage.kind = .sealed ∧ t1Fits 1 pageBytes placeS = true ∧ flashRuns placeS = true ∧ tget placeS.ftl.media 5 = some flashCopy
    ∧ mapGet flashCopy.space flashCopy.index placeS = some 5 := by unfold Waits; (repeat' apply And.intro) <;> decide +kernel

def cR (op c : Nat) (p : Bytes) : Req := reqT 5 op (leBytes 1 c ++ p)
def cS (op c : Nat) (p : Bytes) : State := withReq (cR op c p) (resState [])
theorem wit_MemoryQueryAndQuota :
    (Waits 5 6 1 (hR 6 []) (hS 6 [] (resState [])) ∧ objTurn (hR 6 []) (hS 6 [] (resState [])) = true ∧ objOf 1 1 (hS 6 [] (resState [])) = some obj1)
    ∧ Waits 5 7 1 (cR 7 1 []) (cS 7 1 []) ∧ (Waits 5 7 1 (cR 7 2 []) (cS 7 2 []) ∧ (cR 7 2 []).mbx ≠ 0 ∧ fld (cR 7 2 []).payload 0 1 ≠ (cR 7 2 []).mbx)
    ∧ Waits 5 9 1 (cR 9 2 []) (cS 9 2 []) ∧ (Waits 5 9 1 (cR 9 1 [1, 4, 3]) (cS 9 1 [1, 4, 3]) ∧ fld (cR 9 1 [1, 4, 3]).payload 3 1 < fld (cR 9 1 [1, 4, 3]).payload 2 1)
    ∧ (Waits 5 8 1 (reqA 5 8 (leBytes 8 63)) (withReq (reqA 5 8 (leBytes 8 63)) base) ∧ fld (leBytes 8 63) 0 1 < 64) := by unfold Waits; (repeat' apply And.intro) <;> decide +kernel

/-- A sealed page of a COW object; one with its only copy in flash; with a quota that the page does not fit. -/
def cowS : State := sealedState 64
def noT1 (s : State) : State := modUsage 1 (fun u => { u with t1Quota := 1 }) s
def flashOnly : State := sealedMem 0 3 none none (withSlot resSlot base)
def moving (k : MoveKind) (s : State) : State := { s with mem := { s.mem with moves := [(1, k)] } }
theorem wit_TierEvents :
    (objAt 1 0x3FFFFF cowS = some (1, { obj1 with aflags := 64 }) ∧ tget cowS.mem.objs 1 = some { obj1 with aflags := 64 } ∧ obj1.va % pageBytes = 0 ∧ pidAt 1 0x3FFFFF cowS = some 1
      ∧ pageGet 1 cowS = some (page1 .sealed []) ∧ aCow 64 = true ∧ t1Fits 1 pageBytes cowS = true ∧ t1Fits 1 pageBytes (noT1 cowS) = false ∧ (some 0 : Option Nat).isSome = true ∧ (∀ e ∈ cowS.mem.objs, ∀ k ∈ e.2.pages, k < cowS.mem.nextPage)
      ∧ keysRise cowS.mem.objs = true)
    ∧ (pidAt 1 0x200000 flashOnly = some 1 ∧ pageGet 1 flashOnly = some { page1 .sealed [] with t1 := none, flash := 3 } ∧ (page1 .sealed []).kind = .sealed ∧ aHot (pageFlags 1 flashOnly) = true
      ∧ t1Fits 1 pageBytes flashOnly = true ∧ newT1 flashOnly = some 0 ∧ copyReads 1 flashOnly = true ∧ (false && copyReads 1 flashOnly) = false)
    ∧ clockPowered domFab base = true
    ∧ ((moving .promote flashOnly).mem.moves.find? (fun m => decide (m.1 = 1)) = some (1, .promote) ∧ newT1 (moving .promote flashOnly) = some 0)
    ∧ ((moving .demote (resState [])).mem.moves.find? (fun m => decide (m.1 = 1)) = some (1, .demote) ∧ (page1 .writable []).kind ≠ .sealed ∧ base.mem.migFail ≠ 0xFFFFFFFF)
    ∧ (4 * 2 ^ 30 ≤ t1FreeAll base ∧ 16 * 2 ^ 30 ≤ t2Free base) := by decide +kernel

def eccWith (k : Nat) (f : EccBlk → EccBlk) (s : State) : State := modEcc k f s
theorem wit_EccReads :
    (isEccCtl 345 = true ∧ isEccCtl 346 = false ∧ clockPowered (eccDomain 345) base = true ∧ readOutcome 345 (eccUnit 345 8) 0 base = .clean ∧ readOutcome 345 (eccUnit 345 8) 1 base = .corrected)
    ∧ (readOutcome 0 (eccUnit 0 100) 8 (failElement 0 none (sealedState 0)) ≠ .uncorrectable ∧ pageOfLine 0 (eccUnit 0 100) (sealedState 0) = some 1 ∧ (0 : Nat) < 8)
    ∧ (isEccCtl 0 = true ∧ isDram 0 = true ∧ clockPowered (eccDomain 0) (sealedState 0) = true ∧ readOutcome 0 (eccUnit 0 100) 9 (failElement 0 none (sealedState 0)) = .uncorrectable
      ∧ pageOfLine 0 (eccUnit 0 100) (sealedState 0) = some 1 ∧ pageGet 1 (sealedState 0) = some (page1 .sealed []) ∧ (PageKind.sealed ≠ .priv 1)
      ∧ (sealedState 0).host.held.length + (objsOf 1 (sealedState 0)).length < 256)
    ∧ (pageOfLine 0 (eccUnit 0 100) (sealedMem 0 2 (some 0) none base) = some 1 ∧ pageGet 1 (sealedMem 0 2 (some 0) none base) = some { page1 .sealed [] with flash := 2 }
      ∧ copyReads 1 (sealedMem 0 2 (some 0) none base) = true)
    ∧ (readOutcome 345 (eccOf 345 base).patrolPos 1 (failElement 345 none base) ≠ .uncorrectable ∧ bit (eccOf 345 base).ctrl.toNat 4 = true ∧ base.host.ifState ≠ .bivouac)
    ∧ ((eccOf 256 (eccWith 256 (fun b => { b with track := [⟨8, 1, 0⟩] }) base)).track[0]? = some ⟨8, 1, 0⟩) := by decide +kernel
def atThr (k a : Nat) (s : State) : State := eccWith k (fun b => { b with atThresh := [a] }) s
def twoCopies : State := sealedMem 0 0 (some 0) (some 0) base
theorem wit_EccRemapAndFlip :
    (isEccCtl 256 = true ∧ clockPowered (eccDomain 256) (atThr 256 8 base) = true ∧ (eccOf 256 (atThr 256 8 base)).atThresh.contains (eccUnit 256 8) = true ∧ (eccOf 256 (atThr 256 8 base)).atThresh.Nodup
      ∧ lineErrs 256 8 (atThr 256 8 base) ≤ eccCorrects 256
      ∧ remapFree 256 (eccChannel 256 8) (eccOf 256 (atThr 256 8 base)) = 0 :: [1, 2, 3, 4, 5, 6, 7])
    ∧ (frameCtl false 0 = (0, 0) ∧ (∃ a ∈ (eccOf 0 (atThr 0 64 twoCopies)).atThresh, a / pageBytes = 0) ∧ twoCopies.ecc.t1Out.contains 0 = false
      ∧ (∀ e ∈ twoCopies.mem.pages, e.2.kind = .sealed ∧ e.2.t2.isSome = true) ∧ keysRise twoCopies.mem.pages = true)
    ∧ ((15 : Nat) < 16 ∧ twoCopies.caps.lpdFailed.contains 0 = false ∧ keysRise twoCopies.mem.pages = true ∧ (∀ e ∈ twoCopies.mem.pages, e.2.kind = .sealed ∧ e.2.t1.isSome = true))
    ∧ injectAvail 0 { base with mon := { base.mon with injEnabled := true } } = true
    ∧ (bit (eccOf 256 (eccWith 256 (fun b => { b with flipCtrl := 1 }) base)).flipCtrl.toNat 0 = true ∧ bit (eccOf 256 (eccWith 256 (fun b => { b with flipCtrl := 1 }) base)).flipCtrl.toNat 1 = false) := by
  decide +kernel

/-! ### Contexts -/

/-- Configuration of `CTX_ALLOC` and `CTX_CONFIG`: slot, class, Save mode, engines, T1 reservation, tasklet quota, seed. -/
def cfgP (n lc eng t1 td seed : Nat) : Bytes :=
  leBytes 1 n ++ leBytes 1 lc ++ leBytes 1 1 ++ leBytes 1 0 ++ leBytes 2 eng ++ leBytes 2 1 ++ zeros 4 ++ leBytes 4 t1 ++ leBytes 4 td ++ leBytes 4 0 ++ leBytes 8 seed
def admitted (s : State) : State := { s with sec := { s.sec with sec := .admitted } }
def cfgR (op : Nat) (p : Bytes) : Req := reqA 1 op p
def cfgS (op : Nat) (p : Bytes) : State := withReq (cfgR op p) (admitted base)
theorem wit_CtxAlloc_bad : (Waits 1 0x10 1 (cfgR 0x10 (cfgP 64 0 1 0 1 0)) (cfgS 0x10 (cfgP 64 0 1 0 1 0)) ∧ 63 < fld (cfgP 64 0 1 0 1 0) 0 1)
    ∧ cfgBad (cfgP 63 0 1 0 0 0) base = true ∧ cfgBad (cfgP 63 0 1 0 (2 ^ 22) 0) base = false ∧ cfgBad (cfgP 63 0 1 0 (2 ^ 22 + 1) 0) base = true ∧ slotState 63 base = .free := by
  unfold Waits; (repeat' apply And.intro) <;> decide +kernel
theorem wit_CtxAlloc_denied : Waits 1 0x10 1 (cfgR 0x10 (cfgP 63 0 1 0 1 5)) (withReq (cfgR 0x10 (cfgP 63 0 1 0 1 5)) base) ∧ base.sec.sec ≠ .admitted := by
  unfold Waits; (repeat' apply And.intro) <;> decide +kernel
theorem wit_CtxAlloc_full : Waits 1 0x10 1 (cfgR 0x10 (cfgP 63 1 1 241 1 5)) (cfgS 0x10 (cfgP 63 1 1 241 1 5)) ∧ cfgBad (cfgP 63 1 1 241 1 5) (cfgS 0x10 (cfgP 63 1 1 241 1 5)) = false
    ∧ reserveFails 63 (cfgOf (cfgP 63 1 1 241 1 5) 0) (cfgS 0x10 (cfgP 63 1 1 241 1 5)) = true := by unfold Waits; (repeat' apply And.intro) <;> decide +kernel
theorem wit_CtxAlloc_ok : Waits 1 0x10 1 (cfgR 0x10 (cfgP 0 1 1 240 1 5)) (cfgS 0x10 (cfgP 0 1 1 240 1 5)) ∧ lowestFreeSlot (cfgS 0x10 (cfgP 0 1 1 240 1 5)) = some 1
    ∧ cfgBad (cfgP 0 1 1 240 1 5) (cfgS 0x10 (cfgP 0 1 1 240 1 5)) = false ∧ (cfgS 0x10 (cfgP 0 1 1 240 1 5)).sec.sec = .admitted
    ∧ reserveFails 1 (cfgOf (cfgP 0 1 1 240 1 5) 0) (cfgS 0x10 (cfgP 0 1 1 240 1 5)) = false ∧ saveFails 1 (cfgOf (cfgP 0 1 1 240 1 5) 0) (cfgS 0x10 (cfgP 0 1 1 240 1 5)) = false
    ∧ fld (cfgP 0 1 1 240 1 5) 24 8 ≠ 0 := by unfold Waits; (repeat' apply And.intro) <;> decide +kernel
theorem wit_CtxConfig : (Waits 1 0x11 1 (cfgR 0x11 (cfgP 63 0 1 0 1 0)) (cfgS 0x11 (cfgP 63 0 1 0 1 0)) ∧ slotAllocated 63 (cfgS 0x11 (cfgP 63 0 1 0 1 0)) = false)
    ∧ (Waits 1 0x11 1 (cfgR 0x11 (cfgP 1 0 1 0 1 0)) (withSlot slot1 (cfgS 0x11 (cfgP 1 0 1 0 1 0))) ∧ slotOf 1 (withSlot slot1 (cfgS 0x11 (cfgP 1 0 1 0 1 0))) = some slot1
      ∧ slotAllocated 1 (withSlot slot1 (cfgS 0x11 (cfgP 1 0 1 0 1 0))) = true ∧ cfgBad (cfgP 1 0 1 0 1 0) (withSlot slot1 (cfgS 0x11 (cfgP 1 0 1 0 1 0))) = false
      ∧ (cfgOf (cfgP 1 0 1 0 1 0) slot1.cfg.srSeed).steal = slot1.cfg.steal ∧ inFlight 1 (withSlot slot1 (cfgS 0x11 (cfgP 1 0 1 0 1 0))) = 0
      ∧ reserveFails 1 (cfgOf (cfgP 1 0 1 0 1 0) 0) (withSlot slot1 (cfgS 0x11 (cfgP 1 0 1 0 1 0))) = false
      ∧ saveFails 1 (cfgOf (cfgP 1 0 1 0 1 0) 0) (withSlot slot1 (cfgS 0x11 (cfgP 1 0 1 0 1 0))) = false) := by unfold Waits; (repeat' apply And.intro) <;> decide +kernel

def semP (kind count owner : Nat) : Bytes := leBytes 2 kind ++ leBytes 2 count ++ leBytes 1 owner ++ zeros 3 ++ leBytes 8 2
def withSem (m : Sem) (s : State) : State := { s with ctxs := { s.ctxs with sems := [(0, m)] } }
def freeSem (mutex : Bool) (count : Nat) (holder : Option (Nat × Nat)) : Sem := ⟨mutex, count, 1, 2, holder, [], false⟩
def adm (op : Nat) (p : Bytes) (s : State) : State := withReq (cfgR op p) s
theorem wit_ContextManagement_slots : (cfgR 0x13 [63]).mbx = 0 ∧
    (Waits 1 0x13 1 (cfgR 0x13 [63]) (adm 0x13 [63] tenant) ∧ fld (cfgR 0x13 [63]).payload 0 1 < 64) ∧ Waits 1 0x14 1 (cfgR 0x14 [0]) (adm 0x14 [0] tenant)
    ∧ (Waits 1 0x15 1 (cfgR 0x15 [2]) (adm 0x15 [2] tenant) ∧ slotAllocated 2 (adm 0x15 [2] tenant) = false) ∧ Waits 1 0x12 1 (cfgR 0x12 [0]) (adm 0x12 [0] tenant)
    ∧ (Waits 1 0x14 1 (cfgR 0x14 [1]) (adm 0x14 [1] tenant) ∧ slotOf 1 (adm 0x14 [1] tenant) = some slot1 ∧ slotAllocated 1 (adm 0x14 [1] tenant) = true ∧ slot1.state ≠ .resident)
    ∧ (Waits 1 0x14 1 (cfgR 0x14 [1]) (adm 0x14 [1] (resState [])) ∧ slotOf 1 (adm 0x14 [1] (resState [])) = some resSlot ∧ resSlot.state = .resident)
    ∧ Waits 1 0x15 1 (cfgR 0x15 [1]) (adm 0x15 [1] tenant) ∧ Waits 1 0x12 1 (cfgR 0x12 [1]) (adm 0x12 [1] tenant) := by unfold Waits; (repeat' apply And.intro) <;> decide +kernel
theorem wit_ContextManagement_others :
    (Waits 1 0x18 1 (cfgR 0x18 (leBytes 4 100)) (adm 0x18 (leBytes 4 100) base) ∧ fld (cfgR 0x18 (leBytes 4 100)).payload 4 4 = 0)
    ∧ Waits 1 0x18 1 (cfgR 0x18 (leBytes 4 1000000)) (adm 0x18 (leBytes 4 1000000) base) ∧ Waits 1 0x18 1 (cfgR 0x18 (leBytes 4 99)) (adm 0x18 (leBytes 4 99) base)
    ∧ Waits 1 0x18 1 (cfgR 0x18 (leBytes 4 1000001)) (adm 0x18 (leBytes 4 1000001) base)
    ∧ (Waits 1 0x16 1 (cfgR 0x16 (semP 1 1 1)) (adm 0x16 (semP 1 1 1) tenant) ∧ lowestFree 16384 ((adm 0x16 (semP 1 1 1) tenant).ctxs.sems.map (·.1)) = some 0
      ∧ fld (semP 1 1 1) 2 2 = 1 ∧ fld (semP 1 1 1) 4 1 = 1 ∧ slotAllocated 1 (adm 0x16 (semP 1 1 1) tenant) = true)
    ∧ (Waits 1 0x17 1 (cfgR 0x17 [0, 0]) (adm 0x17 [0, 0] (withSem (freeSem false 0 none) tenant)) ∧ semOf 0 (adm 0x17 [0, 0] (withSem (freeSem false 0 none) tenant)) = some (freeSem false 0 none)
      ∧ (freeSem false 0 none).waiters = [] ∧ (withSem (freeSem false 0 none) tenant).ctxs.donations = []) := by unfold Waits; (repeat' apply And.intro) <;> decide +kernel

/-- Context 1 has a tasklet in its queue, is suspended or held, and waits for its homes. -/
def outSlot : Slot := { resSlot with state := .suspended }
def work (k : Slot) : State := let s := withSlot k base
  { s with task := { s.task with pool := [(0, task1 0)], ready := [(4, [0])] } }
def ordered (s : State) : State := { s with ctxs := { s.ctxs with order := [1] } }
def heldSlot : Slot := { resSlot with hold := true }
def savedSlot : Slot := { outSlot with saved := some ⟨true, [(0, ({ EngSt.blank with run := true, tail := 1 }, Ring.init))], []⟩ }
/-- Context 2, BE, waits for the homes of context 1. -/
def rival (k : Slot) (s : State) : State := let t := withSlot k s
  { t with ctxs := { t.ctxs with slots := tset t.ctxs.slots 2 outSlot, order := [2] }, task := { t.task with pool := [(1, { task1 0 with ctx := 2 })], ready := [(8, [1])] } }
def rivalBe : State := { rival resSlot base with ledger := { base.ledger with reqs := [reqT 1 5 []] } }
def lcSlot : Slot := { resSlot with act := { resSlot.act with lc := true } }
theorem wit_ContextSwitch :
    (hasWork 1 (work outSlot) = true ∧ base.pwr.pwr ≠ .idle ∧ resident 1 (work outSlot) = false ∧ (work outSlot).ctxs.order.contains 1 = false)
    ∧ (switchAllowed [] (some 1) base = false ∧ switchAllowed [] (some 1) (ordered (work outSlot)) = true ∧ keysRise (work outSlot).ctxs.slots = true)
    ∧ (switchAllowed [1] none (withSlot heldSlot base) = true ∧ slotOf 1 (withSlot heldSlot base) = some heldSlot ∧ heldSlot.cfg.save = true ∧ heldSlot.homeE.Nodup
      ∧ (withSlot heldSlot base).task.harts = [] ∧ Hart.init.tjoin = none)
    ∧ (switchAllowed [] (some 1) (ordered (work savedSlot)) = true ∧ slotOf 1 (ordered (work savedSlot)) = some savedSlot ∧ savedSlot.nextHomes = none ∧ savedSlot.saved.isSome = true)
    ∧ (slotOf 1 rivalBe = some resSlot ∧ resSlot.state = .resident ∧ wantedBy false resSlot rivalBe = true ∧ runsLc 1 rivalBe = false ∧ hasWork 1 rivalBe = true)
    ∧ (slotOf 1 (rival lcSlot base) = some lcSlot ∧ wantedBy false lcSlot (rival lcSlot base) = true ∧ runsLc 1 (rival lcSlot base) = true ∧ lcSlot.donated = false
      ∧ hasWork 1 (rival lcSlot base) = false) := by
  decide +kernel

def semRun (m : Sem) : State := withSem m (running 0 0 [])
def waitedOn : Sem := { freeSem false 0 none with waiters := [⟨1, 0, 5, false, none⟩] }
theorem wit_Semaphores :
    (runningOn 0 (semRun (freeSem false 1 none)) = some (task1 0) ∧ semOf 1 (semRun (freeSem false 1 none)) = none ∧ semOf 0 (semRun (freeSem false 1 none)) = some (freeSem false 1 none)
      ∧ (freeSem false 1 none).owner = 1 ∧ ({ freeSem false 1 none with owner := 9, mask := 1 } : Sem).mask.toNat.testBit 1 = false)
    ∧ (0 < (freeSem false 1 none).count ∧ (freeSem false 0 none).count = 0 ∧ (freeSem false 65534 none).count ≠ 65535 ∧ (freeSem false 65535 none).count = 65535)
    ∧ ((freeSem true 0 (some (2, 0))).mutex = true ∧ ∀ x : Nat, (freeSem true 0 (some (2, 0))).holder ≠ some (1, x)) ∧ ((freeSem true 0 (some (1, 7))).holder = some (1, 7) ∧ base.ctxs.donations = [])
    ∧ (semOf 0 (withSem waitedOn (resState [])) = some waitedOn ∧ timedWaiter 0 waitedOn = some ⟨1, 0, 5, false, none⟩ ∧ resident 1 (withSem waitedOn (resState [])) = true) := by
  refine ⟨by decide +kernel, by decide +kernel, ⟨by decide, ?_⟩, by decide +kernel, by decide +kernel⟩
  intro x h
  simp [freeSem] at h

/-- Context 1 waits on a mutex that context 2 holds; context 2 is out, and may be held. -/
def mutex2 : Sem := { freeSem true 0 (some (2, 0)) with waiters := [⟨1, 0, 0, false, none⟩] }
def holder2 (hold : Bool) : Slot := { outSlot with hold := hold }
def donS (hold : Bool) : State := let s := withSem mutex2 (resState [])
  { s with ctxs := { s.ctxs with slots := tset s.ctxs.slots 2 (holder2 hold) } }
theorem wit_DonatedRun (hold : Bool) : semOf 0 (donS hold) = some mutex2 ∧ mutex2.mutex = true ∧ mutex2.exhausted = false ∧ mutex2.holder = some (2, 0)
    ∧ mutex2.waiters.find? (fun x => decide (x.hart = 0) && resident x.ctx (donS hold)) = some ⟨1, 0, 0, false, none⟩ ∧ resident 2 (donS hold) = false ∧ schedRuns (donS hold) = true ∧ blockedOn 2 (donS hold) = none
    ∧ slotOf 2 (donS hold) = some (holder2 hold) ∧ isHeld (holder2 hold) = hold ∧ (entryHomes (holder2 hold)).2 ≠ [] ∧ keysRise (donS hold).ctxs.slots = true
    ∧ (∀ o ∈ holdersOf (entryHomes (holder2 hold)) (donS hold), o ≠ 1 → runsLc o (donS hold) = false) ∧ (donS hold).host.held.length < 256 := by
  cases hold <;> (repeat' apply And.intro) <;> decide +kernel
def starving : State := let s := donS false
  { s with ctxs := { s.ctxs with slots := tset s.ctxs.slots 2 { holder2 false with state := .resident, donated := true }, donations := [⟨2, 0, 1, false⟩] } }
theorem wit_SemHolderStarved : mutex2.waiters = [⟨1, 0, 0, false, none⟩] ∧ starving.ctxs.donations.find? (fun x => decide (x.sem = 0)) = some ⟨2, 0, 1, false⟩ ∧ semOf 0 starving = some mutex2
    ∧ slotOf 2 starving = some { holder2 false with state := .resident, donated := true } := by decide +kernel

/-- The waiter waits for a request of SEARCH. -/
def starvedReq : State := withReq (reqT 6 1 []) (withSem { mutex2 with waiters := [⟨1, 0, 0, false, some 1⟩] } starving)
theorem wit_SemHolderStarved_request : semOf 0 starvedReq = some { mutex2 with waiters := [⟨1, 0, 0, false, some 1⟩] } ∧ starvedReq.ctxs.donations.find? (fun x => decide (x.sem = 0)) = some ⟨2, 0, 1, false⟩
    ∧ findReq 1 starvedReq = some (reqT 6 1 []) ∧ (reqT 6 1 []).svc ≠ 1 ∧ (reqT 6 1 []).done = none ∧ (reqT 6 1 []).redone = false := by decide +kernel
/-! ### Models and sessions -/

/-- A reference descriptor. -/
def refB (addr len space dir : Nat) : Bytes := leBytes 8 addr ++ leBytes 4 len ++ leBytes 1 space ++ leBytes 1 dir ++ zeros 2
def loadP (mib mb mw : Nat) : Bytes := ((List.range 4).flatMap fun _ => refB 0 33 1 1) ++ leBytes 4 mib ++ leBytes 2 mb ++ zeros 2 ++ leBytes 4 mw ++ zeros 4
/-- Components of 33 bytes, good headers; a weight tensor of the one byte of the first body. -/
def comp1 (k : Nat) : Bytes := [0x45, 0x5A, 0x43, 0x4D] ++ leBytes 2 (k + 1) ++ leBytes 2 State.reset.fw.ifver ++ leBytes 8 1 ++ zeros 17
def image1 (good : Bool) (t : List WTensor) : ModelImage := ⟨(List.range 4).map comp1, List.replicate 4 good, false, 1, 1, 128, 4, 2 ^ 18, t⟩
def tensor1 : WTensor := ⟨5, false, false, 1, 1, 32, 1⟩
def model1 : Model := ⟨1, 1, 1, 128, 4, 262144, false, [], 0, false, 262144, 1, 4, 4, [], 0, 4096, 2000, none, [], [], [], 0, 7⟩
def withModel (y : Model) (s : State) : State := { s with agents := { s.agents with models := [(1, y)], nextModel := 2 } }
def body1 : SessBody := SessBody.fresh 5
/-- Session 7 of context 1 on model 1. -/
def sess1 : Sess := ⟨1, 1, false, false, 0, 0, 32768, 0, 0xFFFF, .open, .none, 0, [], 0, [], [], 0, 0, body1, none, none, none, [], 1, 0, [], none, 1, [], 0, 0, none, []⟩
def withSess (x : Sess) (s : State) : State := { s with agents := { s.agents with sess := [(7, x)], nextSerial := 8 } }
def agentS (x : Sess) : State := withSess x (withModel model1 tenant)
def tR (svc op : Nat) (p : Bytes) : Req := reqT svc op p
theorem wit_ModelLoad : Waits 3 1 1 (tR 3 1 (loadP 1 4096 262144)) (withReq (tR 3 1 (loadP 1 4096 262144)) tenant) ∧ (∀ x ∈ loadRefs (tR 3 1 (loadP 1 4096 262144)), refReads x = true)
    ∧ fld (loadP 1 4096 262144) 68 2 ≤ 4096 ∧ fld (loadP 1 4096 262144) 72 4 ≤ 262144 ∧ fld (loadP 1 4096 262144) 72 4 % 256 = 0 ∧ fld (loadP 1 4096 262144) 70 2 < 4 ∧ fld (loadP 1 4096 262144) 76 4 ≤ 100000
    ∧ 4 ≤ 1 * 2 ^ 20 / max (image1 true []).kvBlockBytes 1 ∧ modelCount 1 tenant < 16 ∧ t1Fits 1 (1 * 2 ^ 20 + 4096 * 16 * 2 ^ 18) tenant = true ∧ tenant.agents.loads = [] := by
  unfold Waits; (repeat' apply And.intro) <;> decide +kernel
def loadS : State := withReq (tR 3 1 (loadP 1 4096 262144)) tenant
def loadR : Req := tR 3 1 (loadP 1 4096 262144)
theorem wit_ModelLoad_image : (loadDenied { image1 true [] with comps := [comp1 0] } loadR loadS).isSome = true ∧ loadDenied (image1 true [tensor1]) loadR loadS = none
    ∧ imageOk (image1 true []) (readComps (image1 true []) loadR loadS).1 loadS = true ∧ imageOk (image1 true [tensor1]) (readComps (image1 true [tensor1]) loadR loadS).1 loadS = true
    ∧ imageOk (image1 false []) (readComps (image1 false []) loadR loadS).1 loadS = false ∧ (image1 true [tensor1]).wf = true
    ∧ quotaFits 1 0 (2 ^ 21 * (1 + b2n (bit 0 0))) loadS = true := by (repeat' apply And.intro) <;> decide +kernel
def mS (op : Nat) (p : Bytes) (s : State) : State := withReq (tR 3 op p) s
theorem wit_ModelRequests : (Waits 3 2 1 (tR 3 2 (leBytes 4 9)) (mS 2 (leBytes 4 9) (withModel model1 tenant)) ∧ modelFor 1 9 (mS 2 (leBytes 4 9) (withModel model1 tenant)) = none)
    ∧ (Waits 3 2 1 (tR 3 2 (leBytes 4 1)) (mS 2 (leBytes 4 1) (agentS sess1)) ∧ modelFor 1 1 (mS 2 (leBytes 4 1) (agentS sess1)) = some model1 ∧ modelBusy 1 (mS 2 (leBytes 4 1) (agentS sess1)) = true)
    ∧ (Waits 3 2 1 (tR 3 2 (leBytes 4 1)) (mS 2 (leBytes 4 1) (withModel model1 tenant)) ∧ modelBusy 1 (mS 2 (leBytes 4 1) (withModel model1 tenant)) = false)
    ∧ Waits 3 3 1 (tR 3 3 (leBytes 4 1)) (mS 3 (leBytes 4 1) (withModel model1 tenant))
    ∧ (Waits 3 4 1 (tR 3 4 (leBytes 4 1 ++ leBytes 4 4096 ++ leBytes 4 100000)) (mS 4 (leBytes 4 1 ++ leBytes 4 4096 ++ leBytes 4 100000) (withModel model1 tenant))
      ∧ fld (leBytes 4 1 ++ leBytes 4 4096 ++ leBytes 4 100000) 4 2 = 4096 ∧ fld (leBytes 4 1 ++ leBytes 4 4096 ++ leBytes 4 100000) 8 4 = 100000) := by
  unfold Waits; (repeat' apply And.intro) <;> decide +kernel

def aS (op : Nat) (p : Bytes) (s : State) : State := withReq (tR 4 op p) s
def createP (win : Nat) : Bytes := leBytes 4 1 ++ zeros 4 ++ leBytes 8 99 ++ leBytes 4 win
def appP (n : Nat) : Bytes := leBytes 8 7 ++ leBytes 4 n ++ zeros 484
def genP : Bytes := leBytes 8 7 ++ leBytes 4 1 ++ zeros 44 ++ refB 0 12 1 2
theorem wit_AgentCreate : Waits 4 1 1 (tR 4 1 (createP 4096)) (aS 1 (createP 4096) (withModel model1 tenant)) ∧ Waits 4 1 1 (tR 4 1 (createP 262144)) (aS 1 (createP 262144) (withModel model1 tenant))
    ∧ modelFor 1 1 (aS 1 (createP 4096) (withModel model1 tenant)) = some model1 ∧ model1.encoder = false ∧ fld (createP 262144) 16 4 ≤ model1.maxWindow ∧ fld (createP 4096) 16 4 % 256 = 0
    ∧ fld (createP 4096) 4 1 = 0 ∧ fld (createP 4096) 5 1 ≤ 1 ∧ fld (createP 4096) 6 1 ≤ 2 ∧ fld (createP 4096) 20 2 ≤ 512 ∧ fld (createP 4096) 8 8 ≠ 0 ∧ model1.poolBlocks ≠ 0 ∧ tenant.agents.sess.length < 2 ^ 24 := by unfold Waits; (repeat' apply And.intro) <;> decide +kernel
theorem wit_SessionRequests :
    (Waits 4 4 1 (tR 4 4 (leBytes 8 9)) (aS 4 (leBytes 8 9) (agentS sess1)) ∧ sessTurn (tR 4 4 (leBytes 8 9)) (aS 4 (leBytes 8 9) (agentS sess1)) = true ∧ sessFor 1 9 (aS 4 (leBytes 8 9) (agentS sess1)) = none)
    ∧ (Waits 4 2 1 (tR 4 2 (appP 112)) (aS 2 (appP 112) (agentS sess1)) ∧ sessTurn (tR 4 2 (appP 112)) (aS 2 (appP 112) (agentS sess1)) = true ∧ sessFor 1 7 (aS 2 (appP 112) (agentS sess1)) = some sess1
      ∧ (refAt (appP 112) 16).len = 0 ∧ sess1.state ≠ .running ∧ totalTok sess1.body + 112 ≤ 2 ^ 26 ∧ sess1.logged.length + 112 ≤ 65536)
    ∧ (Waits 4 2 1 (tR 4 2 (appP 1)) (aS 2 (appP 1) (agentS { sess1 with state := .running })) ∧ sessFor 1 7 (aS 2 (appP 1) (agentS { sess1 with state := .running })) = some { sess1 with state := .running }
      ∧ sessTurn (tR 4 2 (appP 1)) (aS 2 (appP 1) (agentS { sess1 with state := .running })) = true)
    ∧ (Waits 4 3 1 (tR 4 3 genP) (aS 3 genP (agentS sess1)) ∧ refWrites (refAt genP 56) = true ∧ 8 + 4 * 1 ≤ (refAt genP 56).len ∧ fld genP 8 4 = 1 ∧ modelOf sess1.model (agentS sess1) = some model1)
    ∧ (Waits 4 7 1 (tR 4 7 (leBytes 8 7)) (aS 7 (leBytes 8 7) (agentS { sess1 with state := .running })) ∧ sessTurn (tR 4 7 (leBytes 8 7)) (aS 7 (leBytes 8 7) (agentS { sess1 with state := .running })) = true)
    ∧ (Waits 4 7 1 (tR 4 7 (leBytes 8 7)) (aS 7 (leBytes 8 7) (agentS sess1)) ∧ newSessId 1 (agentS sess1) ≠ 7 ∧ fld (leBytes 8 7) 16 1 = 0 ∧ sess1.ephemeral = false ∧ sess1.gen = none) ∧ Waits 4 8 1 (tR 4 8 (leBytes 8 7)) (aS 8 (leBytes 8 7) (agentS sess1))
    ∧ Waits 4 9 1 (tR 4 9 (leBytes 8 7)) (aS 9 (leBytes 8 7) (agentS sess1)) := by unfold Waits; (repeat' apply And.intro) <;> decide +kernel

def snap1 : Snap := ⟨1, 4096, body1, [], [], true, 0⟩
def pausedS : Sess := { sess1 with state := .paused, snaps := [snap1] }
def snapS (op : Nat) (x : Sess) : State := aS op (leBytes 8 7) (agentS x)
def snapR (op : Nat) : Req := tR 4 op (leBytes 8 7)
theorem wit_Snapshots_requests : (Waits 4 4 1 (snapR 4) (snapS 4 sess1) ∧ sessTurn (snapR 4) (snapS 4 sess1) = true ∧ sessFor 1 7 (snapS 4 sess1) = some sess1 ∧ sess1.ephemeral = false ∧ sess1.state ≠ .paused)
    ∧ (Waits 4 4 1 (snapR 4) (snapS 4 { sess1 with ephemeral := true }) ∧ sessFor 1 7 (snapS 4 { sess1 with ephemeral := true }) = some { sess1 with ephemeral := true })
    ∧ (Waits 4 4 1 (snapR 4) (snapS 4 pausedS) ∧ sessFor 1 7 (snapS 4 pausedS) = some pausedS ∧ pausedS.snaps = snap1 :: [])
    ∧ Waits 4 6 1 (snapR 6) (snapS 6 { sess1 with state := .running }) ∧ Waits 4 5 1 (snapR 5) (snapS 5 sess1)
    ∧ (Waits 4 5 1 (tR 4 5 (leBytes 8 7 ++ leBytes 4 2)) (aS 5 (leBytes 8 7 ++ leBytes 4 2) (agentS pausedS)) ∧ pausedS.snaps.find? (fun n => decide ((2 : Nat) = 0 ∨ n.seq = 2)) = none)
    ∧ (Waits 4 5 1 (snapR 5) (snapS 5 pausedS) ∧ pausedS.snaps.find? (fun n => decide ((0 : Nat) = 0 ∨ n.seq = 0)) = some snap1 ∧ modelOf 1 (snapS 5 pausedS) = some model1 ∧ model1.poolBlocks ≠ 0) := by unfold Waits; (repeat' apply And.intro) <;> decide +kernel
/-- A snapshot in progress, durable, and not while its data wait for the write buffer. -/
def committing : Sess := { sess1 with inProg := some { snap1 with waiters := [1], pause := false } }
def snapRuns (s : State) : State := { s with agents := { s.agents with snapRun := [7] } }
def notDurable : State := let s := snapRuns (agentS committing)
  { s with ftl := { s.ftl with waiting := [⟨0, 4096, [⟨1, .snap 7 1, 1, 0, 0, 4096, [], [], 0, 0, false⟩], none⟩] } }
def durable : State := aS 6 (leBytes 8 7) (snapRuns (agentS committing))
theorem wit_SnapshotCommit : (sessOf 7 notDurable = some committing ∧ snapDurable 7 { snap1 with waiters := [1], pause := false } notDurable = false) ∧ sessOf 7 durable = some committing ∧ snapDurable 7 { snap1 with waiters := [1], pause := false } durable = true
    ∧ committing.mirror = 0 ∧ durable.agents.snapWait = [] ∧ findReq 1 durable = some (tR 4 6 (leBytes 8 7)) := by decide +kernel

/-- A PAUSE waits for the boundary of session 7, OPEN on a resident model. -/
def atB : Sess := { sess1 with atBoundary := [1] }
def atBState : State := withReq { tR 4 4 (leBytes 8 7) with running := true } (withSess atB (withModel model1 (withSlot resSlot base)))
theorem wit_Snapshots_boundary : modelOf 1 atBState = some model1 ∧ slotState 1 atBState = .resident ∧ sessOfModel 1 atBState = [(7, atB)] ∧ sessOf 7 atBState = some atB ∧ atB.state = .open ∧ atB.phase = .none
    ∧ atB.gen = none ∧ atB.inProg = none ∧ findReq 1 atBState = some { tR 4 4 (leBytes 8 7) with running := true } ∧ atBState.agents.snapWait = [] ∧ atBState.agents.snapRun = []
    ∧ ckptUsed atBState + snapBytes atB atB.body atBState ≤ ckptCap := by decide +kernel

/-- Session 7 is the one member of its model's batch, at its last but one open token. -/
def gen1 : Gen := ⟨1, 2, 9, 1, 0x1000, 16, 0⟩
def member1 : Sess := { sess1 with state := .running, phase := .member, gen := some gen1, body := { body1 with openToks := List.replicate 254 1, tokens := 254 } }
def batchS : State := let s := withSess member1 (withModel { model1 with members := [7] } (withSlot resSlot base))
  { s with ledger := { s.ledger with reqs := [{ tR 4 3 genP with running := true }] } }
theorem wit_StepBoundary :
    (modelOf 1 (withModel model1 (withSlot resSlot base)) = some model1 ∧ model1.encoder = false ∧ slotState 1 (withModel model1 (withSlot resSlot base)) = .resident ∧ model1.members = [] ∧ model1.joiners = []
      ∧ sessOfModel 1 (withModel model1 (withSlot resSlot base)) = [] ∧ model1.cache = [])
    ∧ (modelOf 1 batchS = some { model1 with members := [7] } ∧ slotState 1 batchS = .resident ∧ sessOfModel 1 batchS = [(7, member1)] ∧ member1.inProg = none ∧ member1.atBoundary = []
      ∧ member1.snapPeriod = 0xFFFF ∧ member1.body.sealed = [] ∧ member1.body.openTok < 255 ∧ member1.blocks = 1 ∧ (5 : U32).toNat ≠ gen1.stopTok ∧ member1.body.generated + 1 < gen1.maxNew ∧ member1.chunkLeft = 0 ∧ member1.selected = [] ∧ member1.logged.length < 65535
      ∧ totalTok member1.body + 1 < 2 ^ 26 ∧ member1.body.pending = [] ∧ gen1.outSpace = 1 ∧ findReq gen1.rid batchS = some { tR 4 3 genP with running := true } ∧ (tR 4 3 genP).refsOpen = true ∧ batchS.ports.remote = []) := by decide +kernel

/-- A member with 128 sealed blocks, one of which lies outside its window. -/
def retr1 : Sess := { member1 with retrBlocks := 1, selected := [0], body := { body1 with sealed := List.range 129 } }
def mirrored1 : Sess := { sess1 with mirror := 1, snaps := [snap1] }
def unavail : Sess := { sess1 with mirror := 1, mirrorPos := 0, mirrorWait := some (1, [1]) }
def roped (s : State) : State := { s with ports := { s.ports with serials := [zeros 16, [1]], pos := 0 } }
theorem wit_SessionEvents : sessOf 7 (agentS { sess1 with phase := .reshard }) = some { sess1 with phase := .reshard }
    ∧ (sessOf 7 (agentS retr1) = some retr1 ∧ retrieving retr1 0 (agentS retr1) = true ∧ retr1.gen = some gen1)
    ∧ (sessOf 7 (agentS mirrored1) = some mirrored1 ∧ mirrored1.mirror = 1 ∧ mirrored1.snaps = snap1 :: [] ∧ (∀ b ∈ snap1.body.sealed, b ∈ mirrored1.sentBlks) ∧ mirrored1.mirrorWait = none ∧ (agentS mirrored1).host.held.length < 256)
    ∧ (unavail.mirrorWait = some (1, [1]) ∧ findReq 1 (roped (aS 6 (leBytes 8 7) (agentS unavail))) = some (tR 4 6 (leBytes 8 7)) ∧ peerReach 0 (roped (aS 6 (leBytes 8 7) (agentS unavail))) = true) := by
  decide +kernel

/-! ### Scan, search, EMBED -/

/-- A predicate program without terms or code part: 32 bytes, MAX_DIST 0xFFFF. -/
def prog0 : Bytes := ascii "EZSP" ++ leBytes 2 0 ++ leBytes 2 0 ++ zeros 24
def ns1 : Ns := ⟨128, 1, false, [(0, 1)], 1, [1], none⟩
def withNs (x : Ns) (s : State) : State := { s with store := { s.store with ns := [(1, x)] } }
def withProg (code : Bytes) (s : State) : State := { s with search := { s.search with progs := [(67108865, ⟨1, code⟩)] } }
def scanS : State := withProg prog0 (withNs ns1 tenant)
def qS (svc op : Nat) (p : Bytes) (s : State) : State := withReq (tR svc op p) s
def runP (ns prog slba nlb : Nat) : Bytes := leBytes 4 ns ++ leBytes 4 prog ++ leBytes 8 slba ++ leBytes 4 nlb ++ zeros 12 ++ refB 0x1000 64 1 2
theorem wit_ScanCommands_programs : (Waits 7 1 1 (tR 7 1 (refB 0 32 1 1)) (qS 7 1 (refB 0 32 1 1) tenant) ∧ refReads (refAt (refB 0 32 1 1) 0) = true ∧ (refAt (refB 0 32 1 1) 0).space = 1 ∧ (zeros 31).length < min (refAt (refB 0 32 1 1) 0).len 4385 ∧ progGood (sub (zeros 32) 0 32) = false)
    ∧ (min (refAt (refB 0 32 1 1) 0).len 4385 ≤ prog0.length ∧ progGood (sub prog0 0 32) = true ∧ (scanS.search.progs.filter fun e => decide (e.2.ctx = 1)).length < 64)
    ∧ (Waits 7 2 1 (tR 7 2 (leBytes 4 9)) (qS 7 2 (leBytes 4 9) scanS) ∧ progOf 1 9 (qS 7 2 (leBytes 4 9) scanS) = none)
    ∧ (Waits 7 2 1 (tR 7 2 (leBytes 4 67108865)) (qS 7 2 (leBytes 4 67108865) scanS) ∧ (progOf 1 67108865 (qS 7 2 (leBytes 4 67108865) scanS)).isSome = true) := by
  unfold Waits; (repeat' apply And.intro) <;> decide +kernel
theorem wit_ScanCommands_run : (Waits 7 3 1 (tR 7 3 (runP 2 67108865 0 1)) (qS 7 3 (runP 2 67108865 0 1) scanS) ∧ nsFor 1 2 (qS 7 3 (runP 2 67108865 0 1) scanS) = none ∧ refWrites (refAt (runP 2 67108865 0 1) 32) = true)
    ∧ (Waits 7 3 1 (tR 7 3 (runP 1 67108865 0 129)) (qS 7 3 (runP 1 67108865 0 129) scanS) ∧ nsFor 1 1 (qS 7 3 (runP 1 67108865 0 129) scanS) = some ns1 ∧ ns1.nsze < 0 + 129)
    ∧ (Waits 7 3 1 (tR 7 3 (runP 1 9 0 128)) (qS 7 3 (runP 1 9 0 128) scanS) ∧ progOf 1 9 (qS 7 3 (runP 1 9 0 128) scanS) = none ∧ 0 + 128 ≤ ns1.nsze)
    ∧ (Waits 7 3 1 (tR 7 3 (runP 1 67108865 127 1)) (qS 7 3 (runP 1 67108865 127 1) scanS) ∧ (progOf 1 67108865 (qS 7 3 (runP 1 67108865 127 1) scanS)).isSome = true
      ∧ (refAt (runP 1 67108865 127 1) 32).space = 1 ∧ 32 ≤ (refAt (runP 1 67108865 127 1) 32).len ∧ scanS.ftl.user = [] ∧ scanS.ftl.dirty = []
      ∧ LinkFree 1 (qS 7 3 (runP 1 67108865 127 1) scanS) ∧ (scanRange prog0 ns1 127 1 64 (qS 7 3 (runP 1 67108865 127 1) scanS)).status = none ∧ 1 ≤ fld (runP 1 67108865 127 1) 16 4) := by
  unfold Waits LinkFree; (repeat' apply And.intro) <;> decide +kernel
/-- Unit 0 of namespace 1 lies in slot 5, on channel 5. -/
def mapped5 : State := { scanS with ftl := { scanS.ftl with user := [(0, 5)] } }
theorem wit_PageEvaluate : tget mapped5.search.progs 67108865 = some ⟨1, prog0⟩ ∧ nsOfUnit 0 mapped5 = some (1, ns1, 0) ∧ mapGet 0 0 mapped5 = some 5 ∧ flashRuns mapped5 = true ∧ slotCh 5 = 5
    ∧ (dirtyAt 0 0 mapped5).isNone = true ∧ mapped5.search.scanOff.contains 5 = false ∧ ns1.attached.contains 1 = true ∧ tgetD mapped5.search.resultQ 5 [] = [] ∧ tgetD mapped5.search.disagree 5 [] = [] := by
  decide +kernel

/-- An index of 256-bit codes with two items in its side list. -/
def code32 : Bytes := zeros 32
def idx1 : Index := ⟨1, 256, 32, 8, 0, 4, 1, 0, ⟨[], [], []⟩, [⟨5, code32, 1, none, false⟩, ⟨6, code32, 1, none, false⟩], [], none, false⟩
def withIdx (x : Index) (s : State) : State := { s with search := { s.search with idx := [(67108865, x)], nextIdx := 2 } }
def sS (op : Nat) (p : Bytes) (x : Index) : State := withReq (tR 6 op p) (withIdx x tenant)
def createIdxP : Bytes := leBytes 2 2048 ++ leBytes 1 64 ++ leBytes 1 32 ++ leBytes 4 65536 ++ leBytes 8 4294967295
def putP (n : Nat) : Bytes := leBytes 4 67108865 ++ leBytes 4 n ++ zeros 8 ++ refB 0 80 1 1
def askP : Bytes := leBytes 4 67108865 ++ leBytes 2 1024 ++ [1, 1] ++ zeros 2 ++ [32] ++ zeros 5 ++ refB 0 32 1 1 ++ refB 0x2000 16400 1 2
def keyData (k : Nat) : Bytes := leBytes 8 k ++ code32 ++ leBytes 8 (k + 1) ++ code32
theorem wit_SearchCreate : Waits 6 1 1 (tR 6 1 createIdxP) (withReq (tR 6 1 createIdxP) tenant) ∧ fld createIdxP 0 2 = 2048 ∧ fld createIdxP 2 1 ≤ 64 ∧ fld createIdxP 3 1 ≤ 32 ∧ fld createIdxP 4 4 ≤ 65536
    ∧ fld createIdxP 8 8 < 2 ^ 32 ∧ fld createIdxP 8 8 + sumN (tenant.search.idx.map fun e => e.2.maxNodes) ≤ 2 ^ 33
    ∧ quotaFits 1 (min (65536 * 2 ^ 20) (4294967295 * (256 + 256 + 8))) (4294967295 * (256 + 256 + 8)) (withReq (tR 6 1 createIdxP) tenant) = true := by unfold Waits; (repeat' apply And.intro) <;> decide +kernel
theorem wit_SearchCommands : (Waits 6 2 1 (tR 6 2 (leBytes 4 9)) (sS 2 (leBytes 4 9) idx1) ∧ idxOf (tR 6 2 (leBytes 4 9)) 9 (sS 2 (leBytes 4 9) idx1) = none)
    ∧ (Waits 6 2 1 (tR 6 2 (leBytes 4 67108865)) (sS 2 (leBytes 4 67108865) idx1) ∧ idxOf (tR 6 2 (leBytes 4 67108865)) 67108865 (sS 2 (leBytes 4 67108865) idx1) = some idx1 ∧ idx1.pend = [] ∧ idx1.merge = none)
    ∧ Waits 6 6 1 (tR 6 6 (leBytes 4 67108865)) (sS 6 (leBytes 4 67108865) idx1) ∧ Waits 6 7 1 (tR 6 7 (leBytes 4 67108865)) (sS 7 (leBytes 4 67108865) idx1) := by
  unfold Waits; (repeat' apply And.intro) <;> decide +kernel
/-- Two items added fill the index to its limit of 4; two keys removed, one of which is visible. -/
theorem wit_SearchInsertDelete : (Waits 6 3 1 (tR 6 3 (putP 2)) (sS 3 (putP 2) idx1) ∧ idxOf (tR 6 3 (putP 2)) 67108865 (sS 3 (putP 2) idx1) = some idx1 ∧ epochTurn (tR 6 3 (putP 2)) 67108865 (sS 3 (putP 2) idx1) = true
      ∧ refReads (refAt (putP 2) 16) = true ∧ (visibleKeys idx1 2).Nodup ∧ (visibleKeys idx1 2).length + 2 ≤ idx1.maxNodes ∧ 2 * (8 + 256 / 8) ≤ (refAt (putP 2) 16).len
      ∧ ((List.range 2).map (fun i => fld (sub (keyData 7) 0 (2 * (8 + 256 / 8))) (i * (8 + 256 / 8)) 8)).Nodup ∧ (∀ y ∈ idx1.side, y.ins < 2 ∧ y.del = none) ∧ idx1.side.length + 2 * 2 < 3145728
      ∧ quotaFits 1 (2 * 2 * (24 + 256 / 8)) (2 * 2 * (24 + 256 / 8)) (sS 3 (putP 2) idx1) = true ∧ 2 * (8 + 256 / 8) ≤ (keyData 7).length ∧ (refAt (putP 2) 16).space = 1)
    ∧ (Waits 6 4 1 (tR 6 4 (putP 2)) (sS 4 (putP 2) idx1) ∧ 2 * 8 ≤ (refAt (putP 2) 16).len ∧ 2 * 8 ≤ (leBytes 8 6 ++ leBytes 8 7).length ∧ (visibleKeys idx1 2).length ≤ idx1.maxNodes ∧ ((List.range 2).map (fun i => fld (sub (leBytes 8 6 ++ leBytes 8 7) 0 16) (i * 8) 8)).Nodup) := by
  unfold Waits; (repeat' apply And.intro) <;> decide +kernel
theorem wit_SearchQuery : Waits 6 5 1 (tR 6 5 askP) (sS 5 askP idx1) ∧ fld askP 4 2 = 1024 ∧ fld askP 6 1 = 1 ∧ fld askP 7 1 = 1 ∧ fld askP 10 1 = 32 ∧ refReads (refAt askP 16) = true ∧ 256 / 8 ≤ (refAt askP 16).len
    ∧ refWrites (refAt askP 32) = true ∧ 16 + 16 * 1024 ≤ (refAt askP 32).len ∧ arrayLost 67108865 (sS 5 askP idx1) = false ∧ LinkFree 1 (sS 5 askP idx1) ∧ 256 / 8 ≤ code32.length ∧ (refAt askP 32).space = 1 := by unfold Waits LinkFree; (repeat' apply And.intro) <;> decide +kernel
def pend1 : Pend := ⟨1, 2, 1, 0, 0, true⟩
def node1 : GNode := ⟨9, code32⟩
/-- A merge of epoch 1 runs; the graph holds one node, which a later request deleted. -/
def merging : Index := { idx1 with graph := ⟨[node1], [[]], [0]⟩, side := [⟨5, code32, 1, none, false⟩, ⟨9, [], 2, none, true⟩], merge := some ⟨1, [1]⟩, epoch := 2 }
theorem wit_EpochAndMerge : ({ pend1 with acc := false } : Pend).acc = false ∧ (idxGet 67108865 (sS 3 (putP 1) { idx1 with pend := [pend1] }) = some { idx1 with pend := [pend1] } ∧ (findReq 1 (sS 3 (putP 1) { idx1 with pend := [pend1] })).isSome = true)
    ∧ (idxGet 67108865 (sS 6 (leBytes 4 67108865) merging) = some merging ∧ merging.merge = some ⟨1, [1]⟩ ∧ (visibleKeys merging 1).Nodup
      ∧ (∀ y ∈ merging.side, y.tomb = true → 1 < y.ins → ∃ n ∈ merging.graph.nodes, n.key = y.key ∧ nodeDead merging n.key 1 = false)) := by decide +kernel

def embP (doc : Bool) : Bytes := (if doc then leBytes 4 1 ++ leBytes 4 1 ++ leBytes 8 0 ++ leBytes 4 1 ++ leBytes 2 16384 ++ leBytes 2 0 else leBytes 4 1 ++ zeros 20) ++ leBytes 2 256 ++ zeros 6 ++ refB 0x3000 1024 1 2 ++ refB 0 8 1 1
def encS : State := withNs ns1 (withModel { model1 with encoder := true } tenant)
def embRes : EmbedReport := ⟨1, false, [List.replicate 256 0]⟩
theorem wit_Embed : (Waits 8 1 1 (tR 8 1 (embP true)) (withReq (tR 8 1 (embP true)) encS) ∧ fld (embP true) 23 1 = 0 ∧ fld (embP true) 24 2 = 256 ∧ refWrites (refAt (embP true) 32) = true
      ∧ (embedVectors embRes []).length ≤ (refAt (embP true) 32).len ∧ (refAt (embP true) 32).space = 1 ∧ LinkFree 1 (withReq (tR 8 1 (embP true)) encS) ∧ fld (embP true) 20 2 ≤ 16384 ∧ nsFor 1 (fld (embP true) 4 4) (withReq (tR 8 1 (embP true)) encS) = some ns1
      ∧ fld (embP true) 8 8 + fld (embP true) 16 4 ≤ ns1.nsze ∧ encoderOf (tR 8 1 (embP true)) (withReq (tR 8 1 (embP true)) encS) = true ∧ encoderOf (tR 8 1 (embP true)) (withReq (tR 8 1 (embP true)) tenant) = false)
    ∧ nsFor 1 (fld (embP true) 4 4) (withReq (tR 8 1 (embP true)) tenant) = none
    ∧ recordsFound (fld (embP true) 20 2) 0 ns1 0 1 (withReq (tR 8 1 (embP true)) encS) = ([], 1, false)
    ∧ (Waits 8 2 1 (tR 8 2 (embP false)) (withReq (tR 8 2 (embP false)) encS) ∧ refReads (refAt (embP false) 48) = true ∧ encoderOf (tR 8 2 (embP false)) (withReq (tR 8 2 (embP false)) encS) = true
      ∧ (refAt (embP false) 48).space = 1 ∧ (embedVectors embRes (List.range 1)).length ≤ (refAt (embP false) 32).len ∧ fld (embP false) 24 2 = 256) := by
  unfold Waits LinkFree; (repeat' apply And.intro) <;> decide +kernel

/-- Unit 0 can no longer be read. -/
def lost5 (s : State) : State := { s with ftl := { s.ftl with user := [(0, 5)], lost := [5], bulkExt := [(0, .array 67108865 0)] } }
theorem wit_lost_units : arrayLost 67108865 (lost5 (sS 5 askP idx1)) = true ∧ (recordsFound 16384 0 ns1 0 1 (lost5 encS)).2.2 = true := by decide +kernel


/-! ### The flash translation layer -/

def unit0 : BufUnit := ⟨1, .page 1 1, 0, 0, 0, 4096, [], [], 0, 0, false⟩
/-- Superblock 0, open in SLC with one stripe, holds unit 0 of the user pool in slot 5. -/
def openSb : Sb := ⟨true, false, true, false, 0, 1, 0⟩
def fullSb : Sb := ⟨false, false, false, true, 0, 12288, 4⟩
def withFtl (f : Ftl → Ftl) (s : State) : State := { s with ftl := f s.ftl }
def slot5 : SlotPg := ⟨0, 0, 0, 1, 0, .ns 1, [(0, 9)]⟩
def flashS : State := withFtl (fun f => { f with user := [(0, 5)], media := [(5, slot5)], sbs := [(0, openSb)], dirtyLimit := 2 ^ 32, writeThrough := false }) base
/-- Page 1 waits for its flash copy. -/
def writeS : State := withFtl (fun f => { f with waiting := [⟨0, 4096, [{ unit0 with index := 7 }], none⟩] }) { flashS with mem := { flashS.mem with pages := [(1, page1 .sealed [])] } }
theorem wit_FlashWrite : flashRuns writeS = true ∧ writeS.agents.mirrorStore = [] ∧ paceOk ⟨0, 4096, [{ unit0 with index := 7 }], none⟩ writeS = true ∧ writeS.ftl.extWait = [] ∧ writeS.ftl.waiting = [⟨0, 4096, [{ unit0 with index := 7 }], none⟩] ∧ writeS.ftl.writeProt = false
    ∧ writeS.ftl.writeThrough = false ∧ dirtyBytes writeS + 4096 ≤ writeS.ftl.dirtyLimit ∧ (dirtyAt 0 7 writeS).isNone = true ∧ pageGet 1 writeS = some (page1 .sealed []) ∧ (page1 .sealed []).dropT1 = false
    ∧ (page1 .sealed []).dropT2 = false := by decide +kernel
/-- A unit in the buffer, for the open superblock. -/
def stripeS : State := withFtl (fun f => { f with dirty := [{ unit0 with index := 7 }] }) flashS
theorem freshSb_flashS (sb : Nat) : FreshSb sb flashS := by
  refine ⟨?_, ?_⟩
  · intro e he h
    have h0 : e = (0, 5) := by simpa [flashS, withFtl, base, State.reset, Ftl.init] using he
    subst h0
    have h1 : sb = 0 := by rw [← h]; decide
    subst h1; decide +kernel
  · intro h
    by_cases h0 : sb = 0
    · subst h0; decide +kernel
    · have h1 : tget flashS.ftl.sbs sb = none := by simp [flashS, withFtl, tget, Ne.symm h0]
      simp [sbOf, tgetD, h1] at h
theorem wit_FlashStripe : (let us := stripeS.ftl.dirty.filter fun u => [1].contains u.id
      flashRuns stripeS = true ∧ us ≠ [] ∧ (∀ u ∈ us, u.space = b2n false) ∧ (∀ u ∈ stripeS.ftl.dirty, u.space ≤ 1 ∧ isMove u = false ∧ u.cmds = []) ∧ (stripeS.ftl.dirty.map fun u => (u.space, u.index)).Nodup
      ∧ (stripeS.ftl.dirty.map (·.id)).Nodup ∧ sbTakes 0 false false stripeS = true ∧ stripeS.ftl.deltas.length + us.length < deltaLimit ∧ stripeS.agents.mirrorStore = []
      ∧ (∀ u ∈ us, twinOf u.item = none ∧ overtakes u (stripeS.ftl.dirty.filter fun v => !([1].contains v.id)) stripeS.ftl.dirty = false))
    ∧ (∀ pl, 1 ≤ (stripeChans 0 pl stripeS).2.length) ∧ FreshSb 0 stripeS := by
  refine ⟨by decide +kernel, fun pl => ?_, freshSb_flashS 0⟩
  have h : stripeS.ftl.retired = [] ∧ stripeS.caps.nandFailed = [] := by decide +kernel
  have e : stripeChans 0 pl stripeS = stripeChans 0 0 stripeS := by simp only [stripeChans, dieFailed, h.1, h.2, List.contains_nil]
  rw [e]; decide +kernel
def delta1 : JEntry := ⟨0, 0, 0, 5, 0⟩
def journalS : State := withFtl (fun f => { f with deltas := [delta1], journal := [⟨1, [delta1, { delta1 with index := 3840 }]⟩], segDirty := [(0, 1), (1, 1)] }) flashS
theorem wit_FlashJournal : flashRuns journalS = true ∧ journalS.ftl.deltas ≠ [] ∧ journalS.ftl.journal.length < journalCap ∧ tget journalS.ftl.segDirty 0 = some 1 := by decide +kernel

theorem wit_FlashReclaim_keeps : ∀ sb, sb < 22896 → FreshSb sb flashS := fun sb _ => freshSb_flashS sb
/-- Superblock 1 is closed and holds nothing valid; the closed SLC superblock 1 with the open QLC superblock 2. -/
def gcS : State := withFtl (fun f => { f with sbs := [(0, openSb), (1, fullSb), (2, { openSb with slc := false, order := 1 })] }) flashS
def foldS : State := withFtl (fun f => { f with sbs := [(0, openSb), (1, { fullSb with slc := true, stripes := 3072 }), (2, { openSb with slc := false, order := 1 })] }) flashS
theorem wit_FlashReclaim_free :
    (flashRuns gcS = true ∧ dstOk 1 2 gcS = true ∧ validUnits 1 gcS = [] ∧ gcSource gcS = some 1 ∧ (sbOf 2 gcS).open_ = true)
    ∧ (dstOk 1 2 foldS = true ∧ validUnits 1 foldS = [] ∧ oldestSb ((closedSbs foldS).filter fun e => e.2.slc && !e.2.pinned) = some 1 ∧ qlcDst foldS = some 2 ∧ foldS.ftl.writeProt = false) := by decide +kernel
theorem wit_FlashReclaim_read : tget flashS.ftl.media 5 = some slot5 ∧ flashRuns flashS = true ∧ slot5.item = .ns 1 ∧ flashS.ftl.lost.contains 5 = false ∧ 0 < (sbOf (1 / 1272 / 4 % 18 * 1272 + 1 % 1272) gcS).stripes ∧ dieFailed (slotCh 5) (sbDie (slotSb 5)) flashS = false
    ∧ gcS.ftl.gcQueue.contains 1 = false := by decide +kernel
/-- The limits of the block number, the channel and the die. -/
theorem wit_FlashReclaim_retire : (flashRuns flashS = true ∧ flashS.ftl.retired.contains 2930687 = false ∧ blockValid 2930687 flashS = false ∧ flashS.host.held.length < 250 ∧ (flashS.ftl.retireAt.filter fun e => decide (e.1 = blkDie 2930687)).length < 64
      ∧ (withFtl (fun f => { f with failing := [2930687] }) flashS).ftl.failing.contains 2930687 = true)
    ∧ dieFailed 31 17 flashS = false ∧ flashS.ftl.rebuilding = [] ∧ (tget (withFtl (fun f => { f with rebuilding := [(18 * 31 + 17, 3)] }) flashS).ftl.rebuilding (18 * 31 + 17)).isSome = true
    ∧ (∀ e ∈ flashS.ftl.user ++ flashS.ftl.pinned, slotCh e.2 = 31 → sbDie (slotSb e.2) ≠ 17)
    ∧ (∀ n ∈ [64, 65], ((List.replicate n ((575, 0) : Nat × Nat)).filter fun e => decide (e.1 = 18 * 31 + 17 ∧ clockNow domAon flashS < e.2 + 8640000000000)).length = n) := by decide +kernel

/-! ### STORE -/

def qp1 : Qp := ⟨1, 2, 1, false, 0x200000, ⟨0x1000, 128, 1, 1⟩, ⟨0x2000, 32, 1, 2⟩, 0, 0, 0, 0, true, 0, none, [], 0, 0, 0⟩
def withQp (p : Qp) (s : State) : State := { s with store := { s.store with qps := [(1025, p)] } }
def qpP (want depth : Nat) : Bytes := leBytes 2 want ++ leBytes 2 depth ++ [1, 0, 0, 0] ++ leBytes 8 0x200000 ++ refB 0x1000 (64 * depth) 1 1 ++ refB 0x80000 (16 * depth) 1 2
def stS (op : Nat) (p : Bytes) (s : State) : State := withReq (reqT 2 op p) s
/-- The limits of the queue number and of the depth. -/
theorem wit_StoreQueues_create : ∀ x ∈ [(1, 2), (256, 4096)], hasRef (reqT 2 2 (qpP x.1 x.2)) = false ∧ Waits 2 2 1 (reqT 2 2 (qpP x.1 x.2)) (stS 2 (qpP x.1 x.2) (resState []))
    ∧ qpOf (1024 + x.1) (stS 2 (qpP x.1 x.2) (resState [])) = none ∧ fld (qpP x.1 x.2) 0 2 = x.1 ∧ fld (qpP x.1 x.2) 2 2 = x.2 ∧ fld (qpP x.1 x.2) 4 1 ≤ 1 ∧ fld (qpP x.1 x.2) 5 1 ≤ 1 ∧ refReads (refAt (qpP x.1 x.2) 16) = true
    ∧ refWrites (refAt (qpP x.1 x.2) 32) = true ∧ 64 * x.2 ≤ (refAt (qpP x.1 x.2) 16).len ∧ 16 * x.2 ≤ (refAt (qpP x.1 x.2) 32).len ∧ fld (qpP x.1 x.2) 8 8 % 8 = 0 ∧ plainPage 1 (fld (qpP x.1 x.2) 8 8) (resState []) = true
    ∧ leNat (rdBytes 1 (fld (qpP x.1 x.2) 8 8) 8 (resState [])) = 0 ∧ (resState []).store.qps.length < 256 ∧ qpCount 1 (resState []) < 64 := by
  unfold Waits; decide +kernel
theorem wit_StoreQueues_requests : (Waits 2 3 1 (reqT 2 3 (leBytes 2 9)) (stS 3 (leBytes 2 9) tenant) ∧ qpOf 1033 (stS 3 (leBytes 2 9) tenant) = none) ∧ Waits 2 4 1 (reqT 2 4 (leBytes 2 9)) (stS 4 (leBytes 2 9) tenant)
    ∧ (Waits 2 3 1 (reqT 2 3 (leBytes 2 1)) (stS 3 (leBytes 2 1) (withQp qp1 tenant)) ∧ qpOf 1025 (stS 3 (leBytes 2 1) (withQp qp1 tenant)) = some qp1 ∧ qp1.deleting = none ∧ qp1.fetched = []
      ∧ QuietStore (stS 3 (leBytes 2 1) (withQp qp1 tenant))) ∧ Waits 2 4 1 (reqT 2 4 (leBytes 2 1)) (stS 4 (leBytes 2 1) (withQp qp1 tenant)) := by
  unfold Waits QuietStore; (repeat' apply And.intro) <;> decide +kernel
/-- A doorbell word with SQ tail 1, one with tail 2 (the depth); a read command in the submission ring. -/
def bell (tl : Nat) : State := withQp { qp1 with sq := ⟨0x200040, 128, 0, 1⟩ } (resState [(0, BitVec.ofNat 8 tl)])
def fetchS : State := withQp { qp1 with sq := ⟨0x200040, 512, 0, 1⟩, depth := 8, sqTail := 1 } (resState [(0x40, 2)])
theorem wit_StoreQueues_doorbell : (∀ tl ∈ [1, 2], let s := bell tl; let p := { qp1 with sq := ⟨0x200040, 128, 0, 1⟩ }
      qpOf 1025 s = some p ∧ storeRuns p.ctx s = true ∧ plainPage p.ctx p.dbVa s = true ∧ BitVec.ofNat 64 (leNat (rdBytes p.ctx p.dbVa 8 s)) ≠ p.dbSeen ∧ leNat (rdBytes p.ctx p.dbVa 8 s) = tl
      ∧ modDist 2 0 p.cqHead ≤ modDist 2 p.cqTail p.cqHead ∧ modDist 2 p.sqTail p.sqHead ≤ modDist 2 1 p.sqHead)
    ∧ (let p := { qp1 with sq := ⟨0x200040, 512, 0, 1⟩, depth := 8, sqTail := 1 }
      qpOf 1025 fetchS = some p ∧ storeRuns p.ctx fetchS = true ∧ ({ fetchS with sec := { fetchS.sec with sec := .admitted } } : State).sec.sec = .admitted ∧ p.deleting = none ∧ p.sqHead ≠ p.sqTail
        ∧ p.fetched.length + modDist p.depth p.cqTail p.cqHead < p.depth - 1 ∧ ioKnown (sqeOp (rdBytes p.ctx (p.sq.addr + 64 * p.sqHead) 64 fetchS)) = true ∧ fld (rdBytes p.ctx (p.sq.addr + 64 * p.sqHead) 64 fetchS) 1 1 = 0)
    ∧ ({ qp1 with ien := true, unnotified := 1 } : Qp).ien = true ∧ fetchS.ledger.reqs.any timed = false ∧ fetchS.host.held.length < 256 := by decide +kernel

/-- A submission entry: opcode, namespace, PRP entry 1, Dwords 10 and 11, Dwords 12 to 14. -/
def sqeB (op ns p1 lba c12 c13 c14 : Nat) : Bytes := leBytes 1 op ++ leBytes 1 0 ++ leBytes 2 9 ++ leBytes 4 ns ++ zeros 16 ++ leBytes 8 p1 ++ zeros 8 ++ leBytes 8 lba ++ leBytes 4 c12 ++ leBytes 4 c13 ++ leBytes 4 c14 ++ zeros 4
def cmdOf (e : Bytes) (ok : Bool) : Cmd := ⟨0, e, 1, 0, ok, false, none⟩
def ioQp (m : Cmd) : Qp := { qp1 with fetched := [m], nextCmd := 1 }
/-- Queue pair 1 of context 1 with one fetched command on namespace 1. -/
def ioS (e : Bytes) (ok : Bool) (x : Ns) (s : State) : State := withQp (ioQp (cmdOf e ok)) (withNs x s)
def ns4 : Ns := ⟨512, 0, false, [(0, 1)], 1, [1], none⟩
theorem wit_StoreIo_flush : ∀ ok : Bool, NextIo 1025 0 (ioQp (cmdOf (sqeB 0 1 0 0 0 0 0) ok)) (cmdOf (sqeB 0 1 0 0 0 0 0) ok) (ioS (sqeB 0 1 0 0 0 0 0) ok ns4 tenant)
    ∧ NsReady (cmdOf (sqeB 0 1 0 0 0 0 0) true) ns4 (ioS (sqeB 0 1 0 0 0 0 0) true ns4 tenant) := by
  unfold NextIo NsReady QuietStore LinkFree; decide +kernel
/-- Commands on the last block of a namespace of 4 KiB and of 16 KiB blocks. -/
theorem wit_StoreIo_blocks : (∀ op ∈ [1, 2, 5], let e := sqeB op 1 0x4000 511 0 0 0
      NextIo 1025 op (ioQp (cmdOf e true)) (cmdOf e true) (ioS e true ns4 tenant) ∧ NsReady (cmdOf e true) ns4 (ioS e true ns4 tenant) ∧ fld e 24 8 % 4096 = 0 ∧ cmdNlb e = 1 ∧ (ioS e true ns4 tenant).ftl.writeProt = false
        ∧ (nsRead ns4 (511 * 4096) 4096 (ioS e true ns4 tenant)).isSome = true)
    ∧ (∀ op ∈ [8, 9, 0x82], let e := sqeB op 1 0x4000 127 0 67108865 4096
      NextIo 1025 op (ioQp (cmdOf e true)) (cmdOf e true) (ioS e true ns1 scanS) ∧ NsReady (cmdOf e true) ns1 (ioS e true ns1 scanS) ∧ cmdNlb e = 1 ∧ (dirtyAt 0 (nsUnit ns1 127) (ioS e true ns1 scanS)).isNone = true
        ∧ bit (cdw (sqeB 9 1 0x4000 127 0 0 0) 11) 2 = false ∧ cdw e 14 = 4096 ∧ progOf 1 (cdw e 13) (ioS e true ns1 scanS) = some ⟨1, prog0⟩ ∧ (scanRange prog0 ns1 127 1 4096 (ioS e true ns1 scanS)).status = none
        ∧ progOf 1 (cdw e 13) (ioS e true ns1 tenant) = none) := by
  unfold NextIo NsReady QuietStore LinkFree; (repeat' apply And.intro) <;> (simp only []; decide +kernel)
theorem wit_StoreIo_search : let e := sqeB 0x86 0 0x4000 67108865 (1 + 65536 * 32) 0 4096
    NextIo 1025 0x86 (ioQp (cmdOf e true)) (cmdOf e true) (ioS e true ns1 (withIdx idx1 tenant)) ∧ NextIo 1025 0x86 (ioQp (cmdOf e true)) (cmdOf e true) (ioS e true ns1 tenant)
      ∧ fld e 24 8 % 4096 = 0 ∧ sqeNs e = 0 ∧ cdw e 13 = 0 ∧ cdw e 14 = 4096 ∧ cdw e 12 % 65536 = 1 ∧ codeLenGood (cdw e 12 / 65536) = true ∧ vendorIndex 1 (fld e 40 8) (ioS e true ns1 tenant) = none
      ∧ vendorIndex 1 (fld e 40 8) (ioS e true ns1 (withIdx idx1 tenant)) = some idx1 ∧ idx1.codeBits = 8 * (cdw e 12 / 65536) ∧ arrayLost (fld e 40 8) (ioS e true ns1 (withIdx idx1 tenant)) = false := by
  unfold NextIo QuietStore LinkFree; decide +kernel

def adR (op ns c10 : Nat) : Req := reqA 2 1 (sqeB op ns 0x4000 c10 0 0 0)
def adT (op ns c10 : Nat) : Req := reqT 2 1 (sqeB op ns 0x4000 c10 0 0 0)
theorem wit_StoreAdmin_simple : (∀ x ∈ [(3, 0), (24, 0), (9, 7), (9, 8), (10, 8), (6, 1)], AdminWaits x.1 1 (adT x.1 0 x.2) (withReq (adT x.1 0 x.2) tenant) ∧ bit (cdw (adminSqe (adT x.1 0 x.2)) 10) 31 = false
      ∧ cdw (adminSqe (adT x.1 0 x.2)) 10 = x.2)
    ∧ (AdminWaits 2 1 (adR 2 0 (0xC0 + 65536 * 127)) (withReq (adR 2 0 (0xC0 + 65536 * 127)) base) ∧ cdw (adminSqe (adR 2 0 (0xC0 + 65536 * 127))) 10 % 256 = 0xC0
      ∧ cdw (adminSqe (adR 2 0 (0xC0 + 65536 * 127))) 10 / 65536 = 127 ∧ cdw (adminSqe (adR 2 0 (0xC0 + 65536 * 127))) 11 % 65536 = 0 ∧ fld (adminSqe (adR 2 0 (0xC0 + 65536 * 127))) 48 8 = 0 ∧ fld (adminSqe (adR 2 0 0)) 24 8 % 4096 = 0
      ∧ LinkFree 0 (withReq (adR 2 0 (0xC0 + 65536 * 127)) base))
    ∧ (AdminWaits 0x99 1 (adT 0x99 0 0) (withReq (adT 0x99 0 0) tenant) ∧ 0x99 ∉ [2, 6, 9, 10, 13, 21, 24, 132]) := by
  unfold AdminWaits Waits LinkFree; decide +kernel
/-- What NAMESPACE CREATE takes for a namespace of 100 blocks of 16 KiB, and the attach list of context 1. -/
def nsData : Bytes := leBytes 8 100 ++ leBytes 8 100 ++ zeros 10 ++ [1]
def listData (c : Nat) : Bytes := leBytes 2 1 ++ leBytes 2 c
theorem wit_StoreAdmin_ns :
    (AdminWaits 13 1 (adR 13 0 0) (withReq (adR 13 0 0) base) ∧ createBad nsData = false ∧ base.store.sanitize = none ∧ base.ftl.writeProt = false ∧ tget base.store.ns 1 = none
      ∧ (extentsFor (fld nsData 0 8 * (if fld nsData 26 1 = 0 then 4096 else 16384)) (withReq (adR 13 0 0) base)).isSome = true)
    ∧ (AdminWaits 13 1 (adR 13 1 1) (withReq (adR 13 1 1) (withNs ns1 base)) ∧ QuietStore (withReq (adR 13 1 1) (withNs ns1 base)) ∧ sqeNs (adminSqe (adR 13 1 1)) = 1 ∧ tget (withNs ns1 base).store.ns 1 = some ns1
      ∧ nsBusy 1 (fun _ => true) (withReq (adR 13 1 1) (withNs ns1 base)) = false ∧ cdw (adminSqe (adR 13 1 1)) 10 % 16 = 1)
    ∧ (AdminWaits 21 1 (adR 21 1 0) (withReq (adR 21 1 0) (withNs { ns1 with attached := [] } tenant)) ∧ listCtxs (listData 1) = [1] ∧ slotAllocated 1 tenant = true ∧ cdw (adminSqe (adR 21 1 0)) 10 % 16 = 0)
    ∧ (AdminWaits 21 1 (adR 21 1 1) (withReq (adR 21 1 1) (withNs ns1 tenant)) ∧ ns1.attached.contains 1 = true ∧ (∀ y ∈ (withNs ns1 tenant).store.qps, y.2.fetched = []) ∧ ns1.deleting = none)
    ∧ listCtxs (listData 63) = [63] := by
  unfold AdminWaits Waits QuietStore; (repeat' apply And.intro) <;> decide +kernel
theorem wit_StoreAdmin_sanitize : (∀ a ∈ [2, 4], AdminWaits 0x84 1 (adR 0x84 0 a) (withReq (adR 0x84 0 a) base) ∧ bit (cdw (adminSqe (adR 0x84 0 a)) 10) 3 = false ∧ tenantAllocated (withReq (adR 0x84 0 a) base) = false ∧ (withReq (adR 0x84 0 a) base).store.sanitize = none
      ∧ cdw (adminSqe (adR 0x84 0 a)) 10 % 8 = a)
    ∧ (let s : State := { stripeS with store := { stripeS.store with sanitize := some 4 } }; s.store.sanitize = some 4 ∧ s.host.ifState = .ready ∧ (∀ u ∈ s.ftl.dirty, u.cmds = []) ∧ (∀ w ∈ s.ftl.waiting, w.cmd = none) ∧ s.host.held.length < 128)
    ∧ (let s : State := { withQp qp1 tenant with store := { (withQp qp1 tenant).store with feat := [(1, { Feat.init with kato := 5 })] } }
      QuietStore s ∧ (s.store.qps.map (·.1)).Nodup ∧ storeRuns 1 s = true ∧ (featOf 1 s).kato ≠ 0 ∧ s.host.held.length < 256 ∧ qpOf 1025 s = some qp1 ∧ s.ledger.reqs.any timed = false) := by
  unfold AdminWaits Waits QuietStore; decide +kernel

/-! ### Ports and training -/

/-- Port 1 in ACTIVE. -/
def portA : Port := { Port.init 5 with train := 6, advertised := List.replicate 8 64, pool := List.replicate 8 10 }
def withPort (p : Nat) (q : Port) (s : State) : State := { s with ports := { s.ports with port := tset s.ports.port p q } }
def flit1 (good : Bool) (n : U16) : Flit := ⟨1, 0, 0, false, n, 0, 0, false, 0, 0, 15, good, good, none⟩
def train1 (good : Bool) : TrainReport := ⟨good, 1, false, zeros 16, 0, 0, List.replicate 8 65, true⟩
theorem wit_PortCommands_flits : tget (withPort 1 portA base).ports.port 1 = some portA ∧ portUp 1 (withPort 1 portA base) = true ∧ (∀ b n, (flit1 b n).symErr ≤ 15 ∧ bit (flit1 b n).crA.toNat 3 = false ∧ (flit1 b n).ftype = 1 ∧ (flit1 b n).tc < 2)
    ∧ portA.replay = [] ∧ (flit1 true 5).seq.toNat = portA.rxSeq ∧ portA.unacked < 31 ∧ 31 ≤ ({ portA with unacked := 31 } : Port).unacked ∧ (flit1 false 6).hcrcOk = false ∧ (flit1 false 6).seq.toNat ≠ portA.rxSeq ∧ portA.lost < 3
    ∧ ({ portA with replay := [3, 4] } : Port).replay.contains 4 = true ∧ 0 < ({ portA with unacked := 1 } : Port).unacked := by
  refine ⟨?_, ?_, fun b n => ⟨Nat.le_refl _, by change bit (0 : U32).toNat 3 = false; decide, rfl, by change 0 < 2; decide⟩, ?_⟩ <;> decide +kernel
theorem wit_PortCommands_training : (∀ p ∈ [0, 4], portsLit base = true ∧ (portOf p base).train = 1 ∧ trainGood p (train1 true) = true ∧ trainGood p (train1 false) = false ∧ (train1 true).inTime = true)
    ∧ tget (withPort 1 { portA with train := 7, replay := [3] } base).ports.port 1 = some { portA with train := 7, replay := [3] } ∧ tget (withPort 1 { portA with train := 9 } base).ports.port 1 = some { portA with train := 9 }
    ∧ tget (withPort 1 { portA with tc3 := some ⟨false, 1, false⟩ } base).ports.port 1 = some { portA with tc3 := some ⟨false, 1, false⟩ } := by decide +kernel
def remote1 (w : Bool) : Remote := ⟨3, 1, some 1, w, 0x1000, 8, 0, .out, []⟩
def remoteS (w : Bool) : State := let s := withReq (reqT 2 4 []) (withPort 0 portA tenant); { s with ports := { s.ports with remote := [remote1 w] } }
def packet1 (st : Nat) (last : Bool) : Packet := ⟨2, 1, 1, 3, st, 4, 0, 0x1000, 0, last⟩
theorem wit_PortCommands_remote : (∀ w, remoteOf 3 (remoteS w) = some (remote1 w) ∧ findReq 1 (remoteS w) = some (reqT 2 4 []) ∧ (∀ y ∈ (remoteS w).ports.remote, y.ctx = 1 → y.stage = .out) ∧ pathPort (remoteS w) = some 0 ∧ (remoteS w).host.ifState ≠ .scrub
      ∧ packetsOf 0x1000 8 ≤ 0 + 1) ∧ (packet1 0 true).pstatus = 0 ∧ (packet1 1 true).pstatus ≠ 0 ∧ (packet1 0 false).last = false
    ∧ (remote1 false).got + (zeros 4).length < (remote1 false).len ∧ (remote1 false).len ≤ (remote1 false).got + (zeros 8).length ∧ 0 + 1 < packetsOf 0x1000 4097 := by decide +kernel
/-- A rope of three modules; the neighbour at position 1 is the partner of port 1. -/
def rope3 : State := let s := withPort 1 { portA with partner := [1] } base; { s with ports := { s.ports with serials := [zeros 16, [1], [2]], pos := 0 } }
theorem wit_PortCommands_rope : beats rope3 = true ∧ tget rope3.ports.port 1 = some { portA with partner := [1] } ∧ portUp 1 rope3 = true ∧ neighbourPos 1 rope3 = some 1 ∧ 2 ≤ rope3.ports.serials.length
    ∧ rope3.ports.lostPeers.contains 1 = false := by decide +kernel

/-- A snapshot that the neighbour mirrors here: 300 tokens, one sealed block, two tokens pending. -/
def peerSnap1 : Mirrored := ⟨1, 0, 1, 9, .snap, 4, 7, 300, List.replicate 44 2, List.replicate 44 1, [3, 4], 0, zeros 32, 6, 5, (1, 0, 0, 0, 0), [⟨65536, [], 0⟩], 20000, false, 32768, 0, 60⟩
def mirrorFlit : Flit := { flit1 true 5 with tc := 3, ctr := 1, encrypted := true, mirror := some peerSnap1 }
def mirrorS : State := { rope3 with ports := { rope3.ports with port := tset rope3.ports.port 1 { portA with partner := [1], tc3 := some ⟨false, 1, false⟩ } } }
theorem wit_PortCommands_mirror : (portUp 1 mirrorS = true ∧ mirrorFlit.symErr ≤ 15 ∧ bit mirrorFlit.crA.toNat 3 = false ∧ bit mirrorFlit.crB.toNat 3 = false ∧ mirrorFlit.ftype = 1 ∧ mirrorFlit.tc = 3 ∧ mirrorFlit.hcrcOk = true ∧ mirrorFlit.tagOk = true)
    ∧ mirrorFlit.seq.toNat = portA.rxSeq ∧ flitOpens 1 mirrorFlit mirrorS = true ∧ mirrorS.host.ifState = .ready ∧ mirrorFlit.mirror = some peerSnap1 ∧ peerSnap1.dest = mirrorS.ports.pos ∧ peerSnap1.kind = .snap ∧ copyOf peerSnap1 mirrorS = none := by decide +kernel
/-- A snapshot that follows another is stored beside it and keeps its block; both go with their session. -/
theorem test_mirror_kept : (flitIn 1 mirrorFlit mirrorS).agents.mirrorStore.map (fun x => (x.sess, x.seq, x.body.sealed)) = [(9, 4, [1])]
    ∧ (keepMirror { peerSnap1 with seq := 5, blocks := [⟨65536, [], 0⟩, ⟨65536, [], 0⟩] } (keepMirror peerSnap1 mirrorS)).agents.mirrorStore.map (fun x => (x.seq, x.body.sealed)) = [(4, [1]), (5, [1, 3])]
    ∧ (takeMirror { peerSnap1 with kind := .closed } (keepMirror peerSnap1 mirrorS)).agents.kv = [] := by decide +kernel

/-- Group 5 of the modules at positions 0 and 1, with an adapter of one tensor of 1 by 1. -/
def group5 : Group := ⟨5, 3, 1, 500, 2, 0, 1, false, none, 1, 0, 0, [], [], [], [], []⟩
def factor1 : Tensor := ⟨0x200100, 1, 1, false, [0x3F800000], [0]⟩
def adapter1 : Adapter := ⟨1, 5, 1, 7, [factor1]⟩
def withTune (g : List Group) (a : List Adapter) (s : State) : State :=
  { s with tune := { s.tune with groups := g.map fun x => (x.id, x), adapters := a.zipIdx.map fun e => (67108865 + e.2, e.1) }, ports := { s.ports with serials := [zeros 16, [1]], pos := 0 } }
def tuS (op : Nat) (p : Bytes) (s : State) : State := withReq (reqT 9 op p) s
def setP (g ctx w : Nat) : Bytes := leBytes 2 g ++ leBytes 2 3 ++ leBytes 1 ctx ++ zeros 1 ++ leBytes 2 w
def block1 : WireBlock := ⟨1 :: List.replicate 63 0, 254, false, false, false⟩
theorem wit_TuneBlock : block1.nonFinite = false ∧ (List.replicate 64 (0x3F800000 : U32)).any fvSpecial = false ∧ (∃ v ∈ block1.v, v ≠ 0) ∧ block1.e ≤ 254 := by decide +kernel
/-- The limits of the group number and of the waiting time. -/
theorem wit_TuneGroupSet : ∀ x ∈ [(1, 0), (1023, 10), (5, 60000)], Waits 9 1 1 (reqT 9 1 (setP x.1 1 x.2)) (tuS 1 (setP x.1 1 x.2) (withTune [] [] tenant)) ∧ hasRef (reqT 9 1 (setP x.1 1 x.2)) = false
    ∧ fld (setP x.1 1 x.2) 0 2 = x.1 ∧ groupOf x.1 (tuS 1 (setP x.1 1 x.2) (withTune [] [] tenant)) = none ∧ bit 3 (withTune [] [] tenant).ports.pos = true ∧ 3 < 2 ^ ropeN (withTune [] [] tenant) ∧ fld (setP x.1 1 x.2) 2 2 = 3
    ∧ fld (setP x.1 1 x.2) 4 1 = 1 ∧ slotAllocated 1 tenant = true ∧ (fld (setP x.1 1 x.2) 6 2 = 0 ∨ (10 ≤ fld (setP x.1 1 x.2) 6 2 ∧ fld (setP x.1 1 x.2) 6 2 ≤ 60000)) ∧ t1Fits 1 67108864 tenant = true ∧ 2 ≤ (members 3).length
    ∧ (withTune [] [] tenant).tune.groups.length < 16 ∧ tget (withTune [] [] tenant).tune.hellos x.1 = none := by
  unfold Waits; decide +kernel
theorem wit_TuneGroupFree : (Waits 9 2 1 (reqT 9 2 (leBytes 2 5)) (tuS 2 (leBytes 2 5) tenant) ∧ groupOf 5 (tuS 2 (leBytes 2 5) tenant) = none)
    ∧ (Waits 9 2 1 (reqT 9 2 (leBytes 2 5)) (tuS 2 (leBytes 2 5) (withTune [group5] [adapter1] tenant)) ∧ groupOf 5 (tuS 2 (leBytes 2 5) (withTune [group5] [adapter1] tenant)) = some group5
      ∧ ((withTune [group5] [adapter1] tenant).tune.adapters.any fun e => decide (e.2.group = 5)) = true) ∧ ((withTune [group5] [] tenant).tune.adapters.any fun e => decide (e.2.group = 5)) = false := by
  unfold Waits; (repeat' apply And.intro) <;> decide +kernel
def adaptP : Bytes := leBytes 2 5 ++ [1, 0] ++ leBytes 2 1 ++ zeros 2 ++ leBytes 4 8 ++ zeros 4 ++ leBytes 8 99 ++ refB 0 32 1 1
def tensorData : Bytes := leBytes 8 0x200100 ++ leBytes 4 1 ++ leBytes 4 1 ++ [8]
theorem wit_TuneAdapterCreate : let s := tuS 3 adaptP (withTune [group5] [adapter1] tenant)
    Waits 9 3 1 (reqT 9 3 adaptP) s ∧ hasRef (reqT 9 3 adaptP) = false ∧ groupFor 1 (fld adaptP 0 2) s = some group5 ∧ fld adaptP 2 1 = 1 ∧ fld adaptP 4 2 = 1 ∧ refReads (refAt adaptP 24) = true ∧ (refAt adaptP 24).space = 1
      ∧ 32 * 1 ≤ (refAt adaptP 24).len ∧ (∀ e ∈ s.tune.adapters, e.2.group = 5 → e.2.atag ≠ fld adaptP 8 4) ∧ (∀ e ∈ tensorEntries 1 (sub tensorData 0 32), tensorBad 1 e = false) ∧ t1Fits 1 (adapterT1 adapter1) s = true
      ∧ 32 * 1 ≤ (tensorData ++ zeros 15).length := by
  unfold Waits; (repeat' apply And.intro) <;> first | decide +kernel | (simp only []; decide +kernel)
def stepP : Bytes := leBytes 4 67108865 ++ leBytes 4 0x3F800000 ++ leBytes 2 1 ++ zeros 6 ++ refB 0 16 1 1
def gradData (f : Nat) : Bytes := leBytes 2 0 ++ leBytes 1 f ++ zeros 5 ++ leBytes 8 0x200000
theorem wit_TuneRequests : (Waits 9 4 1 (reqT 9 4 (leBytes 4 9)) (tuS 4 (leBytes 4 9) tenant) ∧ adapterFor 1 9 (tuS 4 (leBytes 4 9) tenant) = none)
    ∧ (Waits 9 4 1 (reqT 9 4 (leBytes 4 67108865)) (tuS 4 (leBytes 4 67108865) (withTune [group5] [adapter1] tenant)) ∧ adapterFor 1 67108865 (tuS 4 (leBytes 4 67108865) (withTune [group5] [adapter1] tenant)) = some adapter1
      ∧ (withTune [group5] [adapter1] tenant).tune.steps = [])
    ∧ Waits 9 6 1 (reqT 9 6 (leBytes 2 6)) (tuS 6 (leBytes 2 6) (withTune [group5] [] tenant)) ∧ groupFor 1 6 (tuS 6 (leBytes 2 6) (withTune [group5] [] tenant)) = none
    ∧ Waits 9 6 1 (reqT 9 6 (leBytes 2 5)) (tuS 6 (leBytes 2 5) (withTune [group5] [] tenant)) ∧ groupFor 1 5 (tuS 6 (leBytes 2 5) (withTune [group5] [] tenant)) = some group5 := by
  unfold Waits; (repeat' apply And.intro) <;> decide +kernel
theorem wit_TuneStep : ∀ f ∈ [8, 9, 10], let s := tuS 5 stepP (withTune [group5] [adapter1] (resState []))
    Waits 9 5 1 (reqT 9 5 stepP) s ∧ hasRef (reqT 9 5 stepP) = false ∧ adapterFor 1 (fld stepP 0 4) s = some adapter1 ∧ groupOf 5 s = some group5 ∧ fld stepP 8 2 = 1 ∧ refReads (refAt stepP 16) = true ∧ (refAt stepP 16).space = 1
      ∧ 16 ≤ (refAt stepP 16).len ∧ gradEntries 1 (sub (gradData f) 0 16) = [(0, f, 0x200000)] ∧ gradCheck adapter1 (0, f, 0x200000) s = .fine
      ∧ stepTurn (reqT 9 5 stepP) 5 s = true ∧ group5.ready = false ∧ group5.slots = [] ∧ s.tune.steps = [] ∧ 1 ≤ adapter1.tensors.length ∧ 16 ≤ (gradData f).length := by
  unfold Waits; decide +kernel
def tpk : TunePacket := ⟨false, 0, 1, 0, 1, 0, []⟩
def bucket1 : Bucket := ⟨1, true, [], 1, 0, 0, 0, false, false, [], [], none, []⟩
theorem wit_TuneGroupCommands : groupOf 5 base = none ∧ groupOf 5 (withTune [group5] [] tenant) = some group5 ∧ bit 3 (withTune [group5] [] tenant).ports.pos = true ∧ bucketOf 5 1 (withTune [group5] [] tenant) = none
    ∧ group5.nextSeq ≤ tpk.seq ∧ group5.grants.contains 1 = false ∧ groupOf 5 (withTune [{ group5 with slots := [bucket1] }] [] tenant) = some { group5 with slots := [bucket1] } ∧ bucket1.seq = 1 ∧ bucket1.closed = true
    ∧ group5.aborts.contains 1 = false ∧ (⟨3, 0, 1, 0, 1, 2⟩ : TuneCtl).seq = 1 ∧ group5.mask < 2 ^ ropeN (withTune [group5] [] tenant) ∧ group5.ready = false ∧ group5.slots = [] ∧ bit 0 (withTune [group5] [] tenant).ports.pos = false
    ∧ (withTune [{ group5 with slots := [bucket1] }] [] tenant).tune.steps = [] ∧ (withTune [group5] [] tenant).host.held.length < 256 := by
  decide +kernel

/-! ### Security -/

def withSec (f : Sec → Sec) (s : State) : State := { s with sec := f s.sec }
def spdm1 : Spdm := ⟨true, true, true, none, none, 0⟩
/-- Ports 0 and 1 up, with the exchange of each as given. -/
def spdmS (x : Spdm) : State := withSec (fun c => { c with spdm := [(0, x), (1, x)] }) (withPort 1 portA (withPort 0 portA base))
theorem wit_SpdmExchange : (∀ p ∈ [0, 1], spdmServes p (spdmS spdm1) = true ∧ (spdmOf p (spdmS spdm1)).version = true ∧ (spdmOf p (spdmS spdm1)).algs = true ∧ (spdmOf p (spdmS Spdm.init)).version = false
      ∧ (spdmOf p (spdmS Spdm.init)).algs = false ∧ (spdmOf p (spdmS Spdm.init)).session = none ∧ (spdmOf p (spdmS { spdm1 with opening := some 7 })).opening = some 7 ∧ peerAllowed p (spdmS spdm1) = true
      ∧ (spdmOf p (spdmS { spdm1 with session := some 7 })).session.isSome = true)
    ∧ (spdmS spdm1).sec.sec ≠ .blank ∧ signBar (spdmS spdm1) = none ∧ (spdmS spdm1).host.held.length < 256 ∧ (spdmS spdm1).host.ifState = .ready
    ∧ (spdmOf 0 (spdmS { spdm1 with failures := 2 })).failures = 2 ∧ (spdmOf 0 (spdmS { spdm1 with failures := 2 })).algs = true := by decide +kernel

def seS (op : Nat) (p : Bytes) (s : State) : State := withReq (reqA 10 op p) s
def sessioned (st : SecState) : State := let s := withSec (fun c => { c with sec := st }) (spdmS { spdm1 with session := some 7 }); { s with ports := { s.ports with tc2 := some ⟨false, 1, false⟩ } }
theorem wit_SecurityRequests_state : Waits 10 1 1 (reqA 10 1 []) (seS 1 [] base)
    ∧ (Waits 10 2 1 (reqA 10 2 (leBytes 4 7)) (seS 2 (leBytes 4 7) base) ∧ (spdmOf 0 (seS 2 (leBytes 4 7) base)).session ≠ some (fld (leBytes 4 7) 0 4) ∧ base.host.ifState = .ready)
    ∧ (Waits 10 2 1 (reqA 10 2 (leBytes 4 7)) (seS 2 (leBytes 4 7) (sessioned .provisioned)) ∧ (spdmOf 0 (sessioned .provisioned)).session = some (fld (leBytes 4 7) 0 4) ∧ (sessioned .provisioned).ports.tc2.isSome = true
      ∧ (sessioned .provisioned).sec.dbg = .sealed) ∧ (sessioned .admitted).sec.sec ≠ .provisioned ∧ Waits 10 2 1 (reqA 10 2 (leBytes 4 7)) (seS 2 (leBytes 4 7) (sessioned .admitted))
    ∧ Waits 10 3 1 (reqA 10 3 []) (seS 3 [] base) ∧ Waits 10 3 1 (reqA 10 3 []) (seS 3 [] (withSec (fun c => { c with sec := .blank }) base)) ∧ base.sec.sec ≠ .blank ∧ hasRef (reqA 10 3 []) = false := by
  unfold Waits; (repeat' apply And.intro) <;> decide +kernel
def keyP : Bytes := leBytes 1 1 ++ zeros 3 ++ leBytes 4 1
def keyS (g : List Nat) (op : Nat) : State := withSec (fun c => { c with doms := [(2 ^ 32 + 1, { KeyDom.fresh with gens := g })] }) (withReq (reqT 10 op keyP) tenant)
theorem wit_SecurityRequests_keys : (∀ g ∈ [[0], [0, 1]], Waits 10 4 1 (reqT 10 4 keyP) (keyS g 4) ∧ (domGet (2 ^ 32 + 1) (keyS g 4)).gens = g) ∧ fld keyP 0 1 = 1 ∧ fld keyP 4 4 = 1 ∧ slotAllocated 1 (keyS [0] 4) = true
    ∧ Waits 10 5 1 (reqT 10 5 keyP) (keyS [0] 5) ∧ hasRef (reqT 10 5 keyP) = false ∧ Waits 10 6 1 (reqA 10 6 []) (seS 6 [] base) ∧ base.sec.dbg ≠ .unlocked := by
  unfold Waits; (repeat' apply And.intro) <;> decide +kernel
def tokRef : Bytes := refB 0 2756 1 1
def tokR (op : Nat) : Req := reqF 10 op 1 tokRef
/-- A token for the serial of the module and the nonce in force. -/
def token1 (magic : String) : Bytes := ascii magic ++ leBytes 4 3 ++ List.replicate 16 48 ++ zeros 2732
def tokS (op causes : Nat) : State := withSec (fun c => { c with nonce := some (zeros 32), causes := causes, sec := if causes = 0 then .provisioned else .quarantined }) (withReq (tokR op) base)
theorem wit_SecurityRequests_tokens : Waits 10 7 1 (tokR 7) (tokS 7 0) ∧ tokenRefBad (tokR 7) = false ∧ (refAt tokRef 0).space = 1 ∧ (tokS 7 0).host.ifState = .ready ∧ (tokS 7 0).sec.sec ≠ .blank ∧ (tokS 7 0).sec.dbg = .sealed
    ∧ (tokS 7 0).sec.unlock = none ∧ (∀ m ∈ ["EZDU", "EZRC"], 2756 ≤ (token1 m).length ∧ (sub (token1 m) 0 2756).take 4 = ascii m ∧ sub (sub (token1 m) 0 2756) 8 16 = (tokS 7 0).sec.serial ∧ (tokS 7 0).sec.nonce = some (sub (sub (token1 m) 0 2756) 24 32))
    ∧ Waits 10 8 1 (tokR 8) (tokS 8 2) ∧ bit (tokS 8 2).sec.causes 1 = true ∧ (tokS 8 2).sec.sec = .quarantined ∧ Waits 10 8 1 (tokR 8) (tokS 8 3) ∧ (tokS 8 3).sec.causes ≠ 2 := by
  unfold Waits; (repeat' apply And.intro) <;> decide +kernel
theorem wit_SecurityRequests_events : (let s := keyS [0, 1] 5; tget s.sec.doms (2 ^ 32 + 1) = some { KeyDom.fresh with gens := [0, 1] } ∧ flashRuns s = true ∧ unitsUnder (2 ^ 32 + 1) 0 s = [] ∧ s.host.held.length < 256)
    ∧ base.pwr.pwr ≠ .off ∧ (withSec (fun c => { c with sec := .blank }) base).sec.sec = .blank ∧ (withSec (fun c => { c with scrubDue := true, scrubNext := [1] }) base).sec.scrubDue = true := by decide +kernel
/-- A step in a state in which the security state and its causes agree, and one with the cause TAMPER set. -/
theorem wit_StepKeepsSecurity : SecOk base ∧ ∃ t, step base = .next t := ⟨by unfold SecOk SecPair; decide +kernel, _, rfl⟩
theorem wit_OnlyRecoverClearsTamper : SecOk (tokS 8 2) ∧ bit (tokS 8 2).sec.causes 1 = true ∧ (∃ t, step (tokS 8 2) = .next t) ∧ ∀ rid tok ok r, (tokS 8 2).pending ≠ .secRecover rid tok ok :: r :=
  ⟨by unfold SecOk SecPair; decide +kernel, by decide +kernel, by
   have h : (tokS 8 2).pending = [] := by decide +kernel
   simp only [step, h]; exact ⟨_, rfl⟩, fun _ _ _ _ => by change [] ≠ _; simp⟩

/-! ### Power, thermal limits, sideband -/

def withPwr (f : Power → Power) (s : State) : State := { s with pwr := f s.pwr }
def trips2 : State := withPwr (fun p => { p with feedB := { p.feedB with trips := [0, 0] } }) base
theorem wit_PowerCommands_feeds : powered base = true ∧ base.host.held.length < 256 ∧ (∀ f ∈ [0, 1], (feedOf f base).good = true ∧ (feedOf f base).openFuse = false)
    ∧ (∀ f ∈ [0, 1], let s := withPwr (fun p => { p with feedA := { p.feedA with good := false }, feedB := { p.feedB with good := false } }) base
      powered s = true ∧ (feedOf f s).good = false ∧ (feedOf f s).latched = false)
    ∧ 2 ≤ ((feedOf 1 trips2).trips.filter fun c => decide (clockNow domAon trips2 < c + 6000000000)).length := by decide +kernel
def darkened (i : IfState) (p : PwrState) : State := inState i (withPwr (fun x => { x with feedA := { x.feedA with good := false }, feedB := { x.feedB with good := false }, pwr := p }) base)
theorem wit_PowerCommands_holdup : ∀ x ∈ [(IfState.ready, PwrState.active), (.bivouac, .bivouac), (.abseil, .abseil)], powered (darkened x.1 x.2) = true ∧ (darkened x.1 x.2).pwr.feedA.good = false
    ∧ (darkened x.1 x.2).pwr.feedB.good = false ∧ (darkened x.1 x.2).host.ifState = x.1 ∧ (darkened x.1 x.2).pwr.pwr = x.2 := by decide +kernel
def poS (op : Nat) (p : Bytes) (s : State) : State := withReq (reqA 11 op p) s
def charged (s : State) : State := withPwr (fun p => { p with bankU := 700 }) s
theorem wit_PowerCommands_requests : Waits 11 1 1 (reqA 11 1 []) (poS 1 [] base) ∧ (∀ w ∈ [0, 1, 249, 250, 1100, 1101], Waits 11 2 1 (reqA 11 2 (leBytes 2 w)) (poS 2 (leBytes 2 w) base) ∧ fld (leBytes 2 w) 0 2 = w)
    ∧ (∀ v ∈ [2, 3], Waits 11 3 1 (reqA 11 3 [BitVec.ofNat 8 v]) (poS 3 [BitVec.ofNat 8 v] base) ∧ fld [BitVec.ofNat 8 v] 0 1 = v) ∧ emergencyNow (poS 3 [3] base) = true ∧ emergencyNow (charged (poS 3 [3] base)) = false
    ∧ Waits 11 3 1 (reqA 11 3 [3]) (charged (poS 3 [3] base)) ∧ (∀ q ∈ (poS 3 [3] base).ledger.reqs, q.rid ≠ 1 → outstanding q = false) ∧ base.pwr.wakeLatched = false
    ∧ retentionBytes (charged (poS 3 [3] base)) ≤ t2Free (charged (poS 3 [3] base)) + t2WithFlash (charged (poS 3 [3] base)) ∧ hasRef (reqA 11 3 [3]) = false ∧ base.host.ifState = .ready := by
  unfold Waits; (repeat' apply And.intro) <;> decide +kernel
/-- The same with another request, not settled. -/
def twoReqs : State := { poS 3 [3] base with ledger := { base.ledger with reqs := [reqA 11 3 [3], { reqA 11 1 [] with rid := 2 }] } }
theorem wit_PowerCommands_busy : Waits 11 3 1 (reqA 11 3 [3]) twoReqs ∧ ∃ q ∈ twoReqs.ledger.reqs, q.rid ≠ 1 ∧ outstanding q = true := by unfold Waits; decide +kernel
theorem wit_PowerCommands_events : (inState .bivouac base).host.ifState = .bivouac ∧ base.sec.latch = none ∧ base.pwr.pwr = .active ∧ (∀ e ∈ tenant.ctxs.slots, hasWork e.1 tenant = false) ∧ base.pwr.feedA.good = true
    ∧ base.pwr.feedB.good = true ∧ flashRuns base = true ∧ (withPwr (fun p => { p with alert := true }) base).pwr.alert = true ∧ base.pwr.coolant = false ∧ base.pwr.emergency = false ∧ emergencyNow base = true
    ∧ (withPwr (fun p => { p with cap := 250 }) base).pwr.cap ≠ 0 ∧ 105 * 250 < 100 * 300 ∧ clockPowered 8 base = true ∧ tget base.pwr.limKhz 8 = none ∧ tget base.pwr.setKhz 8 = none := by decide +kernel

/-! ### Firmware -/

def withFa (f : FaArray → FaArray) (s : State) : State := { s with fw := { s.fw with fa := f s.fw.fa } }
def op1 (k : Nat) : FaOp := ⟨k, 1, 5, 9, 0⟩
/-- The first word of sector 5 of bank 1. -/
def fa5 : U32 := 0x2050000
theorem wit_FirmwareArray_unlock : faRuns base = true ∧ (∀ q ∈ [0, 1, 2], (withFa (fun a => { a with seq := q }) base).fw.fa.seq = q) ∧ faBank fa5 = 1 ∧ faSector fa5 = 5 := by decide +kernel
def written : State := withFa (fun a => { a with seq := 2, words := [(faOff 1 (faWord fa5) / 8, 1)] }) base
theorem wit_FirmwareArray_commands : faOpen 1 5 written = false ∧ (written.fw.fa.busy = none ∧ written.fw.fa.susp = none ∧ written.fw.fa.vfail = false) ∧ faTimes (faOff 1 (faWord fa5)) written = 1
    ∧ (5 : U64).toNat &&& faWordAt (faOff 1 (faWord fa5)) written = 5 ∧ faTimes (faOff 1 (faWord fa5)) (withFa (fun a => { a with words := [(faOff 1 (faWord fa5) / 8, 2)] }) written) = 2
    ∧ (withFa (fun a => { a with busy := some (op1 2) }) written).fw.fa.busy = some (op1 2) ∧ (op1 2).bank = faBank fa5 ∧ (withFa (fun a => { a with susp := some (op1 2) }) written).fw.fa.susp = some (op1 2) := by decide +kernel
theorem wit_FirmwareArray_ends : ∀ k ∈ [1, 2, 3], faRuns (withFa (fun a => { a with busy := some (op1 k) }) base) = true ∧ (withFa (fun a => { a with busy := some (op1 k) }) base).fw.fa.busy = some (op1 k) := by decide +kernel
theorem wit_FirmwareArray_read : 0x2050000 % 8 = 0 ∧ 0x2050000 / 0x2000000 = 1 ∧ 0x2050000 % 0x2000000 / 65536 = 5 ∧ faTimes 0x2050000 written ≠ 0 ∧ faOpen 1 5 (withFa (fun a => { a with eopen := [517] }) base) = true
    ∧ written.host.held.length < 256 := by decide +kernel
def recS : State := { base with fw := { base.fw with recErase := [3] } }
theorem wit_FirmwareArray_record : faRuns recS = true ∧ recS.fw.recErase.contains 3 = true ∧ recS.fw.fa.busy = none ∧ recS.fw.fa.susp = none ∧ recS.fw.fa.vfail = false := by decide +kernel

def fwS (op : Nat) (p : Bytes) (s : State) : State := withReq (reqA 12 op p) s
/-- An image of one segment and no body: the header, the segment's entry, the signature. -/
def goodImg (svn : Nat) : Bytes := ascii "EZBI" ++ leBytes 2 1 ++ leBytes 2 1 ++ leBytes 4 2740 ++ leBytes 4 1 ++ leBytes 2 0x401 ++ leBytes 1 svn ++ zeros 2721
def withFw (f : Firmware → Firmware) (s : State) : State := { s with fw := f s.fw }
/-- A valid image in slot B, and the standby ready. -/
def staged (ok : Bool) (s : State) : State := charged (withFw (fun f => { f with slotB := ⟨2, 0, 0x401, 1, 2724, none⟩, standbyOk := ok }) s)
def stageP : Bytes := refB 0 2740 1 1 ++ zeros 8
def actP (fl n : Nat) : Bytes := leBytes 1 fl ++ leBytes 1 n ++ zeros 6
theorem wit_FirmwareRequests_stage : (Waits 12 1 1 (reqA 12 1 (zeros 8)) (fwS 1 (zeros 8) base) ∧ fld (zeros 8) 0 8 = 0) ∧ (Waits 12 2 1 (reqA 12 2 stageP) (fwS 2 stageP base) ∧ hasRef (reqA 12 2 stageP) = false
      ∧ refReads (refAt stageP 0) = true ∧ 2724 ≤ (refAt stageP 0).len ∧ (refAt stageP 0).len ≤ 25165824 ∧ fld stageP 16 8 = 0 ∧ base.fw.staging = none ∧ base.fw.pending = none ∧ base.fw.fuseSvn ≤ fld (goodImg 0) 18 1
      ∧ (refAt stageP 0).space = 1 ∧ (refAt stageP 0).len ≤ (goodImg 0).length ∧ headerGood ((goodImg 0).take 2740) 2740 = true ∧ headerGood ((zeros 2740).take 2740) 2740 = false)
    ∧ (withFw (fun f => { f with fuseSvn := 1 }) base).fw.fuseSvn = 1 ∧ fld (goodImg 0) 18 1 < 1 ∧ (withFw (fun f => { f with pending := some ⟨none, false, none⟩ }) base).fw.pending ≠ none := by
  unfold Waits; (repeat' apply And.intro) <;> decide +kernel
theorem wit_FirmwareRequests_activate : (∀ f ∈ [0, 1, 2, 3], Waits 12 3 1 (reqA 12 3 (actP f 1)) (fwS 3 (actP f 1) (staged true base)) ∧ fld (actP f 1) 0 1 = f ∧ fld (actP f 1) 2 6 = 0 ∧ fld (actP f 1) 1 1 = 1)
    ∧ quiet (fwS 3 (actP 0 1) (staged true base)) = true ∧ (staged true base).fw.running = 0 ∧ (imgSlotOf 1 (staged true base)).state = 2 ∧ (imgSlotOf 1 base).state ≠ 2 ∧ (staged false base).fw.standbyOk = false
    ∧ emergencyNow (staged true base) = false ∧ emergencyNow { staged true base with pwr := base.pwr } = true ∧ newImage 0 (staged true base) = 0 ∧ newImage 2 (staged true base) ≠ 0 ∧ (staged true base).fw.fuseSvn ≤ (imgSlotOf 1 (staged true base)).svn
    ∧ (∀ n ∈ [0, 1], Waits 12 4 1 (reqA 12 4 (leBytes 8 n)) (fwS 4 (leBytes 8 n) base) ∧ fld (leBytes 8 n) 1 7 = 0 ∧ fld (leBytes 8 n) 0 1 = n)
    ∧ (withFw (fun f => { f with pending := some ⟨none, true, none⟩ }) (staged true base)).fw.pending = some ⟨none, true, none⟩ := by
  unfold Waits; (repeat' apply And.intro) <;> decide +kernel
/-- A handover in progress, of an activation and of a takeover. -/
def handS (h : Hand) : State := let s := inState .handover (staged true (withReq { reqA 12 3 (actP 0 1) with running := true } base)); { s with host := { s.host with hand := some h } }
theorem wit_FirmwareHandover : ∀ h ∈ [Hand.activation (some 1) false 61000, .activation (some 1) true 61000, .takeover 0 2 false], (handS h).pending = [] ∧ (handS h).host.ifState = .handover ∧ (handS h).host.hand = some h
    ∧ Uneventful { handS h with host := { (handS h).host with ifState := .ready } } ∧ live 1 (handS h) = true ∧ (handS h).fw.running ≤ 1 := by
  intro h hh; refine ⟨rfl, rfl, rfl, ⟨rfl, ?_, ?_, ?_, ?_, ?_, ?_, ?_, ?_⟩, ?_, ?_⟩ <;> (revert hh; revert h; decide +kernel)
theorem wit_Components : runtimeRuns base.host.ifState = true ∧ base.host.ifState ≠ .abseil ∧ base.host.hand = none ∧ (inState .scrub base).host.ifState = .scrub ∧ runtimeRuns .scrub = true ∧ (∀ c ∈ [1, 8, 0x10, 0x13], base.fw.compDown.contains c = false) ∧ (let s := restartComponent 1 2 [(8, 16)] (modEcc 345 (fun b => { b with errs := [(0, 2), (8, 2), (16, 2), (24, 2)] }) base); (eccOf 345 s).errs = [(0, 2), (24, 2)]) ∧ (staged true base).fw.standbyOk = true ∧ base.fw.standbyOk = false
    ∧ powered base = true ∧ base.caps.belayFailed.contains (1 - base.fw.belay) = false ∧ base.caps.coreMap.contains 5 = true ∧ (∀ d ∈ [0, 3], base.caps.dieMap.contains d = true) := by decide +kernel

/-! ### Resets and boot -/

def bootS : State := { base with host := { base.host with ifState := .boot, bootStep := 1 } }
def bootR (a b : Nat) (bp : Bool) : BootReport := ⟨List.replicate 8 1200000, [], a, b, bp, 61000, true, [], none, 6⟩
def feedsOut (s : State) : State := withPwr (fun p => { p with feedA := { p.feedA with good := false }, feedB := { p.feedB with good := false } }) s
theorem wit_ResetAndBoot_resets : ((withPwr (fun p => { p with pwr := .off }) base).pwr.pwr = .off ∧ base.pwr.feedA.good = true) ∧ powered base = true ∧ base.host.ifState = .ready
    ∧ (∀ i ∈ [IfState.scrub, .handover, .abseil, .reset, .tripped], powered (inState i base) = true ∧ (inState i base).host.ifState = i) ∧ (inState .reset (withPwr (fun p => { p with resetHeld := true }) base)).pwr.resetHeld = true := by
  decide +kernel
theorem wit_ResetAndBoot_boot : bootS.host.ifState = .boot ∧ powered bootS = true ∧ bootS.fw.bootSel = 0 ∧ ((bootR 0 2 true).slotA = 0 ∧ (imgSlotOf 0 bootS).state = 2 ∧ bootS.fw.fuseSvn ≤ (imgSlotOf 0 bootS).svn)
    ∧ (bootR 0 2 true).bp0Ok = true ∧ bootS.caps.belayFailed = []
    ∧ (let s := staged true bootS; (bootR 2 0 true).slotA ≠ 0 ∧ (bootR 2 0 true).slotB = 0 ∧ (imgSlotOf 1 s).state = 2 ∧ s.fw.fuseSvn ≤ (imgSlotOf 1 s).svn ∧ (bootR 2 2 true).slotB ≠ 0) ∧ bootS.host.bootStep = 1 ∧ (bootR 0 2 true).till = 6 ∧ ({ bootR 0 2 true with till := 1 } : BootReport).till = 1 := by decide +kernel
theorem wit_ResetAndBoot_abseil : (∀ b, let s := inState .abseil (withPwr (fun p => { p with trip := b }) base); s.host.ifState = .abseil ∧ powered s = true ∧ s.pwr.feedA.good = true ∧ s.pwr.trip = b)
    ∧ (feedsOut (inState .abseil base)).pwr.feedA.good = false ∧ (feedsOut (inState .abseil base)).pwr.feedB.good = false ∧ powered (feedsOut (inState .abseil base)) = true := by decide +kernel
/-- A step at each end of the range of the matrix, core and fabric clocks. -/
theorem wit_ResetAndBoot_clocks : (∀ x ∈ [(0, 400000), (3, 1700000), (4, 600000), (7, 2400000), (8, 1000000), (8, 2000000)], isFreqStep x.1 x.2 = true ∧ clockPowered x.1 base = true ∧ (tget base.clocks x.1).isSome = true)
    ∧ base.pwr.pwr = .active ∧ 0 ∈ domainIds ∧ 8 ∈ domainIds ∧ base.host.held.length < 256 ∧ engOn 0 (dmaState 0 0) = true
    ∧ (∃ r ∈ (withReq { reqA 1 5 [] with running := true } base).ledger.reqs, r.rid = 1 ∧ r.running = true ∧ r.done = none ∧ r.settled = none) := by decide +kernel

/-! ### Administration and cairns -/

def adS (op : Nat) (p : Bytes) (s : State) : State := withReq (reqA 1 op p) s
def capsReq (n : Nat) : Req := reqF 1 2 1 (refB 0x1000 n 1 2)
theorem wit_Admin_identify : Waits 1 1 1 (reqA 1 1 []) (adS 1 [] base) ∧ (∀ n ∈ [16, 65536], Waits 1 2 1 (capsReq n) (withReq (capsReq n) base) ∧ hasRef (capsReq n) = true ∧ (capsReq n).length = 16
      ∧ refWrites (refAt (capsReq n).payload 0) = true ∧ (refAt (capsReq n).payload 0).space = 1 ∧ (capsReq n).refsOpen = true ∧ (refAt (capsReq n).payload 0).len = n
      ∧ LinkFree 0 (withReq (capsReq n) base))
    ∧ 16 < (capTable (withReq (capsReq 16) base)).length ∧ (capTable (withReq (capsReq 65536) base)).length ≤ 65536 ∧ Waits 1 5 1 (reqA 1 5 []) (adS 5 [] base) := by
  unfold Waits LinkFree; (repeat' apply And.intro) <;> decide +kernel
/-- Counter lists of 0, 1, 32 and 33 domains, and one with an unknown domain. -/
def ctrP (n d : Nat) : Bytes := leBytes 1 n ++ zeros 7 ++ List.replicate n (BitVec.ofNat 8 d)
theorem wit_Admin_counters : ∀ x ∈ [(0, 0), (1, 0), (1, 0x0F), (32, 8), (33, 8)], Waits 1 3 1 (reqA 1 3 (ctrP x.1 x.2)) (adS 3 (ctrP x.1 x.2) base) ∧ hasRef (reqA 1 3 (ctrP x.1 x.2)) = false ∧ fld (ctrP x.1 x.2) 0 1 = x.1
    ∧ 8 + x.1 ≤ (reqA 1 3 (ctrP x.1 x.2)).length ∧ ((∀ d ∈ (List.range x.1).map fun k => fld (ctrP x.1 x.2) (8 + k) 1, d ∈ domainIds) ↔ x.2 ≠ 0x0F) := by unfold Waits; decide +kernel
def ropeP (n pos : Nat) : Bytes := leBytes 1 n ++ leBytes 1 pos ++ zeros 6 ++ (List.range n).flatMap fun i => List.replicate 16 (BitVec.ofNat 8 (48 + i))
theorem wit_Admin_rope : (∀ n ∈ [1, 16], let p := ropeP n 0
      Waits 1 6 1 (reqA 1 6 p) (adS 6 p base) ∧ fld p 0 1 = n ∧ fld p 1 1 = 0 ∧ 8 + 16 * n ≤ (reqA 1 6 p).length ∧ sub p 8 16 = base.sec.serial ∧ ((List.range n).map fun i => sub p (8 + 16 * i) 16).Nodup
        ∧ (List.range n).map (fun i => sub p (8 + 16 * i) 16) ≠ base.ports.serials)
    ∧ (Waits 1 6 1 (reqA 1 6 (ropeP 0 0)) (adS 6 (ropeP 0 0) base) ∧ fld (ropeP 0 0) 0 1 = 0) ∧ base.tune.groups = [] ∧ base.agents.sess = []
    ∧ ({ base with ports := { base.ports with serials := [List.replicate 16 48] } } : State).ports.serials = (List.range 1).map (fun i => sub (ropeP 1 0) (8 + 16 * i) 16) := by
  unfold Waits; (repeat' apply And.intro) <;> first | decide +kernel | (simp only []; decide +kernel)
theorem wit_Admin_ports : (∀ p ∈ [0, 4, 5], Waits 1 7 1 (reqA 1 7 [BitVec.ofNat 8 p]) (adS 7 [BitVec.ofNat 8 p] base) ∧ fld [BitVec.ofNat 8 p] 0 1 = p)
    ∧ (∀ x ∈ [(0, 1), (4, 0), (4, 1), (4, 2), (5, 0), (1, 3)], Waits 1 8 1 (reqA 1 8 [BitVec.ofNat 8 x.1, BitVec.ofNat 8 x.2]) (adS 8 [BitVec.ofNat 8 x.1, BitVec.ofNat 8 x.2] base)
      ∧ fld [BitVec.ofNat 8 x.1, BitVec.ofNat 8 x.2] 1 1 = x.2) ∧ lastPath 0 (withPort 0 portA base) = true ∧ lastPath 4 base = false ∧ (portOf 4 (withPort 4 { Port.init 0 with train := 0 } base)).train = 0 ∧ portUp 4 base = false
    ∧ Waits 1 4 1 (reqA 1 4 [9, 0]) (adS 4 [9, 0] base) ∧ ({ train1 true with inTime := false } : TrainReport).inTime = false := by unfold Waits; decide +kernel
/-- A copy of a session of context 1 of the module at position 1, which is lost; the request asks for it on model 1 of context 1. -/
def copy1 : MirrorCopy := ⟨2 ^ 64, 1, [1], 1, 7, 7, 3, body1, false, 32768, 0, 0xFFFF, true⟩
def adoptP (n : Nat) : Bytes := [1, 1, 1, 0] ++ leBytes 4 1 ++ refB 0x1000 n 1 2
def adoptS (n : Nat) (st : SecState) (x : MirrorCopy) (l : List Nat) : State :=
  let s := withReq (reqA 1 9 (adoptP n)) (withModel model1 tenant)
  { s with sec := { s.sec with sec := st }, agents := { s.agents with mirrorStore := [x] }, ports := { s.ports with lostPeers := l, serials := [zeros 16, [1]] } }
theorem wit_Admin_adopt : ∀ n ∈ [31, 32], Waits 1 9 1 (reqA 1 9 (adoptP n)) (adoptS n .admitted copy1 [1]) ∧ hasRef (reqA 1 9 (adoptP n)) = false ∧ fld (adoptP n) 0 1 = 1 ∧ fld (adoptP n) 1 1 = 1 ∧ fld (adoptP n) 2 1 = 1 ∧ fld (adoptP n) 3 1 = 0
    ∧ fld (adoptP n) 4 4 = 1 ∧ refWrites (refAt (adoptP n) 8) = true ∧ (refAt (adoptP n) 8).space = 1 ∧ (refAt (adoptP n) 8).len = n ∧ (reqA 1 9 (adoptP n)).refsOpen = true ∧ originLost 1 1 (adoptS n .admitted copy1 []) = false
    ∧ originLost 1 1 (adoptS n .admitted copy1 [1]) = true ∧ slotAllocated 1 (adoptS n .admitted copy1 [1]) = true ∧ (adoptS n .provisioned copy1 [1]).sec.sec ≠ .admitted ∧ modelOf 1 (adoptS n .admitted copy1 [1]) = some model1
    ∧ model1.ctx = 1 ∧ copiesOf 1 1 (adoptS n .admitted copy1 [1]) = [copy1] ∧ copy1.digest = model1.digest ∧ { copy1 with digest := 8 }.digest ≠ model1.digest
    ∧ (∀ z ∈ [copy1].erase copy1, sameSess copy1 z = false) := by unfold Waits; decide +kernel

def cairn1 (st : Nat) (stop : Bool) : Cairn := ⟨5, 1, 6, 3, 9, st, 0, false, false, stop, 0, 0, 0, 0, 0, 0, 0, []⟩
def caP : Bytes := leBytes 8 5 ++ [1, 0xFF]
def caS (op : Nat) (k : Cairn) : State := { withReq (reqT 15 op caP) tenant with ledger := { (withReq (reqT 15 op caP) tenant).ledger with cairns := [k] } }
theorem wit_Cairns : (∀ op ∈ [1, 2, 3], Waits 15 op 1 (reqT 15 op caP) (caS op (cairn1 1 true)) ∧ Waits 15 op 1 (reqT 15 op caP) (withReq (reqT 15 op caP) tenant)) ∧ hasRef (reqT 15 1 caP) = false ∧ fld caP 9 1 = 0xFF
    ∧ (∀ x ∈ [(0, true), (1, false), (1, true), (2, false)], cairnNamed (reqT 15 3 caP) (caS 3 (cairn1 x.1 x.2)) = some (cairn1 x.1 x.2)) ∧ cairnNamed (reqT 15 3 caP) (withReq (reqT 15 3 caP) tenant) = none := by
  unfold Waits; decide +kernel

/-! ### Monitors, injection, debug -/

def moS (op : Nat) (p : Bytes) (s : State) : State := withReq (reqA 13 op p) s
def monP (i c w : Nat) : Bytes := leBytes 4 i ++ leBytes 4 c ++ leBytes 4 0 ++ leBytes 4 w
/-- Each of the grounds of a refusal: the instance, a reserved bit, a window of 2^9 and of 2^41 cycles, mode 3, the mode of another kind, a bin of width 0. -/
theorem wit_MonitorRefusals : Waits 13 2 1 (reqA 13 2 [96]) (moS 2 [96] base) ∧ fld [(96 : Byte)] 0 1 = 96
    ∧ (∀ x ∈ [(96, 20 * 256, 1), (256, 20 * 256, 1), (0, 20 * 256 + 8, 1), (0, 9 * 256, 1), (0, 41 * 256, 1), (0, 20 * 256 + 6, 1), (0, 20 * 256 + 4, 1), (66, 20 * 256, 1), (0, 20 * 256, 0)], let p := monP x.1 x.2.1 x.2.2
      Waits 13 3 1 (reqA 13 3 p) (moS 3 p base) ∧ (95 < fld p 0 1 ∨ fld p 1 3 ≠ 0 ∨ bits (fld p 4 4) 3 5 ≠ 0 ∨ bits (fld p 4 4) 8 6 < 10 ∨ 40 < bits (fld p 4 4) 8 6 ∨ bits (fld p 4 4) 1 2 = 3
        ∨ (bits (fld p 4 4) 1 2 = 2 ∧ monKind (fld p 0 1) ≠ 2) ∨ (bits (fld p 4 4) 1 2 < 2 ∧ monKind (fld p 0 1) = 2) ∨ fld p 12 4 = 0)) := by unfold Waits; decide +kernel
theorem wit_Monitors_windows : ∀ i ∈ [0, 66, 95], clockPowered (monDomain i) base = true ∧ clockNow (monDomain i) base ≤ ((monGet i base).openIdx + 1) * 2 ^ (monGet i base).winLog2
    ∧ ((monGet i base).openIdx + 1) * 2 ^ (monGet i base).winLog2 < 2 ^ 64 ∧ base.ledger.reqs.any timed = false := by decide +kernel
theorem wit_Monitors_requests : Waits 13 1 1 (reqA 13 1 []) (moS 1 [] base) ∧ (∀ i ∈ [0, 95], Waits 13 2 1 (reqA 13 2 [BitVec.ofNat 8 i]) (moS 2 [BitVec.ofNat 8 i] base))
    ∧ (∀ x ∈ [(0, 10 * 256 + 1), (95, 40 * 256 + 3), (66, 20 * 256 + 5)], Waits 13 3 1 (reqA 13 3 (monP x.1 x.2 1)) (moS 3 (monP x.1 x.2 1) base) ∧ monCfgBad (monP x.1 x.2 1) = false)
    ∧ (∀ i ∈ [0, 1], Waits 13 4 1 (reqA 13 4 [BitVec.ofNat 8 i]) (moS 4 [BitVec.ofNat 8 i] base)) ∧ base.sec.sec ≠ .admitted ∧ (withSec (fun c => { c with sec := .admitted }) base).sec.sec = .admitted
    ∧ Waits 13 6 1 (reqA 13 6 []) (moS 6 [] base) := by unfold Waits; (repeat' apply And.intro) <;> decide +kernel
def injP (id perm tgt param value : Nat) (d : Bytes) : Bytes := leBytes 1 id ++ leBytes 1 perm ++ leBytes 2 tgt ++ leBytes 4 param ++ leBytes 8 value ++ d
def armable (s : State) : State := { s with mon := { s.mon with injEnabled := true } }
def armed1 : Injection := ⟨1, 9, 3, 0, 0, [], false⟩
theorem wit_Monitors_inject : (∀ p ∈ [injP 9 0 3 0 0 [], injP 4 0 0 0 0 [], injP 0x11 0 78 1 50 []], Waits 13 5 1 (reqA 13 5 p) (moS 5 p (armable base)) ∧ hasRef (reqA 13 5 p) = false
      ∧ injGood (fld p 0 1) (fld p 2 2) (fld p 4 4) (fld p 8 8) (armable base) = true ∧ fld p 1 1 = 0 ∧ (reqA 13 5 p).length = 16 + injData (fld p 0 1))
    ∧ injectAvail 0 base = false ∧ injectAvail 0 (armable base) = true ∧ injPermanent 4 = true ∧ injPermanent 9 = false ∧ armed1.id = 9 ∧ armed1.target = 3 ∧ base.mon.armed = [] := by unfold Waits; decide +kernel
def openS (s : State) : State := withSec (fun c => { c with dbg := .open, sec := .blank }) s
def dbR (op : Nat) (p : Bytes) : Req := reqA 14 op p
theorem wit_Debug : debugDenied base = true ∧ debugDenied (openS base) = false ∧ (∀ op ∈ [1, 2, 3, 4, 5, 6, 7], ∀ n ∈ [1, 448], let p := leBytes 8 0 ++ leBytes 4 n
      Waits 14 op 1 (dbR op p) (withReq (dbR op p) base) ∧ Waits 14 op 1 (dbR op p) (withReq (dbR op p) (openS base)) ∧ fld p 8 4 = n ∧ hasRef (dbR op p) = false
        ∧ (hartNamed (dbR op p) base).isSome = true ∧ fld p 0 8 % 4 = 0 ∧ fld p 0 8 < 0x10000 ∧ fld p 0 8 ≠ 0x100)
    ∧ keysRise (resState []).mem.pages = true ∧ (∀ e ∈ (resState []).mem.pages, (e.2.t1 = none ∨ e.2.t2 = none) ∧ (e.2.t2 ≠ none → e.2.stored = pageBytes)) := by unfold Waits; decide +kernel
theorem wit_Debug_halted : hartNamed (dbR 5 (leBytes 8 0)) base = some 0 ∧ (hartOf 0 base).halted = false
    ∧ (hartOf 0 { base with task := { base.task with harts := [(0, { Hart.init with halted := true })] } }).halted = true := by decide +kernel
theorem wit_InjectFired : ∀ id ∈ [1, 2, 9, 10], let s : State := { base with mon := { base.mon with armed := [{ armed1 with id := id }] } }
    s.mon.armed.find? (fun x => decide (x.handle = 1)) = some { armed1 with id := id } ∧ s.host.held.length < 256 ∧ (∀ r ∈ s.ledger.reqs, r.mbx = 3 → r.tag = 0 → outstanding r = false ∨ r.done ≠ none) := by decide +kernel
/-- An armed injection that its request, its transfer or its read meets. -/
def armedS (j : Injection) (s : State) : State := { s with mon := { s.mon with armed := [j] } }
def metS (id : Nat) : State := armedS { armed1 with id := id, target := 0, param := 7 } (withReq (reqA 1 5 []) (remoteS true))
def injTimed : State := armedS { armed1 with id := 10, target := 0, param := 7 } (withReq (reqA 1 5 []) base)
theorem wit_InjectFired_meets : (∀ id ∈ [0x0B, 0x10], (metS id).mon.armed.find? (fun x => decide (x.handle = 1)) = some { armed1 with id := id, target := 0, param := 7 } ∧ injQualifies { armed1 with id := id, target := 0, param := 7 } (metS id) = true)
    ∧ lastRemote (metS 0x0B) = some (remote1 true) ∧ injQualifies { armed1 with id := 0x0D } (staged true base) = true ∧ injQualifies { armed1 with id := 0x0C } base = true ∧ injTimed.mon.armed = [{ armed1 with id := 10, target := 0, param := 7 }]
    ∧ (let s := injTimed; let r := reqA 1 5 []; s.ledger.reqs.find? (fun r => decide (r.mbx = 0 ∧ r.tag = 7) && outstanding r) = some r ∧ r.done = none ∧ r.settled = none ∧ accessing r.rid s = false
      ∧ (tget s.host.mbx 0).isSome = true) ∧ injQualifies { armed1 with id := 0x0B } base = false := by decide +kernel
theorem wit_SensorOverride : (tget base.mon.override 80).isSome = false ∧ (let s : State := { base with mon := { base.mon with override := [(80, ((50 : Int), 1000))] } }; tget s.mon.override 80 = some ((50 : Int), 1000) ∧ clockPowered domAon s = true) := by decide +kernel
theorem wit_SensorSample : ∀ i ∈ [78, 95], clockPowered domAon base = true ∧ (monGet i base).en = true ∧ clockNow (monDomain i) base / 2 ^ (monGet i base).winLog2 ≤ (monGet i base).openIdx := by decide +kernel

/-! ### Registers and packets -/

theorem wit_Registers : engOn 0 (dmaState 0 0) = true ∧ (engOf 0 (dmaState 0 0)).owner = some 1 ∧ Served base ∧ On 0x80000000 31 ∧ ¬ On base.host.ringSize 31 ∧ bits 0 16 16 ≠ 0xC1EA
    ∧ (inState .scrub base).host.ifState = .scrub ∧ slotOf 1 tenant = some slot1 ∧ clockPowered domFab tenant = true ∧ faRuns base = true ∧ powered base = true ∧ powered (withPwr (fun p => { p with pwr := .off }) base) = false := by
  unfold Served On; decide +kernel
def pkOf (space addr n : Nat) : Packet := ⟨1, space, 1, 65535, 0, n, 0, addr, 0, true⟩
def lit (s : State) : State := withPort 0 portA s
/-- Stores of hart 0 to its context's tasklet page: aligned, and at offset 2. -/
def hartW (off : Nat) : RegWrite := ⟨.taskletPage, 1, off, 4, 16, none, some 0⟩
theorem wit_Registers_hart : (hartW 8).hart = some 0 ∧ runningOn 0 (running 0 0 []) = some (task1 0) ∧ windowOk 0 1 (hartW 8) (running 0 0 []) = true ∧ windowOk 0 1 (hartW 2) (running 0 0 []) = false
    ∧ (match exec (.registerWrite { hartW 8 with onBehalf := some 1, hart := none }) (running 0 0 []) with | .next _ => true | _ => false) = true := by decide +kernel
theorem wit_Packets : pathUp base = false ∧ pathUp (lit base) = true ∧ (lit (inState .scrub base)).host.ifState = .scrub ∧ (pkOf 1 0 1).ptag < 65536 ∧ (pkOf 1 0x1FFFFC 4).addr + (pkOf 1 0x1FFFFC 4).len ≤ 0x200000
    ∧ (∀ i, i < (zeros 4).length → (pkOf 1 0x1FFFFC 4).addr + i < 0x200000) ∧ checkRead 1 0x200000 4 (lit (resState [])) = .fine ∧ checkRead 1 0x600000 4 (lit (resState [])) = .xlate
    ∧ checkRead 1 0x200000 4 (lit { resState [] with mem := { (resState []).mem with pages := [(1, page1 .lost [])] } }) = .lost := by decide +kernel
theorem wit_Packets_write : pathPort (lit base) = some 0 ∧ (lit base).host.ifState = .ready ∧ (∀ a ∈ [0, 0x1FFFC0], lineErrs 344 a (lit base) ≤ eccCorrects 344) ∧ checkRead 1 0x200000 4 (resState []) = .fine ∧ WritableAt 1 0x200000 4 (resState []) ∧ NoAlias 1 (resState []) :=
  ⟨by decide +kernel, by decide +kernel, by decide +kernel, by decide +kernel, writableAt_withMem _ _ 4 (by decide), noAlias_withMem _ _⟩
def scrub1 : Scrub := ⟨0, .ready, [1]⟩
def scrubS : State := withSec (fun c => { c with scrub := some scrub1 }) (inState .scrub (withSlot { slot1 with state := .freeing } base))
theorem wit_ScrubEnd : scrubS.sec.scrub = some scrub1 ∧ scrubS.host.ifState = .scrub ∧ scrub1.prev ≠ .scrub ∧ scrubS.host.warmHeld = false ∧ scrubS.sec.heldPortH = [] ∧ scrubS.ports.heldFwd = [] ∧ scrubS.sec.quarantineNext = false
    ∧ scrubS.sec.unlock = none ∧ slotState 1 scrubS = .freeing ∧ powered scrubS = true ∧ scrubS.sec.scrubDue = false
    ∧ (∀ r ∈ scrubS.ledger.reqs, r.svc = 10 → r.op = 2 → r.running = false) := by decide +kernel
theorem wit_Jtag : powered (openS base) = true ∧ (openS base).sec.dbg = .open ∧ (hartReg 0 0x7B1 (openS base)).isSome = true ∧ (⟨.hart, 0, 0x7B1, 8, 0, none, none⟩ : RegWrite).blk ≠ .controlWindow := by decide +kernel

/-! ### The spec's worked examples, and reset -/

/-- 00, "reading a 64-bit word from bytes". -/
theorem test_word_from_bytes : leNat (b8 [0, 0, 3, 0, 0, 0, 0, 0]) = 0x30000 ∧ leNat ((b8 [0, 0, 3, 0, 0, 0, 0, 0]).take 2) = 0 := by decide +kernel

/-- The state that a command leaves. -/
def after (c : Instr) (s : State) : State := match exec c s with | .next t => t | _ => s
/-- 01, "the table after a spare is used and a die is lost": generation 7, then an engine of C1, then C3. -/
def gen7 : State := { base with caps := { base.caps with generation := 7 } }
def spareUsed : State := after (.spareReplace 20) gen7
theorem test_spare_replaces : spareUsed.caps.generation = 8 ∧ spareUsed.caps.engMap.length = 72 ∧ spareUsed.caps.engFailed.length = 1 := by decide +kernel
theorem test_die_lost : let t := after (.dieLost 3) spareUsed
    t.caps.generation = 9 ∧ t.caps.dieMap = [0, 1, 2] ∧ t.caps.dieFailed.length = 1 ∧ t.caps.engMap.length = 54 ∧ t.caps.engFailed.length = 21 ∧ t.caps.coreMap.length = 192 := by decide +kernel

/-- 02, "two requests across the index wrap": the doorbell of mailbox 5 takes 2 requests across 0xFF. -/
def mbx5 : Mbx := { Mbx.init with reqHead := 0xFE, reqTail := 0xFE, rplHead := 0xFE, rplTail := 0xFE }
def mbxS : State := { base with host := { base.host with mbx := tset base.host.mbx 5 mbx5 }, ctxs := { base.ctxs with slots := tset base.ctxs.slots 5 slot1 } }
theorem test_doorbell_wraps : tget (after (.reqTailWrite 5 0x80000000) mbxS).host.mbx 5 = some { mbx5 with reqTail := 0 } := by decide +kernel

/-- 04, "one MXFP4 block and a drift event": 28.8, -10.4, 1.2, 1.0, then 4.0 in FP32. -/
theorem test_mxfp4_block : (convertBlocks 1 true false [[0x41E66666, 0xC1266666, 0x3F99999A, 0x3F800000] ++ List.replicate 28 0x40800000] 0).1 = b8 [0xD7, 0x01] ++ List.replicate 14 0x22 ++ [0x81]
    ∧ (convertBlocks 1 true false [[0x41E66666, 0xC1266666, 0x3F99999A, 0x3F800000] ++ List.replicate 28 0x40800000] 0).2.1 = 1 := by decide +kernel

/-- 10, "a copy that loses to a host write": what the two slot addresses name. -/
theorem test_slot_addresses : slotCh 0xD3308C69 = 9 ∧ slotSb 0xD3308C69 = 3 * 1272 + 500 ∧ slotPlane 0xD3308C69 = 2 ∧ slotCh 0x1AE5054AE = 14 ∧ slotSb 0x1AE5054AE = 11 * 1272 + 1020 ∧ slotPlane 0x1AE5054AE = 0
    ∧ slotNo 500 2 1200 3 9 = 0xD3308C69 ∧ slotNo 1020 0 37 11 14 = 0x1AE5054AE := by decide +kernel

/-- 11, "a wrap with one failing command": the doorbell word 0x03FE0000. -/
def qp5 : Qp := { qp1 with depth := 1024, sqHead := 1022, sqTail := 1022, cqHead := 1022, cqTail := 1022, dbSeen := 0x03FE03FE }
theorem test_store_doorbell : (qpOf 1025 (after (.qpDoorbell 1025) (withQp qp5 (resState [(2, 0xFE), (3, 0x03)])))).map (fun p => (p.sqTail, p.cqHead, p.sqHead)) = some (0, 1022, 1022) := by decide +kernel

/-- 12, "what four queries see": deletion as epoch 42, insertions as epochs 43 and 44. -/
def index12 : Index := ⟨5, 1024, 32, 8, 0, 100, 41, 30, ⟨[⟨0x0A01, []⟩], [[]], [0]⟩, [⟨0x0B02, [], 35, none, false⟩], [], none, false⟩
def index44 : Index := (insertItem 44 (insertItem 43 (deleteItem 42 (index12, 0) 0x0A01) (0x0C03, [])) (0x0B02, [])).1
theorem test_four_queries : visibleKeys index12 41 = [0x0A01, 0x0B02] ∧ visibleKeys index44 41 = [0x0A01, 0x0B02] ∧ (visibleKeys index44 44).length = 2 ∧ (visibleKeys index44 44).contains 0x0B02 = true
    ∧ (visibleKeys index44 44).contains 0x0C03 = true ∧ index44.side.length = 4 := by decide +kernel

/-- 14, "one block that outgrows its exponent": element 5 at members 0 to 3 is 0.75, 1.5, 3.0, 2.0. -/
def element5 (x : U32) : List U32 := List.replicate 5 0 ++ [x] ++ List.replicate 58 0
def block300 : WireBlock := (addBlock 2 (addBlock 2 (quantBlock 2 (element5 0x3F400000)) (element5 0x3FC00000)).1 (element5 0x40400000)).1
theorem test_block_grows : (quantBlock 2 (element5 0x3F400000)).e = 114 ∧ (quantBlock 2 (element5 0x3F400000)).v.getD 5 0 = 6144 ∧ block300.e = 115 ∧ block300.v.getD 5 0 = 21504 ∧ block300.expGrew = true
    ∧ (addBlock 2 block300 (element5 0x40000000)).1.v.getD 5 0 = 29696 ∧ (decodeWire (addBlock 2 block300 (element5 0x40000000)).1).getD 5 0 = 0x40E80000 := by decide +kernel

/-- 16, "both feeds lost four seconds apart": C = 114.8 mF gives at least 130.0 J, so the dirty limit is 6 GiB. -/
theorem test_dirty_limit : (after (.holdupMeasure 114800 true) base).ftl.dirtyLimit = 6 * 2 ^ 30 ∧ (after (.holdupMeasure 114800 true) base).ftl.writeThrough = false := by decide +kernel

/-- 17, "a staging erase cut by a warm reset": the two status words. -/
theorem test_fa_status_words : statusWord 2 10 1 8 = 0x000000088A020000 ∧ statusWord 3 0 1 8 = 0x0000000880030000 := by decide +kernel

/-- 19, "a sample on a window boundary": the bins of 180 and 95 cycles with SHIFT 4; the coarse view of the closed window. -/
def mon17 : Mon := { monGet 17 base with closed := ⟨9000, 1530000, 70, 3000, [], []⟩ }
def monS : State := { withSec (fun c => { c with sec := .admitted }) tenant with mon := { tenant.mon with mon := [(17, mon17)] } }
theorem test_monitor_bins : monBin { mon17 with mode := 0, shift := 4 } 180 = 4 ∧ monBin { mon17 with mode := 0, shift := 4 } 95 = 3 := by decide +kernel
theorem test_monitor_coarse : fld (monBlock false 17 monS) 32 8 = 8192 ∧ fld (monBlock false 17 monS) 40 8 = 1275 ∧ fld (monBlock false 17 monS) 48 4 = 0 ∧ fld (monBlock false 17 monS) 52 4 = 2 := by decide +kernel

/-- After reset: a first boot with a good image reaches READY; nothing waits; nothing is listed in memory (02 R52, R56; 17 R513). -/
theorem test_reset_boots : State.reset.pending = [] ∧ State.reset.host.ifState = .boot ∧ State.reset.ledger.reqs = [] ∧ State.reset.mem.pages = []
    ∧ (after (.boot (bootR 0 2 true)) State.reset).host.ifState = .ready ∧ (after (.boot (bootR 0 2 true)) State.reset).host.rstBusy = none := by decide +kernel
/-- A step takes the command at the front of the queue. -/
theorem test_step_front : step { base with pending := [.evtCauseWrite 1, .adminNop 1] } = exec (.evtCauseWrite 1) { base with pending := [.adminNop 1] } := rfl
/-- The table gives no bits: no word spells a command. -/
theorem test_no_words : decodeTableWord 32 0x0707045B = none ∧ State.reset.withFetchWord 32 0 = State.reset := ⟨rfl, rfl⟩

end Sys2Proof.Tests
end

/-! ## Register writes, packets, the end of a scrub and JTAG: a read that makes room in T2

The frame that the statement gives to a control node's read of context memory holds the KV blocks still. But the fill that such a
read performs (08 R266) makes room under the context's T2 quota (08 R571), and the model drops the T2 copies of sealed KV blocks first
(07 R239; log 231): which blocks have such a copy is recorded in `agents.kv`. -/
section
namespace Sys2Proof.Machine
open Sys2Proof Sys2Proof.Certs

/-- A tenant's sealed page, durable in flash, without a DRAM copy. -/
def flashOnlyPage : Page := ⟨1, .sealed, none, none, 3, 0, false, false, 0, false, 1, pageBytes, pageBytes, []⟩

/-- A sealed KV block of the same tenant, durable in flash, with a copy in T2. -/
def cachedKvBlk : KvBlk := ⟨1, 1, 4096, [], [], 0, true, 3⟩

/-- READY with the link to the control node up. Context 1, whose T2 quota is one page, has a `WARM` object at 0x200000 of the page above,
and the KV block above: the page's fill fits its quota only without the block's T2 copy. -/
def fillNeedsKvRoom : State :=
  let s := State.reset
  { s with
    host := { s.host with ifState := .ready, bootStep := 0 }
    ports := { s.ports with port := tset s.ports.port 0 { Port.init 0 with train := 6 } }
    ctxs := { s.ctxs with slots := tset s.ctxs.slots 1 { Slot.new CtxCfg.admin with state := .alloc } }
    mem := { s.mem with pages := [(1, flashOnlyPage)], objs := [(1, ⟨1, 0x200000, 2, [1], []⟩)], nextPage := 2, usage := [(1, { Usage.init with t2Quota := pageBytes })] }
    agents := { s.agents with kv := [(1, cachedKvBlk)] } }

/-- The control node reads four bytes of the object. -/
def readOfWarmPage : Packet := ⟨1, 2, 1, 7, 0, 4, 0, 0x200000, 0, true⟩

theorem fillNeedsKvRoom_path : pathPort fillNeedsKvRoom = some 0 := by decide +kernel

theorem fillNeedsKvRoom_check : checkRead 1 0x200000 4 fillNeedsKvRoom = .fine := by decide +kernel

/-- To make room for the page under the quota, the read's fill drops the T2 copy of the KV block (08 R266, R571; log 231). -/
theorem readOfWarmPage_drops_kvCopy :
    (arrive ⟨readOfWarmPage, [], false, false⟩ fillNeedsKvRoom).agents.kv = [(1, { cachedKvBlk with t2 := false })] := by decide +kernel

/-- The KV block loses its T2 copy, so the read changes `agents`. -/
theorem readOfWarmPage_changes_agents :
    (arrive ⟨readOfWarmPage, [], false, false⟩ fillNeedsKvRoom).agents ≠ fillNeedsKvRoom.agents := by
  intro hsame
  have hkv := readOfWarmPage_drops_kvCopy
  rw [hsame] at hkv
  exact absurd hkv (by decide)

/-- Refutes O60: of a packet that reads context memory the statement says that nothing changes but memory, error records, drawn values
and what is sent. The read of `readOfWarmPage` in `fillNeedsKvRoom` fills its page into T2, and to keep the quota of T2 the fill drops the T2
copy of the context's oldest durable KV block: `agents` changes too. -/
theorem not_registersAndPackets : ¬ Obligations.RegistersAndPackets := by
  unfold Obligations.RegistersAndPackets
  intro h
  obtain ⟨-, -, -, -, -, hpackets, -, -⟩ := h
  obtain ⟨-, -, hserved⟩ := hpackets readOfWarmPage [] fillNeedsKvRoom
  obtain ⟨-, -, hread, -⟩ := hserved 0 fillNeedsKvRoom_path rfl (by decide)
  obtain ⟨t, hexec, -, -, hframe⟩ := hread rfl fillNeedsKvRoom_check
  have ht : arrive ⟨readOfWarmPage, [], false, false⟩ fillNeedsKvRoom = t := Host.Outcome.next.inj hexec
  have hagents : t.agents = fillNeedsKvRoom.agents := by rw [hframe]
  exact readOfWarmPage_changes_agents (by rw [ht, hagents])

end Sys2Proof.Machine
end

/-! ## Matrix engines: the rules of the sequencer, of faults and of folds over cells -/
section
namespace Sys2Proof.Machine
open Sys2Proof Sys2Proof.Certs

/-! ### What events and samples leave alone, as equations of states -/

theorem setCause_frame (b : Nat) (s : State) : setCause b s = { s with host := (setCause b s).host } := by
  unfold setCause
  split
  · rfl
  · dsimp only
    split <;> rfl

theorem eventOut_frame (refused : Bool) (s : State) : eventOut refused s = { s with host := (eventOut refused s).host } := by
  unfold eventOut
  split
  · rfl
  · split
    · rfl
    · split
      · rw [setCause_frame]
      · dsimp only
        rw [setCause_frame]
        rfl

/-- Raising an event touches the control window alone (02 R80, R81). -/
theorem raiseEvent_frame (code ty idx ctx st : Nat) (p : Bytes) (s : State) :
    raiseEvent code ty idx ctx st p s = { s with host := (raiseEvent code ty idx ctx st p s).host } := by
  unfold raiseEvent
  dsimp only
  by_cases hroom : s.host.held.length < 256
  · rw [if_pos hroom, if_pos hroom]
  · rw [if_neg hroom, eventOut_frame]
    split
    · rfl
    · rw [setCause_frame]

theorem setCause_seqs (b : Nat) (s : State) : (setCause b s).host.seqs = s.host.seqs := by
  unfold setCause
  split
  · rfl
  · dsimp only
    split <;> rfl

theorem eventOut_seqs (refused : Bool) (s : State) : (eventOut refused s).host.seqs = s.host.seqs := by
  unfold eventOut
  split
  · rfl
  · split
    · rfl
    · split
      · exact setCause_seqs _ _
      · exact setCause_seqs _ _

/-- An event uses up one sequence number of its source (02 R80). -/
theorem raiseEvent_seqs (code ty idx ctx st : Nat) (p : Bytes) (s : State) :
    (raiseEvent code ty idx ctx st p s).host.seqs
      = tset s.host.seqs (256 * ty + idx) ((tgetD s.host.seqs (256 * ty + idx) 0 + 1) % 2 ^ 32) := by
  unfold raiseEvent
  dsimp only
  by_cases hroom : s.host.held.length < 256
  · rw [if_pos hroom, if_pos hroom]
  · rw [if_neg hroom]
    split
    · exact eventOut_seqs _ _
    · exact (setCause_seqs _ _).trans (eventOut_seqs _ _)

theorem monSample_frame (i : Nat) (v : Int) (row : Nat) (s : State) : monSample i v row s = { s with mon := (monSample i v row s).mon } := by
  unfold monSample
  dsimp only
  split <;> rfl

/-- The stall cycles of a pass are drawn and sampled: only the monitors and the drawn-values counter change (19 R551). -/
theorem stallSamples_frame (e n : Nat) (s : State) :
    stallSamples e n s = { s with mon := (stallSamples e n s).mon, freeCtr := (stallSamples e n s).freeCtr } := by
  unfold stallSamples
  generalize List.range 16 = l
  induction l generalizing s with
  | nil => rfl
  | cons r rest ih =>
    rw [List.foldl_cons, ih, monSample_frame]
    rfl

/-! ### One engine -/

/-- An engine is read from the engines' table and the map of active engines alone. -/
theorem engOf_congr {s t : State} (e : Nat) (heng : t.eng.eng = s.eng.eng) (hmap : t.caps.engMap = s.caps.engMap) : engOf e t = engOf e s := by
  unfold engOf
  rw [heng, hmap]

@[simp] theorem setEng_setEng (e : Nat) (g h : Eng) (s : State) : setEng e g (setEng e h s) = setEng e g s := by
  simp [setEng]

/-- The engine completes an instruction: `Advanced` (03 R112, R121). -/
theorem engNext_eq (e : Nat) (f : EngSt → EngSt) (s : State) :
    engNext e f s = setEng e (Advanced (engOf e s) (f (engOf e s).sav)) s := rfl

/-- An engine that holds a SYNC, its head past it (03 R112). -/
def holding (g : Eng) : Eng := { g with st := .wait, sav := { g.sav with head := engIdx g + 1 } }

theorem engWait_eq (e : Nat) (s : State) : engWait e s = setEng e (holding (engOf e s)) s := rfl

/-! ### Issue -/

/-- A legal instruction of the command's class and operation runs (03 R111, R112). -/
theorem engIssue_runs {e cls op : Nat} {s : State} (go : Nat → State → State) (hon : engOn e s = true) (hgo : canIssue (engOf e s) = true)
    (hdec : engDecode (dieEngs (engDie e) s).length (ringInstr (engOf e s).sav (engIdx (engOf e s))) = some (cls, op)) :
    engIssue e cls op go s = go (ringInstr (engOf e s).sav (engIdx (engOf e s))) s := by
  unfold engIssue
  simp [hon, hgo, hdec]

/-- An illegal one faults, whatever the command (03 R111). -/
theorem engIssue_illegal {e : Nat} {s : State} (cls op : Nat) (go : Nat → State → State) (hon : engOn e s = true) (hgo : canIssue (engOf e s) = true)
    (hdec : engDecode (dieEngs (engDie e) s).length (ringInstr (engOf e s).sav (engIdx (engOf e s))) = none) :
    engIssue e cls op go s = engFault e fIllegal (engIdx (engOf e s)) (modSav e (fun v => { v with head := engIdx (engOf e s) }) s) := by
  unfold engIssue
  simp [hon, hgo, hdec]

theorem engIdx_of_ne_wait {g : Eng} (h : g.st ≠ .wait) : engIdx g = g.sav.head := if_neg h

theorem engIdx_of_wait {g : Eng} (h : g.st = .wait) : engIdx g = g.sav.head - 1 := if_pos h

theorem engIssue_atHead {e w cls op : Nat} {s : State} (go : Nat → State → State) (h : AtHead e w cls op s) :
    engIssue e cls op go s = go w s := by
  obtain ⟨hon, hgo, hst, hw, hdec⟩ := h
  have hw' : ringInstr (engOf e s).sav (engIdx (engOf e s)) = w := by rw [engIdx_of_ne_wait hst, hw]
  rw [engIssue_runs go hon hgo (by rw [hw', hdec]), hw']

theorem engIssue_held {e w op : Nat} {s : State} (go : Nat → State → State) (h : Held e w op s) : engIssue e 6 op go s = go w s := by
  obtain ⟨hon, hrun, hst, hw, hdec⟩ := h
  have hw' : ringInstr (engOf e s).sav (engIdx (engOf e s)) = w := by rw [engIdx_of_wait hst, hw]
  rw [engIssue_runs go hon (by simp [canIssue, hrun, hst]) (by rw [hw', hdec]), hw']

/-- Class 1 is LDW's alone (03 R111). -/
theorem ldwLegal_of_decode {n w op : Nat} (h : engDecode n w = some (1, op)) : ldwLegal w = true := by
  unfold engDecode at h
  split at h
  case h_1 => exact (by simpa using h : ldwLegal w = true ∧ 0 = op).1
  all_goals simp at h

/-! ### Faults (R124, R125) -/

@[simp] theorem engOf_raiseEvent (e code ty idx ctx st : Nat) (p : Bytes) (s : State) : engOf e (raiseEvent code ty idx ctx st p s) = engOf e s :=
  engOf_congr e (by rw [raiseEvent_eng]) (by rw [raiseEvent_caps])

theorem engOf_engFault_same (e b : Nat) (idx : U16) (s : State) : engOf e (engFault e b idx s) = FaultedEng (engOf e s) b idx := by
  unfold engFault
  dsimp only
  rw [engOf_raiseEvent]
  exact engOf_setEng_same e _ s

theorem engOf_engFault_other {e q : Nat} (b : Nat) (idx : U16) (s : State) (h : q ≠ e) : engOf q (engFault e b idx s) = engOf q s := by
  unfold engFault
  dsimp only
  rw [engOf_raiseEvent]
  exact engOf_setEng_other e q _ s h

/-- A fault changes engines and the control window only. -/
theorem engFault_frame (e b : Nat) (idx : U16) (s : State) :
    engFault e b idx s = { s with eng := (engFault e b idx s).eng, host := (engFault e b idx s).host } := by
  unfold engFault
  dsimp only
  rw [raiseEvent_frame]
  rfl

theorem engOf_modSav_same (e : Nat) (f : EngSt → EngSt) (s : State) : engOf e (modSav e f s) = { engOf e s with sav := f (engOf e s).sav } :=
  engOf_setEng_same e _ s

theorem engOf_modSav_other {e q : Nat} (f : EngSt → EngSt) (s : State) (h : q ≠ e) : engOf q (modSav e f s) = engOf q s :=
  engOf_setEng_other e q _ s h

@[simp] theorem engOf_bumpFree (e : Nat) (s : State) : engOf e (bumpFree s) = engOf e s := rfl

/-- A software fault of the instruction at the head: that engine alone is touched, and with it what the fault reports (03 R124). -/
theorem engSoft_spec (e b : Nat) (s : State) :
    SoftFault (engOf e s) b (engOf e (engSoft e b s)) ∧ (∀ q, q ≠ e → engOf q (engSoft e b s) = engOf q s) ∧ OnlyEngines s (engSoft e b s) := by
  unfold engSoft
  extract_lets g w behind
  cases hbehind : behind with
  | false =>
    refine ⟨.inl ?_, fun q hq => ?_, ?_⟩
    · exact engOf_engFault_same e b _ _
    · exact engOf_engFault_other b _ _ hq
    · rw [OnlyEngines, engFault_frame]
      rfl
  | true =>
    obtain ⟨⟨hmore, hldw⟩, -⟩ : (g.head + 1 ≠ g.tail ∧ engDecode (dieEngs (engDie e) s).length w = some (1, 0)) ∧ Config.freeBits 1 s.freeCtr = 1 := by
      simpa [behind] using hbehind
    refine ⟨.inr ⟨hmore, ldwLegal_of_decode hldw, ?_⟩, fun q hq => ?_, ?_⟩
    · rw [engOf_engFault_same, if_pos rfl, engOf_bumpFree, engOf_modSav_same]
    · rw [engOf_engFault_other _ _ _ hq, if_pos rfl, engOf_bumpFree, engOf_modSav_other _ _ hq]
    · rw [OnlyEngines, engFault_frame]
      rfl

end Sys2Proof.Machine
end

/-! ## Matrix engines: instructions at the head of the sequence -/
section
namespace Sys2Proof.Machine
open Sys2Proof Sys2Proof.Certs

/-! ### LDW, STRM, DRN, FENCE -/

theorem exec_ldw_atHead {e w : Nat} {s : State} (h : AtHead e w 1 0 s) :
    exec (.ldw e) s = .next (setEng e (Advanced (engOf e s) (ldwState w (engOf e s).sav)) s) :=
  congrArg _ (engIssue_atHead _ h)

theorem exec_drn_atHead {e w : Nat} {s : State} (h : AtHead e w 3 0 s) :
    exec (.drn e) s = .next (setEng e (Advanced (engOf e s) (drnState w (engOf e s).sav)) s) :=
  congrArg _ (engIssue_atHead _ h)

theorem exec_fence_atHead {e w : Nat} {s : State} (h : AtHead e w 6 0 s) :
    exec (.fence e) s = .next (setEng e (Advanced (engOf e s) (engOf e s).sav) s) :=
  congrArg _ (engIssue_atHead _ h)

theorem exec_strm_atHead {e w : Nat} {s : State} (b : Bool) (h : AtHead e w 2 0 s) : exec (.strm e b) s = .next (strmRun e b w s) :=
  congrArg _ (engIssue_atHead _ h)

theorem strmRun_ok {e w : Nat} {s : State} (hok : strmOk w (engOf e s).sav = true) :
    strmRun e false w s = stallSamples e (bits w 32 11) (setEng e (Advanced (engOf e s) (strmState w (engOf e s).sav)) s) := by
  simp [strmRun, hok, engNext_eq]

theorem strmRun_mismatch {e w : Nat} {s : State} (b : Bool) (hbad : strmOk w (engOf e s).sav = false) :
    strmRun e b w s = engSoft e fFormat s := by
  simp [strmRun, hbad]

theorem engOf_stallSamples (q e n : Nat) (s : State) : engOf q (stallSamples e n s) = engOf q s := by
  rw [stallSamples_frame]
  rfl

/-- Settles O4: each command issues the instruction at its head; a load, a drain and a fence are `Advanced` at once, a pass goes through
`strmRun`, whose failed checks end in `engSoft`. -/
theorem engineLoadStreamDrain : Obligations.EngineLoadStreamDrain := by
  unfold Obligations.EngineLoadStreamDrain
  intro e w b s
  refine ⟨exec_ldw_atHead, exec_drn_atHead, exec_fence_atHead, fun hhead hok => ?_, fun hhead hbad => ?_⟩
  · refine ⟨_, exec_strm_atHead false hhead, ?_, fun q hq => ?_, ?_⟩
    · rw [strmRun_ok hok, engOf_stallSamples, engOf_setEng_same]
    · rw [strmRun_ok hok, engOf_stallSamples, engOf_setEng_other e q _ s hq]
    · rw [strmRun_ok hok, stallSamples_frame]
      rfl
  · refine ⟨_, exec_strm_atHead b hhead, ?_⟩
    rw [strmRun_mismatch b hbad]
    exact engSoft_spec e fFormat s

/-! ### EPI -/

/-- The named rows, each entry through a lane function of the operands as they were; rows of INT32 become FP32 (03 R116). -/
def epiRows (w : Nat) (int : Bool) (f : EngSt → Nat → U32 → Nat → Nat → U32) (g : EngSt) : EngSt :=
  ((rowList w).zip (List.range (bits w 32 10))).foldl (fun t x =>
    if int then setRowType (bit w 6) x.1 false (epiRow w (f g w) x.1 x.2 t) else epiRow w (f g w) x.1 x.2 t) g

/-- Rows of the right type: every named row goes through the lane function, with the operands as they were (03 R116). -/
theorem epiRun_typed {e w : Nat} {s : State} (int : Bool) (f : EngSt → Nat → U32 → Nat → Nat → U32)
    (htyped : ∀ r ∈ rowList w, rowType (engOf e s).sav (bit w 6) r = some int) :
    epiRun e int f w s = setEng e (Advanced (engOf e s) (epiRows w int f (engOf e s).sav)) s := by
  unfold epiRun
  dsimp only
  rw [if_pos (by simpa using htyped)]
  rfl

/-- A row of another type: a software fault before any row changes (03 R116). -/
theorem epiRun_mismatch {e w : Nat} {s : State} {int : Bool} (f : EngSt → Nat → U32 → Nat → Nat → U32)
    (hother : ∃ r ∈ rowList w, rowType (engOf e s).sav (bit w 6) r ≠ some int) : epiRun e int f w s = engSoft e fFormat s := by
  unfold epiRun
  dsimp only
  rw [if_neg (by simpa using hother)]

/-- What each EPI operation does at the head, given only that its command issues `epiRun` (03 R116). -/
theorem epi_atHead {e w op : Nat} {s : State} {c : Instr} {int : Bool} (f : EngSt → Nat → U32 → Nat → Nat → U32)
    (hexec : exec c s = .next (engIssue e 4 op (epiRun e int f) s)) (hhead : AtHead e w 4 op s) :
    ((∀ r ∈ rowList w, rowType (engOf e s).sav (bit w 6) r = some int) →
      exec c s = .next (setEng e (Advanced (engOf e s) (epiRows w int f (engOf e s).sav)) s)) ∧
    ((∃ r ∈ rowList w, rowType (engOf e s).sav (bit w 6) r ≠ some int) →
      ∃ t : State, exec c s = .next t ∧ SoftFault (engOf e s) 1 (engOf e t) ∧ (∀ q, q ≠ e → engOf q t = engOf q s) ∧ OnlyEngines s t) := by
  rw [engIssue_atHead _ hhead] at hexec
  constructor
  · intro htyped
    rw [hexec, epiRun_typed int f htyped]
  · intro hother
    rw [epiRun_mismatch f hother] at hexec
    exact ⟨_, hexec, engSoft_spec e fFormat s⟩

/-- Settles O7: one argument, `epi_atHead`, for the ten operations. -/
theorem engineEpilogue : Obligations.EngineEpilogue := by
  unfold Obligations.EngineEpilogue
  intro e w s g v allRows op
  refine ⟨?_, ?_, ?_, ?_, ?_, ?_, ?_, ?_, ?_, ?_⟩
  · exact epi_atHead (fun g w a l _ => fpAdd a (epiVec g w l)) rfl
  · exact epi_atHead (fun g w a l _ => fpMul a (epiVec g w l)) rfl
  · exact epi_atHead (fun _ w a _ _ => fpAdd a (epiImm w)) rfl
  · exact epi_atHead (fun _ w a _ _ => fpMul a (epiImm w)) rfl
  · exact epi_atHead (fun _ _ a _ _ => fpRelu a) rfl
  · exact epi_atHead (fun _ _ a _ _ => fpAct fxGelu Config.gelu a) rfl
  · exact epi_atHead (fun _ _ a _ _ => fpAct fxSilu Config.silu a) rfl
  · exact epi_atHead (fun _ w a _ _ => fpClamp a (epiImm w)) rfl
  · exact epi_atHead (fun g w a l _ => fpDeq a (epiVec g w l)) rfl
  · exact epi_atHead (fun g w a l k => fpAdd a (epiMat g w k l)) rfl

/-! ### SCQ and the stream table -/

theorem exec_scq_atHead {e w : Nat} {s : State} (h : AtHead e w 5 0 s) : exec (.scq e) s = .next (scqRun e w s) :=
  congrArg _ (engIssue_atHead _ h)

/-- The count record that a completed SCQ sends: none where no context owns the engine (04 R152). -/
def scqRecord (e w : Nat) (g : Eng) : List CountRec :=
  match g.owner with
  | some c => [⟨e, c, bits w 80 8, scqElements w, (scqState w g.sav).2⟩]
  | none => []

/-- An SCQ over FP32 rows: the engine goes on, its record is queued, the die's saturations are sampled (03 R117; 04 R152). -/
theorem scqRun_fp32 {e w : Nat} {s : State} (hfp : ∀ r ∈ rowList w, rowType (engOf e s).sav (bit w 6) r = some false) :
    scqRun e w s = monSample (74 + engDie e) ((scqState w (engOf e s).sav).2 : Int) 0
      { s with eng := { s.eng with eng := tset s.eng.eng e (Advanced (engOf e s) (scqState w (engOf e s).sav).1),
                                   recs := s.eng.recs ++ scqRecord e w (engOf e s) } } := by
  unfold scqRun scqRecord
  dsimp only
  rw [if_pos (by simpa using hfp)]
  cases (engOf e s).owner with
  | none => simp [engNext_eq, setEng]
  | some c => rfl

/-- The stream table entry that a record goes to (04 R152). -/
def recordEntry (r : CountRec) (s : State) : Sq := tgetD s.eng.sq (256 * r.ctx + r.sid) Sq.init

/-- Applying a record: nothing for a disabled entry (04 R153). -/
theorem applyRecord_disabled {r : CountRec} {s : State} (hdis : bit (recordEntry r s).cfg.toNat 0 = false) : applyRecord r s = s := by
  unfold recordEntry at hdis
  simp [applyRecord, hdis]

/-- Applying a record to an enabled entry whose window does not end: its counts grow, and only an event may be raised (04 R153, R155). -/
theorem applyRecord_counts {r : CountRec} {s : State} (hen : bit (recordEntry r s).cfg.toNat 0 = true)
    (hwin : (recordEntry r s).total + r.elements < 2 ^ bits (recordEntry r s).cfg.toNat 8 5) :
    ∃ q : Sq, (applyRecord r s).eng = { s.eng with sq := tset s.eng.sq (256 * r.ctx + r.sid) q }
      ∧ q.total = (recordEntry r s).total + r.elements ∧ q.sat = (recordEntry r s).sat + r.saturated ∧ q.windows = (recordEntry r s).windows
      ∧ applyRecord r s = { s with eng := (applyRecord r s).eng, host := (applyRecord r s).host } := by
  unfold recordEntry at hen hwin ⊢
  unfold applyRecord
  extract_lets key q total sat fire q1 q2 t
  have hopen : q2 = q1 := if_neg (Nat.not_le.mpr hwin)
  have ht : t = { s with host := t.host } := by
    by_cases hfire : fire = true
    · simp only [t, if_pos hfire]
      exact raiseEvent_frame ..
    · simp only [t, if_neg hfire]
  have hteng : t.eng = s.eng := by rw [ht]
  rw [if_pos hen]
  refine ⟨q2, ?_, ?_, ?_, ?_, ?_⟩
  · show ({ t.eng with sq := tset t.eng.sq key q2 } : Engines) = _
    rw [hteng]
  · rw [hopen]
  · rw [hopen]
  · rw [hopen]
  · rw [ht]

theorem exec_streamRecordApply_found {e : Nat} {r : CountRec} {s : State} (hfind : s.eng.recs.find? (fun x => decide (x.eng = e)) = some r) :
    exec (.streamRecordApply e) s = .next (applyRecord r { s with eng := { s.eng with recs := s.eng.recs.erase r } }) := by
  show execStreamRecordApply e s = _
  unfold execStreamRecordApply
  rw [hfind]

/-- Settles O8: `scqRun_fp32` for the instruction, `applyRecord_disabled` and `applyRecord_counts` for its record. -/
theorem scqCountsSaturations : Obligations.ScqCountsSaturations := by
  unfold Obligations.ScqCountsSaturations
  refine ⟨fun e w s hhead hfp => ?_, fun e r s hfind => ⟨fun hdis => ?_, fun hen hwin => ?_⟩⟩
  · refine ⟨_, exec_scq_atHead hhead, ?_⟩
    rw [scqRun_fp32 hfp, monSample_frame]
    exact ⟨by simp [engOf], rfl, rfl, rfl, rfl⟩
  · rw [exec_streamRecordApply_found hfind]
    exact congrArg _ (applyRecord_disabled hdis)
  · obtain ⟨q, heng, htotal, hsat, hwindows, hframe⟩ := applyRecord_counts (s := { s with eng := { s.eng with recs := s.eng.recs.erase r } }) hen hwin
    exact ⟨_, q, exec_streamRecordApply_found hfind, heng, htotal, hsat, hwindows, hframe⟩

/-! ### WAIT, INC, SIGNAL -/

/-- The instruction is at the head, or the engine holds it (03 R112). -/
theorem engIssue_sync {e w op : Nat} {s : State} (go : Nat → State → State) (h : AtHead e w 6 op s ∨ Held e w op s) :
    engIssue e 6 op go s = go w s := by
  rcases h with h | h
  · exact engIssue_atHead go h
  · exact engIssue_held go h

@[simp] theorem syncCnt_setSync (g : EngSt) (j k : Nat) (v : U16) : syncCnt (setSync j v g) k = if k = j then v else syncCnt g k :=
  aget_aset 0 g.sync j v k

theorem exec_wait_holds {e w : Nat} {s : State} (h : AtHead e w 6 1 s ∨ Held e w 1 s)
    (hreach : (syncCnt (engOf e s).sav (bits w 8 3) - BitVec.ofNat 16 (bits w 16 16)).toNat < 2 ^ 15) :
    exec (.wait e) s = .next (setEng e (Advanced (engOf e s) (engOf e s).sav) s) :=
  congrArg _ ((engIssue_sync _ h).trans (if_pos hreach))

theorem exec_wait_waits {e w : Nat} {s : State} (h : AtHead e w 6 1 s ∨ Held e w 1 s)
    (hreach : ¬ (syncCnt (engOf e s).sav (bits w 8 3) - BitVec.ofNat 16 (bits w 16 16)).toNat < 2 ^ 15) :
    exec (.wait e) s = .next (setEng e (holding (engOf e s)) s) :=
  congrArg _ ((engIssue_sync _ h).trans (if_neg hreach))

theorem exec_inc_atHead {e w : Nat} {s : State} (h : AtHead e w 6 2 s) :
    exec (.inc e) s = .next (incTarget e w (setEng e (Advanced (engOf e s) (engOf e s).sav) s)) :=
  congrArg _ (engIssue_atHead _ h)

/-- INC reaches another engine of the same owner (03 R118). -/
theorem incTarget_other {e w q : Nat} {g : Eng} {s : State} (hq : (dieEngs (engDie e) s)[bits w 32 5]? = some q) (hne : q ≠ e)
    (howner : (engOf q s).owner = g.owner) :
    incTarget e w (setEng e g s) = modSav q (fun v => setSync (bits w 8 3) (syncCnt v (bits w 8 3) + BitVec.ofNat 16 (bits w 16 16)) v) (setEng e g s) := by
  have hq' : (dieEngs (engDie e) (setEng e g s))[bits w 32 5]? = some q := hq
  have howner' : (engOf q (setEng e g s)).owner = (engOf e (setEng e g s)).owner := by
    rw [engOf_setEng_other e q g s hne, engOf_setEng_same, howner]
  unfold incTarget
  rw [hq']
  exact if_pos howner'

theorem exec_signal_room {e w : Nat} {s : State} (h : AtHead e w 6 3 s ∨ Held e w 3 s) (hroom : (tgetD s.eng.cq (engDie e) []).length < 16) :
    exec (.signal e) s = .next (signalPush e w (setEng e (Advanced (engOf e s) (engOf e s).sav) s)) :=
  congrArg _ ((engIssue_sync _ h).trans (if_pos hroom))

theorem exec_signal_full {e w : Nat} {s : State} (h : AtHead e w 6 3 s ∨ Held e w 3 s) (hfull : 16 ≤ (tgetD s.eng.cq (engDie e) []).length) :
    exec (.signal e) s = .next (setEng e (holding (engOf e s)) s) :=
  congrArg _ ((engIssue_sync _ h).trans (if_neg (Nat.not_lt.mpr hfull)))

/-- Settles O9: WAIT and SIGNAL complete or hold by their one test; INC adds to the counter of its target. -/
theorem engineSync : Obligations.EngineSync := by
  unfold Obligations.EngineSync
  intro e w s g held
  refine ⟨fun h => ⟨exec_wait_holds h, exec_wait_waits h⟩, fun h q hq hne howner => ?_, fun h => ⟨fun hroom => ?_, exec_signal_full h⟩⟩
  · refine ⟨_, exec_inc_atHead h, ?_⟩
    rw [incTarget_other (g := Advanced g g.sav) hq hne howner]
    refine ⟨?_, ?_, fun k hk => ?_, fun p hpe hpq => ?_, rfl⟩
    · rw [engOf_modSav_other _ _ hne.symm, engOf_setEng_same]
    · rw [engOf_modSav_same, engOf_setEng_other e q _ s hne]
      simp
    · rw [engOf_modSav_same, engOf_setEng_other e q _ s hne]
      simp [hk]
    · rw [engOf_modSav_other _ _ hpq, engOf_setEng_other e p _ s hpe]
  · refine ⟨_, exec_signal_room h hroom, ?_, ?_, rfl⟩
    · exact engOf_setEng_same e (Advanced g g.sav) s
    · simp only [signalPush, engOf_setEng_same, tgetD_tset]
      rfl

/-! ### Control -/

/-- RUN written 1, but for FAULT and CLEARING (03 R121). -/
theorem exec_run_taken {e : Nat} {s : State} (hon : engOn e s = true) (hfault : (engOf e s).st ≠ .fault) (hclear : (engOf e s).st ≠ .clearing) :
    exec (.run e) s = .next (setEng e { engOf e s with
      sav := { (engOf e s).sav with run := true },
      st := if (engOf e s).st = .stopped then (if (engOf e s).sav.head = (engOf e s).sav.tail then .idle else .run) else (engOf e s).st } s) := by
  show execRun e s = _
  simp [execRun, hon, hfault, hclear]

theorem exec_run_ignored {e : Nat} {s : State} (h : (engOf e s).st = .fault ∨ (engOf e s).st = .clearing) : exec (.run e) s = .next s := by
  show execRun e s = _
  rcases h with h | h <;> simp [execRun, h]

theorem exec_stopRequest_on {e : Nat} {s : State} (hon : engOn e s = true) : exec (.stopRequest e) s = .next (stopEng e s) :=
  congrArg _ (if_pos hon)

theorem exec_engineStopped_stopping {e : Nat} {s : State} (h : (engOf e s).st = .stopping) :
    exec (.engineStopped e) s = .next (setEng e { engOf e s with st := .stopped } s) :=
  congrArg _ (if_pos h)

theorem exec_skip_taken {e : Nat} {s : State} (hon : engOn e s = true) (hst : (engOf e s).st = .stopped)
    (hleft : (engOf e s).sav.head ≠ (engOf e s).sav.tail) :
    exec (.skip e) s = .next (setEng e { engOf e s with sav := { (engOf e s).sav with head := (engOf e s).sav.head + 1 } } s) := by
  show execSkip e s = _
  simp [execSkip, hon, hst, hleft]

theorem exec_skip_ignored {e : Nat} {s : State} (h : (engOf e s).st ≠ .stopped ∨ (engOf e s).sav.head = (engOf e s).sav.tail) :
    exec (.skip e) s = .next s := by
  show execSkip e s = _
  rcases h with h | h <;> simp [execSkip, h]

theorem exec_clr_stopped {e : Nat} {s : State} (hon : engOn e s = true) (hst : (engOf e s).st = .stopped) :
    exec (.clr e) s = .next (setEng e { engOf e s with st := .clearing, sav := { (engOf e s).sav with run := false } } s) := by
  show execClr e s = _
  simp [execClr, hon, hst]

theorem exec_clearDone_clearing {e : Nat} {s : State} (h : (engOf e s).st = .clearing) :
    exec (.clearDone e) s = .next (setEng e { engOf e s with st := .stopped, sav := EngSt.blank, faultIdx := 0 } s) :=
  congrArg _ (if_pos h)

theorem exec_seqTailWrite_on {e : Nat} (v : U32) {s : State} (hon : engOn e s = true) :
    exec (.seqTailWrite e v) s = .next (seqTail e v (engOf e s) s) :=
  congrArg _ (if_pos hon)

theorem exec_syncInc_on {e : Nat} (v : U32) {s : State} (hon : engOn e s = true) :
    exec (.syncInc e v) s = .next (modSav e (fun g => setSync (bits v.toNat 0 3) (syncCnt g (bits v.toNat 0 3) + BitVec.ofNat 16 (bits v.toNat 16 16)) g) s) :=
  congrArg _ (if_pos hon)

theorem exec_syncCntWrite_on {e k : Nat} (v : U32) {s : State} (hon : engOn e s = true) (hk : k < 8) :
    exec (.syncCntWrite e k v) s = .next (modSav e (setSync k (BitVec.ofNat 16 v.toNat)) s) := by
  show execSyncCntWrite e k v s = _
  simp [execSyncCntWrite, hon, hk]

theorem exec_engFaultClear_on {e : Nat} (v : U32) {s : State} (hon : engOn e s = true) :
    exec (.engFaultClear e v) s = .next (setEng e { engOf e s with
      fault := (engOf e s).fault &&& ~~~v,
      st := if (engOf e s).st = .fault ∧ (engOf e s).fault &&& ~~~v &&& 0xF = 0 then .stopped else (engOf e s).st } s) :=
  congrArg _ (if_pos hon)

/-- The commands that run an instruction of the ring (03 R111). -/
def engInstrs (e : Nat) (b : Bool) : List Instr :=
  [.ldw e, .strm e b, .drn e, .addVec e, .mulVec e, .addImm e, .mulImm e, .relu e, .gelu e, .silu e, .clamp e, .deq e, .addRows e, .scq e,
    .fence e, .wait e, .inc e, .signal e]

/-- Each of them issues: it differs from the others only in its class, its operation and its work. -/
theorem exec_engInstr {e : Nat} {b : Bool} {c : Instr} (h : c ∈ engInstrs e b) (s : State) :
    ∃ cls op go, exec c s = .next (engIssue e cls op go s) := by
  simp only [engInstrs, List.mem_cons, List.not_mem_nil, or_false] at h
  rcases h with rfl | rfl | rfl | rfl | rfl | rfl | rfl | rfl | rfl | rfl | rfl | rfl | rfl | rfl | rfl | rfl | rfl | rfl <;>
    exact ⟨_, _, _, rfl⟩

/-- An illegal instruction faults under every one of these commands alike (03 R111, R124). -/
theorem exec_engInstr_illegal {e : Nat} {b : Bool} {c : Instr} {s : State} (h : c ∈ engInstrs e b) (hon : engOn e s = true)
    (hgo : canIssue (engOf e s) = true)
    (hdec : engDecode (dieEngs (engDie e) s).length (ringInstr (engOf e s).sav (engIdx (engOf e s))) = none) :
    exec c s = .next (engFault e fIllegal (engIdx (engOf e s)) (modSav e (fun v => { v with head := engIdx (engOf e s) }) s)) := by
  obtain ⟨cls, op, go, hexec⟩ := exec_engInstr h s
  rw [hexec, engIssue_illegal cls op go hon hgo hdec]

theorem engFault_seqs (e b : Nat) (idx : U16) (s : State) :
    (engFault e b idx s).host.seqs = tset s.host.seqs (256 * 2 + engDie e) ((tgetD s.host.seqs (256 * 2 + engDie e) 0 + 1) % 2 ^ 32) :=
  raiseEvent_seqs ..

/-- A fault raises ENGINE_FAULT of the die, with the owning context, naming the engine (03 R125). -/
theorem engFault_event (e b : Nat) (idx : U16) (s : State) (hroom : s.host.held.length < 256) :
    ∃ v : Ev, (engFault e b idx s).host.held = s.host.held ++ [v] ∧ v.code = 0x10 ∧ v.srcType = 2 ∧ v.srcIdx = engDie e ∧
      v.ctx = (engOf e s).owner.getD 0xFF ∧ v.payload.take 1 = leBytes 1 (e % 20) := by
  refine ⟨_, raiseEvent_held _ _ _ _ _ _ _ hroom, rfl, rfl, rfl, ?_, rfl⟩
  dsimp only
  unfold modEng
  rw [engOf_setEng_same]

/-- Settles O10: one equation per control command, and `exec_engInstr_illegal` for the illegal instruction. -/
theorem engineControl : Obligations.EngineControl := by
  unfold Obligations.EngineControl
  constructor
  · intro e k v s hon g
    refine ⟨exec_run_taken hon, exec_run_ignored, exec_stopRequest_on hon, exec_engineStopped_stopping, exec_skip_taken hon, exec_skip_ignored,
      exec_clr_stopped hon, exec_clearDone_clearing, fun n hn => ?_, exec_syncInc_on v hon, exec_syncCntWrite_on v hon, exec_engFaultClear_on v hon⟩
    subst hn
    rw [exec_seqTailWrite_on v hon]
    exact ⟨fun htaken => congrArg _ (if_pos htaken), fun hrefused => congrArg _ (if_neg hrefused)⟩
  · intro e b s c hc hon hgo hdec
    refine ⟨_, exec_engInstr_illegal (b := b) hc hon hgo hdec, ?_, fun q hq => ?_, engFault_seqs .., fun hroom => ?_, ?_⟩
    · rw [engOf_engFault_same, engOf_modSav_same]
      rfl
    · rw [engOf_engFault_other _ _ _ hq, engOf_modSav_other _ _ hq]
    · obtain ⟨v, hheld, hcode, hty, hidx, hctx, hpay⟩ :=
        engFault_event e fIllegal (engIdx (engOf e s)) (modSav e (fun v => { v with head := engIdx (engOf e s) }) s) hroom
      exact ⟨v, hheld, hcode, hty, hidx, by rw [hctx, engOf_modSav_same], hpay⟩
    · rw [engFault_frame]
      rfl

end Sys2Proof.Machine
end

/-! ## Matrix engines: what a load and a drain write -/
section
namespace Sys2Proof.Machine
open Sys2Proof Sys2Proof.Certs

/-! ### Folds that write cells -/

/-- A view that no element of the list touches is as before. -/
theorem foldl_view_keeps {σ α β : Type} (view : σ → β) (f : σ → α → σ) (l : List α) (s : σ) (h : ∀ t, ∀ a ∈ l, view (f t a) = view t) :
    view (l.foldl f s) = view s := by
  induction l generalizing s with
  | nil => rfl
  | cons a r ih =>
    rw [List.foldl_cons, ih _ fun t b hb => h t b (List.mem_cons_of_mem a hb)]
    exact h s a List.mem_cons_self

/-- A view that one element of the list sets and no other touches is as that element sets it; `P` is what the setting relies on. -/
theorem foldl_view_sets {σ α β : Type} {view : σ → β} {f : σ → α → σ} {l : List α} {s : σ} {a : α} {v : β} (P : σ → Prop) (hs : P s)
    (hP : ∀ t b, P t → P (f t b)) (ha : a ∈ l) (hset : ∀ t, P t → view (f t a) = v) (hother : ∀ t, ∀ b ∈ l, b ≠ a → view (f t b) = view t) :
    view (l.foldl f s) = v := by
  induction l generalizing s with
  | nil => simp at ha
  | cons b r ih =>
    rw [List.foldl_cons]
    by_cases har : a ∈ r
    · exact ih (hP s b hs) har fun t c hc => hother t c (List.mem_cons_of_mem b hc)
    · obtain rfl : a = b := (List.mem_cons.mp ha).resolve_right har
      rw [foldl_view_keeps view f r _ fun t c hc => hother t c (List.mem_cons_of_mem a hc) fun h => har (h ▸ hc)]
      exact hset s hs

/-! ### LDW (R91, R109, R113) -/

/-- Set and cell column, as one number, of the k-th column of an LDW. -/
def ldwCol (w k : Nat) : Nat := 256 * bits w 4 1 + (bits w 16 8 + k)

/-- The k-th column of an LDW: its registers, its format record, its scales. -/
def ldwColumn (w : Nat) (g : EngSt) (k : Nat) : EngSt :=
  loadScales (bits w 4 1) (bits w 8 4) (bits w 16 8 + k)
    (if bit w 5 then some (32 * bits w 64 13 + k * (if fmtClass (bits w 8 4) = 4 then 32 else 16)) else none)
    (loadColumn (bits w 4 1) (bits w 8 4) (bits w 16 8 + k) (bits w 48 9 + k) g)

theorem ldwState_eq (w : Nat) (g : EngSt) : ldwState w g = (List.range (bits w 32 9)).foldl (ldwColumn w) g := rfl

/-- Weight registers as a column record in memory gives them (R91, R109). -/
def recordWeight (m : Memory) (fmt rec i : Nat) : U16 :=
  BitVec.ofNat 16 (leNat (Memory.readN 0 m (0x180000 + 512 * (rec % 512) + 2 * i) 2) &&& (if fmtBits fmt = 6 then 0x3F3F else 0xFFFF))

theorem drop_readN (d : Byte) (m : Memory) (a n k : Nat) : (Memory.readN d m a n).drop k = Memory.readN d m (a + k) (n - k) := by
  induction k generalizing a n with
  | zero => simp
  | succ j ih =>
    cases n with
    | zero => simp [Memory.readN]
    | succ p =>
      rw [Memory.readN, List.drop_succ_cons, ih]
      congr 1 <;> omega

theorem take_readN (d : Byte) (m : Memory) (a : Nat) {n k : Nat} (h : k ≤ n) : (Memory.readN d m a n).take k = Memory.readN d m a k := by
  induction k generalizing a n with
  | zero => simp [Memory.readN]
  | succ j ih =>
    obtain ⟨p, rfl⟩ : ∃ p, n = p + 1 := ⟨n - 1, by omega⟩
    rw [Memory.readN, Memory.readN, List.take_succ_cons, ih (a + 1) (by omega)]

/-- A field that lies inside a string read from memory is what memory holds there. -/
theorem fld_readN (m : Memory) (a : Nat) {n off k : Nat} (h : off + k ≤ n) :
    fld (Memory.readN 0 m a n) off k = leNat (Memory.readN 0 m (a + off) k) := by
  unfold fld sub
  rw [drop_readN, take_readN 0 m (a + off) (by omega)]
  simp

/-- The registers of a column, one after the other. -/
theorem loadColumn_wreg (tag fmt col rec : Nat) (g : EngSt) :
    (loadColumn tag fmt col rec g).wreg = (List.range 256).foldl (fun t i => aset 0 t (65536 * tag + 256 * col + i)
      (BitVec.ofNat 16 (fld (Memory.readN 0 g.mem (0x180000 + 512 * (rec % 512)) 512) (2 * i) 2 &&& (if fmtBits fmt = 6 then 0x3F3F else 0xFFFF)))) g.wreg := by
  simp only [loadColumn]

/-- The registers after a column: those of its record in that column, the others as before. -/
theorem aget_loadColumn_wreg_same (tag fmt col rec : Nat) (g : EngSt) {i : Nat} (hi : i < 256) :
    aget 0 (loadColumn tag fmt col rec g).wreg (65536 * tag + 256 * col + i) = recordWeight g.mem fmt rec i := by
  rw [loadColumn_wreg]
  refine foldl_view_sets (view := fun t => aget 0 t (65536 * tag + 256 * col + i)) (fun _ => True) trivial (fun _ _ _ => trivial)
    (List.mem_range.mpr hi) (fun t _ => ?_) (fun t j _ hj => ?_)
  · rw [aget_aset, if_pos rfl, fld_readN _ _ (by omega)]
    rfl
  · rw [aget_aset, if_neg (by omega)]

theorem aget_loadColumn_wreg_other (tag fmt col rec : Nat) (g : EngSt) {x : Nat} (hx : x / 256 ≠ 256 * tag + col) :
    aget 0 (loadColumn tag fmt col rec g).wreg x = aget 0 g.wreg x := by
  rw [loadColumn_wreg]
  refine foldl_view_keeps (fun t => aget 0 t x) _ _ g.wreg fun t j hj => ?_
  have hj := List.mem_range.mp hj
  rw [aget_aset, if_neg (by omega)]

theorem ldwColumn_wreg (w k : Nat) (g : EngSt) :
    (ldwColumn w g k).wreg = (loadColumn (bits w 4 1) (bits w 8 4) (bits w 16 8 + k) (bits w 48 9 + k) g).wreg := by
  simp only [ldwColumn, loadScales]

theorem aget_ldwColumn_wreg_same (w k : Nat) (g : EngSt) {i : Nat} (hi : i < 256) :
    aget 0 (ldwColumn w g k).wreg (65536 * bits w 4 1 + 256 * (bits w 16 8 + k) + i) = recordWeight g.mem (bits w 8 4) (bits w 48 9 + k) i := by
  rw [ldwColumn_wreg, aget_loadColumn_wreg_same _ _ _ _ g hi]

theorem aget_ldwColumn_wreg_other (w k : Nat) (g : EngSt) {x : Nat} (hx : x / 256 ≠ ldwCol w k) :
    aget 0 (ldwColumn w g k).wreg x = aget 0 g.wreg x := by
  rw [ldwColumn_wreg, aget_loadColumn_wreg_other _ _ _ _ g hx]

theorem aget_ldwColumn_colFmt (w k : Nat) (g : EngSt) (x : Nat) :
    aget 0 (ldwColumn w g k).colFmt x = if x = ldwCol w k then bits w 8 4 else aget 0 g.colFmt x :=
  aget_aset 0 g.colFmt _ _ x

/-- A load writes weight registers, scale registers and format records, and nothing else. -/
theorem ldwState_frame (w : Nat) (g : EngSt) :
    ldwState w g = { g with wreg := (ldwState w g).wreg, wscale := (ldwState w g).wscale, colFmt := (ldwState w g).colFmt } := by
  have hrest : { ldwState w g with wreg := g.wreg, wscale := g.wscale, colFmt := g.colFmt } = g :=
    foldl_view_keeps (fun t => { t with wreg := g.wreg, wscale := g.wscale, colFmt := g.colFmt }) (ldwColumn w) _ g fun _ _ _ => rfl
  exact congrArg (fun t : EngSt => { t with wreg := (ldwState w g).wreg, wscale := (ldwState w g).wscale, colFmt := (ldwState w g).colFmt }) hrest

/-- The columns of an LDW are distinct. -/
theorem ldwCol_inj {w j k : Nat} (h : j ≠ k) : ldwCol w j ≠ ldwCol w k := by
  unfold ldwCol
  omega

theorem ldwState_wreg_loaded (w : Nat) (g : EngSt) {k i : Nat} (hk : k < bits w 32 9) (hi : i < 256) :
    aget 0 (ldwState w g).wreg (65536 * bits w 4 1 + 256 * (bits w 16 8 + k) + i) = recordWeight g.mem (bits w 8 4) (bits w 48 9 + k) i := by
  rw [ldwState_eq]
  refine foldl_view_sets (view := fun t : EngSt => aget 0 t.wreg (65536 * bits w 4 1 + 256 * (bits w 16 8 + k) + i)) (fun t => t.mem = g.mem) rfl
    (fun _ _ h => h) (List.mem_range.mpr hk) (fun t hmem => ?_) (fun t j _ hj => ?_)
  · rw [aget_ldwColumn_wreg_same w k t hi, hmem]
  · have hcol := ldwCol_inj (w := w) hj
    refine aget_ldwColumn_wreg_other w j t ?_
    unfold ldwCol at hcol ⊢
    omega

theorem ldwState_wreg_kept (w : Nat) (g : EngSt) {x : Nat} (hx : ∀ k, k < bits w 32 9 → x / 256 ≠ ldwCol w k) :
    aget 0 (ldwState w g).wreg x = aget 0 g.wreg x :=
  foldl_view_keeps (fun t : EngSt => aget 0 t.wreg x) (ldwColumn w) _ g fun t k hk =>
    aget_ldwColumn_wreg_other w k t (hx k (List.mem_range.mp hk))

theorem ldwState_colFmt_loaded (w : Nat) (g : EngSt) {k : Nat} (hk : k < bits w 32 9) :
    aget 0 (ldwState w g).colFmt (ldwCol w k) = bits w 8 4 := by
  rw [ldwState_eq]
  refine foldl_view_sets (view := fun t : EngSt => aget 0 t.colFmt (ldwCol w k)) (fun _ => True) trivial (fun _ _ _ => trivial)
    (List.mem_range.mpr hk) (fun t _ => ?_) (fun t j _ hj => ?_)
  · rw [aget_ldwColumn_colFmt, if_pos rfl]
  · rw [aget_ldwColumn_colFmt, if_neg (ldwCol_inj (Ne.symm hj))]

theorem ldwState_colFmt_kept (w : Nat) (g : EngSt) {x : Nat} (hx : ∀ k, k < bits w 32 9 → x ≠ ldwCol w k) :
    aget 0 (ldwState w g).colFmt x = aget 0 g.colFmt x :=
  foldl_view_keeps (fun t : EngSt => aget 0 t.colFmt x) (ldwColumn w) _ g fun t k hk => by
    rw [aget_ldwColumn_colFmt, if_neg (hx k (List.mem_range.mp hk))]

/-- Settles O5: the load is a fold over distinct columns, each of which writes its own registers and format record. -/
theorem ldwLoadsColumns : Obligations.LdwLoadsColumns := by
  unfold Obligations.LdwLoadsColumns
  intro w g _
  have hcol : ∀ k, 256 * bits w 4 1 + bits w 16 8 + k = ldwCol w k := fun k => Nat.add_assoc ..
  simp only [hcol]
  refine ⟨fun k i hk hi => ldwState_wreg_loaded w g hk hi, fun k hk => ldwState_colFmt_loaded w g hk, fun x hx => ldwState_wreg_kept w g hx,
    fun x hx => ldwState_colFmt_kept w g hx, ?_⟩
  rw [ldwState_frame]
  exact ⟨rfl, rfl, rfl, rfl, rfl, rfl, rfl⟩

/-! ### DRN (R115) -/

/-- A string stored in a region changes the bytes at its own addresses alone. -/
theorem read_writeArea_other (unit off : Nat) (bs : Bytes) (g : EngSt) {a : Nat} (ha : ∀ i, i < bs.length → a ≠ areaAddr unit (off + i)) :
    Memory.read 0 (writeArea unit off bs g).mem a = Memory.read 0 g.mem a := by
  refine foldl_view_keeps (fun m => Memory.read 0 m a) _ _ g.mem fun m x hx => ?_
  exact read_write_other 0 m _ _ a (ha x.2 (List.mem_range.mp (List.of_mem_zip hx).2))

/-- Strings of one length, one after the other. -/
theorem length_flatMap_leBytes (l : List Nat) (k : Nat) (f : Nat → Nat) : (l.flatMap fun n => leBytes k (f n)).length = l.length * k := by
  induction l with
  | nil => rw [List.flatMap_nil, List.length_nil, List.length_nil, Nat.zero_mul]
  | cons a r ih => rw [List.flatMap_cons, List.length_append, length_leBytes, ih, List.length_cons, Nat.succ_mul, Nat.add_comm]

/-- A row has the size of its view (R108). -/
theorem length_rowBytes (g : EngSt) (v : Bool) (row : Nat) : (rowBytes g v row).length = viewBytes v := by
  have hlanes : viewLanes v * 4 = viewBytes v := by cases v <;> rfl
  rw [rowBytes, length_flatMap_leBytes, List.length_range, hlanes]

theorem drnRow_noZero {w : Nat} (hzero : bit w 4 = false) (row k : Nat) (g : EngSt) :
    drnRow w row k g = writeArea (bits w 48 12) (k * viewBytes (bit w 6)) (rowBytes g (bit w 6) row) g := by
  simp [drnRow, hzero]

/-- Settles O6: each row is stored by `writeArea` at its own place of the destination, and a drain without ZERO stores nothing else. -/
theorem drnStoresOnlyDestination : Obligations.DrnStoresOnlyDestination := by
  unfold Obligations.DrnStoresOnlyDestination
  intro w g hzero
  constructor
  · intro a ha
    refine foldl_view_keeps (fun t : EngSt => Memory.read 0 t.mem a) _ _ g fun t x hx => ?_
    have hk : x.2 < bits w 32 10 := List.mem_range.mp (List.of_mem_zip hx).2
    rw [drnRow_noZero hzero]
    refine read_writeArea_other _ _ _ t fun i hi => ?_
    rw [length_rowBytes] at hi
    exact ha x.2 i hk hi
  · have hrest : { drnState w g with mem := g.mem } = g :=
      foldl_view_keeps (fun t : EngSt => { t with mem := g.mem }) _ _ g fun t x _ => by
        rw [drnRow_noZero hzero]
        rfl
    exact congrArg (fun t : EngSt => { t with mem := (drnState w g).mem }) hrest

end Sys2Proof.Machine
end

/-! ## Matrix engines: uncorrectable errors and spares -/
section
namespace Sys2Proof.Machine
open Sys2Proof Sys2Proof.Certs

/-! ### Uncorrectable errors (R124) -/

/-- With no instruction in progress: the fault at `SEQ_HEAD`, a held instruction withdrawn. -/
theorem eccUe_idle {e : Nat} {busy : Bool} {s : State} (onRead : Bool) (h : busy = false ∨ canIssue (engOf e s) = false ∨ (engOf e s).st = .wait) :
    eccUe e busy onRead s = engFault e fEcc (engOf e s).sav.head (modSav e (fun v => { v with head := engIdx (engOf e s) }) s) := by
  have hrunning : (busy && canIssue (engOf e s) && decide ((engOf e s).st ≠ .wait)) = false := by
    rcases h with h | h | h <;> simp [h]
  unfold eccUe
  dsimp only
  rw [hrunning]
  rfl

/-- No rows are made undefined: nothing changes. -/
theorem undefRows_nil (ctr : Nat) (g : EngSt) : undefRows [] ctr g = g := rfl

/-- With an LDW in progress: it completes, and it targets no accumulator row. -/
theorem eccUe_ldw {e w : Nat} {s : State} (onRead : Bool) (h : AtHead e w 1 0 s) :
    eccUe e true onRead s = engFault e fEcc (if onRead then (engOf e s).sav.head else (engOf e s).sav.head + 1)
      (setEng e (Advanced (engOf e s) (ldwState w (engOf e s).sav)) s) := by
  obtain ⟨hon, hgo, hst, hw, hdec⟩ := h
  have hrunning : (true && canIssue (engOf e s) && decide ((engOf e s).st ≠ .wait)) = true := by simp [hgo, hst]
  have hhead : engRunHead e s = setEng e (Advanced (engOf e s) (ldwState w (engOf e s).sav)) s := by
    unfold engRunHead
    dsimp only
    rw [← hw, hdec]
    rfl
  have hrows : targetRows (dieEngs (engDie e) s).length w = [] := by
    unfold targetRows
    rw [hdec]
    rfl
  unfold eccUe
  dsimp only
  rw [hrunning, if_pos rfl, hhead, ← hw, hrows]
  congr 1
  show setEng e _ (setEng e _ s) = _
  simp only [setEng_setEng, engOf_setEng_same, undefRows_nil]

/-! ### Spares (R129): changes of homes leave the engines where they are -/

/-- No context is resident. -/
def NoneResident (s : State) : Prop := ∀ x ∈ s.ctxs.slots, x.2.state ≠ .resident

/-- A change that touches no engine and no engine map, and makes no context resident. -/
structure KeepsEngines (s t : State) : Prop where
  eng : t.eng = s.eng
  engMap : t.caps.engMap = s.caps.engMap
  engFailed : t.caps.engFailed = s.caps.engFailed
  noneResident : NoneResident s → NoneResident t

theorem KeepsEngines.refl (s : State) : KeepsEngines s s := ⟨rfl, rfl, rfl, id⟩

theorem KeepsEngines.trans {s t u : State} (h : KeepsEngines s t) (g : KeepsEngines t u) : KeepsEngines s u :=
  ⟨g.eng.trans h.eng, g.engMap.trans h.engMap, g.engFailed.trans h.engFailed, g.noneResident ∘ h.noneResident⟩

theorem KeepsEngines.engOf_eq {s t : State} (h : KeepsEngines s t) (e : Nat) : engOf e t = engOf e s :=
  engOf_congr e (by rw [h.eng]) h.engMap

/-- A change that leaves engines, maps and slots alone. -/
theorem KeepsEngines.of_eq {s t : State} (heng : t.eng = s.eng) (hcaps : t.caps = s.caps) (hctxs : t.ctxs = s.ctxs) : KeepsEngines s t :=
  ⟨heng, by rw [hcaps], by rw [hcaps], fun h => by rw [NoneResident, hctxs]; exact h⟩

theorem KeepsEngines.foldl {α : Type} {f : State → α → State} (hf : ∀ t a, KeepsEngines t (f t a)) (l : List α) (s : State) :
    KeepsEngines s (l.foldl f s) := by
  induction l generalizing s with
  | nil => exact .refl s
  | cons a r ih => exact (hf s a).trans (ih _)

theorem mem_of_tget {α : Type} {t : Tbl α} {k : Nat} {v : α} (h : tget t k = some v) : (k, v) ∈ t := by
  induction t with
  | nil => simp at h
  | cons x r ih =>
    obtain ⟨a, w⟩ := x
    rw [tget_cons] at h
    split at h
    · rename_i hak
      cases h
      rw [hak]
      exact List.mem_cons_self
    · exact List.mem_cons_of_mem _ (ih h)

/-- Every slot stands for one that there was, in its state. -/
theorem KeepsEngines.of_slots {s t : State} (hslots : ∀ x ∈ t.ctxs.slots, ∃ y ∈ s.ctxs.slots, x.2.state = y.2.state)
    (heng : t.eng = s.eng) (hcaps : t.caps = s.caps) : KeepsEngines s t := by
  refine ⟨heng, by rw [hcaps], by rw [hcaps], fun hnone x hx => ?_⟩
  obtain ⟨y, hy, hstate⟩ := hslots x hx
  rw [hstate]
  exact hnone y hy

theorem keepsEngines_modSlot (c : Nat) {f : Slot → Slot} (s : State) (hf : ∀ q, (f q).state = q.state := by intro; rfl) :
    KeepsEngines s (modSlot c f s) := by
  refine .of_slots (fun x hx => ?_) rfl rfl
  rw [modSlot_ctxs] at hx
  dsimp only at hx
  unfold tmod at hx
  split at hx
  · exact ⟨x, hx, rfl⟩
  · rename_i v hv
    rcases mem_tset _ _ _ _ hx with rfl | hx
    · exact ⟨_, mem_of_tget hv, hf v⟩
    · exact ⟨x, hx, rfl⟩

theorem keepsEngines_cutWays (s : State) : KeepsEngines s (cutWays s) := by
  refine .of_slots (fun x hx => ?_) rfl rfl
  obtain ⟨y, hy, rfl⟩ := List.mem_map.mp hx
  exact ⟨y, hy, rfl⟩

theorem keepsEngines_setWays (s : State) : KeepsEngines s (setWays s) := by
  refine .of_slots (fun x hx => ?_) rfl rfl
  obtain ⟨y, hy, rfl⟩ := List.mem_map.mp hx
  exact ⟨y, hy, rfl⟩

theorem keepsEngines_renameWaits (pc : List (Nat × Nat)) (c : Nat) (s : State) : KeepsEngines s (renameWaits pc c s) := ⟨rfl, rfl, rfl, id⟩

theorem keepsEngines_raiseEvent (code ty idx ctx st : Nat) (p : Bytes) (s : State) : KeepsEngines s (raiseEvent code ty idx ctx st p s) :=
  .of_eq (raiseEvent_eng ..) (raiseEvent_caps ..) (raiseEvent_ctxs ..)

theorem keepsEngines_tellHomes (oldE oldC : List Nat) (c : Nat) (k : Slot) (s : State) : KeepsEngines s (tellHomes oldE oldC c k s) := by
  unfold tellHomes
  split
  · exact .refl s
  · dsimp only
    split
    · refine .trans ?_ (keepsEngines_raiseEvent ..)
      split
      · exact .trans (keepsEngines_modSlot c s) (keepsEngines_renameWaits _ c _)
      · exact keepsEngines_modSlot c s
    · exact .refl s

theorem keepsEngines_rehome (sub subC : List (Nat × Nat)) (c : Nat) (k : Slot) (ne nc : Nat) (s : State) :
    KeepsEngines s (rehome sub subC c k ne nc s) := by
  unfold rehome
  dsimp only
  split
  · exact .trans (keepsEngines_modSlot c s) (keepsEngines_modSlot c _)
  · exact .trans (keepsEngines_modSlot c s) (keepsEngines_modSlot c _)

theorem keepsEngines_rehomeAll (oldE oldC : List Nat) (sub : List (Nat × Nat)) (subC : Nat → List (Nat × Nat)) (s : State) :
    KeepsEngines s (rehomeAll oldE oldC sub subC s) := by
  unfold rehomeAll
  dsimp only
  refine .trans (.trans (.foldl (fun t e => ?_) _ s) (.trans (.foldl (fun t e => ?_) _ _) (keepsEngines_cutWays _))) (.foldl (fun t e => ?_) _ _)
  · exact keepsEngines_modSlot e.1 t
  · exact keepsEngines_rehome ..
  · exact keepsEngines_tellHomes ..

theorem keepsEngines_capsChanged (s : State) : KeepsEngines s (capsChanged s) := by
  unfold capsChanged
  split
  · exact .refl s
  · exact .trans (t := { s with caps := { s.caps with generation := s.caps.generation + 1, kept := capsKey s } }) ⟨rfl, rfl, rfl, id⟩
      (keepsEngines_raiseEvent ..)

theorem keepsEngines_replayReqs (sel : Req → Bool) (s : State) : KeepsEngines s (replayReqs sel s) := by
  unfold replayReqs
  exact .trans (t := modReqs _ s) (.of_eq rfl rfl rfl) (.foldl (fun _ _ => .of_eq (modCairn_eng ..) (modCairn_caps ..) (modCairn_ctxs ..)) _ _)

theorem keepsEngines_writeRecord (j : Nat) (payload : U64) (s : State) : KeepsEngines s (writeRecord j payload s) := by
  unfold writeRecord
  dsimp only
  refine .trans (.foldl (fun t x => ?_) _ s) (.of_eq (modFw_eng _ _) (modFw_caps _ _) (modFw_ctxs _ _))
  exact .of_eq (modFa_eng _ _) (modFa_caps _ _) (modFa_ctxs _ _)

theorem keepsEngines_writeRecordFree (j : Nat) (s : State) : KeepsEngines s (writeRecordFree j s) :=
  (keepsEngines_writeRecord j _ s).trans (.of_eq (bumpFree_eng _) (bumpFree_caps _) (bumpFree_ctxs _))

/-! ### Spares: the replacement (R129) -/

/-- An engine that has been retired: off, cleared, without an owner. -/
def retired (g : Eng) : Eng := { g with st := .off, owner := none, sav := EngSt.blank, fault := 0, faultIdx := 0, dma := Ring.init }

/-- What the spare takes over of the engine that it replaces: all but `RUN` and the faults; stopped. -/
def takenOver (g : Eng) : Eng := { g with st := .stopped, fault := 0, faultIdx := 0, sav := { g.sav with run := false } }

/-- The spare `q` in the place of engine `e`, before homes and capabilities follow. -/
def spareSeated (e q : Nat) (s : State) : State :=
  setEng q (takenOver (engOf e s)) (setEng e (retired (engOf e s)) { s with caps := { s.caps with
    engMap := s.caps.engMap.map (fun p => if p = e then q else p), engFailed := s.caps.engFailed ++ [e] } })

theorem replaceEngine_spare {e q : Nat} {s : State} (hspare : spareFor e s = some q) : KeepsEngines (spareSeated e q s) (replaceEngine e s) := by
  unfold replaceEngine
  dsimp only
  rw [hspare]
  dsimp only
  have hseated : KeepsEngines (spareSeated e q s)
      (capsChanged (rehomeAll s.caps.engMap s.caps.coreMap [(e, q)] (fun _ => []) (spareSeated e q s))) :=
    (keepsEngines_rehomeAll ..).trans (keepsEngines_capsChanged _)
  split
  · exact hseated.trans (keepsEngines_replayReqs ..)
  · exact hseated

/-- Where nobody is resident nobody loses a seat. -/
theorem evictedBy_none {f : State → State} {s : State} (h : NoneResident (f s)) : evictedBy f s = [] := by
  have hres : ((f s).ctxs.slots.filter fun e => decide (e.2.state = .resident)) = [] := by
    refine List.filter_eq_nil_iff.mpr fun x hx => ?_
    simpa using h x hx
  unfold evictedBy
  dsimp only
  rw [hres]
  rfl

/-- Only a resident context takes units over. -/
theorem takeUnits_none {old s : State} (c : Nat) (h : NoneResident s) : takeUnits old c s = s := by
  unfold takeUnits
  split
  · rename_i k o hk ho
    exact if_neg (h _ (mem_of_tget hk))
  · rfl

theorem withSeats_none {f : State → State} {s : State} (h : NoneResident (f s)) : withSeats f s = setWays (f s) := by
  unfold withSeats
  rw [evictedBy_none h]
  dsimp only [List.foldl_nil]
  congr 1
  generalize s.ctxs.slots.map (·.1) = l
  induction l with
  | nil => rfl
  | cons c r ih => rw [List.foldl_cons, takeUnits_none c h, ih]

theorem exec_spareReplace_seated {e q : Nat} {s : State} (hrt : runtimeRuns s.host.ifState = true) (he : e ∈ s.caps.engMap)
    (hspare : spareFor e s = some q) (hnone : NoneResident s) : ∃ t, exec (.spareReplace e) s = .next t ∧ KeepsEngines (spareSeated e q s) t := by
  have hreplace := replaceEngine_spare hspare
  have hnone' : NoneResident (replaceEngine e s) := hreplace.noneResident hnone
  refine ⟨writeRecordFree 3 (withSeats (replaceEngine e) s), congrArg _ (if_pos (by simp [he, hrt])), ?_⟩
  rw [withSeats_none hnone']
  exact (hreplace.trans (keepsEngines_setWays _)).trans (keepsEngines_writeRecordFree 3 _)

/-- A spare is no active engine. -/
theorem spareFor_not_mem {e q : Nat} {s : State} (h : spareFor e s = some q) : q ∉ s.caps.engMap := by
  have hq := List.find?_some h
  simp only [Bool.and_eq_true, Bool.not_eq_true', List.contains_eq_mem, decide_eq_false_iff_not] at hq
  exact hq.1

theorem engOf_spareSeated_spare (e q : Nat) (s : State) : engOf q (spareSeated e q s) = takenOver (engOf e s) := engOf_setEng_same q _ _

theorem engOf_spareSeated_failed {e q : Nat} (s : State) (h : e ≠ q) : engOf e (spareSeated e q s) = retired (engOf e s) :=
  (engOf_setEng_other q e _ _ h).trans (engOf_setEng_same e _ _)

/-- An engine that takes no part in the replacement is as it was, active or not. -/
theorem engOf_spareSeated_other {e q p : Nat} (s : State) (he : p ≠ e) (hq : p ≠ q) : engOf p (spareSeated e q s) = engOf p s := by
  have hactive : (s.caps.engMap.map fun x => if x = e then q else x).contains p = s.caps.engMap.contains p := by
    rw [Bool.eq_iff_iff]
    simp only [List.contains_eq_mem, List.mem_map, decide_eq_true_eq]
    constructor
    · rintro ⟨x, hx, hxp⟩
      split at hxp
      · exact absurd hxp.symm hq
      · rwa [← hxp]
    · intro hp
      exact ⟨p, hp, if_neg he⟩
  unfold spareSeated
  rw [engOf_setEng_other q p _ _ hq, engOf_setEng_other e p _ _ he]
  unfold engOf
  rw [hactive]

/-- Settles O11: `eccUe_idle` and `eccUe_ldw` for the error, `spareSeated` and what keeps engines for the replacement. -/
theorem engineErrorAndSpare : Obligations.EngineErrorAndSpare := by
  unfold Obligations.EngineErrorAndSpare
  constructor
  · intro e w busy onRead s hon g
    have hexec : ∀ b, exec (.eccUe e b onRead) s = .next (eccUe e b onRead s) := fun b => congrArg _ (if_pos hon)
    refine ⟨fun hidle => ⟨_, hexec busy, ?_⟩, fun hhead => ⟨_, hexec true, ?_⟩⟩
    · rw [eccUe_idle onRead hidle]
      refine ⟨?_, fun q hq => ?_, ?_⟩
      · rw [engOf_engFault_same, engOf_modSav_same]
        rfl
      · rw [engOf_engFault_other _ _ _ hq, engOf_modSav_other _ _ hq]
      · rw [OnlyEngines, engFault_frame]
        rfl
    · rw [eccUe_ldw onRead hhead]
      refine ⟨?_, fun q hq => ?_, ?_⟩
      · rw [engOf_engFault_same, engOf_setEng_same]
        rfl
      · rw [engOf_engFault_other _ _ _ hq, engOf_setEng_other e q _ s hq]
      · rw [OnlyEngines, engFault_frame]
        rfl
  · intro e q i s hrt hi hspare hnone
    have he : e ∈ s.caps.engMap := List.mem_of_getElem? hi
    have hne : e ≠ q := fun h => spareFor_not_mem hspare (h ▸ he)
    obtain ⟨t, hexec, hkeeps⟩ := exec_spareReplace_seated hrt he hspare hnone
    refine ⟨t, hexec, ?_, hkeeps.engFailed, ?_, ?_, ?_, ?_, fun p hpe hpq => ?_⟩
    · rw [hkeeps.engMap]
      simp [spareSeated, hi]
    · rw [hkeeps.engOf_eq, engOf_spareSeated_spare]
      rfl
    · rw [hkeeps.engOf_eq, engOf_spareSeated_failed s hne]
      rfl
    · rw [hkeeps.engOf_eq, engOf_spareSeated_failed s hne]
      rfl
    · rw [hkeeps.engOf_eq, engOf_spareSeated_failed s hne]
      rfl
    · rw [hkeeps.engOf_eq, engOf_spareSeated_other s hpe hpq]

end Sys2Proof.Machine
end
